-- ==== Sys2Proof/Word.lean ====
section
/-! DEFINITION. The 64-bit word, the byte, and the plainest arithmetic on them (R4, R6, R112). -/

namespace Sys2Proof

/-- A g register, a system register, a lane of a line (R112, R57). -/
abbrev Word := BitVec 64

/-- One byte of a memory (R4). -/
abbrev Byte := BitVec 8

/-- The truth of a predicate as a word: KGET, the comparison helpers (R139). -/
def Word.ofBool (b : Bool) : Word := if b then 1 else 0

/-- The low `w` bits of a natural number as a field (R6: arithmetic on a slice is modulo its width). -/
def bits (n hi lo : Nat) : Nat := n / 2 ^ lo % 2 ^ (hi + 1 - lo)

end Sys2Proof
end

