-- ==== Sys2Proof/Syntax.lean ====
section
/-! DEFINITION. Syntax: the names of the machine's parts, the operands, and one constructor per row of
spec/opcode_table.json. Rows 0-138 and HVC are 64-bit control words (R30), rows 139-210 are 512-bit engine
records (R40), rows 211-231 are 32-bit slice words (R56), rows 232-305 are steps of the machine's other
agents, which have no encoding: such a constructor names the event, and its operands stand in an `EvIn`, which the
state holds while the event is performed. -/

namespace Sys2Proof

/-! ## Names of parts (R9, R10, R20, R378) -/

/-- Core 0-95 (R10). -/
abbrev CoreId := Fin 96
/-- Cache slice 0-71 (R10). -/
abbrev SliceId := Fin 72
/-- Cluster 0-7 (R10). -/
abbrev ClusterId := Fin 8
/-- Top-level partition 0-7 (R378). -/
abbrev TopId := Fin 8
/-- Leaf partition 0-63 (R378). -/
abbrev LeafId := Fin 64
/-- Virtual NPU 0-63 (R378, R474). -/
abbrev VnpuId := Fin 64
/-- A g-register field (R30). -/
abbrev Reg := BitVec 6
/-- A k-register field (R32). -/
abbrev KReg := BitVec 3
/-- A record-buffer field (R32). -/
abbrev RbReg := BitVec 3
/-- A slice-register field (R57). -/
abbrev SlReg := BitVec 5

/-- The two issue contexts of a core (R20). -/
inductive Slot where
  | o | h
deriving DecidableEq, Repr, Inhabited

/-- The five engines of a core, coded 0-4 (R38). -/
inductive Eng where
  | ci | co | mx | vx | xf
deriving DecidableEq, Repr, Inhabited

/-- The code of an engine in SUB (R38). -/
def Eng.code : Eng → Fin 5
  | .ci => 0 | .co => 1 | .mx => 2 | .vx => 3 | .xf => 4

/-- The engine of a code 0-4 (R38). -/
def Eng.ofCode : Nat → Option Eng
  | 0 => some .ci | 1 => some .co | 2 => some .mx | 3 => some .vx | 4 => some .xf | _ => none

/-- A context: a core and a slot. -/
structure CtxId where
  core : CoreId
  slot : Slot
deriving DecidableEq, Repr, Inhabited

/-- An engine of a core. -/
structure EngId where
  core : CoreId
  eng : Eng
deriving DecidableEq, Repr, Inhabited

/-- A source of memory accesses (R209): a slot's context, an engine, or the root controller. -/
inductive Src where
  | ctx (c : CtxId) | eng (e : EngId) | root
deriving DecidableEq, Repr, Inhabited

/-- The predicate of a control word (R31). -/
structure Pred where
  kn : BitVec 1
  kp : BitVec 3
deriving DecidableEq, Repr, Inhabited

/-- k0 unnegated: always true (R31). -/
def Pred.always : Pred := ⟨0, 0⟩

/-- The four F-M addressing modes (R35, R36). -/
inductive AMode where
  | off (o : BitVec 21)
  | idx (b : Reg) (scale : BitVec 2)
  | postOff (o : BitVec 21)
  | postIdx (b : Reg) (scale : BitVec 2)
deriving DecidableEq, Repr, Inhabited

/-- An F-M operand with its ordering class and size (R35). -/
structure MemArg where
  base : Reg
  mode : AMode
  cls : BitVec 4
  size : BitVec 2
deriving DecidableEq, Repr, Inhabited

/-- The system registers of R76. -/
inductive SReg where
  | ctxid | prio | dmr | liveset | fcr | fsr | debug
  | pace (e : Eng)
  | boost | boostst
  | evec | epc | efrom | ecause | eaddr | einfo | estat | sscratch
  | wftstat | wftquota | leasest | tkcount | ctxsave | tentab | tenlim
deriving DecidableEq, Repr, Inhabited

/-- A descriptor of an engine record (R47). -/
structure Desc where
  base : BitVec 32
  s0 : BitVec 24
  s1 : BitVec 24
  s2 : BitVec 24
  s3 : BitVec 24
deriving DecidableEq, Repr, Inhabited

/-- An engine record but for its OPC (R40, R41). `post` is the post code POSTEN, POSTP (R43); `mbz` is header bit 16. -/
structure EngRec where
  dtype : BitVec 4
  stype : BitVec 4
  rnd : BitVec 3
  sat : BitVec 1
  cls : BitVec 4
  wait : BitVec 4
  post : BitVec 3
  ev : BitVec 1
  tile : BitVec 4
  ver : BitVec 8
  vchk : BitVec 1
  bump : BitVec 1
  s2imm : BitVec 1
  mbz : BitVec 1
  aux : BitVec 16
  trip0 : BitVec 16
  trip1 : BitVec 16
  trip2 : BitVec 16
  trip3 : BitVec 16
  d : Desc
  s1 : Desc
  s2 : Desc
deriving DecidableEq, Repr, Inhabited

/-- The supply rails of R471. -/
inductive Rail where
  | vio | vcoreLo | vcoreHi | vdd2 | vddq
deriving DecidableEq, Repr, Inhabited

/-- A PCI Express function whose BAR a register write names (R475, R476). -/
inductive BarFn where
  | pf | vf (v : VnpuId)
deriving DecidableEq, Repr, Inhabited

/-- Where a memory error is detected (R449, R298): a copy by its line, a TLB entry by its place, the logic of CLRSIG (R412). -/
inductive EccSite where
  | dramLine (line : Nat)
  | localUnit (c : CoreId) (addr : Nat)
  | l1 (c : CoreId) (line : Nat)
  | icache (c : CoreId) (line : Nat)
  | ctxState (c : CtxId)
  | cupboard (c : CoreId) (bank : Fin 4)
  | tlb (c : CoreId) (n : Nat)
  | stripTlb (strip : Fin 16) (n : Nat)
  | clearSig (c : CoreId)
  | wftEntry (n : Nat)
  | routineImage (m : SliceId) (slot : Nat)
  | executor (m : SliceId) (x : Fin 4)
  | tensorLine (line : Nat)
deriving DecidableEq, Repr, Inhabited

/-- What a sweep's reads of the lines found that the machine does not hold: how many corrected errors, and the pages
(by virtual address) whose lines showed them (R452, R453). -/
structure SweepResult where
  corr : Nat
  shown : List Nat
deriving DecidableEq, Repr, Inhabited

/-- A firmware image as the ROM sees it (R480): whether each of its two signatures verifies, its digest, the digest of its
measured clear routine (R481), and its security version. -/
structure FwImage where
  ecdsaOk : Bool
  lmsOk : Bool
  digest : Nat
  clearDigest : Nat
  version : Nat
deriving DecidableEq, Repr, Inhabited

/-- A configuration blob (R482): whether each of its two signatures verifies (R480), its length, its digest, and its records as bytes: the module
record (R383), the top-level and leaf contracts (R380) by number, the virtual NPU contracts with eight queue
records each (R382), and the window tables by core (R383). -/
structure Blob where
  ecdsaOk : Bool
  lmsOk : Bool
  size : Nat
  digest : Nat
  moduleRec : List Byte
  tops : List (List Byte)
  leaves : List (List Byte)
  vnpus : List (List Byte)
  queues : List (List (List Byte))
  windows : List (List (List Byte))
deriving DecidableEq, Repr, Inhabited

/-- Both signatures of an image verify (R480). -/
def FwImage.sigOk (i : FwImage) : Bool := i.ecdsaOk && i.lmsOk

/-- Both signatures of a blob verify (R480, R482). -/
def Blob.sigOk (b : Blob) : Bool := b.ecdsaOk && b.lmsOk

/-- The operands of the event that is being performed: the row of the table names the event, and this names the parts
and the inputs it concerns. An event reads only the fields its meaning names. -/
structure EvIn where
  core : CoreId := 0
  slot : Slot := .o
  eng : Eng := .ci
  src : Src := .root
  vnpu : VnpuId := 0
  queue : Fin 8 := 0
  leaf : LeafId := 0
  slice : SliceId := 0
  cluster : ClusterId := 0
  point : Fin 113 := 0
  n : Nat := 0
  m : Nat := 0
  word : Word := 0
  flag : Bool := false
  temps : List Int := []
  rail : Rail := .vio
  fn : BarFn := .pf
  site : EccSite := .dramLine 0
  sweep : SweepResult := ⟨0, []⟩
  image : FwImage := ⟨false, false, 0, 0, 0⟩
  blob : Blob := ⟨false, false, 0, 0, [], [], [], [], [], []⟩
deriving DecidableEq, Repr

/-- The instructions and steps of the machine: one constructor per row of spec/opcode_table.json. -/
inductive Instr where
  /-- ADD (R132): Lands gA + gB in gD modulo 2^64 with latency 0. -/
  | add (p : Pred) (d a b : Reg)
  /-- SUB (R132): Lands gA - gB in gD modulo 2^64 with latency 0. -/
  | sub (p : Pred) (d a b : Reg)
  /-- MUL (R132): Lands the low 64 bits of gA × gB in gD with latency 2. -/
  | mul (p : Pred) (d a b : Reg)
  /-- MULH (R132): Lands the high 64 bits of the signed product of gA and gB with latency 2. -/
  | mulh (p : Pred) (d a b : Reg)
  /-- MULHU (R132): Lands the high 64 bits of the unsigned product of gA and gB with latency 2. -/
  | mulhu (p : Pred) (d a b : Reg)
  /-- DIV (R133): Lands the signed quotient, truncated toward zero, with the defined results for zero and overflow divisors. -/
  | div (p : Pred) (d a b : Reg)
  /-- DIVU (R133): Lands the unsigned quotient, or all ones for a zero divisor, with latency 10. -/
  | divu (p : Pred) (d a b : Reg)
  /-- REM (R133): Lands the signed remainder with the defined results for zero and overflow divisors. -/
  | rem (p : Pred) (d a b : Reg)
  /-- REMU (R133): Lands the unsigned remainder, or gA for a zero divisor, with latency 10. -/
  | remu (p : Pred) (d a b : Reg)
  /-- AND (R132): Lands gA and gB in gD. -/
  | and (p : Pred) (d a b : Reg)
  /-- OR (R132): Lands gA or gB in gD. -/
  | or (p : Pred) (d a b : Reg)
  /-- XOR (R132): Lands gA xor gB in gD. -/
  | xor (p : Pred) (d a b : Reg)
  /-- ANDN (R132): Lands gA and not gB in gD. -/
  | andn (p : Pred) (d a b : Reg)
  /-- SHL (R132): Lands gA shifted left by gB[5:0], with zeros shifted in. -/
  | shl (p : Pred) (d a b : Reg)
  /-- SHR (R132): Lands gA shifted right logically by gB[5:0]. -/
  | shr (p : Pred) (d a b : Reg)
  /-- SRA (R132): Lands gA shifted right arithmetically by gB[5:0]. -/
  | sra (p : Pred) (d a b : Reg)
  /-- ROL (R132): Lands gA rotated left by gB[5:0]. -/
  | rol (p : Pred) (d a b : Reg)
  /-- MIN (R132): Lands the signed minimum of gA and gB. -/
  | min (p : Pred) (d a b : Reg)
  /-- MAX (R132): Lands the signed maximum of gA and gB. -/
  | max (p : Pred) (d a b : Reg)
  /-- MINU (R132): Lands the unsigned minimum of gA and gB. -/
  | minu (p : Pred) (d a b : Reg)
  /-- MAXU (R132): Lands the unsigned maximum of gA and gB. -/
  | maxu (p : Pred) (d a b : Reg)
  /-- CLZ (R132): Lands the count of leading zero bits of gA. -/
  | clz (p : Pred) (d a : Reg)
  /-- CTZ (R132): Lands the count of trailing zero bits of gA. -/
  | ctz (p : Pred) (d a : Reg)
  /-- POPC (R132): Lands the count of set bits of gA. -/
  | popc (p : Pred) (d a : Reg)
  /-- BREV (R132): Lands gA with its bit order reversed. -/
  | brev (p : Pred) (d a : Reg)
  /-- SEXT (R134): Lands gA[b:0] sign-extended from bit b = gB[5:0]. -/
  | sext (p : Pred) (d a b : Reg)
  /-- ZEXT (R134): Lands gA[b:0] with every bit above b = gB[5:0] cleared. -/
  | zext (p : Pred) (d a b : Reg)
  /-- SEL (R132): Lands gA if gC is non-zero, else gB. -/
  | sel (p : Pred) (d a b c : Reg)
  /-- LEA (R132): Lands gA + (gB shifted left by gC[5:0]). -/
  | lea (p : Pred) (d a b c : Reg)
  /-- ADDI (R135): Lands gA plus the signed 36-bit immediate. -/
  | addi (p : Pred) (d a : Reg) (imm : BitVec 36)
  /-- ANDI (R135): Lands gA and the sign-extended immediate. -/
  | andi (p : Pred) (d a : Reg) (imm : BitVec 36)
  /-- ORI (R135): Lands gA or the sign-extended immediate. -/
  | ori (p : Pred) (d a : Reg) (imm : BitVec 36)
  /-- XORI (R135): Lands gA xor the sign-extended immediate. -/
  | xori (p : Pred) (d a : Reg) (imm : BitVec 36)
  /-- SHLI (R135): Lands gA shifted left by an immediate 0–63. -/
  | shli (p : Pred) (d a : Reg) (n : BitVec 6)
  /-- SHRI (R135): Lands gA shifted right logically by an immediate 0–63. -/
  | shri (p : Pred) (d a : Reg) (n : BitVec 6)
  /-- SRAI (R135): Lands gA shifted right arithmetically by an immediate 0–63. -/
  | srai (p : Pred) (d a : Reg) (n : BitVec 6)
  /-- MOVI (R136): Lands the sign-extended 42-bit immediate in gD. -/
  | movi (p : Pred) (d : Reg) (imm : BitVec 42)
  /-- MOVHI (R136): Lands a 22-bit immediate in gD[63:42] and keeps gD[41:0] as current at the landing. -/
  | movhi (p : Pred) (d : Reg) (imm : BitVec 22)
  /-- MULI (R135): Lands the low 64 bits of gA × immediate with latency 2. -/
  | muli (p : Pred) (d a : Reg) (imm : BitVec 36)
  /-- KGET (R139): Lands the zero-extended predicate kA in gD. -/
  | kget (p : Pred) (d : Reg) (a : KReg)
  /-- CMP (R137): Lands in kD the integer condition SUB applied to gA and gB. -/
  | cmp (p : Pred) (cc : BitVec 4) (d : KReg) (a b : Reg)
  /-- CMPI (R137): Lands in kD the integer condition SUB applied to gA and the immediate. -/
  | cmpi (p : Pred) (cc : BitVec 4) (d : KReg) (a : Reg) (imm : BitVec 36)
  /-- FCMP (R138): Lands in kD the F32 comparison of gA and gB, raising invalid as tabled. -/
  | fcmp (p : Pred) (cc : BitVec 4) (d : KReg) (a b : Reg)
  /-- KAND (R139): Lands kA and kB in kD. -/
  | kand (p : Pred) (d a b : KReg)
  /-- KOR (R139): Lands kA or kB in kD. -/
  | kor (p : Pred) (d a b : KReg)
  /-- KXOR (R139): Lands kA xor kB in kD. -/
  | kxor (p : Pred) (d a b : KReg)
  /-- KNOT (R139): Lands not kA in kD. -/
  | knot (p : Pred) (d a : KReg)
  /-- KSET (R139): Lands 1 in kD if gA is non-zero, else 0. -/
  | kset (p : Pred) (d : KReg) (a : Reg)
  /-- FADD (R141): Lands the F32 sum, rounded once under FCR, with latency 3. -/
  | fadd (p : Pred) (d a b : Reg)
  /-- FSUB (R141): Lands the F32 difference, rounded once under FCR. -/
  | fsub (p : Pred) (d a b : Reg)
  /-- FMUL (R141): Lands the F32 product, rounded once under FCR. -/
  | fmul (p : Pred) (d a b : Reg)
  /-- FFMA (R141): Lands gA × gB + gC rounded once to F32. -/
  | ffma (p : Pred) (d a b c : Reg)
  /-- FMIN (R142): Lands the smaller F32 operand under the NaN and signed-zero rules. -/
  | fmin (p : Pred) (d a b : Reg)
  /-- FMAX (R142): Lands the larger F32 operand under the NaN and signed-zero rules. -/
  | fmax (p : Pred) (d a b : Reg)
  /-- FABS (R143): Lands gA[31:0] with bit 31 cleared, raising no flag. -/
  | fabs (p : Pred) (d a : Reg)
  /-- FNEG (R143): Lands gA[31:0] with bit 31 inverted, raising no flag. -/
  | fneg (p : Pred) (d a : Reg)
  /-- FCVT (R144): Converts between F32 and the type in B[3:0] in the direction of B[4] and lands the result. -/
  | fcvt (p : Pred) (d a : Reg) (ty : BitVec 4) (dir : Bool)
  /-- FEXP2 (R145): Lands 2^x of the F32 operand with latency 6. -/
  | fexp2 (p : Pred) (d a : Reg)
  /-- FLOG2 (R145): Lands log2 x of the F32 operand with latency 6. -/
  | flog2 (p : Pred) (d a : Reg)
  /-- FRCP (R145): Lands 1/x of the F32 operand with latency 6. -/
  | frcp (p : Pred) (d a : Reg)
  /-- FRSQ (R145): Lands 1/sqrt(x) of the F32 operand with latency 6. -/
  | frsq (p : Pred) (d a : Reg)
  /-- FSQRT (R145): Lands the correctly rounded square root of the F32 operand with latency 10. -/
  | fsqrt (p : Pred) (d a : Reg)
  /-- LD (R244): Loads 1–8 bytes from global memory into gD, interlocked, after the access checks. -/
  | ld (p : Pred) (d : Reg) (m : MemArg) (sx : Bool)
  /-- ST (R244): Stores the low bytes of gD to global memory after the access checks. -/
  | st (p : Pred) (d : Reg) (m : MemArg)
  /-- LDP (R248): Loads from the core's Pantry into gD with exposed latency 3. -/
  | ldp (p : Pred) (d a : Reg) (mode : AMode) (size : BitVec 2) (sx : Bool)
  /-- STP (R248): Stores the low bytes of gD into the core's Pantry. -/
  | stp (p : Pred) (d a : Reg) (mode : AMode) (size : BitVec 2)
  /-- LD_ACQ (R244): Loads from the home slice as an acquire of its class and scope, discarding L1 copies at wider scopes. -/
  | ldAcq (p : Pred) (d : Reg) (m : MemArg) (sx : Bool) (scope : BitVec 2)
  /-- ST_REL (R244): Closes the phase and sends the store as a release once that phase completes. -/
  | stRel (p : Pred) (d : Reg) (m : MemArg) (scope : BitVec 2)
  /-- PF (R246): Asks for a line to be brought to its home slice, and in slot O to the L1, never trapping. -/
  | pf (p : Pred) (a : Reg) (mode : AMode) (cls : BitVec 4)
  /-- FENCE (R247): Closes the phase and stalls until accesses of the named classes and all phases complete. -/
  | fence (p : Pred) (mask : BitVec 16) (scope : BitVec 2)
  /-- SLX (R293): Invokes a mapped slice routine on a line and stalls until its q returns. -/
  | slx (p : Pred) (cls : BitVec 4) (d a b c : Reg) (vr : BitVec 5)
  /-- SLXN (R295): Invokes a slice routine without waiting, reporting faults as routine-fault records. -/
  | slxn (p : Pred) (cls : BitVec 4) (a b c : Reg) (vr : BitVec 5)
  /-- RTINST (R291): Installs or uninstalls a partition routine image at every slice and returns a status word. -/
  | rtinst (p : Pred) (d a b : Reg)
  /-- RTMAP (R292): Sets or clears an entry of the virtual NPU's routine map and returns the previous id. -/
  | rtmap (p : Pred) (d a b : Reg)
  /-- EQPOP (R266): Pops the least-stamped event-queue entry into gD and gD+1, stalling while empty. -/
  | eqpop (p : Pred) (d : Reg)
  /-- WFE (R366): Clears the wake latch if set, or blocks until it is set. -/
  | wfe (p : Pred)
  /-- BR (R341): Branches to PC plus 8 times the offset. -/
  | br (p : Pred) (off : BitVec 48)
  /-- BCQ (R341): Pops the condition queue, stalling while empty, and branches if the bit is 1. -/
  | bcq (p : Pred) (off : BitVec 48)
  /-- JR (R341): Jumps to gA, trapping ALIGN on a misaligned target. -/
  | jr (p : Pred) (a : Reg)
  /-- CALL (R341): Writes PC+8 to lr and branches by the offset. -/
  | call (p : Pred) (off : BitVec 48)
  /-- CALLR (R341): Writes PC+8 to lr and jumps to the old gA. -/
  | callr (p : Pred) (a : Reg)
  /-- RET (R341): Jumps to lr. -/
  | ret (p : Pred)
  /-- LOOP (R344): Starts a hardware loop level with a count from gA, or skips the body for a zero count. -/
  | loop (p : Pred) (level : BitVec 1) (a : Reg) (off : BitVec 36)
  /-- NOP (R346): Advances the tick by n and idles the context for n - 1 further core cycles. -/
  | nop (p : Pred) (n : BitVec 16)
  /-- TRAP (R347): Raises TRAP_INSTR with the immediate in EINFO. -/
  | trap (p : Pred) (e : BitVec 16)
  /-- YIELD (R333): In slot O lends issue slots to slot H for a hold; in slot H checkpoints and parks the context. -/
  | yield (p : Pred)
  /-- END (R348): Drains the context's records and phase, removes its registrations and retires the unit or ends the harvest context. -/
  | endUnit (p : Pred)
  /-- RBLD (R250): Loads 64 bytes from global memory into a record buffer. -/
  | rbld (p : Pred) (a : Reg) (off : BitVec 18) (n : RbReg)
  /-- RBST (R250): Stores a record buffer as 64 bytes to global memory. -/
  | rbst (p : Pred) (a : Reg) (off : BitVec 18) (n : RbReg)
  /-- RBSET (R251): Writes one field of a record buffer from gA. -/
  | rbset (p : Pred) (n : RbReg) (a : Reg) (id : BitVec 6)
  /-- RBGET (R251): Lands one field of a record buffer in gD. -/
  | rbget (p : Pred) (d : Reg) (n : RbReg) (id : BitVec 6)
  /-- ENQ (R253): Queues a record buffer to an engine, resolving DYN rounding and closing the phase. -/
  | enq (p : Pred) (e : Eng) (n : RbReg)
  /-- TKPOST (R256): Closes the phase and then adds a token to port 0 of the engine. -/
  | tkpost (p : Pred) (e : Eng)
  /-- TKWAIT (R256): Stalls until the FIFO from the engine holds a token, then takes it. -/
  | tkwait (p : Pred) (e : Eng)
  /-- TKPOLL (R256): Takes a token from the FIFO if present and lands 1, else lands 0. -/
  | tkpoll (p : Pred) (d : Reg) (e : Eng)
  /-- SEMINC (R260): Closes the phase and, once complete, adds gA[31:0] to the mapped semaphore counter. -/
  | seminc (p : Pred) (n : BitVec 6) (a : Reg)
  /-- SEMWAIT (R260): Stalls until the mapped counter is at least n, then subtracts n. -/
  | semwait (p : Pred) (n : BitVec 6) (a : Reg)
  /-- SEMMAP (R262): Maps or unmaps a virtual semaphore number of the context. -/
  | semmap (p : Pred) (n : BitVec 6) (a : Reg)
  /-- QDRAIN (R254): Stalls until every record the context queued to the engine has retired. -/
  | qdrain (p : Pred) (e : Eng)
  /-- ACCVER (R263): Lands the current version of an accumulator tile in gD. -/
  | accver (p : Pred) (d : Reg) (t : BitVec 6)
  /-- WOREG (R363): Registers the context as a waiter on an object without blocking and returns a status. -/
  | woreg (p : Pred) (d a : Reg)
  /-- WODEREG (R363): Removes the context's waiter registration of an object. -/
  | wodereg (p : Pred) (a : Reg)
  /-- WOHOLD (R363): Registers the context as a holder of an object of kind 1, 3 or 7. -/
  | wohold (p : Pred) (d a : Reg)
  /-- WOREL (R363): Closes the phase and then removes the context's hold of the object. -/
  | worel (p : Pred) (a : Reg)
  /-- WOWAIT (R363): Blocks on a held object until a release of it is processed. -/
  | wowait (p : Pred) (a : Reg)
  /-- WOPOLL (R364): Lands the registration and holder status word of an object. -/
  | wopoll (p : Pred) (d a : Reg)
  /-- BAR (R369): Closes the phase and drains records at level 0, or arrives and blocks at a domain barrier. -/
  | bar (p : Pred) (level : BitVec 2)
  /-- BARXF (R371): Arrives at a domain barrier that opens a transfer phase for the queued XF program. -/
  | barxf (p : Pred) (level : BitVec 2)
  /-- LEASE (R328): Grants the harvest context a lease of an engine or returns a refusal status. -/
  | lease (p : Pred) (d : Reg) (e : Eng)
  /-- LEASEREL (R328): Drains the context's records to the engine and releases its lease. -/
  | leaserel (p : Pred) (e : Eng)
  /-- LEND (R326): Sets the lent set of local regions, zero-filling regions that change holder. -/
  | lend (p : Pred) (a : Reg)
  /-- RECALL (R332): Revokes the harvest context and forbids harvest on the core until the next LEND or window end. -/
  | recall (p : Pred)
  /-- RSMARK (R325): In slot H writes the restart checkpoint into the Cupboard bank. -/
  | rsmark (p : Pred)
  /-- GTCRD (R146): Lands the GTC value sampled at issue in gD. -/
  | gtcrd (p : Pred) (d : Reg)
  /-- RNG (R147): Lands Hash(gA, gB) in gD, interlocked. -/
  | rng (p : Pred) (d a b : Reg)
  /-- MFS (R433): Reads a system register into gD, interlocked. -/
  | mfs (p : Pred) (d : Reg) (n : SReg)
  /-- MTS (R433): Writes the writable fields of a system register from gA at issue. -/
  | mts (p : Pred) (n : SReg) (a : Reg)
  /-- EVEC_WRITE (R424): An MTS to EVEC stalls until every core holding a context of the virtual NPU has taken the value. -/
  | evecWrite (p : Pred) (a : Reg)
  /-- CTXSAVE_WRITE (R424): An MTS to CTXSAVE stalls until every core holding a context of the virtual NPU has taken the value. -/
  | ctxsaveWrite (p : Pred) (a : Reg)
  /-- ERET (R428): Drains records and phase, validates and loads the trap image and resumes at EPC. -/
  | eret (p : Pred)
  /-- OPBND (R440): With a pre-emption request pending, saves the unit cooperatively; otherwise does nothing. -/
  | opbnd (p : Pred)
  /-- DEFER (R439): Sets DEF for up to 20 µs when no pre-emption request is pending. -/
  | defer (p : Pred)
  /-- UNDEFER (R439): Ends DEF. -/
  | undefer (p : Pred)
  /-- CLRSIG (R457): Lands the clear signature of the core's slot-O state. -/
  | clrsig (p : Pred) (d : Reg)
  /-- CTXSV (R434): Copies the 8 KiB save area to memory with the current exception registers. -/
  | ctxsv (p : Pred) (a : Reg)
  /-- CTXLD (R434): Checks and copies an 8 KiB image into the save area and loads the exception registers. -/
  | ctxld (p : Pred) (a : Reg)
  /-- PARKST (R445): Lands the state byte of each Cupboard bank. -/
  | parkst (p : Pred) (d : Reg)
  /-- PEND (R438): Lands the pre-emption, DEF and revocation-deferral status word. -/
  | pend (p : Pred) (d : Reg)
  /-- TINST (R410): Installs the Strongroom copy of a tensor slot from a 64-byte request. -/
  | tinst (p : Pred)
  /-- TVBUMP (R410): Increments an encrypted tensor's write version and clears SEALED. -/
  | tvbump (p : Pred)
  /-- TREMOVE (R409): Clears the Strongroom copy of a tensor slot. -/
  | tremove (p : Pred)
  /-- TQUERY (R409): Returns the version, ENC, SEALED and writer state of a tensor slot. -/
  | tquery (p : Pred)
  /-- S1ROOT (R409): Sets the virtual NPU's stage-1 root and invalidates its stage-1 entries. -/
  | s1root (p : Pred)
  /-- TLBINV (R409): Invalidates the virtual NPU's stage-1 entries over a range on every core and strip. -/
  | tlbinv (p : Pred)
  /-- REGQUERY (R409): Returns the REGSTAT of a regulator point of the leaf. -/
  | regquery (p : Pred)
  /-- PARTQUERY (R409): Returns PARTSTAT of the caller's virtual NPU. -/
  | partquery (p : Pred)
  /-- GRESET (R409): Resets another virtual NPU of the caller's top-level partition and returns at completion. -/
  | greset (p : Pred)
  /-- SCRUBREQ (R436): Queues a sweep of a guest range with a receipt and returns a ticket. -/
  | scrubreq (p : Pred)
  /-- RECQUERY (R436): Returns stale-response and failure counts and the QSTOP and DFAIL bits. -/
  | recquery (p : Pred)
  /-- HVC (R435): HVC closes the phase, runs service e under R408, and returns status 2 for a number that names no service. -/
  | hvc (p : Pred) (e : BitVec 16)
  /-- VADD (R163): VX record adding lanes of S1 and S2 or an immediate, rounded or wrapped once. -/
  | vadd (r : EngRec)
  /-- VSUB (R163): VX record subtracting lanes. -/
  | vsub (r : EngRec)
  /-- VMUL (R163): VX record multiplying lanes. -/
  | vmul (r : EngRec)
  /-- VFMA (R163): VX record computing S1 × S2 + D per lane with one rounding. -/
  | vfma (r : EngRec)
  /-- VMIN (R164): VX record writing lane minima. -/
  | vmin (r : EngRec)
  /-- VMAX (R164): VX record writing lane maxima. -/
  | vmax (r : EngRec)
  /-- VABS (R166): VX record writing lane absolute values. -/
  | vabs (r : EngRec)
  /-- VNEG (R166): VX record writing negated lanes. -/
  | vneg (r : EngRec)
  /-- VAND (R165): VX record combining lane bits with and. -/
  | vand (r : EngRec)
  /-- VOR (R165): VX record combining lane bits with or. -/
  | vor (r : EngRec)
  /-- VXOR (R165): VX record combining lane bits with xor. -/
  | vxor (r : EngRec)
  /-- VSHL (R165): VX record shifting lanes left. -/
  | vshl (r : EngRec)
  /-- VSHR (R165): VX record shifting lanes right logically. -/
  | vshr (r : EngRec)
  /-- VSRA (R165): VX record shifting lanes right arithmetically. -/
  | vsra (r : EngRec)
  /-- VSEL (R167): VX record writing S1 lanes where the S2 mask is non-zero. -/
  | vsel (r : EngRec)
  /-- VCMP (R168): VX record comparing lanes, writing a mask and optionally pushing a bit to the condition queue per step. -/
  | vcmp (r : EngRec)
  /-- VCLAMP (R167): VX record clamping lanes between two immediate bounds. -/
  | vclamp (r : EngRec)
  /-- VSCALE (R167): VX record multiplying lanes by 2 to an integer power. -/
  | vscale (r : EngRec)
  /-- VMOV (R166): VX record copying lane bits unchanged. -/
  | vmov (r : EngRec)
  /-- VBCAST (R167): VX record broadcasting a scalar or immediate to every lane. -/
  | vbcast (r : EngRec)
  /-- VEXP2 (R169): VX record computing 2^x per lane. -/
  | vexp2 (r : EngRec)
  /-- VLOG2 (R169): VX record computing log2 x per lane. -/
  | vlog2 (r : EngRec)
  /-- VRCP (R169): VX record computing reciprocals per lane. -/
  | vrcp (r : EngRec)
  /-- VRSQ (R169): VX record computing reciprocal square roots per lane. -/
  | vrsq (r : EngRec)
  /-- VSQRT (R169): VX record computing correctly rounded square roots per lane. -/
  | vsqrt (r : EngRec)
  /-- VTANH (R169): VX record computing tanh per lane. -/
  | vtanh (r : EngRec)
  /-- VCVT (R170): VX record converting lanes between types. -/
  | vcvt (r : EngRec)
  /-- VQUANT (R171): VX record quantising 32-lane blocks to a block-scaled type with E8 scales. -/
  | vquant (r : EngRec)
  /-- VDEQ (R171): VX record de-quantising block-scaled lanes. -/
  | vdeq (r : EngRec)
  /-- VRAND (R172): VX record writing hashed random lanes. -/
  | vrand (r : EngRec)
  /-- VREDSUM (R174): VX record reducing vectors by a fixed sum tree to one scalar per outer iteration. -/
  | vredsum (r : EngRec)
  /-- VREDMAX (R174): VX record reducing vectors to their maximum. -/
  | vredmax (r : EngRec)
  /-- VREDMIN (R174): VX record reducing vectors to their minimum. -/
  | vredmin (r : EngRec)
  /-- VSCAN (R175): VX record writing running sums, maxima or minima. -/
  | vscan (r : EngRec)
  /-- VANY (R176): VX record pushing whether any or all lanes are non-zero at retirement. -/
  | vany (r : EngRec)
  /-- VCNT (R176): VX record counting non-zero lanes over each j0 loop. -/
  | vcnt (r : EngRec)
  /-- VZIP2 (R177): VX record interleaving two vectors. -/
  | vzip2 (r : EngRec)
  /-- VZIP3 (R177): VX record interleaving three vectors. -/
  | vzip3 (r : EngRec)
  /-- VZIP4 (R177): VX record interleaving four vectors. -/
  | vzip4 (r : EngRec)
  /-- VUNZIP2 (R177): VX record de-interleaving into two vectors. -/
  | vunzip2 (r : EngRec)
  /-- VUNZIP3 (R177): VX record de-interleaving into three vectors. -/
  | vunzip3 (r : EngRec)
  /-- VUNZIP4 (R177): VX record de-interleaving into four vectors. -/
  | vunzip4 (r : EngRec)
  /-- VPERM (R178): VX record permuting lanes by N16 indices. -/
  | vperm (r : EngRec)
  /-- VGATHER (R179): VX record gathering indexed elements into lanes. -/
  | vgather (r : EngRec)
  /-- VSCATTER (R179): VX record scattering lanes to indexed elements. -/
  | vscatter (r : EngRec)
  /-- VPART (R180): VX record splitting lane indices into true and false lists and pushing a bit at retirement. -/
  | vpart (r : EngRec)
  /-- VLDP (R181): VX record loading n bytes at any alignment into an aligned vector. -/
  | vldp (r : EngRec)
  /-- VSTP (R181): VX record storing the first n bytes of a vector at any alignment. -/
  | vstp (r : EngRec)
  /-- VIOTA (R173): VX record writing base + ctr × inc per lane. -/
  | viota (r : EngRec)
  /-- VZERO (R173): VX record writing 512 zero bytes per step. -/
  | vzero (r : EngRec)
  /-- VBUMP (R182): VX record adding to or setting a tile's version at retirement. -/
  | vbump (r : EngRec)
  /-- VTYPE (R183): VX record setting the type tags of named tiles at retirement. -/
  | vtype (r : EngRec)
  /-- MMA (R200): MX record accumulating A rows times B columns into accumulator rows. -/
  | mma (r : EngRec)
  /-- MMAZ (R200): MX record computing A times B into accumulator rows from zero. -/
  | mmaz (r : EngRec)
  /-- MMAS (R201): MX record accumulating block-scaled products with E8 scales. -/
  | mmas (r : EngRec)
  /-- MMAT (R200): MX record multiplying accumulator-held A by B, optionally from zero. -/
  | mmat (r : EngRec)
  /-- MRET (R202): MX record converting accumulator rows and incrementing the tile version. -/
  | mret (r : EngRec)
  /-- MZERO (R203): MX record zeroing accumulator rows and setting their tag. -/
  | mzero (r : EngRec)
  /-- CPIN (R274): CI record copying tensor elements into the Pantry or accumulators, zero-filling out-of-extent steps. -/
  | cpin (r : EngRec)
  /-- CPINA (R276): CI record copying tensor elements into the Attic, yielding to MX. -/
  | cpina (r : EngRec)
  /-- GATHIN (R274): CI record copying tensor rows named by an index list. -/
  | gathin (r : EngRec)
  /-- FILL (R275): CI record writing an immediate element at each local step address. -/
  | fill (r : EngRec)
  /-- CPLOC (R275): CI record copying between local addresses. -/
  | cploc (r : EngRec)
  /-- PFIN (R276): CI record asking for tensor lines at their home slices. -/
  | pfin (r : EngRec)
  /-- CPOUT (R274): CO record copying local elements to a tensor. -/
  | cpout (r : EngRec)
  /-- SCATOUT (R274): CO record copying local rows to tensor rows named by an index list. -/
  | scatout (r : EngRec)
  /-- CPOUTA (R276): CO record spilling accumulator elements to a tensor. -/
  | cpouta (r : EngRec)
  /-- CPREM (R276): CO record writing a tensor without allocating in the home slice. -/
  | cprem (r : EngRec)
  /-- TX (R376): XF record injecting 32-byte beats on a lane at phase cycles. -/
  | tx (r : EngRec)
  /-- MUXSEL (R376): XF record capturing beats from a lane into local store. -/
  | muxsel (r : EngRec)
  /-- XHOLD (R376): XF record capturing a beat and re-injecting it on another lane one cycle later. -/
  | xhold (r : EngRec)
  /-- XEND (R377): XF record ending the member's phase program with its end cycle. -/
  | xend (r : EngRec)
  /-- LADD (R286): Slice instruction d := a + b. -/
  | ladd (d a b : SlReg)
  /-- LSUB (R286): Slice instruction d := a - b. -/
  | lsub (d a b : SlReg)
  /-- LAND (R286): Slice instruction d := a and b. -/
  | land (d a b : SlReg)
  /-- LOR (R286): Slice instruction d := a or b. -/
  | lor (d a b : SlReg)
  /-- LXOR (R286): Slice instruction d := a xor b. -/
  | lxor (d a b : SlReg)
  /-- LMIN (R286): Slice instruction writing the signed minimum. -/
  | lmin (d a b : SlReg)
  /-- LMAX (R286): Slice instruction writing the signed maximum. -/
  | lmax (d a b : SlReg)
  /-- LMINU (R286): Slice instruction writing the unsigned minimum. -/
  | lminu (d a b : SlReg)
  /-- LMAXU (R286): Slice instruction writing the unsigned maximum. -/
  | lmaxu (d a b : SlReg)
  /-- LSHL (R286): Slice instruction shifting a left by b[5:0]. -/
  | lshl (d a b : SlReg)
  /-- LSHR (R286): Slice instruction shifting a right logically by b[5:0]. -/
  | lshr (d a b : SlReg)
  /-- LCMP (R286): Slice instruction setting f from an integer condition on a and b. -/
  | lcmp (a b : SlReg) (cc : BitVec 4)
  /-- LSEL (R286): Slice instruction d := a if f = 1, else b. -/
  | lsel (d a b : SlReg)
  /-- LMOV (R286): Slice instruction d := a. -/
  | lmov (d a : SlReg)
  /-- LMOVI (R286): Slice instruction d := sign-extended imm11. -/
  | lmovi (d : SlReg) (imm : BitVec 11)
  /-- LADDF (R287): Slice instruction adding two independent F32 halves under RNE. -/
  | laddf (d a b : SlReg)
  /-- LINS (R286): Slice instruction inserting a bit field of a into d. -/
  | lins (d a : SlReg) (pos wm1 : BitVec 6)
  /-- LEXT (R286): Slice instruction extracting a zero-extended bit field of a. -/
  | lext (d a : SlReg) (pos wm1 : BitVec 6)
  /-- LRET (R285): Slice instruction ending the routine and committing written lanes in one event. -/
  | lret
  /-- LFAIL (R285): Slice instruction ending the routine without commit. -/
  | lfail
  /-- LNOP (R286): Slice instruction with no effect. -/
  | lnop
  /-- LANDING (R117): A result of exposed latency L is written to its register at tick t + L + 1, with its flags merged. -/
  | landing
  /-- RECORD_START (R152): A record at its queue head starts once its version check and tokens are present, popping the tokens. -/
  | recordStart
  /-- RECORD_RETIREMENT (R152): After the last step and once the post and push can proceed, the record merges flags, bumps, pushes, posts and writes its completion record. -/
  | recordRetirement
  /-- PHASE_MARKER (R229): A target compares a marker's count with its arrival counter and acknowledges when they match. -/
  | phaseMarker
  /-- PHASE_COMPLETION (R231): The last acknowledgement of a phase arrives and the phase completes, releasing what waited on it. -/
  | phaseCompletion
  /-- SLICE_INVOCATION (R280): A free executor takes a queued invocation, holds its line, runs the routine and commits or fails. -/
  | sliceInvocation
  /-- SLX_REPLY (R293): The reply of an invocation returns to the core: q lands, a NACK is retried, or a fault traps. -/
  | slxReply
  /-- PAGE_MIGRATION (R299): The Strongroom marks, copies and flips a page to a new physical page while NACKing unheld invocations. -/
  | pageMigration
  /-- WAIT_REGISTRATION (R354): The wait-for table processes a registration or removal and walks the graph from affected waiters. -/
  | waitRegistration
  /-- BARRIER_COMPLETION (R369): When every member has arrived, the barrier completes in every member. -/
  | barrierCompletion
  /-- TRANSFER_PHASE_START (R371): After the last member arrives, the start cycle S is fixed and every BARXF completes there. -/
  | transferPhaseStart
  /-- TRANSFER_PHASE_CLOSE (R377): At phase cycle P + 8 the XENDs retire, the engines resume and the lanes return to packet traffic. -/
  | transferPhaseClose
  /-- TRAP_ENTRY (R420): A trap takes the cut, saves landings and writes the image, then enters the handler at S. -/
  | trapEntry
  /-- WALKER_TAKE (R307): The walker reads and checks the head descriptor of a launch queue and advances CONS. -/
  | walkerTake
  /-- PROD_NOTIFICATION (R305): A write to a module queue's PROD line notifies the walker. -/
  | prodNotification
  /-- DISPATCH (R312): The walker deals an iteration to a free qualifying owner context and sets its state. -/
  | dispatch
  /-- UNIT_RESUME (R443): A saved unit resumes on its core with regions, image and landings restored. -/
  | unitResume
  /-- HARVEST_DEAL (R323): The walker starts a harvest iteration in an empty slot H with an implicit RSMARK. -/
  | harvestDeal
  /-- UNPARK (R324): A parked harvest context is loaded from its checkpoint and re-issues its RSMARK. -/
  | unpark
  /-- REVOCATION (R331): The harvest context is stopped, its records aborted, its state restored from the checkpoint and it is parked. -/
  | revocation
  /-- LEASE_TERM_END (R328): After 4 records or 8192 core cycles a lease is renewed, or revocation begins if an owner record is queued. -/
  | leaseTermEnd
  /-- YIELD_HOLD_END (R333): A slot-O YIELD hold ends after 256 core cycles or on a token, event entry or trap. -/
  | yieldHoldEnd
  /-- FRAME_START (R319): A major frame begins, budgets restart and an accepted contract set takes effect. -/
  | frameStart
  /-- WINDOW_BOUNDARY (R320): At a window change the owner is pre-empted, lent regions returned, counters switched and the incoming owner scheduled. -/
  | windowBoundary
  /-- FORCED_PREEMPTION (R442): At grace expiry the unit's cut is taken and its image and live regions saved to the save pool. -/
  | forcedPreemption
  /-- DEF_END (R439): DEF ends 20 µs after DEFER and a held pre-emption request starts its grace. -/
  | defEnd
  /-- BUDGET_TIME (R322): When a leaf's consumption reaches its budget, its units trap or are suspended. -/
  | budgetTime
  /-- INTERVAL_BOUNDARY (R339): Every 10 µs accounts refill, the energy bucket is settled and boost claims are granted. -/
  | intervalBoundary
  /-- RAIL_CONFIRMED (R17): A cluster's rail move is confirmed high or low within 32 fabric cycles. -/
  | railConfirmed
  /-- DIVIDER_SWITCH (R17): At the first epoch after a high rail is confirmed, the cluster clock switches to 2.0 GHz. -/
  | dividerSwitch
  /-- REGULATOR_REFILL (R386): At each multiple of 125 GTC ticks each regulator level is refilled and held requests are admitted. -/
  | regulatorRefill
  /-- REGULATOR_TRIP (R387): A request held THRESH µs trips the regulator and raises BUDGET_BW. -/
  | regulatorTrip
  /-- WAY_REASSIGNMENT (R394): Every 100,000 ns each slice reassigns its cache ways from the hit counters. -/
  | wayReassignment
  /-- PAGE_WORLD_CHANGE (R402): The Strongroom moves a page to a new world, discarding its lines and setting pending-zero. -/
  | pageWorldChange
  /-- PENDING_ZERO_FILL (R402): The controller zeroes a pending-zero page in the background or at its first access. -/
  | pendingZeroFill
  /-- GUEST_RESET (R417): A virtual NPU's RGEN advances, its contexts stop, its records abort and its registrations are removed. -/
  | guestReset
  /-- GUEST_RESET_DRAIN (R417): At drain count 0 the clear routine runs, saved state is deleted and queue blocks are written. -/
  | guestResetDrain
  /-- SCRUB_SWEEP (R452): The scrubber sweeps pages, retiring pages with repeated corrections and writing receipts. -/
  | scrubSweep
  /-- RETENTION_ENTRY (R451): A cluster idle for 20 µs enters retention. -/
  | retentionEntry
  /-- RETENTION_EXIT (R451): A wake event ends retention and the retention elements are checked. -/
  | retentionExit
  /-- LOCKSTEP_MISMATCH (R448): A compare mismatch stops the pair, asserts FAULT_N and fails its contexts. -/
  | lockstepMismatch
  /-- ECC_ERROR (R449): A detected memory error is corrected or poisons, discards or loses state as tabled. -/
  | eccError
  /-- SENSOR_READ (R488): Each 10 µs the temperature sensors are read and the limit actions applied. -/
  | sensorRead
  /-- RAIL_EXCURSION (R472): A rail out of tolerance for over 1 µs asserts FAULT_N and logs a class-7 record. -/
  | railExcursion
  /-- RAIL_HALT (R472): An excursion lasting 100 µs halts guest issue until module reset. -/
  | railHalt
  /-- WATCHDOG (R486): FAULT_N asserts when the frame count is not advanced for 100 µs. -/
  | watchdog
  /-- TSYNC (R473): A rising edge captures the GTC in TSCAP and starts removal of its error. -/
  | tsync
  /-- TSYNCLOST (R473): Three missed TSYNC edges set TSYNCLOST and log a class-7 record. -/
  | tsynclost
  /-- GTCSLEW (R473): A host write of a signed slew replaces the remainder the GTC is to remove at 200 ppm. -/
  | gtcslew
  /-- DOORBELL (R476): A host write sets a host queue's PROD unless the write is ignored. -/
  | doorbell
  /-- BLOB_LOAD (R482): BLOBCTL = 1 verifies a configuration blob from BAR 2 and checks its contracts. -/
  | blobLoad
  /-- IMAGE_LOAD (R480): BLOBCTL = 2 loads and verifies a firmware image in recovery mode. -/
  | imageLoad
  /-- REGISTER_WRITE (R475): A host or management write to a register with no behaviour of its own. -/
  | registerWrite
  /-- ELOG (R483): A 32-byte read of ELOG returns and removes the oldest error-log record. -/
  | elog
  /-- FAULTCLR (R485): A write of s deasserts FAULT_N only when its conditions hold. -/
  | faultclr
  /-- STATUS_FRAME (R486): SSPI_SEL_N falling shifts out a 32-byte status snapshot. -/
  | statusFrame
  /-- MODULE_RESET (R478): PERST_N or a physical-function FLR resets the module and all on-module state. -/
  | moduleReset
  /-- BOOT (R479): Release of PERST_N runs the ROM, verifies the image, trains DRAM, checks the blob and sets READY. -/
  | boot
  /-- FUNCTION_LEVEL_RESET (R478): A function-level reset of a virtual function starts its guest reset. -/
  | functionLevelReset
  /-- LOCK_INTERFACE (R413): TDISP request locking a device interface's configuration. -/
  | lockInterface
  /-- GET_DEVICE_INTERFACE_REPORT (R413): TDISP request returning the interface report. -/
  | getDeviceInterfaceReport
  /-- START_INTERFACE (R413): TDISP request moving the interface to RUN. -/
  | startInterface
  /-- STOP_INTERFACE (R415): TDISP request taking the interface out of RUN. -/
  | stopInterface
  /-- GET_STATE (R413): TDISP request returning the interface state. -/
  | getState
  /-- GET_MEASUREMENTS (R481): SPDM request returning the signed attestation log. -/
  | getMeasurements
  /-- KEY_ERASURE (R414): The old IDE key slot is erased after its requests complete or 4 ms elapse. -/
  | keyErasure
  /-- HOST_COMPLETION (R414): A completion of a host read arrives and is decrypted, dropped as stale, or fails integrity. -/
  | hostCompletion
  /-- PAGE_REQUEST_RESPONSE (R454): A PRI response arrives, frees its index, and is applied or dropped as stale. -/
  | pageRequestResponse
  /-- PAGE_REQUEST_TIMEOUT (R454): A page request outstanding for 100 ms times out and faults the waiting step. -/
  | pageRequestTimeout
  /-- ACCESS_ARRIVAL (R229): A write or read request arrives at its home slice or the host port, is performed or refused, updates L1 copies and is counted in the arrival counter, possibly matching a waiting marker. -/
  | accessArrival
  /-- ROOT_CONTROLLER_MISMATCH (R455): A lockstep mismatch of the root controller asserts FAULT_N and halts guest issue until module reset. -/
  | rootControllerMismatch
  /-- CLOCK_MONITOR (R455): A clock monitor leaving its limits asserts FAULT_N and writes a class-7 error-log record. -/
  | clockMonitor
  /-- KEY_SWITCH (R414): An IDE key switch makes the other key slot current while the old slot stays valid for requests issued under it. -/
  | keySwitch
  /-- CONFIGURATION_REQUEST (R415): A configuration request to a function is answered, and a configuration change of a locked interface moves it to ERROR and starts a guest reset. -/
  | configurationRequest
deriving DecidableEq, Repr

end Sys2Proof
end

