-- ==== Sys2Proof/WellFormed.lean ====
section
/-! DEFINITION. The field checks that an instruction term of Syntax can still violate (R31, R71, R72, R58, R80).
A field's width is in its type, so what is left are the limits within a field. An engine record has no check here:
ENQ takes any header (R79), and the checks of R44 belong to the engine's queue head (Machine/Operands.lean). -/

namespace Sys2Proof

/-- KP = 0 with KN = 1 is reserved (R31). -/
def Pred.ok (p : Pred) : Bool := !(decide (p.kp = 0) && decide (p.kn = 1))

/-- SX must be zero in a dword load (R36). -/
def signOk (size : BitVec 2) (sx : Bool) : Bool := !(sx && decide (size = 3))

/-- The record-buffer field ids of R54. -/
def fieldIdOk (id : BitVec 6) : Bool :=
  let n := id.toNat
  decide (n ≤ 0x07) || (decide (0x10 ≤ n) && decide (n ≤ 0x1B)) || (decide (0x20 ≤ n) && decide (n ≤ 0x2B))

/-- The HVC numbers that are rows of the table of their own (R409, R436). -/
def namedService (e : BitVec 16) : Bool :=
  decide (e ∈ [0x100, 0x101, 0x102, 0x103, 0x110, 0x111, 0x120, 0x121, 0x130, 0x140, 0x141])

/-- A slice register that a source field may name (R57, R58). -/
def slRead (r : SlReg) : Bool := decide (r.toNat ≤ 24)

/-- A slice register that dst may name: not 16, 17, 23 and not 25-31 (R57, R58). -/
def slWrite (r : SlReg) : Bool := slRead r && decide (r ≠ 16) && decide (r ≠ 17) && decide (r ≠ 23)

/-- LINS and LEXT: position plus width is at most 64 (R80). -/
def fieldFits (pos wm1 : BitVec 6) : Bool := decide (pos.toNat + wm1.toNat + 1 ≤ 64)

/-- The checks of each row, one arm per constructor. -/
def Instr.wf : Instr → Bool
  | .add p _ _ _ => p.ok
  | .sub p _ _ _ => p.ok
  | .mul p _ _ _ => p.ok
  | .mulh p _ _ _ => p.ok
  | .mulhu p _ _ _ => p.ok
  | .div p _ _ _ => p.ok
  | .divu p _ _ _ => p.ok
  | .rem p _ _ _ => p.ok
  | .remu p _ _ _ => p.ok
  | .and p _ _ _ => p.ok
  | .or p _ _ _ => p.ok
  | .xor p _ _ _ => p.ok
  | .andn p _ _ _ => p.ok
  | .shl p _ _ _ => p.ok
  | .shr p _ _ _ => p.ok
  | .sra p _ _ _ => p.ok
  | .rol p _ _ _ => p.ok
  | .min p _ _ _ => p.ok
  | .max p _ _ _ => p.ok
  | .minu p _ _ _ => p.ok
  | .maxu p _ _ _ => p.ok
  | .clz p _ _ => p.ok
  | .ctz p _ _ => p.ok
  | .popc p _ _ => p.ok
  | .brev p _ _ => p.ok
  | .sext p _ _ _ => p.ok
  | .zext p _ _ _ => p.ok
  | .sel p _ _ _ _ => p.ok
  | .lea p _ _ _ _ => p.ok
  | .addi p _ _ _ => p.ok
  | .andi p _ _ _ => p.ok
  | .ori p _ _ _ => p.ok
  | .xori p _ _ _ => p.ok
  | .shli p _ _ _ => p.ok
  | .shri p _ _ _ => p.ok
  | .srai p _ _ _ => p.ok
  | .movi p _ _ => p.ok
  | .movhi p _ _ => p.ok
  | .muli p _ _ _ => p.ok
  | .kget p _ _ => p.ok
  | .cmp p cc _ _ _ => p.ok && decide (cc.toNat ≤ 9)
  | .cmpi p cc _ _ _ => p.ok && decide (cc.toNat ≤ 9)
  | .fcmp p cc _ _ _ => p.ok && decide (cc.toNat ≤ 7)
  | .kand p _ _ _ => p.ok
  | .kor p _ _ _ => p.ok
  | .kxor p _ _ _ => p.ok
  | .knot p _ _ => p.ok
  | .kset p _ _ => p.ok
  | .fadd p _ _ _ => p.ok
  | .fsub p _ _ _ => p.ok
  | .fmul p _ _ _ => p.ok
  | .ffma p _ _ _ _ => p.ok
  | .fmin p _ _ _ => p.ok
  | .fmax p _ _ _ => p.ok
  | .fabs p _ _ => p.ok
  | .fneg p _ _ => p.ok
  | .fcvt p _ _ ty _ => p.ok && (decide (ty ≠ 0) && decide (ty ≠ 15))
  | .fexp2 p _ _ => p.ok
  | .flog2 p _ _ => p.ok
  | .frcp p _ _ => p.ok
  | .frsq p _ _ => p.ok
  | .fsqrt p _ _ => p.ok
  | .ld p _ m sx => p.ok && signOk m.size sx
  | .st p _ _ => p.ok
  | .ldp p _ _ _ size sx => p.ok && signOk size sx
  | .stp p _ _ _ _ => p.ok
  | .ldAcq p _ m sx _ => p.ok && signOk m.size sx
  | .stRel p _ _ _ => p.ok
  | .pf p _ _ _ => p.ok
  | .fence p mask _ => p.ok && decide (mask ≠ 0)
  | .slx p _ _ _ _ _ _ => p.ok
  | .slxn p _ _ _ _ _ => p.ok
  | .rtinst p _ _ _ => p.ok
  | .rtmap p _ _ _ => p.ok
  | .eqpop p d => p.ok && decide (d.toNat % 2 = 0)
  | .wfe p => p.ok
  | .br p _ => p.ok
  | .bcq p _ => p.ok
  | .jr p _ => p.ok
  | .call p _ => p.ok
  | .callr p _ => p.ok
  | .ret p => p.ok
  | .loop p _ _ off => p.ok && decide (1 ≤ off.toInt)
  | .nop p _ => p.ok
  | .trap p _ => p.ok
  | .yield p => p.ok
  | .endUnit p => p.ok
  | .rbld p _ _ _ => p.ok
  | .rbst p _ _ _ => p.ok
  | .rbset p _ _ id => p.ok && fieldIdOk id
  | .rbget p _ _ id => p.ok && fieldIdOk id
  | .enq p _ _ => p.ok
  | .tkpost p _ => p.ok
  | .tkwait p _ => p.ok
  | .tkpoll p _ _ => p.ok
  | .seminc p _ _ => p.ok
  | .semwait p _ _ => p.ok
  | .semmap p _ _ => p.ok
  | .qdrain p _ => p.ok
  | .accver p _ t => p.ok && decide (t.toNat ≤ 11)
  | .woreg p _ _ => p.ok
  | .wodereg p _ => p.ok
  | .wohold p _ _ => p.ok
  | .worel p _ => p.ok
  | .wowait p _ => p.ok
  | .wopoll p _ _ => p.ok
  | .bar p _ => p.ok
  | .barxf p _ => p.ok
  | .lease p _ e => p.ok && decide (e ≠ .xf)
  | .leaserel p e => p.ok && decide (e ≠ .xf)
  | .lend p _ => p.ok
  | .recall p => p.ok
  | .rsmark p => p.ok
  | .gtcrd p _ => p.ok
  | .rng p _ _ _ => p.ok
  | .mfs p _ _ => p.ok
  | .mts p n _ => p.ok && (decide (n ≠ .evec) && decide (n ≠ .ctxsave))
  | .evecWrite p _ => p.ok
  | .ctxsaveWrite p _ => p.ok
  | .eret p => p.ok
  | .opbnd p => p.ok
  | .defer p => p.ok
  | .undefer p => p.ok
  | .clrsig p _ => p.ok
  | .ctxsv p _ => p.ok
  | .ctxld p _ => p.ok
  | .parkst p _ => p.ok
  | .pend p _ => p.ok
  | .tinst p => p.ok
  | .tvbump p => p.ok
  | .tremove p => p.ok
  | .tquery p => p.ok
  | .s1root p => p.ok
  | .tlbinv p => p.ok
  | .regquery p => p.ok
  | .partquery p => p.ok
  | .greset p => p.ok
  | .scrubreq p => p.ok
  | .recquery p => p.ok
  | .vadd _ => true
  | .vsub _ => true
  | .vmul _ => true
  | .vfma _ => true
  | .vmin _ => true
  | .vmax _ => true
  | .vabs _ => true
  | .vneg _ => true
  | .vand _ => true
  | .vor _ => true
  | .vxor _ => true
  | .vshl _ => true
  | .vshr _ => true
  | .vsra _ => true
  | .vsel _ => true
  | .vcmp _ => true
  | .vclamp _ => true
  | .vscale _ => true
  | .vmov _ => true
  | .vbcast _ => true
  | .vexp2 _ => true
  | .vlog2 _ => true
  | .vrcp _ => true
  | .vrsq _ => true
  | .vsqrt _ => true
  | .vtanh _ => true
  | .vcvt _ => true
  | .vquant _ => true
  | .vdeq _ => true
  | .vrand _ => true
  | .vredsum _ => true
  | .vredmax _ => true
  | .vredmin _ => true
  | .vscan _ => true
  | .vany _ => true
  | .vcnt _ => true
  | .vzip2 _ => true
  | .vzip3 _ => true
  | .vzip4 _ => true
  | .vunzip2 _ => true
  | .vunzip3 _ => true
  | .vunzip4 _ => true
  | .vperm _ => true
  | .vgather _ => true
  | .vscatter _ => true
  | .vpart _ => true
  | .vldp _ => true
  | .vstp _ => true
  | .viota _ => true
  | .vzero _ => true
  | .vbump _ => true
  | .vtype _ => true
  | .mma _ => true
  | .mmaz _ => true
  | .mmas _ => true
  | .mmat _ => true
  | .mret _ => true
  | .mzero _ => true
  | .cpin _ => true
  | .cpina _ => true
  | .gathin _ => true
  | .fill _ => true
  | .cploc _ => true
  | .pfin _ => true
  | .cpout _ => true
  | .scatout _ => true
  | .cpouta _ => true
  | .cprem _ => true
  | .tx _ => true
  | .muxsel _ => true
  | .xhold _ => true
  | .xend _ => true
  | .ladd d a b => (slWrite d && slRead a && slRead b)
  | .lsub d a b => (slWrite d && slRead a && slRead b)
  | .land d a b => (slWrite d && slRead a && slRead b)
  | .lor d a b => (slWrite d && slRead a && slRead b)
  | .lxor d a b => (slWrite d && slRead a && slRead b)
  | .lmin d a b => (slWrite d && slRead a && slRead b)
  | .lmax d a b => (slWrite d && slRead a && slRead b)
  | .lminu d a b => (slWrite d && slRead a && slRead b)
  | .lmaxu d a b => (slWrite d && slRead a && slRead b)
  | .lshl d a b => (slWrite d && slRead a && slRead b)
  | .lshr d a b => (slWrite d && slRead a && slRead b)
  | .lcmp a b cc => (slRead a && slRead b && decide (cc.toNat ≤ 9))
  | .lsel d a b => (slWrite d && slRead a && slRead b)
  | .lmov d a => (slWrite d && slRead a)
  | .lmovi d _ => slWrite d
  | .laddf d a b => (slWrite d && slRead a && slRead b)
  | .lins d a pos wm1 => (slWrite d && slRead a && fieldFits pos wm1)
  | .lext d a pos wm1 => (slWrite d && slRead a && fieldFits pos wm1)
  | .lret => true
  | .lfail => true
  | .lnop => true
  | .landing => true
  | .recordStart => true
  | .recordRetirement => true
  | .phaseMarker => true
  | .phaseCompletion => true
  | .sliceInvocation => true
  | .slxReply => true
  | .pageMigration => true
  | .waitRegistration => true
  | .barrierCompletion => true
  | .transferPhaseStart => true
  | .transferPhaseClose => true
  | .trapEntry => true
  | .walkerTake => true
  | .prodNotification => true
  | .dispatch => true
  | .unitResume => true
  | .harvestDeal => true
  | .unpark => true
  | .revocation => true
  | .leaseTermEnd => true
  | .yieldHoldEnd => true
  | .frameStart => true
  | .windowBoundary => true
  | .forcedPreemption => true
  | .defEnd => true
  | .budgetTime => true
  | .intervalBoundary => true
  | .railConfirmed => true
  | .dividerSwitch => true
  | .regulatorRefill => true
  | .regulatorTrip => true
  | .wayReassignment => true
  | .pageWorldChange => true
  | .pendingZeroFill => true
  | .guestReset => true
  | .guestResetDrain => true
  | .scrubSweep => true
  | .retentionEntry => true
  | .retentionExit => true
  | .lockstepMismatch => true
  | .eccError => true
  | .sensorRead => true
  | .railExcursion => true
  | .railHalt => true
  | .watchdog => true
  | .tsync => true
  | .tsynclost => true
  | .gtcslew => true
  | .doorbell => true
  | .blobLoad => true
  | .imageLoad => true
  | .registerWrite => true
  | .elog => true
  | .faultclr => true
  | .statusFrame => true
  | .moduleReset => true
  | .boot => true
  | .functionLevelReset => true
  | .lockInterface => true
  | .getDeviceInterfaceReport => true
  | .startInterface => true
  | .stopInterface => true
  | .getState => true
  | .getMeasurements => true
  | .keyErasure => true
  | .hostCompletion => true
  | .pageRequestResponse => true
  | .pageRequestTimeout => true
  | .accessArrival => true
  | .rootControllerMismatch => true
  | .clockMonitor => true
  | .keySwitch => true
  | .configurationRequest => true
  | .hvc p e => p.ok && !namedService e

end Sys2Proof
end

