-- ==== Sys2Proof/Decode.lean ====
section
/-! DEFINITION. Decode: total on any word, rejecting by name, and the encoder of the same tables
(R30-R39, R70-R72 control words; R40, R41, R47, R77, R78 engine records; R56-R58, R80 slice words). -/

namespace Sys2Proof

/-- Why a word is no instruction (R74, R58). -/
inductive DecErr where
  | illegalOp | reservedField
deriving DecidableEq, Repr

/-! ## Control words -/

/-- The fields of a control word (R30). -/
structure Fields where
  op : BitVec 8
  kn : BitVec 1
  kp : BitVec 3
  sub : BitVec 4
  d : BitVec 6
  a : BitVec 6
  b : BitVec 6
  x : BitVec 30
deriving DecidableEq, Repr

/-- The fields of a word (R30). -/
def unpack (w : Word) : Fields :=
  ⟨w.extractLsb' 56 8, w.extractLsb' 55 1, w.extractLsb' 52 3, w.extractLsb' 48 4, w.extractLsb' 42 6,
   w.extractLsb' 36 6, w.extractLsb' 30 6, w.extractLsb' 0 30⟩

/-- The word of its fields (R30). -/
def pack (f : Fields) : Word := f.op ++ f.kn ++ f.kp ++ f.sub ++ f.d ++ f.a ++ f.b ++ f.x

/-- The predicate field of a word (R31). -/
def Fields.pred (f : Fields) : Pred := ⟨f.kn, f.kp⟩

/-- X of an F-M word (R35). -/
structure XM where
  mode : BitVec 2
  size : BitVec 2
  scale : BitVec 2
  sx : BitVec 1
  scope : BitVec 2
  off : BitVec 21
deriving DecidableEq, Repr

/-- X of an F-M word taken apart (R35). -/
def xm (x : BitVec 30) : XM :=
  ⟨x.extractLsb' 28 2, x.extractLsb' 26 2, x.extractLsb' 24 2, x.extractLsb' 23 1, x.extractLsb' 21 2, x.extractLsb' 0 21⟩

/-- X of an F-M word put together (R35). -/
def packXM (m : XM) : BitVec 30 := m.mode ++ m.size ++ m.scale ++ m.sx ++ m.scope ++ m.off

/-- A one-bit field as a truth value. -/
def bool (b : BitVec 1) : Bool := b == 1

/-- A truth value as a one-bit field. -/
def bit (b : Bool) : BitVec 1 := if b then 1 else 0

/-- Bits [5:3] of a k-register or record-buffer field must be zero (R32). -/
def kOk (r : BitVec 6) : Bool := r.extractLsb' 3 3 == 0

/-- Bits [2:0] of such a field (R32). -/
def k3 (r : BitVec 6) : BitVec 3 := r.extractLsb' 0 3

/-- A k register or record buffer as a field (R32). -/
def k6 (k : BitVec 3) : BitVec 6 := k.setWidth 6

/-- The third source register C, X[29:24] (R33). -/
def cReg (f : Fields) : Reg := f.x.extractLsb' 24 6

/-- X of a word whose only use of it is C (R33). -/
def xC (c : Reg) : BitVec 30 := c ++ (0 : BitVec 24)

/-- X of SLX and SLXN: C and the virtual routine number (R72). -/
def xSl (c : Reg) (vr : BitVec 5) : BitVec 30 := c ++ (0 : BitVec 19) ++ vr

/-- X of RBLD and RBST: the offset in [29:12] and the buffer in [2:0] (R38). -/
def xRb (off : BitVec 18) (n : RbReg) : BitVec 30 := off ++ (0 : BitVec 9) ++ n

/-- SUB of an engine (R38). -/
def Eng.bits : Eng → BitVec 4
  | .ci => 0 | .co => 1 | .mx => 2 | .vx => 3 | .xf => 4

/-- The system registers by number (R76). -/
def SReg.ofNum : Nat → Option SReg
  | 0x000 => some .ctxid | 0x001 => some .prio | 0x002 => some .dmr | 0x003 => some .liveset
  | 0x004 => some .fcr | 0x005 => some .fsr | 0x006 => some .debug
  | 0x008 => some (.pace .ci) | 0x009 => some (.pace .co) | 0x00A => some (.pace .mx)
  | 0x00B => some (.pace .vx) | 0x00C => some (.pace .xf)
  | 0x010 => some .boost | 0x011 => some .boostst
  | 0x020 => some .evec | 0x021 => some .epc | 0x022 => some .efrom | 0x023 => some .ecause
  | 0x024 => some .eaddr | 0x025 => some .einfo | 0x026 => some .estat | 0x027 => some .sscratch
  | 0x040 => some .wftstat | 0x041 => some .wftquota | 0x050 => some .leasest | 0x060 => some .tkcount
  | 0x070 => some .ctxsave | 0x080 => some .tentab | 0x081 => some .tenlim
  | _ => none

/-- The number of a system register (R76), as X of an F-S word (R39). -/
def SReg.num : SReg → BitVec 30
  | .ctxid => 0x000 | .prio => 0x001 | .dmr => 0x002 | .liveset => 0x003
  | .fcr => 0x004 | .fsr => 0x005 | .debug => 0x006
  | .pace .ci => 0x008 | .pace .co => 0x009 | .pace .mx => 0x00A | .pace .vx => 0x00B | .pace .xf => 0x00C
  | .boost => 0x010 | .boostst => 0x011
  | .evec => 0x020 | .epc => 0x021 | .efrom => 0x022 | .ecause => 0x023
  | .eaddr => 0x024 | .einfo => 0x025 | .estat => 0x026 | .sscratch => 0x027
  | .wftstat => 0x040 | .wftquota => 0x041 | .leasest => 0x050 | .tkcount => 0x060
  | .ctxsave => 0x070 | .tentab => 0x080 | .tenlim => 0x081

/-- Whether the fields B, SCALE and OFFSET are as MODE allows (R32, R36). -/
def modeOk (f : Fields) : Bool :=
  let m := xm f.x
  if m.mode == 0 || m.mode == 2 then m.scale == 0 && f.b == 0 else m.off == 0

/-- The addressing mode of an F-M word (R35, R36). -/
def aMode (f : Fields) : AMode :=
  let m := xm f.x
  if m.mode == 0 then .off m.off else if m.mode == 1 then .idx f.b m.scale
  else if m.mode == 2 then .postOff m.off else .postIdx f.b m.scale

/-- The memory operand of an F-M word (R35). -/
def memArg (f : Fields) : MemArg := ⟨f.a, aMode f, f.sub, (xm f.x).size⟩

/-- An instruction whose field checks gave `b`, behind the predicate check (R74, checks 2 and 3). -/
def chk (b : Bool) (f : Fields) (i : Instr) : Except DecErr Instr :=
  if f.pred.ok && b then .ok i else .error .reservedField

def decR3 (k : Pred → Reg → Reg → Reg → Instr) (f : Fields) : Except DecErr Instr :=
  chk (f.sub == 0 && f.x == 0) f (k f.pred f.d f.a f.b)
def decR2 (k : Pred → Reg → Reg → Instr) (f : Fields) : Except DecErr Instr :=
  chk (f.sub == 0 && f.b == 0 && f.x == 0) f (k f.pred f.d f.a)
def decR4 (k : Pred → Reg → Reg → Reg → Reg → Instr) (f : Fields) : Except DecErr Instr :=
  chk (f.sub == 0 && f.x.extractLsb' 0 24 == 0) f (k f.pred f.d f.a f.b (cReg f))
def decImm (k : Pred → Reg → Reg → BitVec 36 → Instr) (f : Fields) : Except DecErr Instr :=
  chk (f.sub == 0) f (k f.pred f.d f.a (f.b ++ f.x))
def decSh (k : Pred → Reg → Reg → BitVec 6 → Instr) (f : Fields) : Except DecErr Instr :=
  chk (f.sub == 0 && f.b == 0 && f.x.extractLsb' 6 24 == 0) f (k f.pred f.d f.a (f.x.extractLsb' 0 6))
def decK3 (k : Pred → KReg → KReg → KReg → Instr) (f : Fields) : Except DecErr Instr :=
  chk (f.sub == 0 && kOk f.d && kOk f.a && kOk f.b && f.x == 0) f (k f.pred (k3 f.d) (k3 f.a) (k3 f.b))
def decR0 (k : Pred → Instr) (f : Fields) : Except DecErr Instr :=
  chk (f.sub == 0 && f.d == 0 && f.a == 0 && f.b == 0 && f.x == 0) f (k f.pred)
def decBr (k : Pred → BitVec 48 → Instr) (f : Fields) : Except DecErr Instr :=
  chk (f.sub == 0) f (k f.pred (f.d ++ f.a ++ f.b ++ f.x))
def decA (k : Pred → Reg → Instr) (f : Fields) : Except DecErr Instr :=
  chk (f.sub == 0 && f.d == 0 && f.b == 0 && f.x == 0) f (k f.pred f.a)
/-- `op gD`; EQPOP's D is even (R72). -/
def decD (k : Pred → Reg → Instr) (f : Fields) : Except DecErr Instr :=
  chk (f.sub == 0 && f.a == 0 && f.b == 0 && f.x == 0 && (k f.pred f.d).wf) f (k f.pred f.d)
/-- SUB of 5-15 names no engine (R38). -/
def decEng (f : Fields) (k : Eng → Except DecErr Instr) : Except DecErr Instr :=
  match Eng.ofCode f.sub.toNat with
  | some e => k e
  | none => .error .reservedField
/-- LEASE and LEASEREL take SUB 0-3 (R71). -/
def decE (k : Pred → Eng → Instr) (f : Fields) : Except DecErr Instr :=
  decEng f fun e => chk (f.d == 0 && f.a == 0 && f.b == 0 && f.x == 0 && (k f.pred e).wf) f (k f.pred e)
def decDE (k : Pred → Reg → Eng → Instr) (f : Fields) : Except DecErr Instr :=
  decEng f fun e => chk (f.a == 0 && f.b == 0 && f.x == 0 && (k f.pred f.d e).wf) f (k f.pred f.d e)
def decSem (k : Pred → BitVec 6 → Reg → Instr) (f : Fields) : Except DecErr Instr :=
  chk (f.sub == 0 && f.d == 0 && f.b == 0 && f.x.extractLsb' 6 24 == 0) f (k f.pred (f.x.extractLsb' 0 6) f.a)
def decLv (k : Pred → BitVec 2 → Instr) (f : Fields) : Except DecErr Instr :=
  chk (f.sub.extractLsb' 2 2 == 0 && f.d == 0 && f.a == 0 && f.b == 0 && f.x == 0) f (k f.pred (f.sub.extractLsb' 0 2))
def decRb (k : Pred → Reg → BitVec 18 → RbReg → Instr) (f : Fields) : Except DecErr Instr :=
  chk (f.sub == 0 && f.d == 0 && f.b == 0 && f.x.extractLsb' 3 9 == 0) f
    (k f.pred f.a (f.x.extractLsb' 12 18) (f.x.extractLsb' 0 3))
def dec16 (k : Pred → BitVec 16 → Instr) (f : Fields) : Except DecErr Instr :=
  chk (f.sub == 0 && f.d == 0 && f.a == 0 && f.b == 0 && f.x.extractLsb' 16 14 == 0) f (k f.pred (f.x.extractLsb' 0 16))

/-- HVC by service number (R409, R436); any other number is the row HVC (R408). -/
def service (p : Pred) (e : BitVec 16) : Instr :=
  match e.toNat with
  | 0x100 => .tinst p
  | 0x101 => .tvbump p
  | 0x102 => .tremove p
  | 0x103 => .tquery p
  | 0x110 => .s1root p
  | 0x111 => .tlbinv p
  | 0x120 => .regquery p
  | 0x121 => .partquery p
  | 0x130 => .greset p
  | 0x140 => .scrubreq p
  | 0x141 => .recquery p
  | _ => .hvc p e

/-- MTS by register: EVEC and CTXSAVE are rows of their own. -/
def mtsOf (p : Pred) (r : SReg) (a : Reg) : Instr :=
  match r with
  | .evec => .evecWrite p a
  | .ctxsave => .ctxsaveWrite p a
  | r => .mts p r a

/-- Checks 1 to 3 of R74, in their order: the opcode grid of R70 and the field rules of R31-R39, R71, R72. -/
def decodeFields (f : Fields) : Except DecErr Instr :=
  match f.op.toNat with
  | 0x01 => decR3 .add f
  | 0x02 => decR3 .sub f
  | 0x03 => decR3 .mul f
  | 0x04 => decR3 .mulh f
  | 0x05 => decR3 .mulhu f
  | 0x06 => decR3 .div f
  | 0x07 => decR3 .divu f
  | 0x08 => decR3 .rem f
  | 0x09 => decR3 .remu f
  | 0x0A => decR3 .and f
  | 0x0B => decR3 .or f
  | 0x0C => decR3 .xor f
  | 0x0D => decR3 .andn f
  | 0x0E => decR3 .shl f
  | 0x0F => decR3 .shr f
  | 0x10 => decR3 .sra f
  | 0x11 => decR3 .rol f
  | 0x12 => decR3 .min f
  | 0x13 => decR3 .max f
  | 0x14 => decR3 .minu f
  | 0x15 => decR3 .maxu f
  | 0x16 => decR2 .clz f
  | 0x17 => decR2 .ctz f
  | 0x18 => decR2 .popc f
  | 0x19 => decR2 .brev f
  | 0x1A => decR3 .sext f
  | 0x1B => decR3 .zext f
  | 0x1C => decR4 .sel f
  | 0x1D => decR4 .lea f
  | 0x20 => decImm .addi f
  | 0x21 => decImm .andi f
  | 0x22 => decImm .ori f
  | 0x23 => decImm .xori f
  | 0x24 => decSh .shli f
  | 0x25 => decSh .shri f
  | 0x26 => decSh .srai f
  | 0x27 => chk (f.sub == 0) f (.movi f.pred f.d (f.a ++ f.b ++ f.x))
  | 0x28 => chk (f.sub == 0 && f.a == 0 && f.b == 0 && f.x.extractLsb' 22 8 == 0) f (.movhi f.pred f.d (f.x.extractLsb' 0 22))
  | 0x29 => decImm .muli f
  | 0x2A => chk (f.sub == 0 && kOk f.a && f.b == 0 && f.x == 0) f (.kget f.pred f.d (k3 f.a))
  | 0x30 => chk (decide (f.sub.toNat ≤ 9) && kOk f.d && f.x == 0) f (.cmp f.pred f.sub (k3 f.d) f.a f.b)
  | 0x31 => chk (decide (f.sub.toNat ≤ 9) && kOk f.d) f (.cmpi f.pred f.sub (k3 f.d) f.a (f.b ++ f.x))
  | 0x32 => chk (decide (f.sub.toNat ≤ 7) && kOk f.d && f.x == 0) f (.fcmp f.pred f.sub (k3 f.d) f.a f.b)
  | 0x33 => decK3 .kand f
  | 0x34 => decK3 .kor f
  | 0x35 => decK3 .kxor f
  | 0x36 => chk (f.sub == 0 && kOk f.d && kOk f.a && f.b == 0 && f.x == 0) f (.knot f.pred (k3 f.d) (k3 f.a))
  | 0x37 => chk (f.sub == 0 && kOk f.d && f.b == 0 && f.x == 0) f (.kset f.pred (k3 f.d) f.a)
  | 0x38 => decR3 .fadd f
  | 0x39 => decR3 .fsub f
  | 0x3A => decR3 .fmul f
  | 0x3B => decR4 .ffma f
  | 0x3C => decR3 .fmin f
  | 0x3D => decR3 .fmax f
  | 0x3E => decR2 .fabs f
  | 0x3F => decR2 .fneg f
  | 0x40 => chk (f.sub == 0 && f.x == 0 && f.b.extractLsb' 5 1 == 0 && f.b.extractLsb' 0 4 != 0 && f.b.extractLsb' 0 4 != 15) f
      (.fcvt f.pred f.d f.a (f.b.extractLsb' 0 4) (f.b.extractLsb' 4 1 == 1))
  | 0x41 => decR2 .fexp2 f
  | 0x42 => decR2 .flog2 f
  | 0x43 => decR2 .frcp f
  | 0x44 => decR2 .frsq f
  | 0x45 => decR2 .fsqrt f
  | 0x48 => chk (modeOk f && signOk (xm f.x).size (bool (xm f.x).sx) && (xm f.x).scope == 0) f
      (.ld f.pred f.d (memArg f) (bool (xm f.x).sx))
  | 0x49 => chk (modeOk f && (xm f.x).sx == 0 && (xm f.x).scope == 0) f (.st f.pred f.d (memArg f))
  | 0x4A => chk (f.sub == 0 && modeOk f && signOk (xm f.x).size (bool (xm f.x).sx) && (xm f.x).scope == 0) f
      (.ldp f.pred f.d f.a (aMode f) (xm f.x).size (bool (xm f.x).sx))
  | 0x4B => chk (f.sub == 0 && modeOk f && (xm f.x).sx == 0 && (xm f.x).scope == 0) f (.stp f.pred f.d f.a (aMode f) (xm f.x).size)
  | 0x4C => chk (modeOk f && signOk (xm f.x).size (bool (xm f.x).sx)) f
      (.ldAcq f.pred f.d (memArg f) (bool (xm f.x).sx) (xm f.x).scope)
  | 0x4D => chk (modeOk f && (xm f.x).sx == 0) f (.stRel f.pred f.d (memArg f) (xm f.x).scope)
  | 0x4E => chk (modeOk f && f.d == 0 && (xm f.x).size == 0 && (xm f.x).sx == 0 && (xm f.x).scope == 0) f (.pf f.pred f.a (aMode f) f.sub)
  | 0x4F => chk (f.sub == 0 && f.d == 0 && f.a == 0 && f.b == 0 && (xm f.x).mode == 0 && (xm f.x).size == 0 && (xm f.x).scale == 0
      && (xm f.x).sx == 0 && f.x.extractLsb' 16 5 == 0 && f.x.extractLsb' 0 16 != 0) f
      (.fence f.pred (f.x.extractLsb' 0 16) (xm f.x).scope)
  | 0x50 => chk (f.x.extractLsb' 5 19 == 0) f (.slx f.pred f.sub f.d f.a f.b (cReg f) (f.x.extractLsb' 0 5))
  | 0x51 => chk (f.d == 0 && f.x.extractLsb' 5 19 == 0) f (.slxn f.pred f.sub f.a f.b (cReg f) (f.x.extractLsb' 0 5))
  | 0x52 => decR3 .rtinst f
  | 0x53 => decR3 .rtmap f
  | 0x54 => decD .eqpop f
  | 0x55 => decR0 .wfe f
  | 0x58 => decBr .br f
  | 0x59 => decBr .bcq f
  | 0x5A => decA .jr f
  | 0x5B => decBr .call f
  | 0x5C => decA .callr f
  | 0x5D => decR0 .ret f
  | 0x5E => chk (f.sub.extractLsb' 1 3 == 0 && f.d == 0 && decide (1 ≤ (f.b ++ f.x).toInt)) f
      (.loop f.pred (f.sub.extractLsb' 0 1) f.a (f.b ++ f.x))
  | 0x5F => dec16 .nop f
  | 0x60 => dec16 .trap f
  | 0x61 => decR0 .yield f
  | 0x62 => decR0 .endUnit f
  | 0x64 => decRb .rbld f
  | 0x65 => decRb .rbst f
  | 0x66 => chk (f.sub == 0 && kOk f.d && f.b == 0 && f.x.extractLsb' 6 24 == 0 && fieldIdOk (f.x.extractLsb' 0 6)) f
      (.rbset f.pred (k3 f.d) f.a (f.x.extractLsb' 0 6))
  | 0x67 => chk (f.sub == 0 && kOk f.a && f.b == 0 && f.x.extractLsb' 6 24 == 0 && fieldIdOk (f.x.extractLsb' 0 6)) f
      (.rbget f.pred f.d (k3 f.a) (f.x.extractLsb' 0 6))
  | 0x68 => decEng f fun e =>
      chk (f.d == 0 && f.a == 0 && f.b == 0 && f.x.extractLsb' 3 27 == 0) f (.enq f.pred e (f.x.extractLsb' 0 3))
  | 0x69 => decE .tkpost f
  | 0x6A => decE .tkwait f
  | 0x6B => decDE .tkpoll f
  | 0x6C => decSem .seminc f
  | 0x6D => decSem .semwait f
  | 0x6E => decSem .semmap f
  | 0x6F => decE .qdrain f
  | 0x70 => chk (f.sub == 0 && f.a == 0 && f.b == 0 && f.x.extractLsb' 6 24 == 0 && decide ((f.x.extractLsb' 0 6).toNat ≤ 11)) f
      (.accver f.pred f.d (f.x.extractLsb' 0 6))
  | 0x71 => decR2 .woreg f
  | 0x72 => decA .wodereg f
  | 0x73 => decR2 .wohold f
  | 0x74 => decA .worel f
  | 0x75 => decA .wowait f
  | 0x76 => decR2 .wopoll f
  | 0x77 => decLv .bar f
  | 0x78 => decLv .barxf f
  | 0x79 => decDE .lease f
  | 0x7A => decE .leaserel f
  | 0x7B => decA .lend f
  | 0x7C => decR0 .recall f
  | 0x7D => decR0 .rsmark f
  | 0x7E => decD .gtcrd f
  | 0x7F => decR3 .rng f
  | 0x80 => match SReg.ofNum (f.x.extractLsb' 0 12).toNat with
    | some r => chk (f.sub == 0 && f.a == 0 && f.b == 0 && f.x.extractLsb' 12 18 == 0) f (.mfs f.pred f.d r)
    | none => .error .reservedField
  | 0x81 => match SReg.ofNum (f.x.extractLsb' 0 12).toNat with
    | some r => chk (f.sub == 0 && f.d == 0 && f.b == 0 && f.x.extractLsb' 12 18 == 0) f (mtsOf f.pred r f.a)
    | none => .error .reservedField
  | 0x82 => dec16 service f
  | 0x83 => decR0 .eret f
  | 0x84 => decR0 .opbnd f
  | 0x85 => decR0 .defer f
  | 0x86 => decR0 .undefer f
  | 0x87 => decD .clrsig f
  | 0x88 => decA .ctxsv f
  | 0x89 => decA .ctxld f
  | 0x8A => decD .parkst f
  | 0x8B => decD .pend f
  | _ => .error .illegalOp

/-- A control word decoded (R74, checks 1 to 3). -/
def decodeCtl (w : Word) : Except DecErr Instr := decodeFields (unpack w)

def encR (o : BitVec 8) (p : Pred) (sub : BitVec 4) (d a b : BitVec 6) (x : BitVec 30) : Fields := ⟨o, p.kn, p.kp, sub, d, a, b, x⟩
/-- imm36 = B, X (R34). -/
def encI (o : BitVec 8) (p : Pred) (sub : BitVec 4) (d a : BitVec 6) (i : BitVec 36) : Fields :=
  encR o p sub d a (i.extractLsb' 30 6) (i.extractLsb' 0 30)
/-- offset48 = D, A, B, X (R37). -/
def encB (o : BitVec 8) (p : Pred) (off : BitVec 48) : Fields :=
  encR o p 0 (off.extractLsb' 42 6) (off.extractLsb' 36 6) (off.extractLsb' 30 6) (off.extractLsb' 0 30)
/-- An F-M word (R35). -/
def encM (o : BitVec 8) (p : Pred) (cls : BitVec 4) (d a : BitVec 6) (m : AMode) (size : BitVec 2) (sx : BitVec 1)
    (scope : BitVec 2) : Fields :=
  match m with
  | .off off => encR o p cls d a 0 (packXM ⟨0, size, 0, sx, scope, off⟩)
  | .idx b sc => encR o p cls d a b (packXM ⟨1, size, sc, sx, scope, 0⟩)
  | .postOff off => encR o p cls d a 0 (packXM ⟨2, size, 0, sx, scope, off⟩)
  | .postIdx b sc => encR o p cls d a b (packXM ⟨3, size, sc, sx, scope, 0⟩)

/-- The fields of a control instruction (R70-R72). -/
def encodeFields : Instr → Option Fields
  | .add p d a b => some (encR 0x01 p 0 d a b 0)
  | .sub p d a b => some (encR 0x02 p 0 d a b 0)
  | .mul p d a b => some (encR 0x03 p 0 d a b 0)
  | .mulh p d a b => some (encR 0x04 p 0 d a b 0)
  | .mulhu p d a b => some (encR 0x05 p 0 d a b 0)
  | .div p d a b => some (encR 0x06 p 0 d a b 0)
  | .divu p d a b => some (encR 0x07 p 0 d a b 0)
  | .rem p d a b => some (encR 0x08 p 0 d a b 0)
  | .remu p d a b => some (encR 0x09 p 0 d a b 0)
  | .and p d a b => some (encR 0x0A p 0 d a b 0)
  | .or p d a b => some (encR 0x0B p 0 d a b 0)
  | .xor p d a b => some (encR 0x0C p 0 d a b 0)
  | .andn p d a b => some (encR 0x0D p 0 d a b 0)
  | .shl p d a b => some (encR 0x0E p 0 d a b 0)
  | .shr p d a b => some (encR 0x0F p 0 d a b 0)
  | .sra p d a b => some (encR 0x10 p 0 d a b 0)
  | .rol p d a b => some (encR 0x11 p 0 d a b 0)
  | .min p d a b => some (encR 0x12 p 0 d a b 0)
  | .max p d a b => some (encR 0x13 p 0 d a b 0)
  | .minu p d a b => some (encR 0x14 p 0 d a b 0)
  | .maxu p d a b => some (encR 0x15 p 0 d a b 0)
  | .clz p d a => some (encR 0x16 p 0 d a 0 0)
  | .ctz p d a => some (encR 0x17 p 0 d a 0 0)
  | .popc p d a => some (encR 0x18 p 0 d a 0 0)
  | .brev p d a => some (encR 0x19 p 0 d a 0 0)
  | .sext p d a b => some (encR 0x1A p 0 d a b 0)
  | .zext p d a b => some (encR 0x1B p 0 d a b 0)
  | .sel p d a b c => some (encR 0x1C p 0 d a b (xC c))
  | .lea p d a b c => some (encR 0x1D p 0 d a b (xC c))
  | .addi p d a i => some (encI 0x20 p 0 d a i)
  | .andi p d a i => some (encI 0x21 p 0 d a i)
  | .ori p d a i => some (encI 0x22 p 0 d a i)
  | .xori p d a i => some (encI 0x23 p 0 d a i)
  | .shli p d a n => some (encI 0x24 p 0 d a (n.setWidth 36))
  | .shri p d a n => some (encI 0x25 p 0 d a (n.setWidth 36))
  | .srai p d a n => some (encI 0x26 p 0 d a (n.setWidth 36))
  | .movi p d i => some (encR 0x27 p 0 d (i.extractLsb' 36 6) (i.extractLsb' 30 6) (i.extractLsb' 0 30))
  | .movhi p d i => some (encR 0x28 p 0 d 0 0 (i.setWidth 30))
  | .muli p d a i => some (encI 0x29 p 0 d a i)
  | .kget p d a => some (encR 0x2A p 0 d (k6 a) 0 0)
  | .cmp p cc d a b => some (encR 0x30 p cc (k6 d) a b 0)
  | .cmpi p cc d a i => some (encI 0x31 p cc (k6 d) a i)
  | .fcmp p cc d a b => some (encR 0x32 p cc (k6 d) a b 0)
  | .kand p d a b => some (encR 0x33 p 0 (k6 d) (k6 a) (k6 b) 0)
  | .kor p d a b => some (encR 0x34 p 0 (k6 d) (k6 a) (k6 b) 0)
  | .kxor p d a b => some (encR 0x35 p 0 (k6 d) (k6 a) (k6 b) 0)
  | .knot p d a => some (encR 0x36 p 0 (k6 d) (k6 a) 0 0)
  | .kset p d a => some (encR 0x37 p 0 (k6 d) a 0 0)
  | .fadd p d a b => some (encR 0x38 p 0 d a b 0)
  | .fsub p d a b => some (encR 0x39 p 0 d a b 0)
  | .fmul p d a b => some (encR 0x3A p 0 d a b 0)
  | .ffma p d a b c => some (encR 0x3B p 0 d a b (xC c))
  | .fmin p d a b => some (encR 0x3C p 0 d a b 0)
  | .fmax p d a b => some (encR 0x3D p 0 d a b 0)
  | .fabs p d a => some (encR 0x3E p 0 d a 0 0)
  | .fneg p d a => some (encR 0x3F p 0 d a 0 0)
  | .fcvt p d a ty dir => some (encR 0x40 p 0 d a ((0 : BitVec 1) ++ (bit dir) ++ ty) 0)
  | .fexp2 p d a => some (encR 0x41 p 0 d a 0 0)
  | .flog2 p d a => some (encR 0x42 p 0 d a 0 0)
  | .frcp p d a => some (encR 0x43 p 0 d a 0 0)
  | .frsq p d a => some (encR 0x44 p 0 d a 0 0)
  | .fsqrt p d a => some (encR 0x45 p 0 d a 0 0)
  | .ld p d m sx => some (encM 0x48 p m.cls d m.base m.mode m.size (bit sx) 0)
  | .st p d m => some (encM 0x49 p m.cls d m.base m.mode m.size 0 0)
  | .ldp p d a m sz sx => some (encM 0x4A p 0 d a m sz (bit sx) 0)
  | .stp p d a m sz => some (encM 0x4B p 0 d a m sz 0 0)
  | .ldAcq p d m sx sc => some (encM 0x4C p m.cls d m.base m.mode m.size (bit sx) sc)
  | .stRel p d m sc => some (encM 0x4D p m.cls d m.base m.mode m.size 0 sc)
  | .pf p a m c => some (encM 0x4E p c 0 a m 0 0 0)
  | .fence p m sc => some (encR 0x4F p 0 0 0 0 ((0 : BitVec 7) ++ sc ++ (0 : BitVec 5) ++ m))
  | .slx p cl d a b c v => some (encR 0x50 p cl d a b (xSl c v))
  | .slxn p cl a b c v => some (encR 0x51 p cl 0 a b (xSl c v))
  | .rtinst p d a b => some (encR 0x52 p 0 d a b 0)
  | .rtmap p d a b => some (encR 0x53 p 0 d a b 0)
  | .eqpop p d => some (encR 0x54 p 0 d 0 0 0)
  | .wfe p => some (encR 0x55 p 0 0 0 0 0)
  | .br p off => some (encB 0x58 p off)
  | .bcq p off => some (encB 0x59 p off)
  | .jr p a => some (encR 0x5A p 0 0 a 0 0)
  | .call p off => some (encB 0x5B p off)
  | .callr p a => some (encR 0x5C p 0 0 a 0 0)
  | .ret p => some (encR 0x5D p 0 0 0 0 0)
  | .loop p l a off => some (encI 0x5E p (l.setWidth 4) 0 a off)
  | .nop p n => some (encR 0x5F p 0 0 0 0 (n.setWidth 30))
  | .trap p n => some (encR 0x60 p 0 0 0 0 (n.setWidth 30))
  | .yield p => some (encR 0x61 p 0 0 0 0 0)
  | .endUnit p => some (encR 0x62 p 0 0 0 0 0)
  | .rbld p a off n => some (encR 0x64 p 0 0 a 0 (xRb off n))
  | .rbst p a off n => some (encR 0x65 p 0 0 a 0 (xRb off n))
  | .rbset p n a i => some (encR 0x66 p 0 (k6 n) a 0 (i.setWidth 30))
  | .rbget p d n i => some (encR 0x67 p 0 d (k6 n) 0 (i.setWidth 30))
  | .enq p e n => some (encR 0x68 p e.bits 0 0 0 (n.setWidth 30))
  | .tkpost p e => some (encR 0x69 p e.bits 0 0 0 0)
  | .tkwait p e => some (encR 0x6A p e.bits 0 0 0 0)
  | .tkpoll p d e => some (encR 0x6B p e.bits d 0 0 0)
  | .seminc p n a => some (encR 0x6C p 0 0 a 0 (n.setWidth 30))
  | .semwait p n a => some (encR 0x6D p 0 0 a 0 (n.setWidth 30))
  | .semmap p n a => some (encR 0x6E p 0 0 a 0 (n.setWidth 30))
  | .qdrain p e => some (encR 0x6F p e.bits 0 0 0 0)
  | .accver p d t => some (encR 0x70 p 0 d 0 0 (t.setWidth 30))
  | .woreg p d a => some (encR 0x71 p 0 d a 0 0)
  | .wodereg p a => some (encR 0x72 p 0 0 a 0 0)
  | .wohold p d a => some (encR 0x73 p 0 d a 0 0)
  | .worel p a => some (encR 0x74 p 0 0 a 0 0)
  | .wowait p a => some (encR 0x75 p 0 0 a 0 0)
  | .wopoll p d a => some (encR 0x76 p 0 d a 0 0)
  | .bar p l => some (encR 0x77 p (l.setWidth 4) 0 0 0 0)
  | .barxf p l => some (encR 0x78 p (l.setWidth 4) 0 0 0 0)
  | .lease p d e => some (encR 0x79 p e.bits d 0 0 0)
  | .leaserel p e => some (encR 0x7A p e.bits 0 0 0 0)
  | .lend p a => some (encR 0x7B p 0 0 a 0 0)
  | .recall p => some (encR 0x7C p 0 0 0 0 0)
  | .rsmark p => some (encR 0x7D p 0 0 0 0 0)
  | .gtcrd p d => some (encR 0x7E p 0 d 0 0 0)
  | .rng p d a b => some (encR 0x7F p 0 d a b 0)
  | .mfs p d r => some (encR 0x80 p 0 d 0 0 r.num)
  | .mts p r a => some (encR 0x81 p 0 0 a 0 r.num)
  | .evecWrite p a => some (encR 0x81 p 0 0 a 0 0x020)
  | .ctxsaveWrite p a => some (encR 0x81 p 0 0 a 0 0x070)
  | .eret p => some (encR 0x83 p 0 0 0 0 0)
  | .opbnd p => some (encR 0x84 p 0 0 0 0 0)
  | .defer p => some (encR 0x85 p 0 0 0 0 0)
  | .undefer p => some (encR 0x86 p 0 0 0 0 0)
  | .clrsig p d => some (encR 0x87 p 0 d 0 0 0)
  | .ctxsv p a => some (encR 0x88 p 0 0 a 0 0)
  | .ctxld p a => some (encR 0x89 p 0 0 a 0 0)
  | .parkst p d => some (encR 0x8A p 0 d 0 0 0)
  | .pend p d => some (encR 0x8B p 0 d 0 0 0)
  | .tinst p => some (encR 0x82 p 0 0 0 0 0x100)
  | .tvbump p => some (encR 0x82 p 0 0 0 0 0x101)
  | .tremove p => some (encR 0x82 p 0 0 0 0 0x102)
  | .tquery p => some (encR 0x82 p 0 0 0 0 0x103)
  | .s1root p => some (encR 0x82 p 0 0 0 0 0x110)
  | .tlbinv p => some (encR 0x82 p 0 0 0 0 0x111)
  | .regquery p => some (encR 0x82 p 0 0 0 0 0x120)
  | .partquery p => some (encR 0x82 p 0 0 0 0 0x121)
  | .greset p => some (encR 0x82 p 0 0 0 0 0x130)
  | .scrubreq p => some (encR 0x82 p 0 0 0 0 0x140)
  | .recquery p => some (encR 0x82 p 0 0 0 0 0x141)
  | .hvc p n => some (encR 0x82 p 0 0 0 0 (n.setWidth 30))
  | _ => none

/-- The word of a control instruction. -/
def encodeCtl (i : Instr) : Option Word := (encodeFields i).map pack

/-! ## Slice words -/

/-- The fields of a slice word (R56). -/
structure SlFields where
  op : BitVec 6
  dst : BitVec 5
  a : BitVec 5
  b : BitVec 5
  imm : BitVec 11
deriving DecidableEq, Repr

/-- The fields of a slice word (R56). -/
def unpackSl (w : BitVec 32) : SlFields :=
  ⟨w.extractLsb' 26 6, w.extractLsb' 21 5, w.extractLsb' 16 5, w.extractLsb' 11 5, w.extractLsb' 0 11⟩

/-- A slice word of its fields (R56). -/
def packSl (op : BitVec 6) (dst a b : BitVec 5) (imm : BitVec 11) : BitVec 32 := op ++ dst ++ a ++ b ++ imm

def slChk (b : Bool) (i : Instr) : Except DecErr Instr := if b then .ok i else .error .reservedField
def sl3 (k : SlReg → SlReg → SlReg → Instr) (g : SlFields) : Except DecErr Instr :=
  slChk (slWrite g.dst && slRead g.a && slRead g.b && g.imm == 0) (k g.dst g.a g.b)
/-- LINS and LEXT: width - 1 is split over b[0] and imm11[10:6] (R80). -/
def slField (k : SlReg → SlReg → BitVec 6 → BitVec 6 → Instr) (g : SlFields) : Except DecErr Instr :=
  let wm1 : BitVec 6 := g.b.extractLsb' 0 1 ++ g.imm.extractLsb' 6 5
  let pos : BitVec 6 := g.imm.extractLsb' 0 6
  slChk (slWrite g.dst && slRead g.a && g.b.extractLsb' 1 4 == 0 && fieldFits pos wm1) (k g.dst g.a pos wm1)

def decodeSlFields (g : SlFields) : Except DecErr Instr :=
  match g.op.toNat with
  | 0x01 => sl3 .ladd g
  | 0x02 => sl3 .lsub g
  | 0x03 => sl3 .land g
  | 0x04 => sl3 .lor g
  | 0x05 => sl3 .lxor g
  | 0x06 => sl3 .lmin g
  | 0x07 => sl3 .lmax g
  | 0x08 => sl3 .lminu g
  | 0x09 => sl3 .lmaxu g
  | 0x0A => sl3 .lshl g
  | 0x0B => sl3 .lshr g
  | 0x0C => slChk (g.dst == 0 && slRead g.a && slRead g.b && g.imm.extractLsb' 4 7 == 0 && decide ((g.imm.extractLsb' 0 4).toNat ≤ 9))
      (.lcmp g.a g.b (g.imm.extractLsb' 0 4))
  | 0x0D => sl3 .lsel g
  | 0x0E => slChk (slWrite g.dst && slRead g.a && g.b == 0 && g.imm == 0) (.lmov g.dst g.a)
  | 0x0F => slChk (slWrite g.dst && g.a == 0 && g.b == 0) (.lmovi g.dst g.imm)
  | 0x10 => sl3 .laddf g
  | 0x11 => slField .lins g
  | 0x12 => slField .lext g
  | 0x13 => slChk (g.dst == 0 && g.a == 0 && g.b == 0 && g.imm == 0) .lret
  | 0x14 => slChk (g.dst == 0 && g.a == 0 && g.b == 0 && g.imm == 0) .lfail
  | 0x15 => slChk (g.dst == 0 && g.a == 0 && g.b == 0 && g.imm == 0) .lnop
  | _ => .error .illegalOp

/-- A slice word decoded, with every check of R58 and R80. -/
def decodeSl (w : BitVec 32) : Except DecErr Instr := decodeSlFields (unpackSl w)

/-- The word of a slice instruction (R80). -/
def encodeSl : Instr → Option (BitVec 32)
  | .ladd d a b => some (packSl 0x01 d a b 0)
  | .lsub d a b => some (packSl 0x02 d a b 0)
  | .land d a b => some (packSl 0x03 d a b 0)
  | .lor d a b => some (packSl 0x04 d a b 0)
  | .lxor d a b => some (packSl 0x05 d a b 0)
  | .lmin d a b => some (packSl 0x06 d a b 0)
  | .lmax d a b => some (packSl 0x07 d a b 0)
  | .lminu d a b => some (packSl 0x08 d a b 0)
  | .lmaxu d a b => some (packSl 0x09 d a b 0)
  | .lshl d a b => some (packSl 0x0A d a b 0)
  | .lshr d a b => some (packSl 0x0B d a b 0)
  | .lcmp a b cc => some (packSl 0x0C 0 a b (cc.setWidth 11))
  | .lsel d a b => some (packSl 0x0D d a b 0)
  | .lmov d a => some (packSl 0x0E d a 0 0)
  | .lmovi d i => some (packSl 0x0F d 0 0 i)
  | .laddf d a b => some (packSl 0x10 d a b 0)
  | .lins d a pos wm1 => some (packSl 0x11 d a ((wm1.extractLsb' 5 1).setWidth 5) ((wm1.extractLsb' 0 5) ++ pos))
  | .lext d a pos wm1 => some (packSl 0x12 d a ((wm1.extractLsb' 5 1).setWidth 5) ((wm1.extractLsb' 0 5) ++ pos))
  | .lret => some (packSl 0x13 0 0 0 0)
  | .lfail => some (packSl 0x14 0 0 0 0)
  | .lnop => some (packSl 0x15 0 0 0 0)
  | _ => none

/-! ## Engine records -/

/-- A descriptor of 128 bits (R47). -/
def unpackDesc (x : BitVec 128) : Desc :=
  ⟨x.extractLsb' 96 32, x.extractLsb' 72 24, x.extractLsb' 48 24, x.extractLsb' 24 24, x.extractLsb' 0 24⟩

/-- The 128 bits of a descriptor (R47). -/
def packDesc (d : Desc) : BitVec 128 := d.base ++ d.s0 ++ d.s1 ++ d.s2 ++ d.s3

/-- The fields of a record but for OPC (R40, R41). -/
def unpackRec (w : BitVec 512) : EngRec :=
  ⟨w.extractLsb' 52 4, w.extractLsb' 48 4, w.extractLsb' 45 3, w.extractLsb' 44 1, w.extractLsb' 40 4, w.extractLsb' 36 4,
   w.extractLsb' 33 3, w.extractLsb' 32 1, w.extractLsb' 28 4, w.extractLsb' 20 8, w.extractLsb' 19 1, w.extractLsb' 18 1,
   w.extractLsb' 17 1, w.extractLsb' 16 1, w.extractLsb' 0 16, w.extractLsb' 64 16, w.extractLsb' 80 16, w.extractLsb' 96 16,
   w.extractLsb' 112 16, unpackDesc (w.extractLsb' 128 128), unpackDesc (w.extractLsb' 256 128),
   unpackDesc (w.extractLsb' 384 128)⟩

/-- OPC of a record (R41). -/
def recOpc (w : BitVec 512) : BitVec 8 := w.extractLsb' 56 8

/-- The 512 bits of a record (R40, R41). Code POSTEN, POSTP is bits 35:33 (R43). -/
def packRec (opc : BitVec 8) (r : EngRec) : BitVec 512 :=
  packDesc r.s2 ++ packDesc r.s1 ++ packDesc r.d ++ r.trip3 ++ r.trip2 ++ r.trip1 ++ r.trip0
    ++ opc ++ r.dtype ++ r.stype ++ r.rnd ++ r.sat ++ r.cls ++ r.wait ++ r.post ++ r.ev ++ r.tile ++ r.ver
    ++ r.vchk ++ r.bump ++ r.s2imm ++ r.mbz ++ r.aux

/-- The operation of an OPC in the table of the executing engine (R42, R77, R78). -/
def recordCtor (e : Eng) (opc : Nat) : Option (EngRec → Instr) :=
  match e with
  | .vx => match opc with
    | 0x01 => some .vadd
    | 0x02 => some .vsub
    | 0x03 => some .vmul
    | 0x04 => some .vfma
    | 0x05 => some .vmin
    | 0x06 => some .vmax
    | 0x07 => some .vabs
    | 0x08 => some .vneg
    | 0x09 => some .vand
    | 0x0A => some .vor
    | 0x0B => some .vxor
    | 0x0C => some .vshl
    | 0x0D => some .vshr
    | 0x0E => some .vsra
    | 0x0F => some .vsel
    | 0x10 => some .vcmp
    | 0x11 => some .vclamp
    | 0x12 => some .vscale
    | 0x13 => some .vmov
    | 0x14 => some .vbcast
    | 0x18 => some .vexp2
    | 0x19 => some .vlog2
    | 0x1A => some .vrcp
    | 0x1B => some .vrsq
    | 0x1C => some .vsqrt
    | 0x1D => some .vtanh
    | 0x20 => some .vcvt
    | 0x21 => some .vquant
    | 0x22 => some .vdeq
    | 0x23 => some .vrand
    | 0x28 => some .vredsum
    | 0x29 => some .vredmax
    | 0x2A => some .vredmin
    | 0x2B => some .vscan
    | 0x2C => some .vany
    | 0x2D => some .vcnt
    | 0x30 => some .vzip2
    | 0x31 => some .vzip3
    | 0x32 => some .vzip4
    | 0x33 => some .vunzip2
    | 0x34 => some .vunzip3
    | 0x35 => some .vunzip4
    | 0x36 => some .vperm
    | 0x37 => some .vgather
    | 0x38 => some .vscatter
    | 0x39 => some .vpart
    | 0x3C => some .vldp
    | 0x3D => some .vstp
    | 0x3E => some .viota
    | 0x3F => some .vzero
    | 0x40 => some .vbump
    | 0x41 => some .vtype
    | _ => none
  | .mx => match opc with
    | 0x01 => some .mma
    | 0x02 => some .mmaz
    | 0x03 => some .mmas
    | 0x04 => some .mmat
    | 0x05 => some .mret
    | 0x06 => some .mzero
    | _ => none
  | .ci => match opc with
    | 0x01 => some .cpin
    | 0x02 => some .cpina
    | 0x03 => some .gathin
    | 0x04 => some .fill
    | 0x05 => some .cploc
    | 0x06 => some .pfin
    | _ => none
  | .co => match opc with
    | 0x01 => some .cpout
    | 0x02 => some .scatout
    | 0x03 => some .cpouta
    | 0x04 => some .cprem
    | _ => none
  | .xf => match opc with
    | 0x01 => some .tx
    | 0x02 => some .muxsel
    | 0x03 => some .xhold
    | 0x04 => some .xend
    | _ => none

/-- A record decoded in the table of engine `e`: an unlisted OPC is ILLEGAL_OP (R44, check 1). -/
def decodeRec (e : Eng) (w : BitVec 512) : Except DecErr Instr :=
  match recordCtor e (recOpc w).toNat with
  | some k => .ok (k (unpackRec w))
  | none => .error .illegalOp

/-- Engine, OPC and fields of a record instruction (R77, R78). -/
def recordParts : Instr → Option (Eng × BitVec 8 × EngRec)
  | .vadd r => some (.vx, 0x01, r)
  | .vsub r => some (.vx, 0x02, r)
  | .vmul r => some (.vx, 0x03, r)
  | .vfma r => some (.vx, 0x04, r)
  | .vmin r => some (.vx, 0x05, r)
  | .vmax r => some (.vx, 0x06, r)
  | .vabs r => some (.vx, 0x07, r)
  | .vneg r => some (.vx, 0x08, r)
  | .vand r => some (.vx, 0x09, r)
  | .vor r => some (.vx, 0x0A, r)
  | .vxor r => some (.vx, 0x0B, r)
  | .vshl r => some (.vx, 0x0C, r)
  | .vshr r => some (.vx, 0x0D, r)
  | .vsra r => some (.vx, 0x0E, r)
  | .vsel r => some (.vx, 0x0F, r)
  | .vcmp r => some (.vx, 0x10, r)
  | .vclamp r => some (.vx, 0x11, r)
  | .vscale r => some (.vx, 0x12, r)
  | .vmov r => some (.vx, 0x13, r)
  | .vbcast r => some (.vx, 0x14, r)
  | .vexp2 r => some (.vx, 0x18, r)
  | .vlog2 r => some (.vx, 0x19, r)
  | .vrcp r => some (.vx, 0x1A, r)
  | .vrsq r => some (.vx, 0x1B, r)
  | .vsqrt r => some (.vx, 0x1C, r)
  | .vtanh r => some (.vx, 0x1D, r)
  | .vcvt r => some (.vx, 0x20, r)
  | .vquant r => some (.vx, 0x21, r)
  | .vdeq r => some (.vx, 0x22, r)
  | .vrand r => some (.vx, 0x23, r)
  | .vredsum r => some (.vx, 0x28, r)
  | .vredmax r => some (.vx, 0x29, r)
  | .vredmin r => some (.vx, 0x2A, r)
  | .vscan r => some (.vx, 0x2B, r)
  | .vany r => some (.vx, 0x2C, r)
  | .vcnt r => some (.vx, 0x2D, r)
  | .vzip2 r => some (.vx, 0x30, r)
  | .vzip3 r => some (.vx, 0x31, r)
  | .vzip4 r => some (.vx, 0x32, r)
  | .vunzip2 r => some (.vx, 0x33, r)
  | .vunzip3 r => some (.vx, 0x34, r)
  | .vunzip4 r => some (.vx, 0x35, r)
  | .vperm r => some (.vx, 0x36, r)
  | .vgather r => some (.vx, 0x37, r)
  | .vscatter r => some (.vx, 0x38, r)
  | .vpart r => some (.vx, 0x39, r)
  | .vldp r => some (.vx, 0x3C, r)
  | .vstp r => some (.vx, 0x3D, r)
  | .viota r => some (.vx, 0x3E, r)
  | .vzero r => some (.vx, 0x3F, r)
  | .vbump r => some (.vx, 0x40, r)
  | .vtype r => some (.vx, 0x41, r)
  | .mma r => some (.mx, 0x01, r)
  | .mmaz r => some (.mx, 0x02, r)
  | .mmas r => some (.mx, 0x03, r)
  | .mmat r => some (.mx, 0x04, r)
  | .mret r => some (.mx, 0x05, r)
  | .mzero r => some (.mx, 0x06, r)
  | .cpin r => some (.ci, 0x01, r)
  | .cpina r => some (.ci, 0x02, r)
  | .gathin r => some (.ci, 0x03, r)
  | .fill r => some (.ci, 0x04, r)
  | .cploc r => some (.ci, 0x05, r)
  | .pfin r => some (.ci, 0x06, r)
  | .cpout r => some (.co, 0x01, r)
  | .scatout r => some (.co, 0x02, r)
  | .cpouta r => some (.co, 0x03, r)
  | .cprem r => some (.co, 0x04, r)
  | .tx r => some (.xf, 0x01, r)
  | .muxsel r => some (.xf, 0x02, r)
  | .xhold r => some (.xf, 0x03, r)
  | .xend r => some (.xf, 0x04, r)
  | _ => none

/-- The record of a record instruction. -/
def encodeRec (i : Instr) : Option (BitVec 512) := (recordParts i).map fun (_, o, r) => packRec o r

/-! ## Any instruction -/

/-- The words of an instruction as a number, with their width: 64 bits of a control word, 512 of a record, 32 of a slice
word. The steps of the other agents have no encoding. -/
def encode (i : Instr) : Option (Nat × Nat) :=
  match encodeCtl i, encodeRec i, encodeSl i with
  | some w, _, _ => some (64, w.toNat)
  | none, some r, _ => some (512, r.toNat)
  | none, none, some w => some (32, w.toNat)
  | none, none, none => none

/-- An error is no instruction. -/
def errToNone (r : Except DecErr Instr) : Option Instr :=
  match r with
  | .ok i => some i
  | .error _ => none

/-- What the decoder reads from an instruction of `nbits` bits `w`, numbered as spec/opcode_table.json numbers them: a slice
word of 32 bits, a control word of 64, and a record of 512 bits, read in the table of VX, the engine that
`Machine.State.withFetchWord` queues it to. -/
def decodeTableWord (nbits w : Nat) : Option Instr :=
  if nbits ≤ 32 then errToNone (decodeSl (BitVec.ofNat 32 w))
  else if nbits ≤ 64 then errToNone (decodeCtl (BitVec.ofNat 64 w))
  else errToNone (decodeRec .vx (BitVec.ofNat 512 w))

end Sys2Proof
end

