-- ==== Sys2Proof/Config.lean ====
section
/-! DEFINITION. What an implementation fixes and the spec leaves open: free values without a body (log 5). -/

namespace Sys2Proof.Config

/-- FEXP2 and VEXP2 on inputs whose result the spec bounds but does not give (R109): a free value. -/
opaque exp2Bits : BitVec 32 → BitVec 32

/-- FLOG2 and VLOG2 likewise (R109): a free value. -/
opaque log2Bits : BitVec 32 → BitVec 32

/-- FRCP and VRCP likewise (R109): a free value. -/
opaque rcpBits : BitVec 32 → BitVec 32

/-- FRSQ and VRSQ likewise (R109): a free value. -/
opaque rsqBits : BitVec 32 → BitVec 32

/-- VTANH likewise (R109): a free value. -/
opaque tanhBits : BitVec 32 → BitVec 32

/-- The signature over the attestation log, made with a key only the ROM derives (R481): a free value. -/
opaque attestSignature : List Nat → Nat

/-- The ticket of the n-th sweep (R436 gives a ticket and no value): a free value. -/
opaque sweepTicket : Nat → BitVec 32

/-- The bytes of a read of ELOG that finds no record (R483 gives none): a free value. -/
opaque emptyLog : Nat → BitVec 256

/-- P_est of an interval in mW, which the module estimates (R336) and the machine does not compute: a free value. -/
opaque powerEstimate : Nat → Nat

/-- The blob that the bytes of the staging window of BAR 2 hold (R475): the spec gives the window no layout, so what they say is a free
value (log 53). -/
opaque stagedBlob : List Host.Cell → Blob

/-- The image that the bytes of the staging window hold (R475, R480), likewise a free value (log 53). -/
opaque stagedImage : List Host.Cell → FwImage

/-- The core cycles between the start of a boundary and the rail's confirmation are 0 to 32 fabric cycles (R17):
the value is the input of the event, and this is the bound. -/
def railMoveBound : Nat := 32

end Sys2Proof.Config
end

