-- ==== Sys2Proof/Machine/Flags.lean ====
section
/-! DEFINITION. Number formats, rounding, the five flags, conversions, special functions and the counter hash
(R84-R111). Every function is a function of its operand bits alone (R82). -/

namespace Sys2Proof.Machine

/-- The flags IV, DZ, OF, UF, NX in bits 0 to 4, the order of FSR (R101). -/
abbrev Flg := BitVec 5

def Flg.iv : Flg := 1
def Flg.dz : Flg := 2
def Flg.of : Flg := 4
def Flg.uf : Flg := 8
def Flg.nx : Flg := 16

/-- A flag raised under a condition. -/
def Flg.when (b : Bool) (f : Flg) : Flg := if b then f else 0

/-! ## The counter hash (R111) -/

/-- Hash(key, ctr) (R111). -/
def hash (key ctr : Word) : Word :=
  let x := key ^^^ (ctr * 0x9E3779B97F4A7C15#64)
  let x := x ^^^ (x >>> 32)
  let x := x * 0xD6E8FEB86659FD93#64
  let x := x ^^^ (x >>> 32)
  let x := x * 0xD6E8FEB86659FD93#64
  x ^^^ (x >>> 32)

/-! ## Types and values -/

/-- The type codes of R51. -/
inductive Ty where
  | f32 | bf16 | f16 | f8e4 | f8e5 | f4 | i32 | i16 | i8 | i4 | n32 | n16 | n8 | e8 | i64
deriving DecidableEq, Repr, Inhabited

/-- The type of a DTYPE or STYPE code; 15 is reserved (R51). -/
def Ty.ofCode : Nat → Option Ty
  | 0 => some .f32 | 1 => some .bf16 | 2 => some .f16 | 3 => some .f8e4 | 4 => some .f8e5 | 5 => some .f4
  | 6 => some .i32 | 7 => some .i16 | 8 => some .i8 | 9 => some .i4 | 10 => some .n32 | 11 => some .n16
  | 12 => some .n8 | 13 => some .e8 | 14 => some .i64 | _ => none

/-- The width of a type in bits (R51). -/
def Ty.width : Ty → Nat
  | .f32 | .i32 | .n32 => 32
  | .bf16 | .f16 | .i16 | .n16 => 16
  | .f8e4 | .f8e5 | .i8 | .n8 | .e8 => 8
  | .f4 | .i4 => 4
  | .i64 => 64

/-- The I types (R88). -/
def Ty.signed : Ty → Bool
  | .i64 | .i32 | .i16 | .i8 | .i4 => true
  | _ => false

/-- The I and N types (R88). -/
def Ty.isInt : Ty → Bool
  | .n32 | .n16 | .n8 => true
  | t => t.signed

/-- What a format does with its highest exponent (R84). -/
inductive FKind where
  | ieee | e4m3 | noNan
deriving DecidableEq, Repr

/-- A floating-point format: exponent bits, fraction bits, bias, and its special encodings (R84). -/
structure Fmt where
  eb : Nat
  fb : Nat
  bias : Nat
  kind : FKind
deriving DecidableEq, Repr

/-- The format of a floating-point type (R84). -/
def Ty.fmt : Ty → Option Fmt
  | .f32 => some ⟨8, 23, 127, .ieee⟩
  | .bf16 => some ⟨8, 7, 127, .ieee⟩
  | .f16 => some ⟨5, 10, 15, .ieee⟩
  | .f8e5 => some ⟨5, 2, 15, .ieee⟩
  | .f8e4 => some ⟨4, 3, 7, .e4m3⟩
  | .f4 => some ⟨2, 1, 1, .noNan⟩
  | _ => none

/-- F32 (R84). -/
def fmtF32 : Fmt := ⟨8, 23, 127, .ieee⟩

/-- The least exponent of a normal value (R84). -/
def Fmt.emin (f : Fmt) : Int := 1 - (f.bias : Int)

/-- The code of the largest finite magnitude (R84). -/
def Fmt.maxCode (f : Fmt) : Nat :=
  match f.kind with
  | .ieee => (2 ^ f.eb - 1) * 2 ^ f.fb - 1
  | .e4m3 => 2 ^ (f.eb + f.fb) - 2
  | .noNan => 2 ^ (f.eb + f.fb) - 1

/-- The code of +infinity, where the format has one (R84). -/
def Fmt.infCode (f : Fmt) : Nat := (2 ^ f.eb - 1) * 2 ^ f.fb

/-- The canonical NaN (R85); F4 has none, and 0 stands for it (R92, R98). -/
def Fmt.nanCode (f : Fmt) : Nat :=
  match f.kind with
  | .ieee => (2 ^ f.eb - 1) * 2 ^ f.fb + 2 ^ (f.fb - 1)
  | .e4m3 => 2 ^ (f.eb + f.fb) - 1
  | .noNan => 0

/-- The sign bit of a format set or clear. -/
def Fmt.sign (f : Fmt) (neg : Bool) (code : Nat) : Nat := if neg then code + 2 ^ (f.eb + f.fb) else code

/-- A value: a NaN, quiet or signalling; an infinity; or (-1)^neg * m * 2^e exactly. -/
inductive Num where
  | nan (signalling : Bool)
  | inf (neg : Bool)
  | fin (neg : Bool) (m : Nat) (e : Int)
deriving DecidableEq, Repr, Inhabited

/-- The value of the bits of a floating-point type (R84, R85). -/
def Fmt.decode (f : Fmt) (x : Nat) : Num :=
  let neg := x / 2 ^ (f.eb + f.fb) % 2 == 1
  let ex := x / 2 ^ f.fb % 2 ^ f.eb
  let fr := x % 2 ^ f.fb
  let special := ex == 2 ^ f.eb - 1
  if special && f.kind == .ieee then
    if fr == 0 then .inf neg else .nan (fr / 2 ^ (f.fb - 1) == 0)
  else if special && f.kind == .e4m3 && fr == 2 ^ f.fb - 1 then .nan false
  else if ex == 0 then .fin neg fr (f.emin - f.fb)
  else .fin neg (fr + 2 ^ f.fb) ((ex : Int) - f.bias - f.fb)

/-- A subnormal of the format (R84). -/
def Fmt.isSubnormal (f : Fmt) (x : Nat) : Bool := x / 2 ^ f.fb % 2 ^ f.eb == 0 && x % 2 ^ f.fb != 0

/-! ## Rounding -/

/-- A rounding mode at one element: SR carries the element's draw Hash(key, ctr)[63:32] (R93, R95). -/
inductive Rnd where
  | rne | rtz | rup | rdn | rna | sr (draw : Nat)
deriving DecidableEq, Repr, Inhabited

/-- The mode of a RND code of an engine record, with the seed and counter of SR (R51, R95). -/
def Rnd.ofCode (code : Nat) (key ctr : Nat) : Rnd :=
  match code with
  | 1 => .rtz | 2 => .rup | 3 => .rdn | 4 => .rna
  | 5 => .sr ((hash (BitVec.ofNat 64 key) (BitVec.ofNat 64 ctr)).toNat / 2 ^ 32)
  | _ => .rne

/-- The mode of a control-core instruction: FCR.RM, with 5 read as RNE (R94). -/
def Rnd.ofRM (rm : Nat) : Rnd :=
  match rm with
  | 1 => .rtz | 2 => .rup | 3 => .rdn | 4 => .rna | _ => .rne

/-- The multiple of 2^q that the mode selects for m * 2^e of the given sign, and whether it is inexact (R93). -/
def roundAt (md : Rnd) (neg : Bool) (m : Nat) (e q : Int) : Nat × Bool :=
  if q ≤ e then (m * 2 ^ (e - q).toNat, false)
  else
    let u := 2 ^ (q - e).toNat
    let a := m / u
    let rem := m % u
    if rem = 0 then (a, false)
    else
      let up : Bool := match md with
        | .rne => decide (u < 2 * rem) || (decide (u = 2 * rem) && a % 2 == 1)
        | .rtz => false
        | .rup => !neg
        | .rdn => neg
        | .rna => decide (u ≤ 2 * rem)
        | .sr h => decide (h < rem * 2 ^ 32 / u)
      (if up then a + 1 else a, true)

/-- The overflow result of a mode (R96). -/
def overflowCode (f : Fmt) (md : Rnd) (sat neg : Bool) : Nat :=
  let top := f.sign neg f.maxCode
  let beyond := match f.kind with
    | .ieee => f.sign neg f.infCode
    | .e4m3 => f.nanCode
    | .noNan => top
  if sat then top
  else match md with
    | .rne | .rna | .sr _ => beyond
    | .rtz => top
    | .rup => if neg then top else beyond
    | .rdn => if neg then beyond else top

/-- RoundTo a format: the code and its flags, with tininess after rounding (R87, R93, R96). -/
def roundFin (f : Fmt) (md : Rnd) (sat neg : Bool) (m : Nat) (e : Int) : Nat × Flg :=
  if m = 0 then (f.sign neg 0, 0)
  else
    let l : Int := (Nat.log2 m : Int) + e
    let low : Int := f.emin - f.fb
    let q : Int := max l f.emin - f.fb
    let (r, nx) := roundAt md neg m e q
    let code := r + (q - low).toNat * 2 ^ f.fb
    if f.maxCode < code then (overflowCode f md sat neg, Flg.of ||| Flg.nx)
    else
      let tiny : Bool := decide (l < f.emin) && decide ((roundAt md neg m e (l - f.fb)).1 < 2 ^ (f.emin - (l - f.fb)).toNat)
      (f.sign neg code, Flg.when nx Flg.nx ||| Flg.when (nx && tiny) Flg.uf)

/-- RoundTo of any value of an arithmetic operation: NaN is canonical, an infinity stays (R85, R86). -/
def roundNum (f : Fmt) (md : Rnd) (sat : Bool) (v : Num) : Nat × Flg :=
  match v with
  | .nan _ => (f.nanCode, 0)
  | .inf neg => (if f.kind = .ieee then f.sign neg f.infCode else overflowCode f .rne sat neg, 0)
  | .fin neg m e => roundFin f md sat neg m e

/-! ## Exact arithmetic -/

def Num.isNan : Num → Bool
  | .nan _ => true
  | _ => false

def Num.isSignalling : Num → Bool
  | .nan s => s
  | _ => false

def Num.isZero : Num → Bool
  | .fin _ 0 _ => true
  | _ => false

def Num.isNeg : Num → Bool
  | .nan _ => false
  | .inf n => n
  | .fin n _ _ => n

def Num.negate : Num → Num
  | .nan s => .nan s
  | .inf n => .inf (!n)
  | .fin n m e => .fin (!n) m e

/-- The signed integer coefficient of a finite value at a smaller exponent. -/
def coeff (neg : Bool) (m : Nat) (e q : Int) : Int :=
  let v : Int := (m * 2 ^ (e - q).toNat : Nat)
  if neg then -v else v

/-- The exact sum, with the sign of a zero: opposite signs give +0, or -0 under RDN (R86). -/
def Num.add (rdn : Bool) (x y : Num) : Num × Flg :=
  match x, y with
  | .nan s, b => (.nan false, Flg.when (s || b.isSignalling) Flg.iv)
  | a, .nan s => (.nan false, Flg.when (s || a.isSignalling) Flg.iv)
  | .inf n, .inf n' => if n = n' then (.inf n, 0) else (.nan false, Flg.iv)
  | .inf n, .fin _ _ _ => (.inf n, 0)
  | .fin _ _ _, .inf n => (.inf n, 0)
  | .fin n m e, .fin n' m' e' =>
    let q := min e e'
    let v := coeff n m e q + coeff n' m' e' q
    if v = 0 then (.fin (if n = n' then n else rdn) 0 0, 0)
    else (.fin (decide (v < 0)) v.natAbs q, 0)

/-- The exact product (R86). -/
def Num.mul (x y : Num) : Num × Flg :=
  match x, y with
  | .nan s, b => (.nan false, Flg.when (s || b.isSignalling) Flg.iv)
  | a, .nan s => (.nan false, Flg.when (s || a.isSignalling) Flg.iv)
  | .inf n, .inf n' => (.inf (n != n'), 0)
  | .inf n, .fin n' m _ => if m = 0 then (.nan false, Flg.iv) else (.inf (n != n'), 0)
  | .fin n m _, .inf n' => if m = 0 then (.nan false, Flg.iv) else (.inf (n != n'), 0)
  | .fin n m e, .fin n' m' e' => (.fin (n != n') (m * m') (e + e'), 0)

/-- The exact a * b + c; infinity times zero raises invalid even with a NaN c (R141). -/
def Num.fma (rdn : Bool) (a b c : Num) : Num × Flg :=
  let (p, f) := Num.mul a b
  let (v, g) := Num.add rdn p c
  (v, f ||| g)

/-- The order of two numbers that are no NaN: -1, 0 or 1; zeros are equal (R138). -/
def Num.order (x y : Num) : Int :=
  match x, y with
  | .inf n, .inf n' => if n = n' then 0 else if n then -1 else 1
  | .inf n, _ => if n then -1 else 1
  | _, .inf n => if n then 1 else -1
  | .fin n m e, .fin n' m' e' =>
    let q := min e e'
    (coeff n m e q - coeff n' m' e' q).sign
  | _, _ => 0

/-- Whether `x` comes before `y` in the order of minimum and maximum: -0 is below +0 (R86). -/
def Num.below (x y : Num) : Bool :=
  match Num.order x y with
  | .negSucc _ => true
  | .ofNat 0 => x.isZero && x.isNeg && !y.isNeg
  | .ofNat _ => false

/-- Minimum or maximum of two codes of a format (R86). -/
def minMax (f : Fmt) (isMax : Bool) (a b : Nat) : Nat × Flg :=
  let x := f.decode a
  let y := f.decode b
  let sig := x.isSignalling || y.isSignalling
  if sig || (x.isNan && y.isNan) then (f.nanCode, Flg.when sig Flg.iv)
  else if x.isNan then (b, 0)
  else if y.isNan then (a, 0)
  else if isMax then (if Num.below x y then b else a, 0)
  else (if Num.below y x then b else a, 0)

/-! ## Integer types -/

/-- The integer a field of an integer type stands for (R88). -/
def intDecode (t : Ty) (x : Nat) : Int :=
  let x := x % 2 ^ t.width
  if t.signed && decide (2 ^ (t.width - 1) ≤ x) then (x : Int) - 2 ^ t.width else x

/-- The bounds of an integer type (R88). -/
def intLo (t : Ty) : Int := if t.signed then -(2 ^ (t.width - 1)) else 0
def intHi (t : Ty) : Int := if t.signed then 2 ^ (t.width - 1) - 1 else 2 ^ t.width - 1

/-- The low bits of an integer in two's complement (R99). -/
def intBits (t : Ty) (v : Int) : Nat := (v % (2 ^ t.width : Int)).toNat

/-- An integer clamped to the range of a type. -/
def intClamp (t : Ty) (v : Int) : Int := max (intLo t) (min (intHi t) v)

/-- Integer element arithmetic: modular, or clamped under SAT (R99). -/
def intFit (t : Ty) (sat : Bool) (v : Int) : Nat := intBits t (if sat then intClamp t v else v)

/-! ## Conversions (R90, R98) -/

/-- A float to E8 (R90). -/
def toE8 (v : Num) : Nat × Flg :=
  match v with
  | .nan _ => (0xFF, Flg.iv)
  | .inf _ => (0xFF, Flg.iv)
  | .fin _ m e =>
    if m = 0 then (0, 0)
    else
      let k : Int := (Nat.log2 m : Int) + e + 127
      let c := max 0 (min 254 k)
      (c.toNat, Flg.when (decide (c ≠ k)) Flg.nx)

/-- The value of an E8 code (R89). -/
def ofE8 (x : Nat) : Num := if x % 256 = 255 then .nan false else .fin false 1 ((x % 256 : Nat) - 127)

/-- A value to an integer type: rounded, clamped with invalid; a clamped result raises invalid alone (R98, log 7). -/
def toIntTy (t : Ty) (md : Rnd) (v : Num) : Nat × Flg :=
  match v with
  | .nan _ => (0, Flg.iv)
  | .inf neg => (intBits t (if neg then intLo t else intHi t), Flg.iv)
  | .fin neg m e =>
    let (r, nx) := roundAt md neg m e 0
    let i : Int := if neg then -(r : Int) else r
    if intClamp t i = i then (intBits t i, Flg.when nx Flg.nx) else (intBits t (intClamp t i), Flg.iv)

/-- A value to a floating-point type that does not hold every source value: NaN, infinities, rounding (R98). -/
def toFmt (f : Fmt) (md : Rnd) (sat : Bool) (v : Num) : Nat × Flg :=
  match v with
  | .nan s => if f.kind = .noNan then (0, Flg.iv) else (f.nanCode, Flg.when s Flg.iv)
  | .inf neg =>
    if f.kind = .ieee && !sat then (f.sign neg f.infCode, 0)
    else if f.kind = .e4m3 && !sat then (f.nanCode, Flg.iv)
    else (f.sign neg f.maxCode, Flg.iv)
  | .fin neg m e => roundFin f md sat neg m e

/-- The pairs in which the destination holds every value of the source (R98). -/
def holds (src dst : Ty) : Bool :=
  match src, dst with
  | .f4, .f8e4 | .f4, .f8e5 | .f4, .f16 | .f4, .bf16 | .f4, .f32 => true
  | .f8e4, .f16 | .f8e4, .bf16 | .f8e4, .f32 => true
  | .f8e5, .f16 | .f8e5, .bf16 | .f8e5, .f32 => true
  | .f16, .f32 | .bf16, .f32 => true
  | _, _ => false

/-- An integer as an exact value. -/
def intNum (v : Int) : Num := .fin (decide (v < 0)) v.natAbs 0

/-- The value of a float or E8 code. -/
def Ty.num (t : Ty) (x : Nat) : Num :=
  match t.fmt with
  | some f => f.decode x
  | none => if t = .e8 then ofE8 x else intNum (intDecode t x)

/-- A conversion between two types (R98). -/
def convert (src dst : Ty) (md : Rnd) (sat : Bool) (x : Nat) : Nat × Flg :=
  let x := x % 2 ^ src.width
  if src = dst then (x, 0)
  else if src.isInt && dst.isInt then
    let v := intDecode src x
    let widens := decide (src.width < dst.width) && (!src.signed || dst.signed)
    if widens then
      (if src.signed then intBits dst v else x, 0)
    else (intFit dst sat v, 0)
  else if dst = .e8 then
    let (c, f) := toE8 (src.num x)
    (c, if src.isInt then 0 else f)
  else if dst.isInt then toIntTy dst md (src.num x)
  else match dst.fmt with
    | some f => toFmt f md (sat && !holds src dst) (src.num x)
    | none => (0, 0)

/-! ## Square root and the special functions (R109, R110) -/

/-- The integer square root, one bit a turn from bit `k` down: the largest r with r * r ≤ n of at most k + 1 bits. -/
def isqrtGo (n : Nat) : Nat → Nat → Nat
  | 0, r => if (r + 1) * (r + 1) ≤ n then r + 1 else r
  | k + 1, r =>
    let r' := r + 2 ^ (k + 1)
    isqrtGo n k (if r' * r' ≤ n then r' else r)

/-- The integer square root of a number below 2^(2 * (k + 1)). -/
def isqrt (k n : Nat) : Nat := isqrtGo n k 0

/-- The square root of a finite positive value with a sticky bit, exact enough for every mode, SR among them. -/
def sqrtFin (m : Nat) (e : Int) : Nat × Int :=
  let odd := e % 2 = 1
  let m1 := if odd then 2 * m else m
  let e1 := if odd then e - 1 else e
  let n := m1 * 2 ^ 160
  let k := Nat.log2 n / 2 + 1
  let r := isqrt k n
  (2 * r + (if r * r = n then 0 else 1), e1 / 2 - 81)

/-- Square root to F32 under a mode (R109, R110). -/
def sqrtF32 (md : Rnd) (x : Nat) : Nat × Flg :=
  match fmtF32.decode x with
  | .nan s => (fmtF32.nanCode, Flg.when s Flg.iv)
  | .inf neg => if neg then (fmtF32.nanCode, Flg.iv) else (fmtF32.infCode, 0)
  | .fin neg m e =>
    if m = 0 then (fmtF32.sign neg 0, 0)
    else if neg then (fmtF32.nanCode, Flg.iv)
    else
      let (r, e') := sqrtFin m e
      roundFin fmtF32 md false false r e'

/-- A free result within `k` ulp of the exact value m * 2^e (given with a sticky bit): one of the F32 values there, the choice
made by `free` (R109, log 5). In half ulps the exact value lies above `b` and below b + 1; an odd count of them is a value of F32
only below the power of two above which the exact value lies. The result is inexact, and underflows where it is delivered below
the least normal value (R87). -/
def within (k : Nat) (free : Nat) (neg : Bool) (m : Nat) (e : Int) : Nat × Flg :=
  let q : Int := max ((Nat.log2 m : Int) + e) fmtF32.emin - fmtF32.fb
  let b := (roundAt .rtz false m e (q - 1)).1
  let near := (List.range (4 * k)).map fun i => b + i + 1 - 2 * k
  let codes := near.filter fun h => h % 2 == 0 || (decide (h < 2 ^ (fmtF32.fb + 1)) && decide (fmtF32.emin - fmtF32.fb < q))
  let (c, _) := roundFin fmtF32 .rtz false neg (codes.getD (free % codes.length) 0) (q - 1)
  (c, Flg.nx ||| Flg.when (decide (c % 2 ^ 31 < 2 ^ 23)) Flg.uf)

/-- 1 / (m * 2^e) with a sticky bit. -/
def rcpFin (m : Nat) (e : Int) : Nat × Int :=
  let n := 2 ^ (Nat.log2 m + 100)
  (2 * (n / m) + (if n % m = 0 then 0 else 1), -e - (Nat.log2 m + 100 : Nat) - 1)

/-- A power of two: the exponent of m * 2^e, if it is one. -/
def powerOf (m : Nat) (e : Int) : Option Int := if m = 2 ^ Nat.log2 m then some ((Nat.log2 m : Int) + e) else none

/-- 2^k as F32, for k from -149 to 127. -/
def pow2F32 (neg : Bool) (k : Int) : Nat := (roundFin fmtF32 .rtz false neg 1 k).1

/-- rcp (R109, R110). -/
def rcpF32 (x : Nat) : Nat × Flg :=
  match fmtF32.decode x with
  | .nan s => (fmtF32.nanCode, Flg.when s Flg.iv)
  | .inf neg => (fmtF32.sign neg 0, 0)
  | .fin neg m e =>
    if m = 0 then (fmtF32.sign neg fmtF32.infCode, Flg.dz)
    else if Num.order (.fin false m e) (.fin false 1 (-128)) ≤ 0 then (fmtF32.sign neg fmtF32.infCode, Flg.of ||| Flg.nx)
    else match powerOf m e with
      | some k => (pow2F32 neg (-k), 0)
      | none =>
        let (r, e') := rcpFin m e
        within 1 (Config.rcpBits (BitVec.ofNat 32 x)).toNat neg r e'

/-- rsq (R109, R110). -/
def rsqF32 (x : Nat) : Nat × Flg :=
  match fmtF32.decode x with
  | .nan s => (fmtF32.nanCode, Flg.when s Flg.iv)
  | .inf neg => if neg then (fmtF32.nanCode, Flg.iv) else (0, 0)
  | .fin neg m e =>
    if m = 0 then (fmtF32.sign neg fmtF32.infCode, Flg.dz)
    else if neg then (fmtF32.nanCode, Flg.iv)
    else
      let free := (Config.rsqBits (BitVec.ofNat 32 x)).toNat
      match powerOf m e with
      | some k => if k % 2 = 0 then (pow2F32 false (-(k / 2)), 0)
        else
          let (r, e') := sqrtFin 1 (-k)
          within 2 free false r e'
      | none =>
        let (r, e') := rcpFin m e
        let (r', e'') := sqrtFin r e'
        within 2 free false r' e''

/-! Fixed-point values of the transcendental functions: the exact value enclosed far more finely than an ulp, from which
the bound of R109 is measured. -/

/-- The square roots 2^(1/2), 2^(1/4), ... in units of 2^-160, `n` of them. -/
def roots2 : Nat → Nat → List Nat
  | 0, _ => []
  | n + 1, r =>
    let s := isqrt 162 (r * 2 ^ 160)
    s :: roots2 n s

/-- 2^(f / 2^n) in units of 2^-160, over the roots paired with the bits of f from the highest. -/
def exp2Frac : List Nat → Nat → Nat → Nat → Nat
  | [], _, _, acc => acc
  | r :: rs, n, f, acc => exp2Frac rs (n - 1) f (if f / 2 ^ (n - 1) % 2 = 1 then acc * r / 2 ^ 160 else acc)

/-- exp2 (R109, R110). The fraction of an F32 in (-149, 128) that is no integer has at most 149 bits; below the 60th it
moves the value by less than 2^-60. -/
def exp2F32 (x : Nat) : Nat × Flg :=
  match fmtF32.decode x with
  | .nan s => (fmtF32.nanCode, Flg.when s Flg.iv)
  | .inf neg => if neg then (0, 0) else (fmtF32.infCode, 0)
  | .fin neg m e =>
    let v := coeff neg m e (min e (-60))
    let one : Int := 2 ^ (-(min e (-60))).toNat
    if 128 * one ≤ v then (fmtF32.infCode, Flg.of ||| Flg.nx)
    else if v < -149 * one then (0, Flg.uf ||| Flg.nx)
    else
      let i := v / one
      let fr := v % one
      if fr = 0 then (pow2F32 false i, 0)
      else
        let f60 := (fr * 2 ^ 60 / one).toNat
        let r := exp2Frac (roots2 60 (2 ^ 161)) 60 f60 (2 ^ 160)
        within 2 (Config.exp2Bits (BitVec.ofNat 32 x)).toNat false (2 * r + 1) (i - 161)

/-- The bits of log2 of y in [1, 2), y in units of 2^-160: one squaring a bit. -/
def log2Bits : Nat → Nat → Nat → Nat
  | 0, _, acc => acc
  | n + 1, y, acc =>
    let y2 := y * y / 2 ^ 160
    if 2 ^ 161 ≤ y2 then log2Bits n (y2 / 2) (2 * acc + 1) else log2Bits n y2 (2 * acc)

/-- log2 (R109, R110). -/
def log2F32 (x : Nat) : Nat × Flg :=
  match fmtF32.decode x with
  | .nan s => (fmtF32.nanCode, Flg.when s Flg.iv)
  | .inf neg => if neg then (fmtF32.nanCode, Flg.iv) else (fmtF32.infCode, 0)
  | .fin neg m e =>
    if m = 0 then (fmtF32.sign true fmtF32.infCode, Flg.dz)
    else if neg then (fmtF32.nanCode, Flg.iv)
    else match powerOf m e with
      | some k => (roundNum fmtF32 .rne false (if k = 0 then .fin false 0 0 else intNum k)).1 |> fun c => (c, 0)
      | none =>
        let k : Int := (Nat.log2 m : Int) + e
        let y := m * 2 ^ 160 / 2 ^ Nat.log2 m
        let v : Int := k * 2 ^ 100 + (log2Bits 100 y 0 : Nat)
        within 2 (Config.log2Bits (BitVec.ofNat 32 x)).toNat (decide (v < 0)) (2 * v.natAbs + 1) (-101)

/-- The exponential of y in units of 2^-s: the terms y^i / i! for `n` terms from `i`. -/
def expTerms (s y : Nat) : Nat → Nat → Nat → Nat → Nat
  | 0, _, _, acc => acc
  | n + 1, i, t, acc =>
    let t' := t * y / 2 ^ s / i
    expTerms s y n (i + 1) t' (acc + t')

/-- tanh |x| in units of 2^-(s + 1), for |x| below 16, as (E - 1) / (E + 1) with E = e^(2x). -/
def tanhFix (s y2 : Nat) : Nat :=
  let t := expTerms s y2 160 1 (2 ^ s) 0
  t * 2 ^ (s + 1) / (t + 2 ^ (s + 1))

/-- tanh (R109, R110). At 16 and above the exact value lies between 1 - 2^-45 and 1. -/
def tanhF32 (x : Nat) : Nat × Flg :=
  match fmtF32.decode x with
  | .nan s => (fmtF32.nanCode, Flg.when s Flg.iv)
  | .inf neg => (fmtF32.sign neg 0x3F800000, 0)
  | .fin neg m e =>
    if m = 0 then (fmtF32.sign neg 0, 0)
    else
      let free := (Config.tanhBits (BitVec.ofNat 32 x)).toNat
      if 0 ≤ Num.order (.fin false m e) (.fin false 16 0) then within 3 free neg (2 ^ 60 - 1) (-60)
      else
        let y2 := (m * 2 ^ (e + 1 + 512).toNat)
        within 3 free neg (2 * tanhFix 512 y2 + 1) (-514)

/-! ## Control-core F32: DAZ, FTZ (R87, R131) -/

/-- In(type, bits) for the types DAZ applies to (R131, R144). -/
def inDaz (daz : Bool) (t : Ty) (x : Nat) : Nat :=
  match t.fmt with
  | some f => if daz && t ≠ .f4 && f.isSubnormal x then f.sign (x / 2 ^ (f.eb + f.fb) % 2 == 1) 0 else x
  | none => x

/-- Out(type, v) for the types FTZ applies to (R131, R144). -/
def outFtz (ftz : Bool) (t : Ty) (r : Nat × Flg) : Nat × Flg :=
  match t.fmt with
  | some f =>
    if ftz && t ≠ .f4 && f.isSubnormal r.1 then
      (f.sign (r.1 / 2 ^ (f.eb + f.fb) % 2 == 1) 0, r.2 ||| Flg.uf ||| Flg.nx)
    else r
  | none => r

/-- The RDN mode decides the sign of an exact zero sum (R86). -/
def Rnd.isRdn : Rnd → Bool
  | .rdn => true
  | _ => false

/-- Addition, multiplication and fused multiply-add to a format, rounded once (R86). -/
def addFmt (f : Fmt) (md : Rnd) (sat : Bool) (x y : Num) : Nat × Flg :=
  let (v, g) := Num.add md.isRdn x y
  let (c, h) := roundNum f md sat v
  (c, g ||| h)

def mulFmt (f : Fmt) (md : Rnd) (sat : Bool) (x y : Num) : Nat × Flg :=
  let (v, g) := Num.mul x y
  let (c, h) := roundNum f md sat v
  (c, g ||| h)

def fmaFmt (f : Fmt) (md : Rnd) (sat : Bool) (x y z : Num) : Nat × Flg :=
  let (v, g) := Num.fma md.isRdn x y z
  let (c, h) := roundNum f md sat v
  (c, g ||| h)

/-- FCMP and the float condition codes 0 to 7 (R138): the truth and IV. -/
def floatCond (cc : Nat) (x y : Num) : Bool × Flg :=
  let un := x.isNan || y.isNan
  let sig := x.isSignalling || y.isSignalling
  let o := Num.order x y
  let iv := if 2 ≤ cc && cc ≤ 5 then un else sig
  let c : Bool := match cc with
    | 0 => !un && o == 0
    | 1 => un || o != 0
    | 2 => !un && decide (o < 0)
    | 3 => !un && decide (o ≤ 0)
    | 4 => !un && decide (0 < o)
    | 5 => !un && decide (0 ≤ o)
    | 6 => un
    | _ => !un
  (c, Flg.when iv Flg.iv)

/-- The integer condition codes 0 to 9 on two words (R137). -/
def intCond (cc : Nat) (x y : Word) : Bool :=
  match cc with
  | 0 => x == y
  | 1 => x != y
  | 2 => x.slt y
  | 3 => x.sle y
  | 4 => y.slt x
  | 5 => y.sle x
  | 6 => x.ult y
  | 7 => x.ule y
  | 8 => y.ult x
  | _ => y.ule x

end Sys2Proof.Machine
end

