-- ==== Sys2Proof/Machine/State.lean ====
section
/-! DEFINITION. The state of the module as plain data, and the state right after module reset (INVENTORY.md, "State").
Every structure names the rule that gives the part; a field marked MODEL is the model's own. -/

namespace Sys2Proof.Machine

/-- Why a step stops. -/
inductive Fault where
  /-- Raised by `step` alone, when the agenda makes the root controller write a physical address that DRAM does not
  have (R25: 0x00_0000_0000 to 0x3F_FFFF_FFFF). Safe: no agent of the module reaches such an address (R398). -/
  | noSuchAddress (pa : Nat)
deriving DecidableEq, Repr

/-- Why an instruction has no meaning. -/
inductive Refusal where
  /-- Raised by the arm of an instruction whose meaning is not written. Safe: nothing is claimed of it. -/
  | notModelled (mnemonic : String)
deriving DecidableEq, Repr

/-! ## Memories -/

/-- A byte memory: addresses strictly rising, no entry equal to 0, which an unlisted address reads as (log 2, log 4). -/
abbrev Mem := List Host.Cell

/-- Addresses rise from above `a`, and no byte is 0. -/
def Mem.okAfter : Nat → Mem → Bool
  | _, [] => true
  | a, (x, b) :: r => decide (a < x) && b != 0 && Mem.okAfter x r

/-- The canonical form. -/
def Mem.wf : Mem → Bool
  | [] => true
  | (x, b) :: r => b != 0 && Mem.okAfter x r

/-- A copy of a line in an L1 or an instruction cache (R234, R115): the cells of the line when it was copied. -/
structure LineCopy where
  line : Nat
  cells : Mem
deriving DecidableEq, Repr, Inhabited

/-! ## A control-core context -/

/-- A unit or harvest context: its slot, its leaf, and the virtual NPU and SERIAL that tell it from an earlier one (R311, R316). -/
structure UnitId where
  ctx : CtxId
  leaf : LeafId
  vnpu : VnpuId
  serial : BitVec 32
deriving DecidableEq, Repr, Inhabited

/-- A landing still to come (R117, R127): register 0-63 for g, 64-71 for k; `rem` ticks remain. -/
structure Landing where
  reg : Nat
  val : Word
  flags : Flg
  rem : Nat
deriving DecidableEq, Repr, Inhabited

/-- What an STP replaced: its bytes are in the Pantry, and an LDP reads the bytes before it until a later tick begins (R118). -/
structure PendStore where
  addr : Nat
  old : List Byte
  rem : Nat
deriving DecidableEq, Repr, Inhabited

/-- A hardware loop level (R344). -/
structure Loop where
  start : Word := 0
  stop : Word := 0
  count : BitVec 32 := 0
  active : Bool := false
deriving DecidableEq, Repr, Inhabited

/-- An event-queue entry of 16 bytes (R267): its stamp is `hi`, its source number bits 57:48 of `lo`. -/
structure EvEntry where
  lo : Word
  hi : Word
deriving DecidableEq, Repr, Inhabited

/-- MODEL: what the tick of a trap had of flags merged and of STPs not yet seen, for the return to that tick (R121, R128, log 79): the
tick and the sequence numbers tell which image it belongs to. -/
structure Kept where
  tick : Word
  seqs : Vector (BitVec 32) 5
  flags : Flg
  stps : List PendStore
deriving DecidableEq, Repr, Inhabited

/-- A trap: its registers and agent, and the words of a deadlock report (R420, R355). EPC is the PC at which the context
stands when the entry is taken. -/
structure Trap where
  cause : Nat
  eaddr : Word := 0
  einfo : Word := 0
  agent : Nat := 0
  stamp : Nat := 0
  src : Nat := 0
  report : List Word := []
  /-- MODEL: the entry has closed the phase of the context and waits for that many phases (R227). -/
  gate : Option Nat := none
deriving DecidableEq, Repr, Inhabited

/-- How far an instruction that takes several steps has come (MODEL). -/
inductive Stage where
  /-- It has taken no effect. -/
  | fresh
  /-- It has closed its phase and waits until the first `n` phases of its source are complete (R227). -/
  | closed (n : Nat)
  /-- It has sent a request to the wait-for table and waits for the reply (R363). -/
  | asked
  /-- The table has replied. -/
  | replied (status : Word)
  /-- It has arrived at a barrier meeting (R369). -/
  | arrived (b : Nat)
  /-- It has sent a slice invocation (R294). -/
  | sent (n : Nat)
  /-- It has asked for a revocation, or passed its drain (R326, R332). -/
  | revoking
deriving DecidableEq, Repr, Inhabited

/-- A context: the registers of R112, the system registers it holds (R76), and its queues. -/
structure Ctx where
  /-- A unit or harvest context is present in the slot. -/
  live : Bool := false
  /-- Privilege S (R420). -/
  sup : Bool := true
  pc : Word := 0
  tick : Word := 0
  g : Vector Word 64 := Vector.replicate 64 0
  k : BitVec 8 := 0
  rb : Vector (BitVec 512) 8 := Vector.replicate 8 0
  loop0 : Loop := ⟨0, 0, 0, false⟩
  loop1 : Loop := ⟨0, 0, 0, false⟩
  /-- Level 1 was started later than level 0 (R345). -/
  later1 : Bool := false
  landings : List Landing := []
  stps : List PendStore := []
  /-- MODEL: counts the instructions that order every access before them with every access after (R213). -/
  order : Nat := 0
  fcr : Word := 0
  fsr : Word := 0
  /-- Flags merged by the landings of the current tick (R121). -/
  tickFlags : Flg := 0
  kept : List Kept := []
  debug : Word := 0
  liveset : Word := 0
  boost : Word := 0
  prioBase : BitVec 3 := 0
  pace : Vector Word 5 := Vector.replicate 5 0
  tentab : Word := 0
  tenlim : Word := 0
  sscratch : Word := 0
  epc : Word := 0
  efrom : Word := 0
  ecause : Word := 0
  eaddr : Word := 0
  einfo : Word := 0
  /-- ESTAT but for DEF, which is `defer` (R432). -/
  estat : Word := 0
  defer : Bool := false
  /-- The GTC at which DEF ends (R439). -/
  deferEnd : Nat := 0
  vnpu : VnpuId := 0
  /-- The leaf, fixed when the context is dispatched or started (R317). -/
  leaf : LeafId := 0
  serial : BitVec 32 := 0
  bank : Fin 4 := 0
  l1id : BitVec 16 := 0xFFFF
  l1rank : BitVec 4 := 0
  l1size : BitVec 4 := 0
  /-- The launch queue and the nest of the iteration (R312, R313). -/
  queue : Fin 8 := 0
  nest : Nat := 0
  /-- The semaphore map: bit 7 unmapped, bits 5:0 the physical counter (R259, R425). -/
  semMap : Vector (BitVec 8) 64 := Vector.replicate 64 0x80
  seqs : Vector (BitVec 32) 5 := Vector.replicate 5 0
  slxn : BitVec 32 := 0
  /-- Input port p of engine e is entry 4e + p (R52, R425). -/
  ports : Vector Nat 20 := Vector.replicate 20 0
  fifos : Vector Nat 5 := Vector.replicate 5 0
  /-- MODEL: tokens that a BARXF has taken from the ports of XF and that may return: while it has arrived, where it is withdrawn or a
  record fails (R44, R371), and through its phase, where a TX before their record finds a poisoned source (R449, log 76); they count
  toward the 15 of a port (R53). -/
  xpops : Vector Nat 4 := Vector.replicate 4 0
  events : List EvEntry := []
  /-- Notifications that found the queue full (R265). -/
  eventsHeld : List EvEntry := []
  /-- MODEL: entries of TYPE 3 that entered since the trap entry (R428). -/
  late : List EvEntry := []
  cq : List Bool := []
  wake : Bool := false
  /-- The address of the last instruction issued, 0 if none (R420). -/
  last : Word := 0
  /-- Core cycles in which it issues nothing more after a NOP n (R346). -/
  pause : Nat := 0
  stage : Stage := .fresh
  /-- MODEL: the word at PC has issued and has not completed: a stalled word is not fetched again (R294, R421, R422). -/
  issued : Option Instr := none
  /-- The object of the registered wait it is blocked in (R353). -/
  blocked : Option (BitVec 32) := none
  /-- It is blocked in WFE (R354). -/
  inWfe : Bool := false
  /-- It is blocked in WOWAIT (R363). -/
  inWowait : Bool := false
  /-- A release of the object it waits on was processed after its registration (R363). -/
  released : Bool := false
  trap : Option Trap := none
  /-- UnitFailure with this cause has begun: the context issues nothing more, and ends once its image can be written (R282, R423). -/
  failing : Option Nat := none
  preq : Bool := false
  /-- The GTC at which grace ends (R437). -/
  graceEnd : Option Nat := none
  /-- MODEL: its forced pre-emption has closed its phase and waits for that many phases (R227). -/
  cutGate : Option Nat := none
  /-- The core cycle at which a YIELD hold ends (R333). -/
  holdEnd : Option Nat := none
  /-- The GTC at which the unit last took its owner context (R321). -/
  since : Nat := 0
deriving DecidableEq, Repr, Inhabited

/-! ## Engines -/

/-- Where the head record stands: STATE of R426. -/
inductive HeadState where
  /-- Not started (1). -/
  | waiting
  /-- At its micro-PC (2). -/
  | walking
  /-- Faulted at its micro-PC in a phase of R426 (3). -/
  | faulted (phase : Nat)
  /-- Every step done; retirement held (4). -/
  | done
deriving DecidableEq, Repr, Inhabited

/-- The open line of a CO writer (R405): its line address and 128 bytes. -/
structure OpenLine where
  va : Nat
  data : BitVec 1024
deriving DecidableEq, Repr, Inhabited

/-- The bytes that CI has for an aligned 64-byte unit of a local store and has not written yet: the unit's address / 64, which bytes,
and their values (R211). -/
structure LocalUnit where
  unit : Nat
  mask : BitVec 64
  data : BitVec 512
deriving DecidableEq, Repr, Inhabited

/-- The execution state of the head record: micro-PC, flags, carries (R156, R205, R405), OUT and STATUS (R274, R268), the
tensor copy (R271), and its fault. `orphan` is a harvest CO record that runs on after revocation (R331). -/
structure Head where
  st : HeadState := .waiting
  j0 : Nat := 0
  j1 : Nat := 0
  j2 : Nat := 0
  j3 : Nat := 0
  flags : Flg := 0
  carry : Word := 0
  vcarry : BitVec 4096 := 0
  mcarry : BitVec 4096 := 0
  out : Nat := 0
  status : Nat := 0
  copy : BitVec 432 := 0
  openLine : Option OpenLine := none
  lastLine : Option Nat := none
  fault : Option Trap := none
  orphan : Bool := false
  /-- The phase its retirement closed (R227). -/
  retire : Option Nat := none
  /-- The tag of the host reads of this record (R239). -/
  hostReq : Option Nat := none
  /-- MODEL: the step before lay in the same aligned 64-byte unit of the tensor, and the message that carries what CO writes there
  (R211). -/
  unit : Option Nat := none
  /-- MODEL: the local unit that the steps of CI so far write, performed at once as they leave it (R194, R211). -/
  put : Option LocalUnit := none
  /-- MODEL: the local unit that a copy reads, read once while its steps stay in it: its address / 64 and its bytes (R194, R211). -/
  seen : Option (Nat × BitVec 512) := none
  /-- MODEL: an image brought the record of MX in, and no step has been taken since: its head checks of the tile are made again (R192,
  R430). -/
  resumed : Bool := false
deriving DecidableEq, Repr, Inhabited

/-- An entry of an engine queue (R252): the record with its RND resolved, the bank and sequence number, how many phases of
the context its first access waits for (R227), the privilege and the virtual NPU of the context (R400, R396), and for the head record of a restored bank the
execution state with which it resumes (R430). -/
structure QEntry where
  record : BitVec 512
  slot : Slot
  seq : BitVec 32
  gate : Nat
  sup : Bool
  vnpu : VnpuId
  resume : Option Head := none
  /-- An owner record queued while a revocation of slot H was asked for or deferred (R253, R331). -/
  afterRevoke : Bool := false
deriving DecidableEq, Repr, Inhabited

/-- An engine of a core (R252). -/
structure Engine where
  queue : List QEntry := []
  head : Head := {}
  /-- The object of the registered stall of its head (R353). -/
  blocked : Option (BitVec 32) := none
  /-- The core cycle of each bank's last start stage: O, then H (R334). -/
  startO : Option Nat := none
  startH : Option Nat := none
deriving DecidableEq, Repr, Inhabited

/-! ## Sources of writes (R226-R232) -/

/-- A closed phase that is not complete: its number, and the targets that have not acknowledged. -/
structure OpenPhase where
  num : Nat
  targets : List Nat
deriving DecidableEq, Repr, Inhabited

/-- The phases of a source: phase number `closed` is the current one, and its tag is `closed` modulo 4. -/
structure Phases where
  closed : Nat := 0
  completed : Nat := 0
  counts : List (Nat × Nat) := []
  opens : List OpenPhase := []
deriving DecidableEq, Repr, Inhabited

/-! ## Harvest and saved state -/

/-- A lease of CI, CO, MX or VX (R328, R329). -/
structure Lease where
  held : Bool := false
  ret : Nat := 0
  renew : Nat := 0
  start : Nat := 0
deriving DecidableEq, Repr, Inhabited

/-- A Cupboard bank (R324): a checkpoint with the values of the physical counters its map names, REVS and the mark of
R446, whether the context is parked, and since when. -/
structure Bank where
  used : Bool := false
  ctx : Ctx := {}
  sems : List (Nat × BitVec 32) := []
  revs : Nat := 0
  marked : Bool := false
  parked : Bool := false
  order : Nat := 0
  /-- It was parked by its own YIELD, and no context has entered slot H since (R333). -/
  yielded : Bool := false
deriving DecidableEq, Repr, Inhabited

/-- A unit saved by pre-emption (R440, R442): its context, the owner records of each engine queue with the head's state,
and the live regions with tags and versions; `lost` when the pool could not hold the regions. -/
structure Saved where
  ctx : Ctx
  engines : List (List QEntry × Head)
  cells : Mem
  poison : List Nat
  tags : List (Nat × BitVec 4)
  vers : List (Nat × BitVec 8)
  live : BitVec 60
  lost : Bool
deriving DecidableEq, Repr, Inhabited

/-- A TLB entry (R401): its world, the page it translates at both stages with the permissions of both, and the logarithm of
the bytes it spans; `vpage` and `ppage` are its first pages. -/
structure TlbEntry where
  vnpu : VnpuId
  world : BitVec 8
  span : Nat
  vpage : Nat
  ppage : Nat
  write1 : Bool
  exec1 : Bool
  sOnly : Bool
  write2 : Bool
  exec2 : Bool
  enc : Bool
deriving DecidableEq, Repr, Inhabited

/-- A window of a core (R319, R383). -/
structure Window where
  offset : Nat := 0
  owner : Option LeafId := none
  harvest : Option LeafId := none
  lend : BitVec 60 := 0
deriving DecidableEq, Repr, Inhabited

/-- A core (R20). -/
structure Core where
  ctxO : Ctx := {}
  ctxH : Ctx := {}
  eng : Vector Engine 5 := Vector.replicate 5 {}
  /-- Slot O, slot H, CI, CO, MX, VX, XF. -/
  phases : Vector Phases 7 := Vector.replicate 7 {}
  /-- The local stores by local address (R22). -/
  store : Mem := []
  /-- Poisoned 64-byte units, by local address / 64 (R449). -/
  poison : List Nat := []
  tags : Vector (BitVec 4) 12 := Vector.replicate 12 0
  vers : Vector (BitVec 8) 12 := Vector.replicate 12 0
  lent : BitVec 60 := 0
  sems : Vector (BitVec 32) 64 := Vector.replicate 64 0
  /-- Counters 0-47 of leaves that do not own the window (R259). -/
  semsOf : List (LeafId × List (BitVec 32)) := []
  l1 : List LineCopy := []
  icache : List LineCopy := []
  tlb : List TlbEntry := []
  cupboard : Vector Bank 4 := Vector.replicate 4 {}
  leases : Vector Lease 4 := Vector.replicate 4 {}
  recalled : Bool := false
  /-- The virtual NPU whose unit lent regions by LEND in this window (R290). -/
  lender : Option VnpuId := none
  /-- A revocation of slot H is asked for; it may be deferred (R330, R362). -/
  revoke : Bool := false
  /-- The revocation comes from RECALL or a window end, which nothing defers (R362). -/
  revokeHard : Bool := false
  /-- The current window (R319), and the GTC at which it began; none before the first. -/
  window : Window := {}
  windowAt : Option Nat := none
  /-- MODEL: the window ran with owner none because its leaf was suspended, which the boundary that ends it is still to see (R320,
  R322). -/
  dark : Bool := false
  /-- MODEL: TICK and PC of slot O as the present core cycle began: once they have moved slot O has issued in it, which keeps slot H from
  it (R21). -/
  ownerAt : Option (Word × Word) := none
  /-- Saved units, at most one of each leaf (R311, R314). -/
  saved : List Saved := []
  quarantined : Bool := false
  /-- The world last served by slot O (R411). -/
  world : BitVec 8 := 0
  /-- The launch nest last dispatched (R116). -/
  lastNest : Option Nat := none
  /-- FUSE is in force for the unit (R24). -/
  fused : Bool := false
  /-- The virtual NPU in guest reset whose unit slot O held: the clear routine is still to run (R417). -/
  clearDue : Option VnpuId := none
  /-- Virtual NPUs that slot O has served since the last clear (R417). -/
  served : List VnpuId := []
  /-- The logic of CLRSIG fails its own parity (R412). -/
  sigBad : Bool := false
  /-- MODEL: for each source of the core, the fabric cycle of the last stamp that happens before what it does next (R242). -/
  stamps : Vector Nat 7 := Vector.replicate 7 0
deriving DecidableEq, Repr, Inhabited

/-! ## Messages in flight (R226-R231, R293-R299) -/

/-- A slice invocation (R293, R295). -/
structure Invocation where
  id : Nat
  src : CtxId
  wait : Bool
  pa : Nat
  va : Nat
  rid : Nat
  vr : Nat
  lane : Nat
  x0 : Word
  x1 : Word
  cls : Nat
  order : Nat
  phase : Nat
  vnpu : VnpuId
  rgen : BitVec 16
  seq : BitVec 32
  /-- The issuing context is U, and its SERIAL (R316). -/
  user : Bool
  serial : BitVec 32
deriving DecidableEq, Repr, Inhabited

/-- How an invocation came back (R293, R298). -/
inductive Reply where
  | done (q : Word)
  | nack
  | fault (cause einfo sub : Nat)
deriving DecidableEq, Repr, Inhabited

/-- The tag of a line of an encrypted tensor (R405). -/
structure LineTag where
  tid : Nat
  wver : Nat
  va : Nat
deriving DecidableEq, Repr, Inhabited

/-- What a message carries. A write carries bytes at addresses of one line, those of an engine of one aligned 64-byte unit (R211);
`after` is how many phases of its source must be complete (a release store, R227). -/
inductive Payload where
  | write (parts : List (Nat × List Byte)) (after : Nat) (alloc : Bool) (tag : Option LineTag)
  | hostWrite (vnpu : VnpuId) (parts : List (Nat × List Byte))
  | marker (phase : Nat) (count : Nat)
  | invoke (i : Invocation)
  | reply (i : Invocation) (r : Reply)
deriving DecidableEq, Repr, Inhabited

/-- A message in flight: its source and class, its target (slice 0-71, or 72 the host port), the phase of its source it
belongs to (its tag is the phase modulo 4), the virtual NPU it is sent for with its reset generation (R416), and the SERIAL
and the order count of a context that sends it (R213). -/
structure Msg where
  id : Nat
  src : Src
  cls : Nat
  target : Nat
  phase : Nat
  vnpu : VnpuId
  rgen : BitVec 16
  serial : BitVec 32
  order : Nat
  body : Payload
deriving DecidableEq, Repr, Inhabited

/-- An arrival counter of R229. -/
structure Arrival where
  target : Nat
  src : Src
  tag : Nat
  count : Nat
deriving DecidableEq, Repr, Inhabited

/-! ## Slices -/

/-- A routine executor (R280, R283): the invocation it holds, the lanes and what is written of them, y0-y3, q, f, and
the words still to execute. -/
structure Exec where
  inv : Option Invocation := none
  lanes : Vector Word 16 := Vector.replicate 16 0
  written : BitVec 16 := 0
  y : Vector Word 4 := Vector.replicate 4 0
  q : Word := 0
  f : Bool := false
  x0 : Word := 0
  x1 : Word := 0
  n : Fin 16 := 0
  words : List (BitVec 32) := []
deriving DecidableEq, Repr, Inhabited

/-- A resident line of a slice (R393); the list is in order of use, newest first. -/
structure Resident where
  line : Nat
  way : Nat
  dirty : Bool
deriving DecidableEq, Repr, Inhabited

/-- A cache slice (R25, R280, R393, R394). -/
structure Slice where
  queue : List Invocation := []
  execs : Vector Exec 4 := Vector.replicate 4 {}
  /-- The top-level partition granted last (R280). -/
  rr : Nat := 7
  holders : Vector (Option LeafId) 16 := Vector.replicate 16 none
  resident : List Resident := []
  /-- Shadow LRU stacks of sampled sets: leaf, set, lines newest first (R394). -/
  shadow : List (LeafId × Nat × List Nat) := []
  /-- Hit counters H(L, 1) to H(L, 16). -/
  hits : List (LeafId × List Nat) := []
  /-- Routine slots whose image copy here has a parity error (R298). -/
  badImages : List Nat := []
deriving DecidableEq, Repr, Inhabited

/-- An installed routine of a leaf (R289, R291). -/
structure Routine where
  leaf : LeafId
  rid : Nat
  slot : Nat
  words : List (BitVec 32)
deriving DecidableEq, Repr, Inhabited

/-- A Strongroom copy of a tensor slot (R270, R410). -/
structure TensorCopy where
  leaf : LeafId
  slot : Nat
  tid : Nat
  wver : Nat
  world : BitVec 8
  enc : Bool
  sealed : Bool
  writer : Option EngId
  /-- The writer has sent a line (R406). -/
  sent : Bool := false
  /-- The unit or harvest context whose record the writer is (R406). -/
  unit : Option UnitId := none
deriving DecidableEq, Repr, Inhabited

/-! ## Contracts (R380-R383) -/

/-- A partition contract (R380). -/
structure PartContract where
  cores : BitVec 96 := 0
  lanes : BitVec 32 := 0
  wftq : Nat := 0
  rtq : Nat := 0
  floor : Nat := 0
  ceil : Nat := 0
  /-- BMODE 1 is SUSPEND. -/
  suspend : Bool := false
  /-- REGMODE 1 is stall-then-trap. -/
  regTrap : Bool := false
  thresh : Nat := 0
  budget : Nat := 0
  rateCore : Nat := 0
  depthCore : Nat := 0
  rateHost : Nat := 0
  depthHost : Nat := 0
  rateMc : Nat := 0
  depthMc : Nat := 0
  bcap : Nat := 0
  bstart : Nat := 0
  brate : Nat := 0
  vnpus : BitVec 64 := 0
deriving DecidableEq, Repr, Inhabited

/-- A launch queue record (R382). -/
structure QueueRec where
  ring : Nat := 0
  qcb : Nat := 0
  inModule : Bool := false
  irq : Bool := false
  k : Nat := 0
deriving DecidableEq, Repr, Inhabited

/-- A virtual NPU contract (R382). -/
structure VnpuContract where
  enable : Bool := false
  leaf : LeafId := 0
  world : BitVec 8 := 0
  shared : Bool := false
  harvest : Bool := false
  tc : Nat := 0
  weight : Nat := 1
  msiBase : Nat := 0
  queues : Vector QueueRec 8 := Vector.replicate 8 {}
deriving DecidableEq, Repr, Inhabited

/-- A contract set (R379-R383). -/
structure Contracts where
  tops : Vector PartContract 8 := Vector.replicate 8 {}
  leaves : Vector PartContract 64 := Vector.replicate 64 {}
  vnpus : Vector VnpuContract 64 := Vector.replicate 64 {}
  windows : Vector (List Window) 96 := Vector.replicate 96 []
  /-- FRAME in microseconds; 0 when no set is in force. -/
  frame : Nat := 0
  baseHigh : BitVec 8 := 0
  lockstep : BitVec 8 := 0
  boostOwn : Vector (Option LeafId) 8 := Vector.replicate 8 none
  /-- G of R437. -/
  grace : Nat := 20
  /-- The save-pool size in MiB (R482). -/
  pool : Nat := 0
  /-- The TSYNC period in ms; 0 selects host discipline (R473, R482). -/
  tsync : Nat := 0
  /-- The digest of the blob that holds the set (R481). -/
  digest : Nat := 0
deriving DecidableEq, Repr, Inhabited

/-- Who asks a regulator: a context at its next word, an engine for its head, a message in flight, an invocation queued at a
slice, a host read, or the walker for a queue. -/
inductive Asker where
  | ctx (i : CtxId) (pc : Word)
  | eng (e : EngId) (seq : BitVec 32)
  | msg (id : Nat)
  | inv (id : Nat)
  | host (id : Nat)
  | walker (v : VnpuId) (q : Fin 8)
deriving DecidableEq, Repr, Inhabited

/-- A request that a regulator holds (R386): its traffic class, the GTC at which it came, and how many requests of the same access
went before it. -/
structure HeldReq where
  who : Asker
  tc : Nat
  since : Nat
  before : Nat
deriving DecidableEq, Repr, Inhabited

/-- A regulator (R386-R389): leaf and point, the level in eighths of a byte, the requests held in order of arrival, and whether
it tripped in this frame. -/
structure Regulator where
  leaf : LeafId
  point : Nat
  lvl : Int
  held : List HeldReq
  tripped : Bool
deriving DecidableEq, Repr, Inhabited

/-- What a leaf has used (R322, R337, R359, R390). -/
structure LeafState where
  used : Nat := 0
  reached : Bool := false
  wftstat : Word := 0
  account : Nat := 0
  boosted : Bool := false
  adj : BitVec 32 := 0
deriving DecidableEq, Repr, Inhabited

/-! ## Launch (R303-R314) -/

/-- A nest taken from a queue (R306, R307): its place in the queue, its fields, the next iteration to deal, and how many
have retired. -/
structure Nest where
  uid : Nat
  index : Nat
  entry : Word
  args : Word
  trip0 : Nat
  trip1 : Nat
  trip2 : Nat
  trip3 : Nat
  order : BitVec 8
  group : Nat
  gang : Bool
  fuse : Bool
  serial : Bool
  harvest : Bool
  next : Nat
  retired : Nat
  rejected : Bool
deriving DecidableEq, Repr, Inhabited

/-- A launch queue (R304, R308): the indices, the nests taken and not yet counted in DONE, oldest first. -/
structure LaunchQueue where
  prod : BitVec 32 := 0
  cons : BitVec 32 := 0
  done : BitVec 32 := 0
  rej : BitVec 32 := 0
  nests : List Nest := []
  /-- The indices wait to be written to the control block; the message of DONE follows (R305). -/
  unpublished : Option Bool := none
  qstop : Bool := false
  dfail : Bool := false
deriving DecidableEq, Repr, Inhabited

/-- A level-1 domain (R310, R317). -/
structure Domain where
  id : BitVec 16
  nest : Nat
  index : Nat
  size : Nat
  top : TopId
  cluster : ClusterId
  /-- The units of the members dealt, by rank. -/
  members : List (Nat × UnitId)
  retired : List Nat
deriving DecidableEq, Repr, Inhabited

/-- A sweep asked for by SCRUBREQ (R452). -/
structure Sweep where
  va : Nat
  len : Nat
  receipt : Nat
  ticket : Nat
  t0 : Nat
  ctx : CtxId
deriving DecidableEq, Repr, Inhabited

/-- The TDISP states (R413). -/
inductive Tdisp where
  | unlocked | locked | run | error
deriving DecidableEq, Repr, Inhabited

/-- What the Strongroom, the walker and the host port hold for a virtual NPU (R290, R304, R321, R398, R413-R416, R424). -/
structure Vnpu where
  queues : Vector LaunchQueue 8 := Vector.replicate 8 {}
  pass : Nat := 0
  dispatched : Nat := 0
  harvested : Nat := 0
  rgen : BitVec 16 := 0
  busy : Bool := false
  fails : Nat := 0
  stale : Nat := 0
  ideStale : Nat := 0
  badDb : Bool := false
  /-- The interface has left RUN and no guest reset has completed since (R415, R476). -/
  leftRun : Bool := false
  evec : Word := 0
  ctxsave : Word := 0
  s1root : Nat := 0
  s2root : Nat := 0
  rtMap : Vector (Option (Fin 256)) 32 := Vector.replicate 32 none
  tdisp : Tdisp := .unlocked
  /-- The key set in force, 0 or 1, and how many have been in force before it (R414). -/
  kset : Bool := false
  keyGen : Nat := 0
  /-- The GTC at which the old key slot is erased. -/
  oldKey : Option Nat := none
  sweeps : List Sweep := []
  /-- Host pages that ATS has translated: the page, and the page of host memory it names (R278). -/
  granted : List (Nat × Nat) := []
  /-- BAR 2 of the virtual function: its MSI-X table and pending-bit array (R476, log 74). -/
  msixTable : Mem := []
deriving DecidableEq, Repr, Inhabited

/-- A mapping marked for migration (R299): the virtual NPU, the first page of the intermediate address, the first old and new
physical pages, and how many pages the stage-2 entry maps. -/
structure Migration where
  vnpu : VnpuId
  ipage : Nat
  old : Nat
  new : Nat
  pages : Nat
deriving DecidableEq, Repr, Inhabited

/-- A page request in flight (R454). -/
structure PageReq where
  index : Nat
  vnpu : VnpuId
  rgen : BitVec 16
  page : Nat
  since : Nat
deriving DecidableEq, Repr, Inhabited

/-- A host read of an aligned 64-byte unit in flight (R239, R414): the engine and the tag of its record, the address of the unit in
the tensor's space, and the key set it was issued under. -/
structure HostReq where
  id : Nat
  eng : EngId
  tag : Nat
  vnpu : VnpuId
  rgen : BitVec 16
  addr : Nat
  key : Nat
  /-- The bytes the host returned, or none for a failed completion. -/
  result : Option (Option (List Byte)) := none
  /-- The interface left RUN after the request was sent: its completion counts as failed (R415). -/
  lost : Bool := false
deriving DecidableEq, Repr, Inhabited

/-! ## Waits -/

/-- A registration in the wait-for table (R351). -/
structure WftEntry where
  obj : BitVec 32
  agent : Src
  holder : Bool
  explicit : Bool
  leaf : LeafId
deriving DecidableEq, Repr, Inhabited

/-- What the wait-for table is asked to process (R351, R354, R363). -/
inductive WftReq where
  /-- A registered wait begins: register and walk. -/
  | block (a : Src) (obj : BitVec 32)
  | woreg (c : CtxId) (obj : BitVec 32)
  | wodereg (c : CtxId) (obj : BitVec 32)
  | wohold (c : CtxId) (obj : BitVec 32)
  | worel (c : CtxId) (leaf : LeafId) (obj : BitVec 32)
  | wowait (c : CtxId) (obj : BitVec 32)
  | wopoll (c : CtxId) (obj : BitVec 32)
  /-- An engine queue of a bank has become empty: walk from the affected waiters. -/
  | idle (e : EngId) (slot : Slot)
deriving DecidableEq, Repr, Inhabited

/-- A barrier meeting (R368-R370): its object, whether it is a BARXF, its members, how many of them are not dispatched
yet, who has arrived, and the fabric cycle of the last arrival (R371). -/
structure Barrier where
  id : Nat
  obj : BitVec 32
  xf : Bool
  members : List UnitId
  missing : Nat
  arrived : List UnitId
  lastAt : Nat := 0
deriving DecidableEq, Repr, Inhabited

/-- An XF operation of a phase program (R373). -/
inductive XKind where
  | tx | muxsel | xhold | xend
deriving DecidableEq, Repr, Inhabited

/-- A beat injected in a phase (R375): stop, lane, west, the phase cycle, the order among injections at one stop (core,
then record), and its 32 bytes. -/
structure Beat where
  stop : Nat
  lane : Nat
  west : Bool
  cycle : Nat
  core : Nat
  order : Nat
  data : BitVec 256
deriving DecidableEq, Repr, Inhabited

/-- A write of a MUXSEL still to be performed (R376). -/
structure BeatWrite where
  core : CoreId
  addr : Nat
  cycle : Nat
  data : BitVec 256
deriving DecidableEq, Repr, Inhabited

/-- A fault of a phase program, reported after the phase closes (R374, R449): the member, the index of its record, the step
of a poisoned TX source (none for a validation fault), and the trap. -/
structure XFault where
  ctx : CtxId
  record : Nat
  step : Option Nat
  trap : Trap
deriving DecidableEq, Repr, Inhabited

/-- A transfer phase (R371-R377). -/
structure XPhase where
  id : Nat
  obj : BitVec 32
  members : List CtxId
  /-- S; none until the start is fixed. -/
  start : Option Nat
  faults : List XFault
  beats : List Beat
  writes : List BeatWrite
  /-- P: 1 plus the greatest E of the XENDs (R377), 0 before the first. -/
  p : Nat
  /-- The sequence number of the first record of each member's program: the records of a program are counted from it. -/
  firsts : List (CtxId × BitVec 32) := []
deriving DecidableEq, Repr, Inhabited

/-! ## The device (R15-R17, R335-R340, R470-R488) -/

/-- A cluster's rail and clock (R17, R340, R451). -/
structure Cluster where
  railHigh : Bool := false
  /-- The rail the multiplexer is moving to, with the fabric cycle at which the move began. -/
  moving : Option (Bool × Nat) := none
  clockHigh : Bool := false
  granted : Bool := false
  fall : BitVec 3 := 0
  /-- Quarters of a core cycle counted since module reset (R16). -/
  quarters : Nat := 0
  retention : Bool := false
  /-- The GTC since which nothing of the cluster has been active (R451). -/
  quietAt : Option Nat := none
  /-- MODEL: TICK and PC of its contexts as they stood at the last fabric cycle in which it was quiet: once one has moved it has issued
  (R451). -/
  marks : List (Word × Word) := []
  /-- MODEL: retention is to end at the next epoch, and whether a retention element has lost its parity (R16, R451). -/
  waking : Option Bool := none
deriving DecidableEq, Repr, Inhabited

/-- An error-log record (R456). -/
structure ErrRec where
  stamp : Nat
  src : Nat
  cls : Nat
  faultN : Bool
  leaf : Nat
  vnpu : Nat
  world : Nat
  cause : Nat
  addr : Nat
  detail : Nat
deriving DecidableEq, Repr, Inhabited

/-- The error log (R483, R484): records in (stamp, source) order, each with its sequence number, and the count dropped. -/
structure ErrLog where
  recs : List (Nat × ErrRec) := []
  seq : Nat := 0
  dropped : Nat := 0
deriving DecidableEq, Repr, Inhabited

/-- An output of the module: MSI-X messages and the answers to host and management reads, newest first. -/
inductive Output where
  | msix (vector : Nat)
  | value (v : Nat)
  | bytes (bs : List Byte)
  /-- A configuration request is answered, or has Configuration Request Retry Status (R478, R479). -/
  | config (retry : Bool)
  /-- The interface report: the BAR ranges by number and length, and the contracts in force of a virtual NPU, its leaf and its
  top-level partition (R413). -/
  | report (v : VnpuId) (bars : List (Nat × Nat)) (c : VnpuContract) (leaf top : PartContract)
  /-- The attestation log and its signature (R481). -/
  | measurements (log : List Nat) (signature : Nat)
deriving DecidableEq, Repr, Inhabited

/-! ## Who acts next (MODEL) -/

/-- An item of the agenda: one step of one agent. -/
inductive Act where
  /-- One fabric cycle passes. -/
  | clock
  /-- A core cycle begins at a core with both contexts present (R21). -/
  | coreCycle (c : CoreId)
  /-- A context tries to issue. -/
  | ctx (c : CtxId)
  /-- An engine tries to start, walk or retire its head. -/
  | eng (e : EngId)
  /-- A record of a phase program, by its index, runs its step of the current phase cycle (R376). -/
  | xf (c : CoreId) (n : Nat)
  /-- An executor runs its next word. -/
  | slice (m : SliceId) (x : Fin 4)
  /-- An event of the table. -/
  | event (i : Instr) (a : EvIn)
  /-- The root controller writes memory; `root` also its tables (R398, log 3). -/
  | rootStore (pa : Nat) (bytes : List Byte)
  | rootOwner (page : Nat) (world : BitVec 8)
  | rootStage2 (v : VnpuId) (pa : Nat)
  /-- A protected DRAM range is set: its first page, its pages, and the first page of its tag area (R403). -/
  | rootRange (page pages tags : Nat)
  /-- The key of a world is drawn anew (R410). -/
  | rootKey (world : BitVec 8)
  /-- The host writes its memory. -/
  | hostStore (addr : Nat) (bytes : List Byte)
  /-- ATS translates a page to a page of host memory. -/
  | hostGrant (v : VnpuId) (page dest : Nat)
deriving DecidableEq, Repr

/-- The agent that acts now (MODEL): the parts a meaning acts on. -/
structure Cur where
  core : CoreId := 0
  slot : Slot := .o
  eng : Eng := .ci
  /-- The index of a record in its phase program. -/
  xrec : Nat := 0
  slice : SliceId := 0
  exec : Fin 4 := 0
  ev : EvIn := {}
deriving DecidableEq, Repr, Inhabited

/-! ## The module -/

/-- The state of the module. -/
structure State where
  cores : Vector Core 96
  slices : Vector Slice 72
  vnpus : Vector Vnpu 64
  leaves : Vector LeafState 64
  /-- Top-level budgets used (R384). -/
  topUsed : Vector Nat 8
  /-- The top-level budgets reached in this frame (R384). -/
  topReached : BitVec 8
  clusters : Vector Cluster 8
  -- memory
  dram : Mem
  host : Mem
  /-- Ownership of pages that are not of world 0 (R397). -/
  owner : List (Nat × BitVec 8)
  /-- Pages whose pending-zero bit is clear (R402); every other page is pending. -/
  zeroed : List Nat
  poison : List Nat
  lineTags : List (Nat × LineTag)
  /-- Lines whose stored ciphertext or MAC fails its check (R407). -/
  badLines : List Nat
  /-- Protected DRAM ranges: first page, pages, first page of the tag area (R403). -/
  ranges : List (Nat × Nat × Nat)
  /-- Corrected errors of DRAM: how many, and the pages and passes in which lines showed them (R449, R452). -/
  corrected : Nat
  shown : List (Nat × Nat)
  /-- Passes of the scrubber completed (R452). -/
  scrubPass : Nat
  /-- The second-level TLBs of the compute strips (R27, R401). -/
  strips : Vector (List TlbEntry) 16
  -- messages
  net : List Msg
  msgs : Nat
  arrivals : List Arrival
  /-- The phases of the root controller's writes (R226). -/
  rootPhases : Phases
  /-- MODEL: the fabric cycle from which what follows a release in another context may be stamped (R242, log 87). -/
  relStamp : Nat
  /-- MODEL: the first fabric cycle after the stamps of every source so far: a release covers what its source has seen (R221, R242). -/
  lastStamp : Nat
  /-- Host reads in flight (R239, R414). -/
  hostReqs : List HostReq
  pageReqs : List PageReq
  -- Strongroom
  contracts : Contracts
  pending : Option Contracts
  routines : List Routine
  tensors : List TensorCopy
  highWater : List (BitVec 8 × Nat)
  /-- Pages marked for migration (R299). -/
  migrating : List Migration
  regs : List Regulator
  -- launch
  /-- PROD of a module queue registered with its home slice: its physical address; and the queues whose PROD has been
  written since (R305). -/
  prodAt : List (VnpuId × Fin 8 × Nat)
  prodDue : List (VnpuId × Fin 8)
  nestUid : Nat
  domains : List Domain
  parkOrder : Nat
  -- waits
  wft : List WftEntry
  wftQueue : List WftReq
  barriers : List Barrier
  barrierIds : Nat
  xphases : List XPhase
  -- device
  cycle : Nat
  gtc : Word
  frac : BitVec 32
  /-- What is still to be removed from the GTC, in units of 2^-32 ns (R473). -/
  slew : Int
  tscap : Word
  tsLast : Nat
  tsLost : Bool
  frameStartAt : Nat
  ePermits : Nat
  /-- Q in units of 10 nJ, so that P_est may be in mW (R336). -/
  qRem : Int
  /-- The first interval boundary since module reset has passed (R339). -/
  settled : Bool
  /-- A set took effect at the present boundary: its accounts are not refilled there (R462). -/
  accountsFresh : Bool
  temps : List Int
  /-- MODEL: the sensors whose last reading passed the limit at which they write a record (R488, log 31). -/
  pastLimit : List Nat
  held : Bool
  ready : Bool
  recovery : Bool
  halted : Bool
  faultN : Bool
  /-- The sequence number of the last record that asserted FAULT_N (R485). -/
  lastAssert : Option Nat
  /-- Rails out of tolerance with the GTC since which they are (R472), and a root-controller mismatch: conditions that keep FAULT_N asserted (R485). -/
  railsOut : List (Rail × Nat)
  rootBad : Bool
  /-- Every cluster is held low after a reading of 110 degrees (R488). -/
  hot : Bool
  /-- P_est of the last interval in mW (R483). -/
  pEst : Nat
  thermN : Bool
  errlog : ErrLog
  blobstat : Word
  /-- The blob whose validation has not ended (R482). -/
  validating : Option Blob
  /-- The staging window of BAR 2 of the physical function (R475). -/
  staging : Mem
  spiFrame : Nat
  /-- The GTC at which the frame count last advanced (R486). -/
  spiAt : Nat
  attest : List Nat
  outputs : List Output
  -- MODEL
  cur : Cur
  agenda : List Act
  /-- The counter of the free values: no statement rests on its value. -/
  free : Nat
deriving DecidableEq, Repr

/-- The routine map of a new virtual NPU: 0-15 to ids 0-15 (R290). -/
def rtMap0 : Vector (Option (Fin 256)) 32 :=
  ⟨#[some 0, some 1, some 2, some 3, some 4, some 5, some 6, some 7, some 8, some 9, some 10, some 11, some 12, some 13,
     some 14, some 15, none, none, none, none, none, none, none, none, none, none, none, none, none, none, none, none], rfl⟩

/-- The semaphore map of slot O after core reset: virtual s to physical s for 0-47 (R259). -/
def semMapO : Vector (BitVec 8) 64 := ⟨((List.range 64).map fun s => if s < 48 then BitVec.ofNat 8 s else 0x80).toArray, rfl⟩

/-- The semaphore map of a harvest context at its start: virtual s to physical 48 + s for 0-15 (R259). -/
def semMapH : Vector (BitVec 8) 64 := ⟨((List.range 64).map fun s => if s < 16 then BitVec.ofNat 8 (48 + s) else 0x80).toArray, rfl⟩

/-- A core right after module reset (R259, R411; log 1, log 2). -/
def Core.reset : Core := { ctxO := { semMap := semMapO } }

/-- A virtual NPU right after module reset (R290, R398, R424). -/
def Vnpu.reset : Vnpu := { rtMap := rtMap0 }

/-- The module right after reset (R478): no contract in force, every page pending-zero and of world 0, E at 16,384 (R336),
and every queue, table and message empty. The module is held in reset until BOOT (R479). The GTC starts at 0, for which the spec
gives no value, and so does TSCAP (log 1). -/
def State.reset : State where
  cores := Vector.replicate 96 Core.reset
  slices := Vector.replicate 72 {}
  vnpus := Vector.replicate 64 Vnpu.reset
  leaves := Vector.replicate 64 {}
  topUsed := Vector.replicate 8 0
  topReached := 0
  clusters := Vector.replicate 8 {}
  dram := []
  host := []
  owner := []
  zeroed := []
  poison := []
  lineTags := []
  badLines := []
  ranges := []
  corrected := 0
  shown := []
  scrubPass := 0
  strips := Vector.replicate 16 []
  net := []
  msgs := 0
  arrivals := []
  rootPhases := {}
  relStamp := 0
  lastStamp := 0
  hostReqs := []
  pageReqs := []
  contracts := {}
  pending := none
  routines := []
  tensors := []
  highWater := []
  migrating := []
  regs := []
  prodAt := []
  prodDue := []
  nestUid := 0
  domains := []
  parkOrder := 0
  wft := []
  wftQueue := []
  barriers := []
  barrierIds := 0
  xphases := []
  cycle := 0
  gtc := 0
  frac := 0
  slew := 0
  tscap := 0
  tsLast := 0
  tsLost := false
  frameStartAt := 0
  ePermits := 16384
  qRem := 0
  settled := false
  accountsFresh := false
  temps := []
  pastLimit := []
  held := true
  ready := false
  recovery := false
  halted := false
  faultN := false
  lastAssert := none
  railsOut := []
  rootBad := false
  hot := false
  pEst := 0
  thermN := false
  errlog := {}
  blobstat := 0
  validating := none
  staging := []
  spiFrame := 0
  spiAt := 0
  attest := []
  outputs := []
  cur := {}
  agenda := []
  free := 0

end Sys2Proof.Machine
end

