-- ==== Sys2Proof/Machine/Parts.lean ====
section
/-! DEFINITION. The parts of the module: reading one, replacing one, and the numbers the rules derive from them
(R9-R11, R22, R25, R26, R241, R378). -/

namespace Sys2Proof.Machine

/-- The answer of a step. -/
abbrev Result := Host.Outcome State Fault Refusal

/-! ## Cores, contexts, engines -/

def Core.ctx (k : Core) (sl : Slot) : Ctx :=
  match sl with
  | .o => k.ctxO
  | .h => k.ctxH

def Core.setCtx (k : Core) (sl : Slot) (c : Ctx) : Core :=
  match sl with
  | .o => { k with ctxO := c }
  | .h => { k with ctxH := c }

def State.core (s : State) (c : CoreId) : Core := s.cores.get c
def State.setCore (s : State) (c : CoreId) (k : Core) : State := { s with cores := s.cores.set c k }
def State.modCore (s : State) (c : CoreId) (f : Core → Core) : State := s.setCore c (f (s.core c))

def State.ctx (s : State) (i : CtxId) : Ctx := (s.core i.core).ctx i.slot
def State.setCtx (s : State) (i : CtxId) (c : Ctx) : State := s.modCore i.core fun k => k.setCtx i.slot c
def State.modCtx (s : State) (i : CtxId) (f : Ctx → Ctx) : State := s.setCtx i (f (s.ctx i))

/-- The context that acts. -/
def State.me (s : State) : CtxId := ⟨s.cur.core, s.cur.slot⟩

/-- Engine e as an index 0-4. -/
def Eng.fin (e : Eng) : Fin 5 := e.code

def Core.engine (k : Core) (e : Eng) : Engine := k.eng.get (Eng.fin e)
def Core.setEngine (k : Core) (e : Eng) (x : Engine) : Core := { k with eng := k.eng.set (Eng.fin e) x }
def State.engine (s : State) (i : EngId) : Engine := (s.core i.core).engine i.eng
def State.setEngine (s : State) (i : EngId) (x : Engine) : State := s.modCore i.core fun k => k.setEngine i.eng x
def State.modEngine (s : State) (i : EngId) (f : Engine → Engine) : State := s.setEngine i (f (s.engine i))

/-- An engine with another queue: its first record stands as it resumes, or is not started (R430). -/
def Engine.withQueue (x : Engine) (q : List QEntry) : Engine :=
  { x with queue := q, head := match q with | r :: _ => r.resume.getD {} | [] => {} }

/-- The engine that acts. -/
def State.myEng (s : State) : EngId := ⟨s.cur.core, s.cur.eng⟩

def engs : List Eng := [.ci, .co, .mx, .vx, .xf]

def allCores : List CoreId := List.finRange 96
def allCtx : List CtxId := allCores.flatMap fun c => [⟨c, .o⟩, ⟨c, .h⟩]

/-! ## Virtual NPUs and leaves -/

def State.vnpu (s : State) (v : VnpuId) : Vnpu := s.vnpus.get v
def State.modVnpu (s : State) (v : VnpuId) (f : Vnpu → Vnpu) : State := { s with vnpus := s.vnpus.set v (f (s.vnpu v)) }
def State.contract (s : State) (v : VnpuId) : VnpuContract := s.contracts.vnpus.get v
def State.leafOf (s : State) (v : VnpuId) : LeafId := (s.contract v).leaf
def State.leafContract (s : State) (l : LeafId) : PartContract := s.contracts.leaves.get l
/-- The top-level partition of a leaf (R378). -/
def topOf (l : LeafId) : TopId := ⟨l.val / 8, by omega⟩
def State.topContract (s : State) (t : TopId) : PartContract := s.contracts.tops.get t
def State.leaf (s : State) (l : LeafId) : LeafState := s.leaves.get l
def State.modLeaf (s : State) (l : LeafId) (f : LeafState → LeafState) : State :=
  { s with leaves := s.leaves.set l (f (s.leaf l)) }
/-- The leaf of a context, fixed at its dispatch (R317). -/
def State.ctxLeaf (s : State) (i : CtxId) : LeafId := (s.ctx i).leaf
def State.ctxTop (s : State) (i : CtxId) : TopId := topOf (s.ctxLeaf i)
/-- The world a context serves (R396). -/
def State.ctxWorld (s : State) (i : CtxId) : BitVec 8 := (s.contract (s.ctx i).vnpu).world

def LaunchQueue.dflt : LaunchQueue := {}
def Vnpu.queue (v : Vnpu) (q : Fin 8) : LaunchQueue := v.queues.get q
def State.modQueue (s : State) (v : VnpuId) (q : Fin 8) (f : LaunchQueue → LaunchQueue) : State :=
  s.modVnpu v fun x => { x with queues := x.queues.set q (f (x.queue q)) }

/-! ## Slices, clusters, places -/

def State.slice (s : State) (m : SliceId) : Slice := s.slices.get m
def State.modSlice (s : State) (m : SliceId) (f : Slice → Slice) : State := { s with slices := s.slices.set m (f (s.slice m)) }
def Slice.exec (x : Slice) (i : Fin 4) : Exec := x.execs.get i
def Slice.setExec (x : Slice) (i : Fin 4) (e : Exec) : Slice := { x with execs := x.execs.set i e }

def State.cluster (s : State) (k : ClusterId) : Cluster := s.clusters.get k
def State.modCluster (s : State) (k : ClusterId) (f : Cluster → Cluster) : State :=
  { s with clusters := s.clusters.set k (f (s.cluster k)) }

/-- Core n lies in cluster n div 12 (R10). -/
def clusterOf (c : CoreId) : ClusterId := ⟨c.val / 12, by omega⟩

/-- The stop of core n (R11). -/
def stopOf (c : CoreId) : Nat := 3 * (c.val / 12) + 2 * (c.val / 6 % 2)

/-- The stop of slice m (R10). -/
def stopOfSlice (m : SliceId) : Nat := 3 * (m.val / 9) + 1

/-- The home slice of a line (R25). -/
def homeSlice (line : Nat) : SliceId :=
  ⟨((bits line 12 0) ^^^ (bits line 25 13) ^^^ (bits line 30 26)) % 72, Nat.mod_lt _ (by decide)⟩

/-- The set of a line within its slice (R25). -/
def homeSet (line : Nat) : Nat := (bits line 9 0) ^^^ (bits line 19 10)

/-- The memory controller of a physical address (R26). -/
def controllerOf (pa : Nat) : Nat := (bits pa 11 8) ^^^ (bits pa 15 12) ^^^ (bits pa 19 16)

/-- The target number of the host port among the targets of R226. -/
def hostPort : Nat := 72

/-- Lockstep is selected in the core's cluster (R12). -/
def State.lockstep (s : State) (c : CoreId) : Bool := s.contracts.lockstep.getLsbD (clusterOf c)

/-- The core cycles its cluster has counted (R16). -/
def State.coreCycle (s : State) (c : CoreId) : Nat := (s.cluster (clusterOf c)).quarters / 4

/-- The current window of a core (R319). -/
def State.window (s : State) (c : CoreId) : Window := (s.core c).window

/-- A leaf is suspended for the rest of the frame: its own budget, or its top-level partition's, is reached under SUSPEND (R322,
R384). -/
def State.suspended (s : State) (l : LeafId) : Bool :=
  ((s.leaf l).reached && (s.leafContract l).suspend) || (s.topReached.getLsbD (topOf l) && (s.topContract (topOf l)).suspend)

/-- The owner leaf of the current window; none where the leaf is suspended, or the core quarantined (R319, R322, R412, R448). -/
def State.windowOwner (s : State) (c : CoreId) : Option LeafId :=
  if (s.core c).quarantined || (s.core c).dark then none else ((s.window c).owner).filter fun l => !s.suspended l

/-! ## Source numbers (R241) -/

def Slot.num : Slot → Nat
  | .o => 0 | .h => 1

def ctxNum (i : CtxId) : Nat := i.core.val * 8 + Slot.num i.slot
def engNum (i : EngId) : Nat := i.core.val * 8 + 2 + (Eng.fin i.eng).val
def srcNum : Src → Nat
  | .ctx i => ctxNum i
  | .eng i => engNum i
  | .root => 857

/-! ## Lists -/

/-- The first element that satisfies `p`, removed. -/
def removeFirst {α : Type} (p : α → Bool) : List α → List α
  | [] => []
  | x :: r => if p x then r else x :: removeFirst p r

/-- The entries of a key replaced or added. -/
def putKey {α β : Type} [BEq α] (k : α) (v : β) (l : List (α × β)) : List (α × β) := (k, v) :: l.filter fun e => !(e.1 == k)

/-- The value of a key. -/
def getKey {α β : Type} [BEq α] (k : α) (l : List (α × β)) : Option β := (l.find? fun e => e.1 == k).map (·.2)

/-- One bit of a word as a truth value. -/
def tb (w : Word) (i : Nat) : Bool := w.getLsbD i

/-- A field of a word as a number. -/
def fld (w : Word) (hi lo : Nat) : Nat := bits w.toNat hi lo

end Sys2Proof.Machine
end

