-- ==== Sys2Proof/Machine/Memory.lean ====
section
/-! DEFINITION. Memories: bytes, DRAM with its pending-zero pages, local stores, the two-stage translation and the checks
of an access (R396-R403, R245), the slice ways (R393, R394), the regulators (R385-R387), the L1 (R234, R235), and the
messages and phases of a source (R226-R232). -/

namespace Sys2Proof.Machine

/-! ## Bytes -/

/-- The byte at an address; an unlisted address reads 0. -/
def Mem.get : Mem → Nat → Byte
  | [], _ => 0
  | (x, b) :: r, a => if x = a then b else if a < x then 0 else Mem.get r a

/-- A byte written, keeping the canonical form. -/
def Mem.set : Mem → Nat → Byte → Mem
  | [], a, v => if v = 0 then [] else [(a, v)]
  | (x, b) :: r, a, v =>
    if a < x then (if v = 0 then (x, b) :: r else (a, v) :: (x, b) :: r)
    else if a = x then (if v = 0 then r else (a, v) :: r)
    else (x, b) :: Mem.set r a v

/-- `n` bytes from an address. -/
def Mem.read (m : Mem) (a : Nat) : Nat → List Byte
  | 0 => []
  | n + 1 => Mem.get m a :: Mem.read m (a + 1) n

/-- Bytes written from an address on. -/
def Mem.write (m : Mem) (a : Nat) : List Byte → Mem
  | [] => m
  | b :: r => Mem.write (m.set a b) (a + 1) r

/-- Every byte of [lo, hi) cleared. -/
def Mem.clear (m : Mem) (lo hi : Nat) : Mem := m.filter fun e => e.1 < lo || hi ≤ e.1

/-- The cells of [lo, hi). -/
def Mem.part (m : Mem) (lo hi : Nat) : Mem := m.filter fun e => lo ≤ e.1 && e.1 < hi

/-- Little-endian bytes as a number (R4). -/
def leNat : List Byte → Nat
  | [] => 0
  | b :: r => b.toNat + 256 * leNat r

/-- A number as `n` little-endian bytes (R4). -/
def leBytes : Nat → Nat → List Byte
  | 0, _ => []
  | n + 1, v => BitVec.ofNat 8 v :: leBytes n (v / 256)

/-! ## DRAM (R25, R402) -/

/-- A page is written through or filled already, so that its bytes are those of `dram` (R402). -/
def State.filled (s : State) (page : Nat) : Bool := s.zeroed.contains page

/-- A byte of DRAM: a pending-zero page reads zero (R402). -/
def State.dbyte (s : State) (pa : Nat) : Byte := if s.filled (pa / 4096) then s.dram.get pa else 0

/-- `n` bytes of one page. -/
def State.dbytes (s : State) (pa n : Nat) : List Byte :=
  if s.filled (pa / 4096) then s.dram.read pa n else List.replicate n 0

/-- An aligned dword. -/
def State.dword (s : State) (pa : Nat) : Nat := leNat (s.dbytes pa 8)

/-- The page is zeroed, its tags included, if it is pending (R402). -/
def State.touch (s : State) (page : Nat) : State :=
  if s.filled page then s
  else { s with
    dram := s.dram.clear (page * 4096) (page * 4096 + 4096)
    zeroed := page :: s.zeroed
    lineTags := s.lineTags.filter fun e => e.1 / 32 ≠ page
    badLines := s.badLines.filter fun l => l / 32 ≠ page
    poison := s.poison.filter fun l => l / 32 ≠ page }

/-- Two byte ranges meet. -/
def overlap (a n b m : Nat) : Bool := decide (a < b + m) && decide (b < a + n)

/-- A write of [pa, pa + n) notifies the walker of the queues whose PROD lies there (R305). -/
def State.noteProd (s : State) (pa n : Nat) : State :=
  { s with prodDue := s.prodDue ++ (s.prodAt.filter fun x => overlap x.2.2 4 pa n).map fun x => (x.1, x.2.1) }

/-- Bytes written within one line; a write of all 128 ends the line's poison (R450). -/
def State.dstore (s : State) (pa : Nat) (bs : List Byte) : State :=
  let s := (s.touch (pa / 4096)).noteProd pa bs.length
  let line := pa / 128
  { s with
    dram := s.dram.write pa bs
    poison := if bs.length = 128 then s.poison.filter (· ≠ line) else s.poison }

/-- A read of the line of an address finds it poisoned; a pending-zero page is zeroed first, its poison with it (R402, R450). -/
def State.badAt (s : State) (pa : Nat) : Bool := s.filled (pa / 4096) && s.poison.contains (pa / 128)

/-- Line-sized pieces of [pa, pa + n): address and length of each, for at most `fuel` pieces. -/
def pieces : Nat → Nat → Nat → List (Nat × Nat)
  | 0, _, _ => []
  | fuel + 1, a, n =>
    if n = 0 then []
    else
      let k := min n (128 - a % 128)
      (a, k) :: pieces fuel (a + k) (n - k)

/-! ## Worlds (R396, R397) -/

/-- The world of a page (R397). -/
def State.pageWorld (s : State) (page : Nat) : BitVec 8 := (getKey page s.owner).getD 0

/-- The uniform bit of the aligned block of 2^k bytes that holds a page: all its pages share one world (R397). -/
def State.uniform (s : State) (k page : Nat) : Bool :=
  let n := 2 ^ (k - 12)
  let base := page / n * n
  let w := s.pageWorld page
  let listed := s.owner.filter fun e => base ≤ e.1 && e.1 < base + n
  if w = 0 then listed.all fun e => e.2 == 0 else (listed.filter fun e => e.2 == w).length == n

/-- The logarithm of the largest uniform block that holds a page (R397, R401). -/
def State.uniformSpan (s : State) (page : Nat) : Nat :=
  if s.uniform 30 page then 30 else if s.uniform 21 page then 21 else if s.uniform 16 page then 16 else 12

/-- Whether a virtual NPU may access a page of world p (R396). -/
def State.mayAccess (s : State) (v : VnpuId) (p : BitVec 8) : Bool :=
  (p == (s.contract v).world && p != 0) || (p == 1 && (s.contract v).shared)

/-! ## Translation (R398-R400) -/

/-- What a walk of one stage finds: the address, and the logarithm of the page size. -/
structure Leaf where
  addr : Nat
  size : Nat
  w : Bool
  x : Bool
  s : Bool
  e : Bool
deriving DecidableEq, Repr

/-- Why an access does not translate or is not allowed: the cause, and whether stage 2 or the ownership table failed. -/
structure XErr where
  cause : Nat
  s2 : Bool
deriving DecidableEq, Repr

/-- The entry checks of R399 and R400 at a level. -/
def entryOk (stage1 : Bool) (level e : Nat) : Bool :=
  bits e 0 0 == 1 && bits e 7 7 == 0 && bits e 63 48 == 0
    && (level != 0 || bits e 1 1 == 0) && (level != 3 || bits e 1 1 == 1)
    && (if stage1 then bits e 6 6 == 0 else bits e 4 4 == 0 && bits e 47 38 == 0)

/-- The logarithm of the page size of a leaf entry (R398, R399). -/
def leafSize (level e : Nat) : Nat := if level = 1 then 30 else if level = 2 then 21 else if bits e 5 5 = 1 then 16 else 12

/-- The address a leaf entry maps (R398, R399). -/
def leafAddr (level e a : Nat) : Nat :=
  let sh := leafSize level e
  bits e 47 12 * 4096 / 2 ^ sh * 2 ^ sh + a % 2 ^ sh

/-- The leaf of an entry. -/
def leafOfEntry (level e a : Nat) : Leaf :=
  ⟨leafAddr level e a, leafSize level e, bits e 2 2 == 1, bits e 3 3 == 1, bits e 4 4 == 1, bits e 6 6 == 1⟩

/-- The index of an address at a level (R398). -/
def levelIndex (level a : Nat) : Nat := a / 2 ^ (39 - 9 * level) % 512

/-- The walk of stage 2 from a table at level 4 - n (R398). -/
def walk2 (s : State) : Nat → Nat → Nat → Option Leaf
  | 0, _, _ => none
  | n + 1, table, a =>
    let level := 3 - n
    let e := s.dword (table + 8 * levelIndex level a)
    if !entryOk false level e then none
    else if bits e 1 1 = 1 then some (leafOfEntry level e a)
    else walk2 s n (bits e 47 12 * 4096) a

/-- Stage 2 of a virtual NPU (R398); a root of 0 is no table (log 3). -/
def State.stage2 (s : State) (v : VnpuId) (ipa : Nat) : Option Leaf :=
  if (s.vnpu v).s2root = 0 then none else walk2 s 4 (s.vnpu v).s2root (ipa % 2 ^ 48)

/-- The walk of stage 1: every table read is translated by stage 2 and checked against the ownership table, and reads no page of
an encrypted tensor (R398, R403). An entry on a poisoned line is read as it stands (DESIGN CHOICE, log 107). -/
def walk1 (s : State) (v : VnpuId) : Nat → Nat → Nat → Except XErr Leaf
  | 0, _, _ => .error ⟨0x05, false⟩
  | n + 1, table, a =>
    let level := 3 - n
    match s.stage2 v (table + 8 * levelIndex level a) with
    | none => .error ⟨0x05, true⟩
    | some l =>
      if l.e then .error ⟨0x06, true⟩
      else if !s.mayAccess v (s.pageWorld (l.addr / 4096)) then .error ⟨0x07, true⟩
      else
        let e := s.dword l.addr
        if !entryOk true level e then .error ⟨0x05, false⟩
        else if bits e 1 1 = 1 then .ok (leafOfEntry level e a)
        else walk1 s v n (bits e 47 12 * 4096) a

/-- Bits [63:48] of a virtual address must be copies of bit 47 (R398). -/
def canonical (va : Nat) : Bool := bits va 63 47 == 0 || bits va 63 47 == 2 ^ 17 - 1

/-- The entry with its first pages in place of the page it was used for. -/
def TlbEntry.base (e : TlbEntry) : TlbEntry :=
  let n := 2 ^ (e.span - 12)
  { e with vpage := e.vpage / n * n, ppage := e.ppage / n * n }

/-- The entry as it translates one virtual address: its pages are those of the address. -/
def TlbEntry.at (e : TlbEntry) (va : Nat) : TlbEntry :=
  { e with vpage := va / 4096, ppage := e.ppage / 2 ^ (e.span - 12) * 2 ^ (e.span - 12) + va / 4096 % 2 ^ (e.span - 12) }

/-- The entry holds the page of a virtual address. -/
def TlbEntry.covers (e : TlbEntry) (va : Nat) : Bool := va / 2 ^ e.span == e.vpage * 4096 / 2 ^ e.span

/-- Both stages for the page of a virtual address: an entry spans the smallest of the two pages and the largest uniform block
(R398, R401). -/
def State.walkPage (s : State) (v : VnpuId) (va : Nat) : Except XErr TlbEntry :=
  if !canonical va then .error ⟨0x05, false⟩
  else
    let st1 : Except XErr Leaf :=
      if (s.vnpu v).s1root = 0 then .ok ⟨va % 2 ^ 48, 48, true, true, false, false⟩
      else walk1 s v 4 (s.vnpu v).s1root (va % 2 ^ 48)
    match st1 with
    | .error e => .error e
    | .ok l1 =>
      match s.stage2 v l1.addr with
      | none => .error ⟨0x05, true⟩
      | some l2 => .ok ⟨v, (s.contract v).world, min (min l1.size l2.size) (s.uniformSpan (l2.addr / 4096)), va / 4096,
          l2.addr / 4096, l1.w, l1.x, l1.s, l2.w, l2.x, l2.e⟩

/-- Who accesses: the virtual NPU, whether it is U, its core, what it does, and whether the page must be an encrypted-tensor
page (R400, R403). -/
structure Acc where
  core : CoreId
  vnpu : VnpuId
  user : Bool
  write : Bool
  exec : Bool := false
  enc : Bool := false
deriving DecidableEq, Repr

/-- The compute strip of a core (R10). -/
def stripOf (c : CoreId) : Fin 16 := ⟨c.val / 6, by omega⟩

/-- The entry of a TLB for an address of a virtual NPU in its world (R401). -/
def State.tlbHit (s : State) (v : VnpuId) (va : Nat) (l : List TlbEntry) : Option TlbEntry :=
  l.find? fun e => e.vnpu = v && e.world = (s.contract v).world && e.covers va

/-- The translation of a page from the core's TLB, from its strip's, or by a walk (R27, R401). -/
def State.page (s : State) (a : Acc) (va : Nat) : Except XErr TlbEntry :=
  match s.tlbHit a.vnpu va (s.core a.core).tlb with
  | some e => .ok (e.at va)
  | none => match s.tlbHit a.vnpu va (s.strips.get (stripOf a.core)) with
    | some e => .ok (e.at va)
    | none => s.walkPage a.vnpu va

/-- An entry enters a TLB of `n` entries; the oldest leaves. -/
def fillEntry (n : Nat) (e : TlbEntry) (l : List TlbEntry) : List TlbEntry := if l.contains e.base then l else (e.base :: l).take n

/-- The TLB of a core holds 512 entries (R27, R401). -/
def Core.fillTlb (k : Core) (e : TlbEntry) : Core := { k with tlb := fillEntry 512 e k.tlb }

/-- Translations concerned go from every core and strip (R401). -/
def State.dropTlb (s : State) (p : TlbEntry → Bool) : State :=
  { s with
    cores := s.cores.map fun k => { k with tlb := k.tlb.filter fun e => !p e }
    strips := s.strips.map fun l => l.filter fun e => !p e }

/-- Two ranges of pages meet: an entry's virtual pages, and `n` pages from `page`. -/
def TlbEntry.meetsVa (e : TlbEntry) (page n : Nat) : Bool := decide (e.vpage < page + n) && decide (page < e.vpage + 2 ^ (e.span - 12))

/-- A page among the physical pages of an entry. -/
def TlbEntry.meetsPa (e : TlbEntry) (page : Nat) : Bool := decide (e.ppage ≤ page) && decide (page < e.ppage + 2 ^ (e.span - 12))

/-- The permission checks of R400 and R403 on a translated page. -/
def permitted (a : Acc) (e : TlbEntry) : Option XErr :=
  if a.write && !e.write1 then some ⟨0x06, false⟩
  else if a.exec && !e.exec1 then some ⟨0x06, false⟩
  else if a.user && e.sOnly then some ⟨0x06, false⟩
  else if a.write && !e.write2 then some ⟨0x06, true⟩
  else if a.exec && !e.exec2 then some ⟨0x06, true⟩
  else if e.enc != a.enc then some ⟨0x06, true⟩
  else none

/-- The pages of an access: the virtual address of the first byte in each. -/
def pageStarts (va n : Nat) : List Nat :=
  let last := (va + n - 1) % 2 ^ 64
  if va / 4096 = last / 4096 then [va] else [va, last / 4096 * 4096]

/-- The first error of a list of checks, each with the address it concerns. -/
def firstErr (l : List (Nat × Option XErr)) : Option (Nat × XErr) :=
  l.findSome? fun e => e.2.map fun x => (e.1, x)

/-- Checks of R245 in their order, over every page of the access, but for poison: the pages with their translation. -/
def State.checkPages (s : State) (a : Acc) (va n : Nat) : Except (Nat × XErr) (List (Nat × TlbEntry)) :=
  let starts := pageStarts va n
  let tr := starts.map fun p => (p, s.page a p)
  match firstErr (tr.map fun e => (e.1, match e.2 with | .error x => some x | .ok _ => none)) with
  | some e => .error e
  | none =>
    let pages := tr.filterMap fun e => match e.2 with | .ok t => some (e.1, t) | .error _ => none
    match firstErr (pages.map fun e => (e.1, permitted a e.2)) with
    | some e => .error e
    | none =>
      match firstErr (pages.map fun e =>
          (e.1, if s.mayAccess a.vnpu (s.pageWorld e.2.ppage) then none else some ⟨0x07, true⟩)) with
      | some e => .error e
      | none => .ok pages

/-- The pieces of an access by physical address, one for each line it touches: virtual address, physical address, length. -/
def physPieces (pages : List (Nat × TlbEntry)) (va n : Nat) : List (Nat × Nat × Nat) :=
  (pieces 3 va n).filterMap fun p =>
    let v := p.1 % 2 ^ 64
    (pages.find? fun e => e.2.vpage = v / 4096).map fun e => (v, e.2.ppage * 4096 + v % 4096, p.2)

/-- The translations of an access enter the core's TLB and its strip's, of 4096 entries (R27, R401). -/
def State.fillTlbs (s : State) (c : CoreId) (pages : List (Nat × TlbEntry)) : State :=
  let s := s.modCore c fun k => pages.foldl (fun k e => k.fillTlb e.2) k
  { s with strips := s.strips.set (stripOf c) (pages.foldl (fun l e => fillEntry 4096 e.2 l) (s.strips.get (stripOf c))) }

/-- EINFO of an access fault (R245, R277). -/
def accInfo (write s2 engine : Bool) : Word :=
  BitVec.ofNat 64 ((if write then 1 else 0) + (if s2 then 2 else 0) + (if engine then 4 else 0))

/-- The trap of an access that fails a check (R245). -/
def accTrap (write engine : Bool) (e : Nat × XErr) : Trap :=
  { cause := e.2.cause, eaddr := BitVec.ofNat 64 e.1, einfo := accInfo write e.2.s2 engine }

/-! ## Regulators (R385-R387) -/

/-- RATE and DEPTH of a leaf at a point (R380, R385). -/
def PartContract.rate (p : PartContract) (pt : Nat) : Nat :=
  if pt < 96 then p.rateCore else if pt = 96 then p.rateHost else p.rateMc
def PartContract.depth (p : PartContract) (pt : Nat) : Nat :=
  if pt < 96 then p.depthCore else if pt = 96 then p.depthHost else p.depthMc

/-- The regulator of a leaf at a point: full where none is listed (R386). -/
def State.reg (s : State) (l : LeafId) (pt : Nat) : Regulator :=
  (s.regs.find? fun r => r.leaf = l && r.point = pt).getD ⟨l, pt, 8 * (s.leafContract l).depth pt, [], false⟩

def State.setReg (s : State) (r : Regulator) : State :=
  { s with regs := r :: s.regs.filter fun x => !(x.leaf = r.leaf && x.point = r.point) }

/-- The invocations a slice has queued or executes. -/
def Slice.invs (x : Slice) : List Invocation := x.queue ++ x.execs.toList.filterMap fun e => e.inv

/-- Nest total: the product of its trip counts. -/
def Nest.total (n : Nest) : Nat := n.trip0 * n.trip1 * n.trip2 * n.trip3

/-- The nest of a queue that still has iterations to deal: the last one taken (R307). -/
def LaunchQueue.headNest (x : LaunchQueue) : Option Nest :=
  (x.nests.getLast?).filter fun n => !n.rejected && decide (n.next < n.total)

/-- The walker takes the head entry once the previous nest has dealt its last iteration (R307). -/
def LaunchQueue.takeable (x : LaunchQueue) : Bool := !x.qstop && x.prod != x.cons && x.headNest.isNone

/-- Who asks still does: the context stands at the word, the engine at the record, the message, invocation or read has not come
to its end, the queue has an entry to take. A request that its agent has given up is held no longer. -/
def State.asks (s : State) : Asker → Bool
  | .ctx i pc => (s.ctx i).live && (s.ctx i).pc == pc
  | .eng e seq => match (s.engine e).queue, (s.engine e).head.st with
    | q :: _, .waiting => q.seq == seq
    | q :: _, .walking => q.seq == seq
    | _, _ => false
  | .msg n => s.net.any fun m => m.id == n
  | .inv n => s.slices.toList.any fun x => x.queue.any fun i => i.id == n
  | .host n => s.hostReqs.any fun r => r.id == n && r.result.isNone
  | .walker v q => (s.contract v).enable && !(s.vnpu v).busy && ((s.vnpu v).queue q).takeable

/-- The requests a regulator holds now (R386, R389). -/
def State.heldAt (s : State) (l : LeafId) (pt : Nat) : List HeldReq := (s.reg l pt).held.filter fun h => s.asks h.who

/-- Some held request goes before one of traffic class `tc` by `w`: those that came earlier in its class, and the classes below
(R386). -/
def aheadOf (w : Asker) (tc : Nat) : List HeldReq → Bool
  | [] => false
  | h :: r => if h.who = w then r.any fun x => decide (x.tc < tc) else decide (h.tc ≤ tc) || aheadOf w tc r

/-- A regulator lets a request through: its level is positive and no held request goes first (R386). -/
def State.admits (s : State) (l : LeafId) (w : Asker) (tc pt : Nat) : Bool :=
  decide (0 < (s.reg l pt).lvl) && !aheadOf w tc (s.heldAt l pt)

/-- A request is held at no point of a leaf but those that `keep` says: an agent makes one request at a time. -/
def State.unhold (s : State) (l : LeafId) (w : Asker) (keep : Nat → Bool) : State :=
  { s with regs := s.regs.map fun x =>
      if x.leaf = l && !keep x.point then { x with held := x.held.filter fun h => h.who ≠ w } else x }

/-- The charges of a request are taken from its leaf's levels, and it is held no longer (R386). -/
def State.charge (s : State) (l : LeafId) (w : Asker) (rs : List (Nat × Nat)) : State :=
  rs.foldl (fun s r => let x := s.reg l r.1; s.setReg { x with lvl := x.lvl - 8 * (r.2 : Int) }) (s.unhold l w fun _ => false)

/-- A request waits at a regulator, in its place if it waits there already; `n` requests of its access went before it (R386). -/
def State.hold (s : State) (l : LeafId) (w : Asker) (tc pt n : Nat) : State :=
  let s := s.unhold l w fun p => p == pt
  let h := s.heldAt l pt
  s.setReg { s.reg l pt with held := if h.any fun x => x.who = w then h else h ++ [⟨w, tc, s.gtc.toNat, n⟩] }

/-- The requests of an access, one after the other, each with its bytes at each of its points: all are admitted, and none is held any
more, or the next is held at the first point that does not let it through; `n` went before (R385, R386). -/
def State.admitFrom (v : VnpuId) (w : Asker) : Nat → List (List (Nat × Nat)) → State → Bool × State
  | _, [], s => (true, s.unhold (s.leafOf v) w fun _ => false)
  | n, rs :: rest, s =>
    let l := s.leafOf v
    let tc := (s.contract v).tc
    match rs.find? fun r => !s.admits l w tc r.1 with
    | some r => (false, s.hold l w tc r.1 n)
    | none => State.admitFrom v w (n + 1) rest (s.charge l w rs)

/-- How many requests of the access that an agent makes now have been let through. -/
def State.progress (s : State) (l : LeafId) (w : Asker) : Nat :=
  ((s.regs.findSome? fun r => if r.leaf = l then r.held.find? fun h => h.who = w else none).map (·.before)).getD 0

/-- The requests of an access of a virtual NPU go on from where the access was held (R386). -/
def State.admitSeq (s : State) (v : VnpuId) (w : Asker) (rs : List (List (Nat × Nat))) : Bool × State :=
  let n := s.progress (s.leafOf v) w
  State.admitFrom v w n (rs.drop n) s

/-- One request (R385, R386). -/
def State.admitAll (s : State) (v : VnpuId) (w : Asker) (rs : List (Nat × Nat)) : Bool × State := State.admitFrom v w 0 [rs] s

/-- An agent gives up the requests that regulators hold for it. -/
def State.giveUp (s : State) (p : Asker → Bool) : State :=
  { s with regs := s.regs.map fun r => { r with held := r.held.filter fun h => !p h.who } }

/-- The requests of a context, and of an engine. -/
def Asker.ofCtx (i : CtxId) : Asker → Bool
  | .ctx j _ => decide (j = i)
  | _ => false
def Asker.ofEng (e : EngId) : Asker → Bool
  | .eng f _ => decide (f = e)
  | _ => false

/-- The requests of an access: the rest of a 64-byte unit goes with its first part, which was admitted with all that its line moved, and
adds its own bytes at the core port (R211, R385, R386). -/
def State.admitPart (s : State) (rest : Bool) (v : VnpuId) (w : Asker) (rs : List (List (Nat × Nat))) : Bool × State :=
  if rest then (true, s.charge (s.leafOf v) w (rs.flatten.filter fun r => decide (r.1 < 96))) else s.admitSeq v w rs

/-- Who asks, where a source makes an access. -/
def State.asker (s : State) : Src → Asker
  | .ctx i => .ctx i (s.ctx i).pc
  | .eng e => .eng e (match (s.engine e).queue with | q :: _ => q.seq | [] => 0)
  | .root => .msg s.msgs

/-! ## Cache ways (R393, R394) -/

/-- The place of a line in a list of lines, from 1. -/
def posOf (line : Nat) : List Nat → Nat → Option Nat
  | [], _ => none
  | x :: r, n => if x = line then some n else posOf line r (n + 1)

/-- Counter n (from 1) of a list increased. -/
def bumpAt (n : Nat) (l : List Nat) : List Nat := l.mapIdx fun i x => if i + 1 = n then x + 1 else x

/-- The sampled stacks and hit counters of R394. -/
def Slice.sample (x : Slice) (l : LeafId) (line : Nat) : Slice :=
  let set := homeSet line
  if set % 32 ≠ 0 then x
  else
    let key := (l, set)
    let st := ((x.shadow.find? fun e => e.1 = l && e.2.1 = set).map (·.2.2)).getD []
    let h := (getKey l x.hits).getD (List.replicate 16 0)
    let h' := match posOf line st 1 with | some n => bumpAt n h | none => h
    { x with
      shadow := (l, set, ((line :: st.filter (· ≠ line)).take 16)) :: x.shadow.filter fun e => !((e.1, e.2.1) = key)
      hits := putKey l h' x.hits }

/-- The way a fill of leaf `l` takes: a way of its mask free in the set, else the least recently used (R393). -/
def Slice.victim (x : Slice) (l : Option LeafId) (set : Nat) : Option (Nat × Option Resident) :=
  let mine := (List.range 16).filter fun w => decide ((x.holders.toList[w]?).getD none = l)
  let inSet := x.resident.filter fun r => homeSet r.line = set && mine.contains r.way
  match mine.find? fun w => !(inSet.any fun r => r.way = w) with
  | some w => some (w, none)
  | none => (inSet.getLast?).map fun r => (r.way, some r)

/-- Whether a line is resident at its home slice. -/
def State.resident (s : State) (line : Nat) : Bool := (s.slice (homeSlice line)).resident.any fun r => r.line = line

/-- The requests that move a line to or from DRAM: its bytes at its memory controller, and the tag bytes of an encrypted line, which are
beyond the 128 bytes that a request carries at most (R385). -/
def State.lineCharge (s : State) (line : Nat) : List (List (Nat × Nat)) :=
  let p := 97 + controllerOf (line * 128)
  [(p, 128)] :: (if (getKey line s.lineTags).isSome then [[(p, 4)]] else [])

/-- The requests of what an access to a line moves to or from DRAM: a fill on a miss, and the write-back of a dirty victim, for the leaf
whose fill replaces it (log 42); a write that does not allocate goes to DRAM (R276, R385, R393). -/
def State.mcCharges (s : State) (l : Option LeafId) (line : Nat) (alloc : Bool) : List (List (Nat × Nat)) :=
  if s.resident line then []
  else s.lineCharge line ++ (match (s.slice (homeSlice line)).victim l (homeSet line) with
    | some (_, some r) => if alloc && r.dirty then s.lineCharge r.line else []
    | _ => [])

/-- The requests of a read whose bytes pass a core port: the fill of a line that misses goes with them, and what else it moves after
(R385). -/
def withFill (r : Nat × Nat) : List (List (Nat × Nat)) → List (List (Nat × Nat))
  | [] => [[r]]
  | x :: rest => (r :: x) :: rest

/-- An access to a line at its home slice: a hit becomes the newest; a miss that allocates takes a way of the leaf's mask
(R393, R394). -/
def State.sliceAccess (s : State) (l : Option LeafId) (line : Nat) (write alloc : Bool) : State :=
  s.modSlice (homeSlice line) fun x =>
    let x := match l with | some l => x.sample l line | none => x
    match x.resident.find? fun r => r.line = line with
    | some r => { x with resident := { r with dirty := r.dirty || write } :: x.resident.filter fun q => q.line ≠ line }
    | none =>
      if !alloc then x
      else match x.victim l (homeSet line) with
        | none => x
        | some (w, old) =>
          let rest := match old with
            | some o => x.resident.filter fun q => q.line ≠ o.line
            | none => x.resident
          { x with resident := ⟨line, w, write⟩ :: rest }

/-- Some executor of the home slice holds the line (R282). -/
def State.lineHeld (s : State) (line : Nat) : Bool :=
  (s.slice (homeSlice line)).execs.toList.any fun e => match e.inv with | some i => i.pa / 128 == line | none => false

/-- The lines of the stage-1 tables that the walk of an address reads (R398). -/
def walk1Lines (s : State) (v : VnpuId) : Nat → Nat → Nat → List Nat
  | 0, _, _ => []
  | n + 1, table, a =>
    let level := 3 - n
    match s.stage2 v (table + 8 * levelIndex level a) with
    | none => []
    | some l =>
      let e := s.dword l.addr
      l.addr / 128 :: (if !entryOk true level e || bits e 1 1 = 1 then [] else walk1Lines s v n (bits e 47 12 * 4096) a)

/-- The translation of an access walks, and a routine holds a line of a table that it reads, for which it waits (R282, R398). -/
def State.walkHeld (s : State) (a : Acc) (va n : Nat) : Bool :=
  (s.vnpu a.vnpu).s1root != 0 && (pageStarts va n).any fun p =>
    (s.tlbHit a.vnpu p (s.core a.core).tlb).isNone && (s.tlbHit a.vnpu p (s.strips.get (stripOf a.core))).isNone
      && (walk1Lines s a.vnpu 4 (s.vnpu a.vnpu).s1root (p % 2 ^ 48)).any s.lineHeld

/-! ## The L1 (R23, R24, R234, R235) -/

/-- The cores whose L1s form the L1 of core c: its own, or those of the cluster where its unit is fused (R24; DESIGN CHOICE, log 26). -/
def State.l1Group (s : State) (c : CoreId) : List CoreId :=
  if (s.core c).fused then
    allCores.filter fun d => clusterOf d = clusterOf c && (!s.lockstep c || d.val % 2 == 0)
  else [c]

/-- The core whose L1 holds a line (R24). -/
def State.l1Core (s : State) (c : CoreId) (line : Nat) : CoreId :=
  let g := s.l1Group c
  (g[line % (max 1 g.length)]?).getD c

/-- The L1 copy of a line. -/
def State.l1Copy (s : State) (c : CoreId) (line : Nat) : Option LineCopy :=
  (s.core (s.l1Core c line)).l1.find? fun x => x.line = line

/-- A copy of a line enters an L1 of 512 lines; where it is full the copy filled first leaves (R20, R23, R234; DESIGN CHOICE, log 92). -/
def State.l1Fill (s : State) (c : CoreId) (line : Nat) : State :=
  let cells := if s.filled (line / 32) then s.dram.part (line * 128) (line * 128 + 128) else []
  s.modCore (s.l1Core c line) fun k => { k with l1 := (⟨line, cells⟩ :: k.l1.filter fun x => x.line ≠ line).take 512 }

/-- An agent of core c has read the line at its home slice: the L1 of the core, or of its fused group, keeps no older copy
(R222, R234). -/
def State.l1Evict (s : State) (c : CoreId) (line : Nat) : State :=
  s.modCore (s.l1Core c line) fun k => { k with l1 := k.l1.filter fun x => x.line ≠ line }

/-- Every copy of the L1 is discarded, with the copies of a fused group (R235). -/
def State.l1Drop (s : State) (c : CoreId) : State :=
  (s.l1Group c).foldl (fun s d => s.modCore d fun k => { k with l1 := [] }) s

/-- A write of an agent of core c updates the copies of its core or fused group (R234). -/
def State.l1Update (s : State) (c : CoreId) (pa : Nat) (bs : List Byte) : State :=
  s.modCore (s.l1Core c (pa / 128)) fun k =>
    { k with l1 := k.l1.map fun x => if x.line = pa / 128 then { x with cells := x.cells.write pa bs } else x }

/-- The core of a source. -/
def srcCore : Src → Option CoreId
  | .ctx i => some i.core
  | .eng i => some i.core
  | .root => none

/-! ## Phases and messages (R226-R232) -/

/-- The index of a source among the phases of its core. -/
def srcSlot : Src → Fin 7
  | .ctx ⟨_, .o⟩ => 0
  | .ctx ⟨_, .h⟩ => 1
  | .eng ⟨_, .ci⟩ => 2
  | .eng ⟨_, .co⟩ => 3
  | .eng ⟨_, .mx⟩ => 4
  | .eng ⟨_, .vx⟩ => 5
  | .eng ⟨_, .xf⟩ => 6
  | .root => 0

def State.phases (s : State) (r : Src) : Phases :=
  match srcCore r with
  | some c => (s.core c).phases.get (srcSlot r)
  | none => s.rootPhases

def State.setPhases (s : State) (r : Src) (p : Phases) : State :=
  match srcCore r with
  | some c => s.modCore c fun k => { k with phases := k.phases.set (srcSlot r) p }
  | none => { s with rootPhases := p }

/-- The first `n` phases of a source are complete (R231). -/
def State.phaseDone (s : State) (r : Src) (n : Nat) : Bool := decide (n ≤ (s.phases r).completed)

/-- Every open phase of a source is complete. -/
def State.phasesQuiet (s : State) (r : Src) : Bool := (s.phases r).opens.isEmpty

/-- SERIAL and the order count of a source: those of a context (R213, R316). -/
def State.srcSerial (s : State) : Src → BitVec 32
  | .ctx i => (s.ctx i).serial
  | _ => 0
def State.srcOrder (s : State) : Src → Nat
  | .ctx i => (s.ctx i).order
  | _ => 0

/-- A message of a source for a virtual NPU, as it is sent now. -/
def State.mkMsg (s : State) (r : Src) (cls target phase : Nat) (v : VnpuId) (body : Payload) : Msg :=
  { id := 0, src := r, cls := cls, target := target, phase := phase, vnpu := v, rgen := (s.vnpu v).rgen, serial := s.srcSerial r
    order := s.srcOrder r, body := body }

/-- A message enters the network. -/
def State.post (s : State) (m : Msg) : State := { s with net := s.net ++ [{ m with id := s.msgs }], msgs := s.msgs + 1 }

/-- Phases at the front that every target has acknowledged become complete, in order (R231). -/
def Phases.pop : Nat → Phases → Phases
  | 0, p => p
  | n + 1, p =>
    match p.opens with
    | o :: r => if o.targets.isEmpty then Phases.pop n { p with opens := r, completed := p.completed + 1 } else p
    | [] => p

/-- A routine-fault record of a context waits for room in its event queue: until it is in the queue the phase of its SLXN is not
complete (R265, R296, R297). -/
def State.recordWaits (s : State) : Src → Bool
  | .ctx i => (s.ctx i).eventsHeld.any fun e => fld e.lo 3 0 == 2
  | _ => false

/-- The current phase of a source is closed and markers leave for every target written; none where three phases are open
(R227, R232). One in which nothing was written is complete at once, unless a record still waits (R231, R297). -/
def State.closePhase (s : State) (r : Src) (v : VnpuId) : Option State :=
  let p := s.phases r
  if 3 ≤ p.opens.length then none
  else
    let p' : Phases := { p with
      closed := p.closed + 1, counts := [], opens := p.opens ++ [⟨p.closed, p.counts.map (·.1)⟩] }
    let p' := if p.opens.isEmpty && p.counts.isEmpty && !s.recordWaits r then Phases.pop 1 p' else p'
    let s := s.setPhases r p'
    some (p.counts.foldl (fun s t => s.post (s.mkMsg r 0 t.1 p.closed v (.marker p.closed t.2))) s)

/-- A write of a source to a target is counted in its current phase, which is closed first where the count would pass 65,535
(R226, R230). -/
def State.countSent (s : State) (r : Src) (target : Nat) (v : VnpuId) : Option State :=
  let full := decide (65535 ≤ (getKey target (s.phases r).counts).getD 0)
  (if full then s.closePhase r v else some s).map fun s =>
    let p := s.phases r
    s.setPhases r { p with counts := putKey target ((getKey target p.counts).getD 0 + 1) p.counts }

/-- A counted message of a source in its current phase (R226, R230). -/
def State.sendCounted (s : State) (r : Src) (cls target : Nat) (v : VnpuId) (body : Nat → Payload) : Option State :=
  (s.countSent r target v).map fun s => s.post (s.mkMsg r cls target (s.phases r).closed v (body (s.phases r).closed))

/-- The counter of a source and a phase's tag at a target (R229). -/
def State.arrived (s : State) (target : Nat) (r : Src) (phase : Nat) : Nat :=
  ((s.arrivals.find? fun a => a.target = target && a.src = r && a.tag = phase % 4).map (·.count)).getD 0

/-- A counted message has arrived, performed or refused (R229, R297). -/
def State.countArrival (s : State) (target : Nat) (r : Src) (phase : Nat) : State :=
  let n := s.arrived target r phase
  { s with arrivals := ⟨target, r, phase % 4, n + 1⟩ ::
      s.arrivals.filter fun a => !(a.target = target && a.src = r && a.tag = phase % 4) }

/-- A write that is performed as it is sent is counted at both ends (R226, R229). -/
def State.countNow (s : State) (r : Src) (target : Nat) (v : VnpuId) : Option State :=
  (s.countSent r target v).map fun s => s.countArrival target r (s.phases r).closed

/-- The counter is cleared (R229). -/
def State.clearArrival (s : State) (target : Nat) (r : Src) (phase : Nat) : State :=
  { s with arrivals := s.arrivals.filter fun a => !(a.target = target && a.src = r && a.tag = phase % 4) }

/-- What an access is ordered by (R213, R214): its source, of a context with the virtual NPU and SERIAL, the order count and the
class. -/
structure Turn where
  src : Src
  vnpu : VnpuId
  serial : BitVec 32
  order : Nat
  cls : Nat
deriving DecidableEq, Repr

/-- The turn of a source: an engine orders no classes, so its turn names it alone (R214). -/
def turnOf (r : Src) (v : VnpuId) (serial : BitVec 32) (order cls : Nat) : Turn :=
  match r with
  | .ctx _ => ⟨r, v, serial, order, cls⟩
  | _ => ⟨r, 0, 0, 0, 0⟩

/-- The turn of an access that a source makes now. -/
def State.turn (s : State) (r : Src) (cls : Nat) : Turn :=
  match r with
  | .ctx i => turnOf r (s.ctx i).vnpu (s.ctx i).serial (s.ctx i).order cls
  | _ => turnOf r 0 0 0 cls

def Msg.turn (m : Msg) : Turn := turnOf m.src m.vnpu m.serial m.order m.cls
def Invocation.turn (i : Invocation) : Turn := turnOf (.ctx i.src) i.vnpu i.serial i.order i.cls

/-- Two accesses of one context, or of one engine. -/
def Turn.same (t u : Turn) : Bool := t.src == u.src && t.vnpu == u.vnpu && t.serial == u.serial

/-- An access is ordered after an earlier one whatever its bytes: in one class, or with an instruction between them that orders all
(R213). -/
def Turn.after (t u : Turn) : Bool :=
  match t.src with
  | .ctx _ => t.cls == u.cls || decide (u.order < t.order)
  | _ => false

/-- A message carries an access to some byte of [pa, pa + n) of global memory, or of the host's where `host` says so; an invocation is
an access to its whole line (R210). -/
def Payload.touches (p : Payload) (host : Bool) (pa n : Nat) : Bool :=
  match p with
  | .write parts _ _ _ => !host && parts.any fun x => overlap x.1 x.2.length pa n
  | .hostWrite _ parts => host && parts.any fun x => overlap x.1 x.2.length pa n
  | .invoke i => !host && overlap (i.pa / 128 * 128) 128 pa n
  | _ => false

/-- A message carries an access. -/
def Payload.isAccess : Payload → Bool
  | .write .. => true
  | .hostWrite .. => true
  | .invoke _ => true
  | _ => false

/-- An earlier message in flight that an access to [pa, pa + n) is ordered after (R213, R214). -/
def Msg.blocks (m : Msg) (t : Turn) (host : Bool) (pa n : Nat) : Bool :=
  m.body.isAccess && t.same m.turn && (t.after m.turn || m.body.touches host pa n)

/-- An earlier invocation still to be performed that an access to [pa, pa + n) is ordered after. -/
def Invocation.blocks (i : Invocation) (t : Turn) (pa n : Nat) : Bool :=
  t.same i.turn && (t.after i.turn || overlap (i.pa / 128 * 128) 128 pa n)

/-- Invocations that have reached a slice and are still to be performed, and those NACKed that are to be sent again. -/
def State.openInvs (s : State) : List Invocation :=
  s.slices.toList.flatMap Slice.invs ++ s.net.filterMap fun m => match m.body with
    | .reply i .nack => some i
    | _ => none

/-- Some earlier access of the source is still to be performed that this one is ordered after. -/
def State.lateAfter (s : State) (r : Src) (cls : Nat) (ps : List (Nat × Nat × Nat)) : Bool :=
  (s.net.any fun m => ps.any fun p => m.blocks (s.turn r cls) false p.2.1 p.2.2)
    || s.openInvs.any fun i => ps.any fun p => i.blocks (s.turn r cls) p.2.1 p.2.2

/-- Some earlier access of a class of the source, or one that an instruction between orders, is still to be performed (R213). -/
def State.lateClass (s : State) (r : Src) (cls : Nat) : Bool :=
  let t := s.turn r cls
  (s.net.any fun m => m.body.isAccess && t.same m.turn && t.after m.turn) || s.openInvs.any fun i => t.same i.turn && t.after i.turn

/-- No write or invocation of the source in a class of the mask is still to be performed (R228, R247). -/
def State.performed (s : State) (r : Src) (mask : BitVec 16) : Bool :=
  !(s.net.any fun m => (s.turn r 0).same m.turn && mask.getLsbD m.cls && m.body.isAccess)
    && !(s.openInvs.any fun i => (s.turn r 0).same i.turn && mask.getLsbD i.cls)

/-! ## Reads and writes of global memory -/

/-- What an access answers: a fault, a stall with the state it leaves, or its value. -/
inductive AccRes (α : Type) where
  | trap (t : Trap)
  | stall (s : State)
  | ok (s : State) (v : α)

/-- A read of `n` bytes at a virtual address (R244, R245). `l1` says that it may be served from the L1 of the core (R234); a read at
the home slice leaves no older copy there (R222). The read is bound here, so it stalls while an earlier access of the source that
it is ordered after is in flight, while a routine holds its line or one of its tables, or while a regulator holds one of its requests,
of which each line that misses is one (R213, R282, R385, R386, log 6); `rest`
says that it reads more of a 64-byte unit, which has been looked up (R211). -/
def State.loadPart (s : State) (r : Src) (a : Acc) (cls va n : Nat) (l1 engine rest : Bool) : AccRes (List Byte) :=
  if s.walkHeld a va n then .stall s
  else match s.checkPages a va n with
  | .error e => .trap (accTrap false engine e)
  | .ok pages =>
    let ps := physPieces pages va n
    let hit := fun (p : Nat × Nat × Nat) => l1 && (s.l1Copy a.core (p.2.1 / 128)).isSome
    match ps.find? fun p => !hit p && s.badAt p.2.1 with
    | some p => .trap { cause := 0x14, eaddr := BitVec.ofNat 64 p.1, einfo := accInfo false false engine }
    | none =>
      if s.lateAfter r cls ps || ps.any (fun p => !hit p && s.lineHeld (p.2.1 / 128)) then .stall s
      else
        let lf := s.leafOf a.vnpu
        let miss := ps.filter fun p => !hit p
        let charges := miss.flatMap fun p =>
          withFill (a.core.val, if l1 then 128 else p.2.2) (s.mcCharges (some lf) (p.2.1 / 128) true)
        match s.admitPart rest a.vnpu (s.asker r) charges with
        | (false, s) => .stall s
        | (true, s) =>
          let s := s.fillTlbs a.core pages
          let s := (if rest then [] else miss).foldl (fun s p =>
            let s := (s.touch (p.2.1 / 4096)).sliceAccess (some lf) (p.2.1 / 128) false true
            if l1 then s.l1Fill a.core (p.2.1 / 128) else s.l1Evict a.core (p.2.1 / 128)) s
          let bytes := ps.flatMap fun p =>
            match (if l1 then s.l1Copy a.core (p.2.1 / 128) else none) with
            | some c => c.cells.read p.2.1 p.2.2
            | none => s.dbytes p.2.1 p.2.2
          .ok s bytes

/-- A read that is no part of a larger one. -/
def State.load (s : State) (r : Src) (a : Acc) (cls va n : Nat) (l1 engine : Bool) : AccRes (List Byte) :=
  s.loadPart r a cls va n l1 engine false

/-- A write of bytes at a virtual address: one message and one request for each line (R244, R245, R385). `after` is the phase a release store
waits for. It stalls while an earlier write of the class to another home slice is unacknowledged (R216), and while its phase can count no
more, of which no regulator is charged (R232). -/
def State.storeMsg (s : State) (r : Src) (a : Acc) (cls va : Nat) (bs : List Byte) (after : Nat) (engine alloc : Bool)
    (tag : Option LineTag) : AccRes Unit :=
  if s.walkHeld a va bs.length then .stall s
  else match s.checkPages a va bs.length with
  | .error e => .trap (accTrap true engine e)
  | .ok pages =>
    let ps := physPieces pages va bs.length
    let home := fun (p : Nat × Nat × Nat) => (homeSlice (p.2.1 / 128)).val
    let wait := !engine && s.net.any fun m => (s.turn r cls).same m.turn && m.cls == cls && (match m.body with
      | .write .. => ps.any fun p => m.target != home p
      | _ => false)
    if wait then .stall s
    else match s.admitSeq a.vnpu (s.asker r) (ps.map fun p => [(a.core.val, p.2.2)]) with
      | (false, s) => .stall s
      | (true, t) =>
        let t := t.fillTlbs a.core pages
        let step := fun (x : Option State × List Byte) (p : Nat × Nat × Nat) =>
          (x.1.bind fun s => s.sendCounted r cls (home p) a.vnpu fun _ => .write [(p.2.1, x.2.take p.2.2)] after alloc tag,
           x.2.drop p.2.2)
        match (ps.foldl step (some t, bs)).1 with
        | some s => .ok s ()
        | none => .stall s

/-- More bytes of a unit join the write that carries it (R211). -/
def State.appendPart (s : State) (id pa : Nat) (bs : List Byte) : State :=
  { s with net := s.net.map fun m => if m.id ≠ id then m else match m.body with
      | .write parts after alloc tag => { m with body := .write (parts ++ [(pa, bs)]) after alloc tag }
      | .hostWrite v parts => { m with body := .hostWrite v (parts ++ [(pa, bs)]) }
      | _ => m }

/-! ## Local stores (R20, R22, R48, R208) -/

/-- Every byte of [a, a + n) lies in one space within its limit (R48). -/
def localOk (a n : Nat) : Bool :=
  let sp := a / 2 ^ 28
  let off := a % 2 ^ 28
  decide (sp = 0 ∧ off + n ≤ 0x100000) || decide (sp = 1 ∧ off + n ≤ 0xC0000) || decide (sp = 2 ∧ off + n ≤ 0x200000)

/-- The region of a local address among the 60 of LEND (R22, R326). -/
def regionOf (a : Nat) : Nat :=
  let sp := a / 2 ^ 28
  let off := a % 2 ^ 28
  if sp = 0 then off / 2 ^ 16 % 16 else if sp = 1 then 16 + off / 2 ^ 16 % 16 else 28 + off / 2 ^ 16 % 32

/-- The first local address of a region. -/
def regionBase (r : Nat) : Nat :=
  if r < 16 then r * 2 ^ 16 else if r < 28 then 2 ^ 28 + (r - 16) * 2 ^ 16 else 2 ^ 29 + (r - 28) * 2 ^ 16

/-- The bank of a slot holds the region of an address (R208, R326). -/
def Core.holdsAddr (k : Core) (sl : Slot) (a : Nat) : Bool :=
  let lent := k.lent.getLsbD (regionOf a)
  match sl with
  | .o => !lent
  | .h => lent

/-- The first byte of [a, a + n) in a region the bank does not hold. -/
def Core.firstNotHeld (k : Core) (sl : Slot) (a n : Nat) : Option Nat :=
  if n = 0 then none
  else if !k.holdsAddr sl a then some a
  else if !k.holdsAddr sl (a + n - 1) then some ((a + n - 1) / 2 ^ 16 * 2 ^ 16)
  else none

/-- The first poisoned unit of [a, a + n), by its address (R449). -/
def Core.poisoned (k : Core) (a n : Nat) : Option Nat :=
  if n = 0 then none
  else ((List.range ((a + n - 1) / 64 - a / 64 + 1)).map (· + a / 64)).find? (fun u => k.poison.contains u) |>.map (· * 64)

/-- Bytes written to a local store; a write of a whole unit ends its poison (R450). -/
def Core.lstore (k : Core) (a : Nat) (bs : List Byte) : Core :=
  { k with
    store := k.store.write a bs
    poison := k.poison.filter fun u => !(decide (a ≤ u * 64) && decide (u * 64 + 64 ≤ a + bs.length)) }

/-- The bytes of a local unit are written: a whole unit in one write, which ends its poison, else the bytes it has (R211, R450). -/
def Core.writeUnit (k : Core) (u : LocalUnit) : Core :=
  let bs := leBytes 64 u.data.toNat
  if u.mask = BitVec.allOnes 64 then k.lstore (64 * u.unit) bs
  else (List.range 64).foldl (fun k i => if u.mask.getLsbD i then k.lstore (64 * u.unit + i) ((bs.drop i).take 1) else k) k

/-- The zero-fill of a region: every byte reads zero, no unit is poisoned, a tile has tag F32 and version 0 (R326). -/
def Core.zeroFill (k : Core) (r : Nat) : Core :=
  let b := regionBase r
  let k := { k with
    store := k.store.clear b (b + 2 ^ 16)
    poison := k.poison.filter fun u => !(decide (b ≤ u * 64) && decide (u * 64 < b + 2 ^ 16)) }
  if h : 16 ≤ r ∧ r < 28 then
    { k with tags := k.tags.set (r - 16) 0 (by omega), vers := k.vers.set (r - 16) 0 (by omega) }
  else k

/-- The regions a mask names. -/
def maskSize (m : BitVec 60) : Nat := ((List.range 60).filter fun r => m.getLsbD r).length

/-- The zero-fill of the regions of a mask. -/
def Core.zeroFillMask (k : Core) (m : BitVec 60) : Core :=
  ((List.range 60).filter fun r => m.getLsbD r).foldl Core.zeroFill k

end Sys2Proof.Machine
end

