-- ==== Sys2Proof/Machine/Image.lean ====
section
/-! DEFINITION. The 8 KiB image of a context, laid out to the byte: writing it (R425, R426), checking it (R429) and
reading it back (R428, R430). -/

namespace Sys2Proof.Machine

/-- The owner of a field of the image: offset, bytes, value. -/
abbrev Field := Nat × Nat × Nat

/-- The records of a context in an engine queue, head first (R426); an orphan belongs to no context (R331). -/
def Engine.bankQueue (x : Engine) (sl : Slot) : List QEntry :=
  (if x.head.orphan then x.queue.drop 1 else x.queue).filter fun e => e.slot = sl

/-- The bank's record is at the head of the engine queue. -/
def Engine.headIs (x : Engine) (sl : Slot) : Bool :=
  match x.queue with
  | e :: _ => decide (e.slot = sl) && !x.head.orphan
  | [] => false

/-- The execution state of the bank's first record: that of the head, or that with which it resumes, or not started. -/
def Engine.bankHead (x : Engine) (sl : Slot) : Head :=
  if x.headIs sl then x.head else match x.bankQueue sl with | q :: _ => q.resume.getD {} | [] => {}

/-- STATE of a cut entry (R426). -/
def stateCode (h : Head) : Nat :=
  match h.st with
  | .waiting => 1 | .walking => 2 | .faulted _ => 3 | .done => 4

/-- PHASE of a cut entry (R426). -/
def phaseCode (h : Head) : Nat :=
  match h.st with
  | .faulted p => p
  | _ => 0

/-- CARRY of a cut entry (R426). -/
def carryCode (e : Eng) (h : Head) : Nat :=
  match e with
  | .ci | .co => min h.out 65535 + h.status * 65536
  | .mx | .vx | .xf => h.carry.toNat

/-- The fields of the cut entry and queue of engine e (R425, R426). -/
def cutFields (e : Eng) (q : List QEntry) (h : Head) : List Field :=
  let i := (Eng.fin e).val
  let b := 0x0C00 + 32 * i
  match q with
  | [] => []
  | r :: _ =>
    [(b, 4, r.seq.toNat), (b + 4, 2, h.j0), (b + 6, 2, h.j1), (b + 8, 2, h.j2), (b + 10, 2, h.j3), (b + 12, 1, stateCode h),
     (b + 13, 1, q.length), (b + 14, 1, match h.fault, h.st with | some t, .faulted _ => t.cause | _, _ => 0),
     (b + 15, 1, h.flags.toNat + 32 * phaseCode h), (b + 16, 8, carryCode e h)]
    ++ q.mapIdx fun k r => (0x1200 + 512 * i + 64 * k, 64, r.record.toNat)

/-- The carries of the head records (R205, R156, R405, R271). MX at the end of a j0 loop has none unless its step faulted (R199, R204,
R205). -/
def carryFields (hs : List (Eng × Head)) : List Field :=
  hs.flatMap fun (e, h) =>
    match e with
    | .mx => if h.j0 = 0 && h.st != .faulted 0 then [] else [(0x0D00, 512, h.mcarry.toNat)]
    | .vx => [(0x0F00, 512, h.vcarry.toNat)]
    | .ci => [(0x1190, 54, h.copy.toNat)]
    | .co =>
      (match h.openLine with
        | some o => [(0x1100, 128, o.data.toNat), (0x1180, 8, o.va)]
        | none => [])
      ++ [(0x1188, 8, h.lastLine.getD 0), (0x11C8, 54, h.copy.toNat)]
    | .xf => []

/-- The fields of a loop level (R425). -/
def loopFields (b : Nat) (l : Loop) (last : Bool) : List Field :=
  [(b, 8, l.start.toNat), (b + 8, 8, l.stop.toNat), (b + 16, 4, l.count.toNat),
   (b + 20, 1, (if l.active then 1 else 0) + (if last then 2 else 0))]

/-- Bits of a list as a number, the first in bit 0. -/
def bitsNat : List Bool → Nat
  | [] => 0
  | b :: r => (if b then 1 else 0) + 2 * bitsNat r

/-- ESTAT as it reads (R432). -/
def Ctx.estatVal (c : Ctx) : Word := if c.defer then c.estat ||| 8 else c.estat &&& ~~~8

/-- Every field of the image but those of the engines (R425). `eff` is PRIO.EFF, `pc` the PC at which the context resumes. -/
def ctxFields (c : Ctx) (flags eff : Nat) (pc : Word) (report : List Word) : List Field :=
  [(0x0000, 4, 0x47410001), (0x0004, 4, flags),
   (0x0008, 8, c.epc.toNat), (0x0010, 8, c.efrom.toNat), (0x0018, 8, c.ecause.toNat), (0x0020, 8, c.eaddr.toNat),
   (0x0028, 8, c.einfo.toNat), (0x0030, 8, c.estatVal.toNat), (0x0038, 8, c.tick.toNat)]
  ++ ((c.landings.take 10).mapIdx fun i l =>
      [(0x0040 + 16 * i, 8, l.val.toNat), (0x0048 + 16 * i, 1, l.reg), (0x0049 + 16 * i, 1, l.rem),
       (0x004A + 16 * i, 1, l.flags.toNat)]).flatten
  ++ [(0x00E0, 8, pc.toNat), (0x00E8, 1, if c.sup then 1 else 0)]
  ++ (c.g.toList.mapIdx fun i w => (0x0100 + 8 * i, 8, if i = 0 then 0 else w.toNat))
  ++ [(0x0300, 1, (c.k ||| 1).toNat),
      (0x0308, 4, (if c.wake then 1 else 0) + 256 * c.cq.length + 65536 * bitsNat c.cq)]
  ++ loopFields 0x0310 c.loop0 (c.loop0.active && c.loop1.active && !c.later1)
  ++ loopFields 0x0328 c.loop1 (c.loop0.active && c.loop1.active && c.later1)
  ++ [(0x0340, 8, c.fcr.toNat), (0x0348, 8, c.fsr.toNat), (0x0350, 8, (c.debug).toNat),
      (0x0358, 8, c.prioBase.toNat + 16 * eff), (0x0360, 8, c.liveset.toNat), (0x0368, 8, c.boost.toNat)]
  ++ (c.pace.toList.mapIdx fun i w => (0x0370 + 8 * i, 8, w.toNat))
  ++ [(0x0398, 8, c.tentab.toNat), (0x03A0, 8, c.tenlim.toNat), (0x03A8, 8, c.sscratch.toNat)]
  ++ (c.semMap.toList.mapIdx fun i b => (0x03B0 + i, 1, b.toNat))
  ++ (c.seqs.toList.mapIdx fun i w => (0x0400 + 4 * i, 4, w.toNat))
  ++ [(0x0414, 4, c.slxn.toNat)]
  ++ (c.ports.toList.mapIdx fun i n => (0x0418 + i, 1, n))
  ++ (c.fifos.toList.mapIdx fun i n => (0x042C + i, 1, n))
  ++ [(0x0440, 1, c.events.length)]
  ++ (c.rb.toList.mapIdx fun i w => (0x0600 + 64 * i, 64, w.toNat))
  ++ (c.events.mapIdx fun i e => [(0x0800 + 16 * i, 8, e.lo.toNat), (0x0808 + 16 * i, 8, e.hi.toNat)]).flatten
  ++ (report.mapIdx fun i w => (0x1F00 + 8 * i, 8, w.toNat))

/-- An image as a sparse memory over offsets 0 to 8191. -/
def imageOf (fs : List Field) : Mem := fs.foldl (fun m f => m.write f.1 (leBytes f.2.1 f.2.2)) []

/-- A field of an image. -/
def Mem.fieldAt (m : Mem) (off n : Nat) : Nat := leNat (m.read off n)

/-! ## Checking an image (R429) -/

/-- FCR as an MTS accepts it (R100). -/
def fcrOk (w : Word) : Bool := decide (fld w 2 0 ≤ 5) && fld w 7 6 == 0 && fld w 63 13 == 0
/-- FSR (R101). -/
def fsrOk (w : Word) : Bool := fld w 63 5 == 0
/-- DEBUG (R125) and BOOST (R338). -/
def bit0Ok (w : Word) : Bool := fld w 63 1 == 0
/-- PRIO: bits 3 and 63:7 are reserved (R318). -/
def prioOk (w : Word) : Bool := !tb w 3 && fld w 63 7 == 0
/-- LIVESET (R441). -/
def livesetOk (w : Word) : Bool := fld w 63 60 == 0
/-- PACE (R334). -/
def paceOk (w : Word) : Bool := fld w 63 16 == 0
/-- TENTAB (R269). -/
def tentabOk (w : Word) : Bool := fld w 5 0 == 0
/-- TENLIM (R269). -/
def tenlimOk (w : Word) : Bool := fld w 63 21 == 0

/-- A semaphore map entry names a counter of its slot's range or is unmapped (R259, R425). -/
def semEntryOk (sl : Slot) (b : Nat) : Bool :=
  bits b 7 7 == 1 || (match sl with
    | .o => decide (b % 64 < 48)
    | .h => decide (48 ≤ b % 64))

/-- The checks of a cut entry (R429): the offset of the first field that fails, STATE where it disagrees with QCOUNT (log 75). -/
def cutBad (m : Mem) (i : Nat) : Option Nat :=
  let b := 0x0C00 + 32 * i
  let st := m.fieldAt (b + 12) 1
  let q := m.fieldAt (b + 13) 1
  let f := m.fieldAt (b + 14) 1
  let fl := m.fieldAt (b + 15) 1
  let ph := bits fl 6 5
  if 4 < st || (q == 0 && st != 0) || (q != 0 && st == 0) then some (b + 12)
  else if 8 < q then some (b + 13)
  else if st == 3 && f == 0 then some (b + 14)
  else if (ph != 0 && st != 3) || ph == 3 || bits fl 7 7 != 0 then some (b + 15)
  else none

/-- The loop levels of an image are consistent (R429): the offset of the failing level. -/
def loopBad (m : Mem) : Option Nat :=
  let f0 := m.fieldAt 0x0324 1
  let f1 := m.fieldAt 0x033C 1
  let a0 := bits f0 0 0 == 1
  let a1 := bits f1 0 0 == 1
  if a0 && m.fieldAt 0x0320 4 == 0 then some 0x0320
  else if a1 && m.fieldAt 0x0338 4 == 0 then some 0x0338
  else if a0 && a1 && (bits f0 1 1 == bits f1 1 1) then some 0x0324
  else none

/-- The system registers of an image with their checks (R429). -/
def sysChecks (m : Mem) : List (Nat × Bool) :=
  let w := fun o => BitVec.ofNat 64 (m.fieldAt o 8)
  [(0x0340, fcrOk (w 0x0340)), (0x0348, fsrOk (w 0x0348)), (0x0350, bit0Ok (w 0x0350)), (0x0358, prioOk (w 0x0358)),
   (0x0360, livesetOk (w 0x0360)), (0x0368, bit0Ok (w 0x0368))]
  ++ ((List.range 5).map fun i => (0x0370 + 8 * i, paceOk (w (0x0370 + 8 * i))))
  ++ [(0x0398, tentabOk (w 0x0398)), (0x03A0, tenlimOk (w 0x03A0))]

/-- The first field of an image that fails R429, by its offset. -/
def imageBad (sl : Slot) (m : Mem) : Option Nat :=
  let used := (List.range 10).filter fun i => m.fieldAt (0x0049 + 16 * i) 1 != 0
  if m.fieldAt 0 4 ≠ 0x47410001 then some 0
  else match used.find? fun i => decide (71 < m.fieldAt (0x0048 + 16 * i) 1) with
  | some i => some (0x0048 + 16 * i)
  | none =>
    match (List.range 5).findSome? fun i => cutBad m i with
    | some o => some o
    | none =>
      match (List.range 25).find? fun i => decide (15 < m.fieldAt (0x0418 + i) 1) with
      | some i => some (0x0418 + i)
      | none =>
        if 16 < bits (m.fieldAt 0x0308 4) 12 8 then some 0x0308
        else if 64 < m.fieldAt 0x0440 1 then some 0x0440
        else match loopBad m with
          | some o => some o
          | none =>
            match (sysChecks m).find? fun e => !e.2 with
            | some e => some e.1
            | none =>
              match (List.range 64).find? fun i => !semEntryOk sl (m.fieldAt (0x03B0 + i) 1) with
              | some i => some (0x03B0 + i)
              | none => none

/-- The checks of bytes 0x0008-0x0037 (R429, R434): EPC[2:0], ECAUSE[63:8] and ESTAT[63:7] must be zero. -/
def excBad (m : Mem) : Option Nat :=
  if m.fieldAt 0x0008 8 % 8 ≠ 0 then some 0x0008
  else if 256 ≤ m.fieldAt 0x0018 8 then some 0x0018
  else if 128 ≤ m.fieldAt 0x0030 8 then some 0x0030
  else none

/-! ## Reading an image back (R428, R430) -/

/-- A word of an image. -/
def Mem.word (m : Mem) (o : Nat) : Word := BitVec.ofNat 64 (m.fieldAt o 8)

/-- The landings of an image (R128), each with the remaining ticks that its entry names, more than 10 too (DESIGN CHOICE, log 103). -/
def imageLandings (m : Mem) : List Landing :=
  ((List.range 10).filter fun i => m.fieldAt (0x0049 + 16 * i) 1 != 0).map fun i =>
    ⟨m.fieldAt (0x0048 + 16 * i) 1, m.word (0x0040 + 16 * i), BitVec.ofNat 5 (m.fieldAt (0x004A + 16 * i) 1),
     m.fieldAt (0x0049 + 16 * i) 1⟩

/-- A loop level of an image. -/
def imageLoop (m : Mem) (b : Nat) : Loop :=
  ⟨m.word b, m.word (b + 8), BitVec.ofNat 32 (m.fieldAt (b + 16) 4), bits (m.fieldAt (b + 20) 1) 0 0 == 1⟩

/-- A vector of `n` values read from an image. -/
def vecOf {α : Type} [Inhabited α] (n : Nat) (f : Nat → α) : Vector α n :=
  ⟨((List.range n).map f).toArray, by simp⟩

/-- Every item of the image but bytes 0x0008-0x0037 and 0x00E0-0x00E8 loaded into a context (R428). -/
def loadCtx (m : Mem) (c : Ctx) : Ctx :=
  { c with
    tick := m.word 0x0038
    landings := imageLandings m
    g := vecOf 64 fun i => if i = 0 then 0 else m.word (0x0100 + 8 * i)
    k := BitVec.ofNat 8 (m.fieldAt 0x0300 1)
    wake := m.fieldAt 0x0308 4 % 2 == 1
    cq := (List.range (bits (m.fieldAt 0x0308 4) 12 8)).map fun i => m.fieldAt 0x0308 4 / 2 ^ (16 + i) % 2 == 1
    loop0 := imageLoop m 0x0310
    loop1 := imageLoop m 0x0328
    later1 := bits (m.fieldAt 0x033C 1) 1 1 == 1
    fcr := m.word 0x0340
    fsr := m.word 0x0348
    debug := m.word 0x0350
    prioBase := BitVec.ofNat 3 (m.fieldAt 0x0358 8)
    liveset := m.word 0x0360
    boost := m.word 0x0368
    pace := vecOf 5 fun i => m.word (0x0370 + 8 * i)
    tentab := m.word 0x0398
    tenlim := m.word 0x03A0
    sscratch := m.word 0x03A8
    semMap := vecOf 64 fun i => BitVec.ofNat 8 (m.fieldAt (0x03B0 + i) 1)
    seqs := vecOf 5 fun i => BitVec.ofNat 32 (m.fieldAt (0x0400 + 4 * i) 4)
    slxn := BitVec.ofNat 32 (m.fieldAt 0x0414 4)
    ports := vecOf 20 fun i => m.fieldAt (0x0418 + i) 1
    fifos := vecOf 5 fun i => m.fieldAt (0x042C + i) 1
    events := (List.range (m.fieldAt 0x0440 1)).map fun i => ⟨m.word (0x0800 + 16 * i), m.word (0x0808 + 16 * i)⟩
    rb := vecOf 8 fun i => BitVec.ofNat 512 (m.fieldAt (0x0600 + 64 * i) 64) }

/-- Steps of a record before its micro-PC. -/
def stepsBefore (r : EngRec) (h : Head) : Nat :=
  h.j0 + (r.trip0.toNat + 1) * (h.j1 + (r.trip1.toNat + 1) * (h.j2 + (r.trip2.toNat + 1) * h.j3))

/-- CO has an open line of an encrypted tensor from its first step in the extents on, until its last (R405, log 75). -/
def Head.writing (h : Head) (q : List QEntry) : Bool :=
  h.copy.getLsbD (53 * 8) && match q, h.st with
  | r :: _, .walking => decide (h.out < stepsBefore (unpackRec r.record) h)
  | r :: _, .faulted 0 => decide (h.out < stepsBefore (unpackRec r.record) h)
  | _, _ => false

/-- The records of a bank in engine e, and their head's state, as the image holds them (R426, R430). -/
def imageEngine (m : Mem) (sl : Slot) (sup : Bool) (v : VnpuId) (e : Eng) : List QEntry × Head :=
  let i := (Eng.fin e).val
  let b := 0x0C00 + 32 * i
  let n := m.fieldAt (b + 13) 1
  let fl := m.fieldAt (b + 15) 1
  let car := m.fieldAt (b + 16) 8
  let q := (List.range n).map fun k =>
    { record := BitVec.ofNat 512 (m.fieldAt (0x1200 + 512 * i + 64 * k) 64), slot := sl, seq := BitVec.ofNat 32 (m.fieldAt b 4 + k)
      gate := 0, sup := sup, vnpu := v : QEntry }
  let st : HeadState := match m.fieldAt (b + 12) 1 with
    | 2 => .walking
    | 3 => .faulted (bits fl 6 5)
    | 4 => .done
    | _ => .waiting
  let copyEng := decide (e = .ci) || decide (e = .co)
  let h : Head := {
    st := st
    j0 := m.fieldAt (b + 4) 2, j1 := m.fieldAt (b + 6) 2, j2 := m.fieldAt (b + 8) 2, j3 := m.fieldAt (b + 10) 2
    flags := BitVec.ofNat 5 fl
    resumed := decide (e = .mx)
    carry := if copyEng then 0 else BitVec.ofNat 64 car
    out := if copyEng then car % 65536 else 0
    status := if copyEng then bits car 23 16 else 0
    mcarry := if e = .mx then BitVec.ofNat 4096 (m.fieldAt 0x0D00 512) else 0
    vcarry := if e = .vx then BitVec.ofNat 4096 (m.fieldAt 0x0F00 512) else 0
    copy := if e = .ci then BitVec.ofNat 432 (m.fieldAt 0x1190 54)
      else if e = .co then BitVec.ofNat 432 (m.fieldAt 0x11C8 54) else 0
    lastLine := if e = .co && m.fieldAt 0x1188 8 != 0 then some (m.fieldAt 0x1188 8) else none
    fault := match st with
      | .faulted _ => some { cause := m.fieldAt (b + 14) 1 }
      | _ => none }
  let open_ : Option OpenLine := if e = .co && h.writing q then
    some ⟨m.fieldAt 0x1180 8, BitVec.ofNat 1024 (m.fieldAt 0x1100 128)⟩ else none
  (q, { h with openLine := open_ })

end Sys2Proof.Machine
end

