-- ==== Sys2Proof/Machine/Report.lean ====
section
/-! DEFINITION. Reports: the error log and FAULT_N (R455, R456, R484), MSI-X messages, the event queue of a context and
its wake latch (R265, R366), and the physical placement of a walker access to a launch queue (R303, R304, R308). -/

namespace Sys2Proof.Machine

/-- Order of records by (stamp, source number) (R243). -/
def ErrRec.before (a b : ErrRec) : Bool := decide (a.stamp < b.stamp) || (a.stamp == b.stamp && decide (a.src < b.src))

/-- A record is put in its place in the log (R243). -/
def insertErr (x : Nat × ErrRec) : List (Nat × ErrRec) → List (Nat × ErrRec)
  | [] => [x]
  | y :: r => if x.2.before y.2 then x :: y :: r else y :: insertErr x r

/-- A record enters the log with its 32-bit sequence number (R484). -/
def State.enterErr (s : State) (r : ErrRec) (rest : List (Nat × ErrRec)) : State :=
  let l := s.errlog
  { s with
    lastAssert := if r.faultN then some l.seq else s.lastAssert
    errlog := { l with recs := insertErr (l.seq, r) rest, seq := (l.seq + 1) % 2 ^ 32 } }

/-- A record enters the error log of 1024 records, in place of the oldest unread one that did not assert FAULT_N where it is full, or
is dropped and counted (R484); a record that asserts FAULT_N asserts it all the same when it is dropped. -/
def State.logError (s : State) (r : ErrRec) : State :=
  let l := s.errlog
  let s := if r.faultN then { s with faultN := true } else s
  if l.recs.length < 1024 then s.enterErr r l.recs
  else match l.recs.find? fun e => !e.2.faultN with
    | some old => s.enterErr r (l.recs.filter (· ≠ old))
    | none => { s with errlog := { l with dropped := l.dropped + 1 } }

/-- A record of a class detected now by a source (R241, R456). -/
def State.errAt (s : State) (src cls : Nat) (faultN : Bool) (leaf vnpu world cause addr detail : Nat) : State :=
  s.logError ⟨s.gtc.toNat, src, cls, faultN, leaf, vnpu, world, cause, addr, detail⟩

/-- An MSI-X message leaves the host port (R305). -/
def State.msix (s : State) (v : Nat) : State := { s with outputs := .msix v :: s.outputs }

/-- MSI-X vector MSIBASE + 8 of a virtual NPU (R308, R477). -/
def State.msixStatus (s : State) (v : VnpuId) : State := s.msix ((s.contract v).msiBase + 8)

/-! ## The event queue (R265-R268) -/

/-- Source number of an entry (R268, R296, R356). -/
def EvEntry.src (e : EvEntry) : Nat := fld e.lo 57 48

/-- Order of entries by (stamp, source number) (R243). -/
def EvEntry.before (a b : EvEntry) : Bool :=
  decide (a.hi.toNat < b.hi.toNat) || (a.hi == b.hi && decide (a.src < b.src))

/-- An entry is put in its place of the delivery order (R243, R425). -/
def insertEv (x : EvEntry) : List EvEntry → List EvEntry
  | [] => [x]
  | y :: r => if x.before y then x :: y :: r else y :: insertEv x r

/-- The event queue has room (R265). -/
def Ctx.evRoom (c : Ctx) : Bool := decide (c.events.length < 64)

/-- An entry is a notification (R265). -/
def EvEntry.notice (e : EvEntry) : Bool := fld e.lo 3 0 == 3

/-- An entry takes its place in the event queue, which sets the wake latch and ends a YIELD hold (R265, R333, R366). -/
def Ctx.putEvent (c : Ctx) (e : EvEntry) : Ctx :=
  { c with events := insertEv e c.events, wake := true, holdEnd := none, late := if e.notice then c.late ++ [e] else c.late }

/-- An entry enters the event queue, or waits for room (R265). -/
def Ctx.pushEvent (c : Ctx) (e : EvEntry) : Ctx :=
  if c.evRoom then c.putEvent e else { c with eventsHeld := c.eventsHeld ++ [e] }

/-- Room in the queue lets a held notification in (R265). -/
def Ctx.refillEvents (c : Ctx) : Ctx :=
  match c.eventsHeld with
  | e :: r => if c.evRoom then { c.putEvent e with eventsHeld := r } else c
  | [] => c

/-- The notification of a walk of more than 32 hops (R356). -/
def notification (obj : BitVec 32) (src : Nat) (stamp : Word) : EvEntry :=
  ⟨BitVec.ofNat 64 (3 + 0x01 * 2 ^ 8 + obj.toNat * 2 ^ 16 + src * 2 ^ 48), stamp⟩

/-! ## Launch queues in memory (R303, R304, R308) -/

/-- The page of host memory that ATS gave for a page (R278). -/
def State.hostGrant (s : State) (v : VnpuId) (addr : Nat) : Option Nat := getKey (addr / 4096) (s.vnpu v).granted

/-- A host page is translated for a virtual NPU. -/
def State.hostGranted (s : State) (v : VnpuId) (addr : Nat) : Bool := (s.hostGrant v addr).isSome

/-- The address in host memory of a translated address. -/
def State.hostAddr (s : State) (v : VnpuId) (addr : Nat) : Nat := (s.hostGrant v addr).getD 0 * 4096 + addr % 4096

/-- The interface of a virtual NPU is in RUN, in which alone it reaches host memory (R413, R415). -/
def State.inRun (s : State) (v : VnpuId) : Bool := decide ((s.vnpu v).tdisp = .run)

/-- What a host access finds. -/
inductive HostRes where
  /-- It waits for a translation or a completion. -/
  | wait (s : State)
  /-- The interface is not in RUN. -/
  | closed
  /-- The page is translated. -/
  | ready

/-- The translation of a host page: a page request leaves where none is outstanding and an index is free (R278, R454). -/
def State.hostPage (s : State) (v : VnpuId) (addr : Nat) : HostRes :=
  let page := addr / 4096
  if !s.inRun v then .closed
  else if s.hostGranted v addr then .ready
  else if s.pageReqs.any fun p => p.vnpu = v && p.page = page && p.rgen = (s.vnpu v).rgen then .wait s
  else match (List.range 512).find? fun i => !(s.pageReqs.any fun p => p.index = i) with
    | some i => .wait { s with pageReqs := s.pageReqs ++ [⟨i, v, (s.vnpu v).rgen, page, s.gtc.toNat⟩] }
    | none => .wait s

/-- A module address of a launch queue, in a page of the virtual NPU's world that holds no encrypted tensor; none where the
access fails a check of R308 (R303, R403). -/
def State.qPlace (s : State) (v : VnpuId) (addr : Nat) : Option Nat :=
  match s.stage2 v addr with
  | none => none
  | some l =>
    if !l.e && s.pageWorld (l.addr / 4096) = (s.contract v).world && !s.badAt l.addr then some l.addr else none

/-- A routine holds the line of a module address of a launch queue, for which an access waits (R282). -/
def State.qBusy (s : State) (v : VnpuId) (q : QueueRec) (addr : Nat) : Bool :=
  q.inModule && match s.qPlace v addr with
    | some pa => s.lineHeld (pa / 128)
    | none => false

/-- A walker read of `n` bytes of a launch queue (R308); a fill takes a way that no leaf holds (R393). -/
def State.qRead (s : State) (v : VnpuId) (q : QueueRec) (addr n : Nat) : Option (State × List Byte) :=
  if q.inModule then
    (s.qPlace v addr).map fun pa => ((s.touch (pa / 4096)).sliceAccess none (pa / 128) false true, s.dbytes pa n)
  else if s.inRun v && s.hostGranted v addr then some (s, s.host.read (s.hostAddr v addr) n) else none

/-- What a walker write to a control block comes to: it is performed at its home slice or accepted by the host port, it is dropped
by the port, it waits, or it fails (R305, R308, R415). -/
inductive QWrite where
  | done (s : State)
  | dropped
  | wait (s : State)
  | failed

/-- A walker write to a control block (R282, R305, R308). -/
def State.qWrite (s : State) (v : VnpuId) (q : QueueRec) (addr : Nat) (bs : List Byte) : QWrite :=
  if q.inModule then
    match s.qPlace v addr with
    | none => .failed
    | some pa =>
      if s.lineHeld (pa / 128) then .wait s
      else match s.countNow .root (homeSlice (pa / 128)).val v with
        | none => .wait s
        | some s => .done ((s.dstore pa bs).sliceAccess none (pa / 128) true true)
  else match s.hostPage v addr with
    | .closed => .dropped
    | .wait s => .wait s
    | .ready => .done { s with host := s.host.write (s.hostAddr v addr) bs }

/-- A launch queue stops: QSTOP and its MSI-X (R308). -/
def State.stopQueue (s : State) (v : VnpuId) (q : Fin 8) : State :=
  (s.modQueue v q fun x => { x with qstop := true }).msixStatus v

/-- CONS, DONE and REJ as the control block holds them (R304). -/
def LaunchQueue.block (x : LaunchQueue) : List Byte :=
  leBytes 4 x.cons.toNat ++ leBytes 4 x.done.toNat ++ leBytes 4 x.rej.toNat

/-- The indices of a queue are written to its control block, and its MSI-X follows where DONE advanced and IRQ is set
(R304, R305, R308): a stopped queue too counts the nests taken before. A write that waits is tried again by the walker; one that
fails stops the queue and is not retried. -/
def State.publish (s : State) (v : VnpuId) (q : Fin 8) (doneMoved : Bool) : State :=
  let x := (s.vnpu v).queue q
  let rec' := (s.contract v).queues.get q
  let moved := doneMoved || x.unpublished = some true
  let mark := fun (s : State) (u : Option Bool) => s.modQueue v q fun x => { x with unpublished := u }
  match s.qWrite v rec' (rec'.qcb + 4) x.block with
  | .failed => if x.qstop then mark s none else (mark s none).stopQueue v q
  | .wait s => mark s (some moved)
  | .dropped => mark s none
  | .done s => if moved && rec'.irq then (mark s none).msix ((s.contract v).msiBase + q.val) else mark s none

/-- A nest is complete: rejected, or every iteration dealt and retired (R313). -/
def Nest.complete (n : Nest) : Bool := n.rejected || (decide (n.next = n.total) && decide (n.retired = n.total))

/-- Nests at the front that are complete are counted in DONE (R304). -/
def popNests : List Nest → Nat × List Nest
  | [] => (0, [])
  | n :: r => if n.complete then let (k, r') := popNests r; (k + 1, r') else (0, n :: r)

/-- DONE advances over the nests completed or rejected, and the queue is published (R304, R305, R313). -/
def State.settleQueue (s : State) (v : VnpuId) (q : Fin 8) : State :=
  let (k, r) := popNests ((s.vnpu v).queue q).nests
  if k = 0 then s
  else (s.modQueue v q fun x => { x with done := x.done + BitVec.ofNat 32 k, nests := r }).publish v q true

/-- A SERIAL nest deals its first iteration once every earlier nest of its queue is complete (R313). -/
def LaunchQueue.serialOk (x : LaunchQueue) (n : Nest) : Bool := !n.serial || n.next != 0 || decide (x.nests.length = 1)

/-- A virtual NPU has a dealable iteration, one of a nest without HARVEST (R311, R314, R321): whether a core qualifies now is not asked
(DESIGN CHOICE, log 97). -/
def State.hasWork (s : State) (v : VnpuId) : Bool :=
  (s.contract v).enable && !(s.vnpu v).busy && (s.vnpu v).queues.toList.any fun x => match x.headNest with
    | some n => !n.harvest && x.serialOk n
    | none => false

/-- A virtual NPU that gains a dealable iteration is raised to the least pass value of its leaf's others that have one (R321). -/
def State.gained (s before : State) (v : VnpuId) : State :=
  if before.hasWork v || !s.hasWork v then s
  else
    let others := (List.finRange 64).filter fun w => w ≠ v && s.leafOf w = s.leafOf v && s.hasWork w
    match (others.map fun w => (s.vnpu w).pass).min? with
    | some m => s.modVnpu v fun x => { x with pass := max x.pass m }
    | none => s

/-- An iteration of a nest has retired (R313). -/
def State.nestRetired (s : State) (v : VnpuId) (q : Fin 8) (uid : Nat) : State :=
  ((s.modQueue v q fun x =>
    { x with nests := x.nests.map fun n => if n.uid = uid then { n with retired := n.retired + 1 } else n }).settleQueue v q).gained s v

end Sys2Proof.Machine
end

