-- ==== Sys2Proof/Machine/Table.lean ====
section
/-! DEFINITION. The wait-for table (R351-R362), barrier instances (R368-R370) and priority inheritance (R361). -/

namespace Sys2Proof.Machine

/-! ## Units -/

/-- The unit that a context in a slot carries. -/
def Ctx.unit (c : Ctx) (i : CtxId) : UnitId := ⟨i, c.leaf, c.vnpu, c.serial⟩

/-- The unit or harvest context in a slot. -/
def State.unitOf (s : State) (i : CtxId) : UnitId := (s.ctx i).unit i

/-- A resident unit or harvest context, running or saved, by its slot and leaf, of which a core holds at most one unit (R311,
R357). -/
def State.findAt (s : State) (i : CtxId) (l : LeafId) : Option Ctx :=
  let c := s.ctx i
  if c.live && c.leaf = l then some c
  else match i.slot with
    | .o => ((s.core i.core).saved.find? fun x => x.ctx.leaf = l).map (·.ctx)
    | .h => none

/-- A unit where it is resident still. -/
def State.findUnit (s : State) (u : UnitId) : Option Ctx := (s.findAt u.ctx u.leaf).filter fun c => c.unit u.ctx = u

/-- A unit changed where it is, running or saved. -/
def State.modAt (s : State) (i : CtxId) (l : LeafId) (f : Ctx → Ctx) : State :=
  let c := s.ctx i
  if c.live && c.leaf = l then s.setCtx i (f c)
  else s.modCore i.core fun k =>
    { k with saved := k.saved.map fun x => if x.ctx.leaf = l then { x with ctx := f x.ctx } else x }

/-- Every resident unit of slot O of a core (R368). -/
def State.unitsOn (s : State) (c : CoreId) : List UnitId :=
  (if (s.core c).ctxO.live then [s.unitOf ⟨c, .o⟩] else []) ++ (s.core c).saved.map fun x => x.ctx.unit ⟨c, .o⟩

def State.allUnits (s : State) : List UnitId := allCores.flatMap s.unitsOn

/-! ## Objects (R264, R352) -/

def objKind (o : BitVec 32) : Nat := bits o.toNat 31 28

/-- A kind-2, 4, 5 or 6 object names a core (R264, R352). -/
def objCore (o : BitVec 32) : Option CoreId :=
  let n := bits o.toNat 27 21
  if h : n < 96 then some ⟨n, h⟩ else none

def objSlot (o : BitVec 32) : Slot := if o.getLsbD 20 then .h else .o

/-- An object of kind 2, 4, 5 or 6 (R264, R352). -/
def mkObj (kind : Nat) (c : CoreId) (sl : Slot) (f3 f2 low : Nat) : BitVec 32 :=
  BitVec.ofNat 32 (kind * 2 ^ 28 + c.val * 2 ^ 21 + Slot.num sl * 2 ^ 20 + f3 * 2 ^ 16 + f2 * 2 ^ 12 + low)

/-- Input port p of engine e. -/
def portObj (c : CoreId) (sl : Slot) (e : Eng) (p : Nat) : BitVec 32 := mkObj 2 c sl (Eng.fin e).val p 0
/-- The queue of engine e. -/
def queueObj (c : CoreId) (sl : Slot) (e : Eng) : BitVec 32 := mkObj 2 c sl (Eng.fin e).val 8 0
/-- The control-core FIFO from engine e. -/
def fifoObj (c : CoreId) (sl : Slot) (e : Eng) : BitVec 32 := mkObj 2 c sl 5 (Eng.fin e).val 0
/-- The owner claim of engine e (R207). -/
def claimObj (c : CoreId) (e : Eng) : BitVec 32 := mkObj 2 c .h (Eng.fin e).val 9 0
/-- A semaphore counter: bits 5:0 hold it. -/
def semObj (c : CoreId) (n : Nat) : BitVec 32 := mkObj 3 c .o 0 0 n
/-- An accumulator version. -/
def verObj (c : CoreId) (sl : Slot) (tile v : Nat) : BitVec 32 := mkObj 4 c sl tile 0 v
/-- A condition queue. -/
def cqObj (c : CoreId) (sl : Slot) : BitVec 32 := mkObj 5 c sl 0 0 0
/-- An event queue. -/
def evObj (c : CoreId) (sl : Slot) : BitVec 32 := mkObj 6 c sl 0 0 0
/-- A barrier of a level, top-level partition and domain. -/
def barObj (level : Nat) (t : TopId) (domain : Nat) : BitVec 32 :=
  BitVec.ofNat 32 (level * 2 ^ 26 + t.val * 2 ^ 23 + domain)

/-- The agent that feeds port p of engine e: none is the control core (R52). -/
def feeder (e : Eng) (p : Nat) : Option Eng :=
  match e, p with
  | .ci, 1 => some .mx | .ci, 2 => some .vx | .ci, 3 => some .co
  | .co, 1 => some .mx | .co, 2 => some .vx | .co, 3 => some .ci
  | .mx, 1 => some .ci | .mx, 2 => some .vx | .mx, 3 => some .co
  | .vx, 1 => some .ci | .vx, 2 => some .mx | .vx, 3 => some .co
  | .xf, 1 => some .ci | .xf, 2 => some .vx | .xf, 3 => some .co
  | _, _ => none

/-- An engine holds a record of the bank. -/
def State.engHolds (s : State) (c : CoreId) (e : Eng) (sl : Slot) : Bool :=
  !(((s.core c).engine e).bankQueue sl).isEmpty

/-- A record of engine e that can change the version of a tile: BUMP, VBUMP or MRET naming it (R353). -/
def bumpsTile (e : Eng) (w : BitVec 512) (tile : Nat) : Bool :=
  let r := unpackRec w
  let opc := (recOpc w).toNat
  r.tile.toNat == tile && (r.bump == 1 || (e = .vx && opc == 0x40) || (e = .mx && opc == 0x05))

/-- An invocation of an SLXN of a context that is not resolved: on its way, queued or executing, or with its reply to be taken
(R295, R297). -/
def State.slxnOpen (s : State) (i : CtxId) : Bool :=
  let mine := fun (v : Invocation) => !v.wait && v.src = i
  (s.net.any fun m => match m.body with
    | .invoke v => mine v
    | .reply v _ => mine v
    | _ => false) || s.slices.toList.any fun x => x.invs.any mine

/-- An agent of the table: a context, or an engine acting for the bank of a context, with the leaf of that context (R351). -/
structure Agent where
  src : Src
  leaf : LeafId
  slot : Slot
deriving DecidableEq, Repr

def ctxAgent (i : CtxId) (l : LeafId) : Agent := ⟨.ctx i, l, i.slot⟩

/-- The holders of an object as an agent of a top-level partition sees them (R353); for a kind that names none, none. An unresolved
SLXN is a holder that is present and never blocked: the agent of the slices. -/
def State.holders (s : State) (t : TopId) (o : BitVec 32) : List Agent :=
  let ctxOf := fun (c : CoreId) (sl : Slot) => ctxAgent ⟨c, sl⟩ (s.ctxLeaf ⟨c, sl⟩)
  let engOf := fun (c : CoreId) (e : Eng) (sl : Slot) => Agent.mk (.eng ⟨c, e⟩) (s.ctxLeaf ⟨c, sl⟩) sl
  let one := fun (c : CoreId) (e : Eng) (sl : Slot) => if s.engHolds c e sl then engOf c e sl else ctxOf c sl
  let sl := objSlot o
  match objKind o with
  | 0 => match s.barriers.find? fun b => b.obj = o with
    | some b => (b.members.filter fun m => !b.arrived.contains m).map fun m => ctxAgent m.ctx m.leaf
    | none => []
  | 2 => match objCore o with
    | none => []
    | some c =>
      let e := bits o.toNat 19 16
      let p := bits o.toNat 15 12
      if e = 5 then (match Eng.ofCode p with | some e => [one c e sl] | none => [])
      else match Eng.ofCode e with
        | none => []
        | some e =>
          if p = 8 then [engOf c e sl]
          else if p = 9 then [ctxOf c .o]
          else match feeder e p with
            | some f => [one c f sl]
            | none => [ctxOf c sl]
  | 4 => match objCore o with
    | none => []
    | some c =>
      let tile := bits o.toNat 19 16
      match engs.filter fun e => (((s.core c).engine e).bankQueue sl).any fun q => bumpsTile e q.record tile with
      | [] => [ctxOf c sl]
      | l => l.map fun e => engOf c e sl
  | 5 => match objCore o with
    | some c => [one c .vx sl]
    | none => []
  | 6 => match objCore o with
    | some c => match (engs.filter fun e => s.engHolds c e sl).map fun e => engOf c e sl with
      | [] => if s.slxnOpen ⟨c, sl⟩ then [⟨.root, s.ctxLeaf ⟨c, sl⟩, sl⟩] else []
      | l => l
    | none => []
  | 1 | 3 | 7 => (s.wft.filter fun e => e.holder && e.obj = o && topOf e.leaf = t).map fun e =>
      ⟨e.agent, e.leaf, match e.agent with | .ctx i => i.slot | _ => .o⟩
  | _ => []

/-- A holder is present (R357). -/
def State.present (s : State) (h : Agent) : Bool :=
  match h.src with
  | .ctx i => (s.findAt i h.leaf).isSome
  | _ => true

/-- The wait of an agent on an object is registered (R351, R358). -/
def State.registered (s : State) (a : Src) (l : LeafId) (o : BitVec 32) : Bool :=
  s.wft.any fun e => e.agent = a && e.leaf = l && e.obj = o && !e.holder

/-- Whether the implicit wait of an agent on an object still stands: a stall ends when what it waits for has come, though the agent
has not acted since (R354). A context waits on the queue of an engine for room or for its records to retire. -/
def State.stands (s : State) (a : Src) (o : BitVec 32) : Bool :=
  let isEng := match a with
    | .eng _ => true
    | _ => false
  match objCore o with
  | none => true
  | some c =>
    let x := s.ctx ⟨c, objSlot o⟩
    let e := bits o.toNat 19 16
    let p := bits o.toNat 15 12
    match objKind o with
    | 2 =>
      if e = 5 then
        let n := (x.fifos[p]?).getD 0
        if isEng then decide (15 ≤ n) else decide (n = 0)
      else match Eng.ofCode e with
        | none => true
        | some f =>
          if p = 8 then decide (8 ≤ (s.engine ⟨c, f⟩).queue.length) || s.engHolds c f (objSlot o)
          else if p = 9 then s.engHolds c f .o
          else
            let n := (x.ports[4 * e + p]?).getD 0
            if a = .eng ⟨c, f⟩ then decide (n = 0)
            else decide (15 ≤ n) || (!isEng && decide (f = .xf) && decide (n = 0))
    | 4 => (((s.core c).vers[e]?).getD 0).toNat != bits o.toNat 7 0
    | 5 => if isEng then decide (16 ≤ x.cq.length) else x.cq.isEmpty
    | 6 => if isEng then !x.evRoom else x.events.isEmpty
    | _ => true

/-- The head record of an engine is of a bank (R353: an engine blocks when its head record of the bank is in a registered stall). -/
def Engine.headOf (x : Engine) (sl : Slot) : Bool :=
  match x.queue with
  | q :: _ => decide (q.slot = sl)
  | [] => false

/-- The object an agent is blocked on, if its wait is registered and stands; a context in WFE ends a walk, and a release ends a WOWAIT
(R353, R354, R358, R363). -/
def State.waitsOn (s : State) (h : Agent) : Option (BitVec 32) :=
  (match h.src with
  | .ctx i => match s.findAt i h.leaf with
    | some c => if c.inWfe then none else c.blocked.filter fun o => if c.inWowait then !c.released else s.stands h.src o
    | none => none
  | .eng i => if (s.engine i).headOf h.slot then (s.engine i).blocked.filter fun o => s.stands h.src o else none
  | .root => none).filter fun o => s.registered h.src h.leaf o

/-- What a walk finds (R354-R357). -/
inductive Walk where
  | clear
  | cycle (pairs : List (BitVec 32 × Nat))
  | progress (obj : BitVec 32) (sub holder : Nat)
  | long
deriving DecidableEq, Repr

/-- The first finding of two branches: the members of a barrier are followed in their order, one that is not dispatched last
(DESIGN CHOICE, log 91). -/
def Walk.or (a b : Walk) : Walk := if a = .clear then b else a

/-- The walk from an object; `pairs` are the pairs so far, `n` the hops left (R354-R357). Each branch at a barrier has the hops of its own
path (DESIGN CHOICE, log 91). An edge may lead to a context of another top-level partition, whose ids are those of its own (R352). -/
def State.walk (s : State) (t : TopId) (start : Agent) : Nat → List (BitVec 32 × Nat) → BitVec 32 → Walk
  | 0, _, _ => .long
  | n + 1, pairs, o =>
    let hs := s.holders t o
    let missing := objKind o == 0 && (s.barriers.any fun b => b.obj = o && decide (0 < b.missing))
    let follow := if objKind o = 0 then hs else match hs with | [h] => [h] | _ => []
    let found := follow.foldl (fun acc h => acc.or (
      if h = start then .cycle pairs
      else if !s.present h then .progress o 1 (srcNum h.src)
      else match s.waitsOn h with
        | some o' => s.walk (topOf h.leaf) start n (pairs ++ [(o', srcNum h.src)]) o'
        | none => .clear)) Walk.clear
    found.or (if missing then .progress o 3 0xFFFF else .clear)

/-- A pair of the deadlock report (R355). -/
def pairWord (p : BitVec 32 × Nat) : Word := BitVec.ofNat 64 (p.1.toNat + p.2 * 2 ^ 32)

/-! ## Registrations (R351, R358) -/

def State.wftUsed (s : State) (l : LeafId) : Nat := (s.wft.filter fun e => e.leaf = l).length

/-- An entry is free in the leaf's quota (R351, R358). -/
def State.wftRoom (s : State) (l : LeafId) : Bool := decide (s.wftUsed l < (s.leafContract l).wftq)

def State.wftAdd (s : State) (e : WftEntry) : State := { s with wft := s.wft ++ [e] }

/-- The registrations of an agent that satisfy `p` are removed. -/
def State.wftDrop (s : State) (a : Src) (l : LeafId) (p : WftEntry → Bool) : State :=
  { s with wft := s.wft.filter fun e => !(e.agent = a && e.leaf = l && p e) }

/-- A wait that found no entry (R358). -/
def State.wftLost (s : State) (l : LeafId) : State :=
  s.modLeaf l fun x =>
    let n := fld x.wftstat 31 16
    { x with wftstat := BitVec.ofNat 64 (x.wftstat.toNat % 65536 / 2 * 2 + 1 + (if n < 65535 then n + 1 else n) * 65536) }

/-- WFTSTAT.UNCHECKED (R356). -/
def State.wftUnchecked (s : State) (l : LeafId) : State := s.modLeaf l fun x => { x with wftstat := x.wftstat ||| 2 }

/-- An agent's wait ends: the registrations made for it, of which WFE has one on each of its objects, are removed (R354, R366). -/
def State.unblockCtx (s : State) (i : CtxId) : State :=
  let c := s.ctx i
  match c.blocked with
  | none => s
  | some _ =>
    let s := s.wftDrop (.ctx i) (s.ctxLeaf i) fun e => !e.holder && !e.explicit
    let s := { s with wftQueue := s.wftQueue.filter fun q => match q with | WftReq.block a _ => decide (a ≠ Src.ctx i) | _ => true }
    s.modCtx i fun c => { c with blocked := none, inWfe := false, inWowait := false }

def State.unblockEng (s : State) (i : EngId) (sl : Slot) : State :=
  match (s.engine i).blocked with
  | none => s
  | some o =>
    let s := s.wftDrop (.eng i) (s.ctxLeaf ⟨i.core, sl⟩) fun e => e.obj = o
    let s := { s with wftQueue := s.wftQueue.filter fun q => q ≠ WftReq.block (.eng i) o }
    s.modEngine i fun x => { x with blocked := none }

/-- A context blocks on an object: the registration goes to the table (R354). -/
def State.blockCtx (s : State) (i : CtxId) (o : BitVec 32) : State :=
  if (s.ctx i).blocked = some o then s
  else
    let s := s.unblockCtx i
    let s := s.modCtx i fun c => { c with blocked := some o, released := false, inWowait := false }
    { s with wftQueue := s.wftQueue ++ [.block (.ctx i) o] }

def State.blockEng (s : State) (i : EngId) (sl : Slot) (o : BitVec 32) : State :=
  if (s.engine i).blocked = some o then s
  else
    let s := s.unblockEng i sl
    let s := s.modEngine i fun x => { x with blocked := some o }
    { s with wftQueue := s.wftQueue ++ [.block (.eng i) o] }

/-- An id is compared within one top-level partition only (R352). -/
def objScoped (o : BitVec 32) : Bool := objKind o == 1 || objKind o == 3 || objKind o == 7

/-- Ids that a leaf and a top-level partition use name one object: every id but those compared within one partition (R352). -/
def sameObj (t : TopId) (l : LeafId) (o : BitVec 32) : Bool := !objScoped o || topOf l == t

/-- A release of an object as a top-level partition names it (R352, R365): contexts that hold a WOREG registration of it are woken
(R366), and a WOWAIT of it may end, whether or not it found an entry (R358, R363). -/
def State.releaseObj (s : State) (t : TopId) (o : BitVec 32) : State :=
  let s := (s.wft.filter fun e => e.obj = o && !e.holder && e.explicit && sameObj t e.leaf o).foldl (fun s e =>
    match e.agent with
    | .ctx i => s.modAt i e.leaf fun c => { c with wake := true }
    | _ => s) s
  allCtx.foldl (fun s i =>
    let c := s.ctx i
    if c.live && c.blocked = some o && c.inWowait && sameObj t (s.ctxLeaf i) o then s.setCtx i { c with released := true } else s) s

/-- The objects that some context waits on by a WOWAIT and of which R353 makes a context a holder without a WOHOLD. -/
def State.heldOf (s : State) (i : CtxId) (l : LeafId) : List (BitVec 32) :=
  allCtx.filterMap fun j =>
    let c := s.ctx j
    c.blocked.filter fun o => c.live && c.inWowait && !objScoped o && (s.holders (topOf l) o).contains (ctxAgent i l)

/-- The context that sent a request to the table. -/
def WftReq.sender : WftReq → Option CtxId
  | .block (.ctx i) _ => some i
  | .block _ _ => none
  | .woreg i _ | .wodereg i _ | .wohold i _ | .worel i _ _ | .wowait i _ | .wopoll i _ => some i
  | .idle _ _ => none

/-- The requests of a context that are not processed yet go, where the context is in its slot. -/
def State.dropReqs (s : State) (i : CtxId) (l : LeafId) : State :=
  if (s.ctx i).live && decide (s.ctxLeaf i = l) then { s with wftQueue := s.wftQueue.filter fun q => decide (q.sender ≠ some i) } else s

/-- Every hold of an agent is released, and every registration removed, those it has asked for with them (R348, R365, R367). -/
def State.dropAll (s : State) (i : CtxId) (l : LeafId) : State :=
  let held := (s.wft.filter fun e => e.agent = .ctx i && e.leaf = l && e.holder).map (·.obj) ++ s.heldOf i l
  let s := s.wftDrop (.ctx i) l fun _ => true
  let s := s.dropReqs i l
  held.foldl (fun s o => s.releaseObj (topOf l) o) s

/-! ## Barriers (R368, R370) -/

/-- The object of a context's barrier of a level (R352). -/
def State.barrierObj (s : State) (i : CtxId) (level : Nat) : BitVec 32 :=
  let c := s.ctx i
  let l := s.ctxLeaf i
  let t := topOf l
  match level with
  | 1 => barObj 1 t c.l1id.toNat
  | 2 => barObj 2 t l.val
  | 3 => barObj 3 t t.val
  | _ => barObj 0 t i.core.val

/-- The members of a new meeting, and how many are not dispatched (R368). -/
def State.barrierMembers (s : State) (i : CtxId) (level : Nat) : List UnitId × Nat :=
  let l := s.ctxLeaf i
  let t := topOf l
  match level with
  | 1 =>
    match s.domains.find? fun d => d.id = (s.ctx i).l1id && d.top = t with
    | some d => (d.members.map (·.2), d.size - d.members.length)
    | none => ([s.unitOf i], 0)
  | 2 => (s.allUnits.filter fun u => u.leaf = l, 0)
  | _ => (s.allUnits.filter fun u => topOf u.leaf = t, 0)

/-- Members of a level-1 domain that have retired count as arrived (R348, R368). -/
def State.domainRetired (s : State) (i : CtxId) : List UnitId :=
  match s.domains.find? fun d => d.id = (s.ctx i).l1id && d.top = s.ctxTop i with
  | some d => (d.members.filter fun m => d.retired.contains m.1).map (·.2)
  | none => []

/-- Every member of a meeting has arrived. -/
def Barrier.full (b : Barrier) : Bool := b.missing == 0 && b.members.all fun m => b.arrived.contains m

/-- A unit that retires counts as arrived at every open meeting that has it as a member (R348, R368). -/
def State.arriveAll (s : State) (u : UnitId) : State :=
  { s with barriers := s.barriers.map fun b =>
      if b.members.contains u && !b.arrived.contains u then { b with arrived := b.arrived ++ [u], lastAt := s.cycle } else b }

/-! ## Priority (R361) -/

/-- The objects a context holds: those of its WOHOLDs, and barriers at which it has not arrived (R361). -/
def State.heldBy (s : State) (u : UnitId) : List (BitVec 32) :=
  (s.wft.filter fun e => e.holder && e.agent = .ctx u.ctx && e.leaf = u.leaf).map (·.obj)
    ++ (s.barriers.filter fun b => b.members.contains u && !b.arrived.contains u).map (·.obj)

/-- The contexts of its top-level partition that are blocked, in a registered wait, on an object a context holds (R358, R361). -/
def State.lenders (s : State) (u : UnitId) : List UnitId :=
  let held := s.heldBy u
  (s.wft.filter fun e => !e.holder && held.contains e.obj && topOf e.leaf = topOf u.leaf).filterMap fun e =>
    match e.agent with
    | .ctx i => match s.findAt i e.leaf with
      | some c => if c.blocked = some e.obj || (c.inWfe && e.explicit) then some (c.unit i) else none
      | none => none
    | _ => none

/-- Those units, and every unit that lends to one of them, along chains of holders (R361): `n` rounds. -/
def State.lendersFrom (s : State) : Nat → List UnitId → List UnitId
  | 0, us => us
  | n + 1, us =>
    let more := ((us.flatMap s.lenders).filter fun w => !us.contains w).eraseDups
    if more.isEmpty then us else s.lendersFrom n (us ++ more)

/-- PRIO.EFF of a unit: the least BASE of it and of all that lend to it (R361). Each round adds a unit, and there are at most as many
as contexts and saved units. -/
def State.effOf (s : State) (u : UnitId) : Nat :=
  let base := fun (w : UnitId) => ((s.findUnit w).map fun c => c.prioBase.toNat).getD 7
  (s.lendersFrom (192 + (allCores.map fun c => (s.core c).saved.length).sum) [u]).foldl (fun a w => min a (base w)) 7

/-- PRIO.EFF of a context (R318, R361). -/
def State.eff (s : State) (i : CtxId) : Nat := s.effOf (s.unitOf i)

end Sys2Proof.Machine
end

