-- ==== Sys2Proof/Machine/Operands.lean ====
section
/-! DEFINITION. Operands: the registers of a context (R112, R114), the addressing modes (R36), the walk and the local
addresses of an engine record (R46-R48, R208), and the header checks of R44. -/

namespace Sys2Proof

/-! ## Descriptors (R40, R46, R47) -/

/-- The address a descriptor forms (R46). -/
def Desc.at (d : Desc) (j0 j1 j2 j3 : Nat) : Int :=
  (d.base.toNat : Int) + (j0 : Int) * d.s0.toInt + (j1 : Int) * d.s1.toInt + (j2 : Int) * d.s2.toInt + (j3 : Int) * d.s3.toInt

def Desc.isZero (d : Desc) : Bool := decide (d = ⟨0, 0, 0, 0, 0⟩)
def Desc.noStride (d : Desc) : Bool := d.s0 == 0 && d.s1 == 0 && d.s2 == 0 && d.s3 == 0

/-- The space of a base (R22). -/
def Desc.space (d : Desc) : Nat := d.base.toNat / 2 ^ 28

/-- The loop counts of a record (R40). -/
def EngRec.count0 (r : EngRec) : Nat := r.trip0.toNat + 1
def EngRec.count1 (r : EngRec) : Nat := r.trip1.toNat + 1
def EngRec.count2 (r : EngRec) : Nat := r.trip2.toNat + 1
def EngRec.count3 (r : EngRec) : Nat := r.trip3.toNat + 1

end Sys2Proof

namespace Sys2Proof.Machine

/-! ## Registers (R112, R114) -/

/-- gN: g0 reads zero. -/
def Ctx.rd (c : Ctx) (r : Reg) : Word := if r = 0 then 0 else c.g[r.toNat]'r.isLt

/-- gN written: a write to g0 is discarded. -/
def Ctx.wr (c : Ctx) (r : Reg) (v : Word) : Ctx := if r = 0 then c else { c with g := c.g.set r.toNat v r.isLt }

/-- kN: k0 reads 1. -/
def Ctx.rdk (c : Ctx) (r : KReg) : Bool := r == 0 || c.k.getLsbD r.toNat

/-- kN written: a write to k0 is discarded. -/
def Ctx.wrk (c : Ctx) (r : KReg) (v : Bool) : Ctx :=
  if r = 0 then c
  else 
    let m : BitVec 8 := 1#8 <<< r.toNat
    { c with k := (c.k &&& ~~~m) ||| (if v then m else 0) }

/-- The predicate holds: k[KP] xor KN (R31). -/
def Ctx.holds (c : Ctx) (p : Pred) : Bool := c.rdk p.kp != (p.kn == 1)

/-- The number of a g register among the landing registers of R126. -/
def gNum (r : Reg) : Nat := r.toNat
/-- The number of a k register. -/
def kNum (r : KReg) : Nat := 64 + r.toNat

/-- A landing register written: 0-63 g, 64-71 k (R126). -/
def Ctx.land (c : Ctx) (reg : Nat) (v : Word) : Ctx :=
  if reg < 64 then c.wr (BitVec.ofNat 6 reg) v else c.wrk (BitVec.ofNat 3 (reg - 64)) (v.getLsbD 0)

/-- A record buffer (R249). -/
def Ctx.buf (c : Ctx) (n : RbReg) : BitVec 512 := c.rb[n.toNat]'n.isLt
def Ctx.setBuf (c : Ctx) (n : RbReg) (v : BitVec 512) : Ctx := { c with rb := c.rb.set n.toNat v n.isLt }

/-! ## Addressing modes (R36) -/

/-- The effective address and the base update of an F-M operand. -/
def Ctx.ea (c : Ctx) (a : Reg) : AMode → Word × Option Word
  | .off o => (c.rd a + o.signExtend 64, none)
  | .idx b sc => (c.rd a + (c.rd b <<< sc.toNat), none)
  | .postOff o => (c.rd a, some (c.rd a + o.signExtend 64))
  | .postIdx b sc => (c.rd a, some (c.rd a + (c.rd b <<< sc.toNat)))

/-- The registers an F-M address reads, in the order A, B of R126. -/
def addrRegs (a : Reg) : AMode → List Nat
  | .off _ => [gNum a]
  | .idx b _ => [gNum a, gNum b]
  | .postOff _ => [gNum a]
  | .postIdx b _ => [gNum a, gNum b]

/-- The base update as an ordinary result of latency 0 (R36). -/
def baseUpdate (a : Reg) : Option Word → List Landing
  | some v => [⟨gNum a, v, 0, 0⟩]
  | none => []

/-! ## Values -/

/-- The low `n` bytes of a word, little-endian (R4). -/
def wordBytes (n : Nat) (v : Word) : List Byte := leBytes n v.toNat

/-- A loaded value of `n` bytes, extended as SX asks (R244). -/
def loadValue (n : Nat) (sx : Bool) (bs : List Byte) : Word :=
  let v := leNat bs
  if sx && decide (2 ^ (8 * n - 1) ≤ v) then BitVec.ofInt 64 ((v : Int) - 2 ^ (8 * n)) else BitVec.ofNat 64 v

/-- SIZE as a byte count (R35). -/
def sizeBytes (z : BitVec 2) : Nat := 2 ^ z.toNat

/-! ## The walk of a record (R46, R47) -/

/-- The address of the head's step. -/
def Head.addr (h : Head) (d : Desc) : Int := d.at h.j0 h.j1 h.j2 h.j3

/-- The linear index of the head's step (R95). -/
def Head.linear (h : Head) (r : EngRec) : Nat := h.j0 + r.count0 * (h.j1 + r.count1 * (h.j2 + r.count2 * h.j3))

/-- The last step of a j0 loop. -/
def Head.lastJ0 (h : Head) (r : EngRec) : Bool := decide (r.trip0.toNat ≤ h.j0)

/-- The head after a step: the next micro-PC in walk order, or every step done (R46). -/
def Head.advance (h : Head) (r : EngRec) : Head :=
  if h.j0 < r.trip0.toNat then { h with j0 := h.j0 + 1 }
  else if h.j1 < r.trip1.toNat then { h with j0 := 0, j1 := h.j1 + 1 }
  else if h.j2 < r.trip2.toNat then { h with j0 := 0, j1 := 0, j2 := h.j2 + 1 }
  else if h.j3 < r.trip3.toNat then { h with j0 := 0, j1 := 0, j2 := 0, j3 := h.j3 + 1 }
  else { h with st := .done }

/-! ## Local operands (R48, R149, R151, R155, R199, R208) -/

/-- A trap of an engine step. -/
def stepTrap (cause : Nat) (eaddr : Int) : Trap := { cause := cause, eaddr := BitVec.ofInt 64 eaddr }

/-- R48 and R208 for `n` bytes at `a`, in the space of `base`: the address where it lies, or the fault. -/
def Core.localCheck (k : Core) (sl : Slot) (space : Nat) (a : Int) (n : Nat) : Except Trap Nat :=
  if a < 0 then .error (stepTrap 0x05 a)
  else
    let x := a.toNat
    if 2 ^ 32 ≤ x then .error (stepTrap 0x05 a)
    else if x / 2 ^ 28 ≠ space then .error (stepTrap 0x05 a)
    else if !localOk x n then .error (stepTrap 0x05 a)
    else match k.firstNotHeld sl x n with
      | some b => .error (stepTrap 0x05 b)
      | none => .ok x

/-- The tile of an accumulator address (R22). -/
def tileOf (a : Nat) : Nat := a / 2 ^ 16 % 16

/-- The tag of tile `t`. -/
def Core.tag (k : Core) (t : Nat) : BitVec 4 := if h : t < 12 then k.tags[t] else 0
def Core.setTag (k : Core) (t : Nat) (v : BitVec 4) : Core := if h : t < 12 then { k with tags := k.tags.set t v } else k
def Core.ver (k : Core) (t : Nat) : BitVec 8 := if h : t < 12 then k.vers[t] else 0
def Core.setVer (k : Core) (t : Nat) (v : BitVec 8) : Core := if h : t < 12 then { k with vers := k.vers.set t v } else k

/-- Every byte of [a, a + n) in the accumulator space lies in a tile of the tag (R151). -/
def Core.tagOk (k : Core) (a n : Nat) (ty : BitVec 4) : Bool :=
  a / 2 ^ 28 ≠ 1 || (k.tag (tileOf a) == ty && k.tag (tileOf (a + n - 1)) == ty)

/-- A row check: `n` bytes lie in one 512-byte accumulator row (R149). -/
def rowOk (a n : Nat) : Bool := a / 2 ^ 28 ≠ 1 || decide (a % 512 + n ≤ 512)

/-- R48 and R208 for `n` bytes at each of a list of addresses, in their order. -/
def Core.localChecks (k : Core) (sl : Slot) (space n : Nat) : List Int → Except Trap (List Nat)
  | [] => .ok []
  | a :: r => match k.localCheck sl space a n with
    | .error t => .error t
    | .ok x => match k.localChecks sl space n r with
      | .error t => .error t
      | .ok l => .ok (x :: l)

/-- A local operand of a step, of one vector or several, in its three checks: translation and holding, alignment, tag; the last two
name the operand by its first address (R149, R151, R155, R199). -/
def Core.operand (k : Core) (sl : Slot) (space : Nat) (as : List Int) (n align : Nat) (row : Bool) (tag : Option (BitVec 4)) :
    Except Trap (List Nat) :=
  match k.localChecks sl space n as with
  | .error t => .error t
  | .ok xs =>
    if xs.any fun x => x % align ≠ 0 || (row && !rowOk x n) then .error (stepTrap 0x08 (as.headD 0))
    else match tag with
      | some ty => if xs.all fun x => k.tagOk x n ty then .ok xs else .error (stepTrap 0x02 (as.headD 0))
      | none => .ok xs

/-- UNCORRECTABLE for the first poisoned unit of a list of operands (R155). -/
def Core.poisonIn (k : Core) : List (Nat × Nat) → Option Trap
  | [] => none
  | (a, n) :: r => match k.poisoned a n with
    | some u => some (stepTrap 0x14 u)
    | none => k.poisonIn r

/-! ## Header checks (R44) -/

/-- The record of a queue entry. -/
def QEntry.hdr (q : QEntry) : EngRec := unpackRec q.record

/-- The post code {POSTEN, POSTP} is legal for the engine (R43). -/
def postOk (e : Eng) (code : Nat) : Bool :=
  match code with
  | 0 => true
  | 1 => (match e with | .ci | .co | .vx => true | .mx | .xf => false)
  | 2 | 3 => false
  | n => (match e with | .xf => n == 4 | .ci | .co | .mx | .vx => true)

/-- The WAIT bits set. -/
def waitPorts (r : EngRec) : List Nat := (List.range 4).filter fun p => r.wait.getLsbD p

/-- Check 2 of R44. -/
def headerOk (e : Eng) (r : EngRec) : Bool :=
  decide (r.rnd.toNat ≠ 6) && decide (r.mbz = 0) && decide (r.tile.toNat ≤ 11) && decide (r.dtype.toNat ≠ 15)
    && decide (r.stype.toNat ≠ 15) && decide ((waitPorts r).length ≤ 3) && postOk e r.post.toNat
    && (r.s2imm == 0 || r.s2.noStride)

end Sys2Proof.Machine
end

