-- ==== Sys2Proof/Machine/Records.lean ====
section
/-! DEFINITION. What every engine record shares: tokens and ports (R43, R52, R53, R255), faults (R421), retirement (R152,
R192, R227), discarding (R157, R206, R279, R406) and the stalls of its head (R153). -/

namespace Sys2Proof.Machine

/-! ## Tokens (R52, R53) -/

/-- Entry 4e + p of the ports of a context (R425). -/
def portIx (e : Eng) (p : Fin 4) : Fin 20 := ⟨4 * (Eng.fin e).val + p.val, by have := (Eng.fin e).isLt; omega⟩

def Ctx.port (c : Ctx) (e : Eng) (p : Fin 4) : Nat := c.ports.get (portIx e p)
def Ctx.setPort (c : Ctx) (e : Eng) (p : Fin 4) (n : Nat) : Ctx := { c with ports := c.ports.set (portIx e p) n }
def Ctx.fifo (c : Ctx) (e : Eng) : Nat := c.fifos.get (Eng.fin e)
def Ctx.setFifo (c : Ctx) (e : Eng) (n : Nat) : Ctx := { c with fifos := c.fifos.set (Eng.fin e) n }

/-- Where a record's token goes (R43). -/
inductive Dest where
  | nowhere
  | fifo
  | port (e : Eng) (p : Fin 4)
deriving DecidableEq, Repr

/-- The port of `dst` that `src` feeds (R52). -/
def portFrom (dst src : Eng) : Option (Fin 4) := (List.finRange 4).find? fun p => feeder dst p.val = some src

/-- The destination of a post code of engine `e` (R43). -/
def postDest (e : Eng) (code : Nat) : Dest :=
  let toOf := fun (d : Option Eng) => match d with
    | some d => (match portFrom d e with | some p => Dest.port d p | none => .nowhere)
    | none => .fifo
  if code = 0 then .nowhere else if code = 1 then toOf (some .xf) else if code < 4 then .nowhere else toOf (feeder e (code - 4))

/-- Tokens that count at a port: those there, and those that an arrived BARXF has taken from XF's and may put back (R53). -/
def Ctx.portCount (c : Ctx) (e : Eng) (p : Fin 4) : Nat := c.port e p + (if e = .xf then c.xpops.get p else 0)

/-- The count at a destination is 15 (R53). -/
def Ctx.destFull (c : Ctx) (e : Eng) : Dest → Bool
  | .nowhere => false
  | .fifo => decide (15 ≤ c.fifo e)
  | .port d p => decide (15 ≤ c.portCount d p)

/-- A token posted by engine `e`; one that enters a control-core FIFO sets the wake latch and ends a YIELD hold (R333,
R366). -/
def Ctx.postToken (c : Ctx) (e : Eng) : Dest → Ctx
  | .nowhere => c
  | .fifo => { c.setFifo e (c.fifo e + 1) with wake := true, holdEnd := none }
  | .port d p => c.setPort d p (c.port d p + 1)

/-- The object of a destination (R264). -/
def destObj (c : CoreId) (sl : Slot) (e : Eng) : Dest → BitVec 32
  | .nowhere => 0
  | .fifo => fifoObj c sl e
  | .port d p => portObj c sl d p.val

/-- The ports of a WAIT field that hold no token (R53). -/
def Ctx.emptyPorts (c : Ctx) (e : Eng) (r : EngRec) : List (Fin 4) :=
  (List.finRange 4).filter fun p => r.wait.getLsbD p.val && c.port e p == 0

/-- The tokens of a WAIT field popped together (R53). -/
def Ctx.popPorts (c : Ctx) (e : Eng) (r : EngRec) : Ctx :=
  ((List.finRange 4).filter fun p => r.wait.getLsbD p.val).foldl (fun c p => c.setPort e p (c.port e p - 1)) c

/-! ## The condition queue (R349) -/

def Ctx.cqRoom (c : Ctx) : Bool := decide (c.cq.length < 16)

/-- A bit enters the condition queue, which sets the wake latch (R366). -/
def Ctx.pushBit (c : Ctx) (b : Bool) : Ctx := { c with cq := c.cq ++ [b], wake := true }

/-! ## Traps of a context -/

/-- Order of causes by (stamp, source number) (R421). -/
def Trap.before (a b : Trap) : Bool := decide (a.stamp < b.stamp) || (a.stamp == b.stamp && decide (a.src < b.src))

/-- A cause reaches a context: the one of least (stamp, source number) is kept (R421); it ends a YIELD hold (R333). -/
def Ctx.cause (c : Ctx) (t : Trap) : Ctx :=
  let keep := match c.trap with
    | some u => if t.before u then t else u
    | none => t
  { c with trap := some keep, holdEnd := none }

/-! ## Writers of encrypted tensors (R405, R406) -/

/-- The tensor slot of a CO record's handle (R55). -/
def handleSlot (r : EngRec) : Nat := r.s1.base.toNat / 4096
/-- The generation of a handle (R55). -/
def handleGen (r : EngRec) : Nat := r.s1.base.toNat % 4096

/-- A tensor without its writer: it is sealed where the writer retired or had sent a line (R406). -/
def TensorCopy.closed (t : TensorCopy) (retired : Bool) : TensorCopy :=
  { t with writer := none, unit := none, sealed := t.sealed || retired || t.sent, sent := false }

/-- The writer of a tensor ends (R406). -/
def State.endWriter (s : State) (e : EngId) (q : QEntry) (retired : Bool) : State :=
  let l := s.leafOf q.vnpu
  { s with tensors := s.tensors.map fun t =>
      if t.writer = some e && t.leaf = l && t.slot = handleSlot q.hdr then t.closed retired else t }

/-- Host reads of an engine that have been answered go; one in flight goes as its completion comes (R239). -/
def State.dropReads (s : State) (e : EngId) : State :=
  { s with hostReqs := s.hostReqs.filter fun r => !(r.eng = e && r.result.isSome) }

/-! ## The head of a queue -/

/-- The head record leaves its queue: a full queue has room, which ends the stall of a context that waits for it (one that waits for
its records registers again); the table walks from the waiters when the queue holds no more of its bank (R354). -/
def State.dropHead (s : State) (e : EngId) : State :=
  match (s.engine e).queue with
  | [] => s
  | q :: _ =>
    let s := (s.unblockEng e q.slot).dropReads e
    let s := if (s.engine e).queue.length < 8 then s
      else ([.o, .h] : List Slot).foldl (fun s t =>
        if (s.ctx ⟨e.core, t⟩).blocked = some (queueObj e.core t e.eng) && !(s.ctx ⟨e.core, t⟩).inWfe then s.unblockCtx ⟨e.core, t⟩ else s) s
    let s := s.modEngine e fun x => x.withQueue (x.queue.drop 1)
    if s.engHolds e.core e.eng q.slot then s else { s with wftQueue := s.wftQueue ++ [.idle e q.slot] }

/-- A head that goes no further for now writes the local unit that its steps are in, where its bank still holds the region, and forgets
the unit that it reads (R211, R279). -/
def State.settleHead (s : State) (e : EngId) : State :=
  let x := s.engine e
  match x.queue, x.head.put with
  | q :: _, some u =>
    let s := s.modEngine e fun x => { x with head := { x.head with put := none, seen := none } }
    if ((s.core e.core).firstNotHeld q.slot (64 * u.unit) 64).isSome then s else s.modCore e.core fun k => k.writeUnit u
  | _, _ => if x.head.seen.isNone then s else s.modEngine e fun x => { x with head := { x.head with seen := none } }

/-- The fault of the head record (R155, R199, R277, R44, R421): an orphan is discarded. -/
def State.engFault (s : State) (e : EngId) (phase : Nat) (t : Trap) : State :=
  match (s.engine e).queue with
  | [] => s
  | q :: _ =>
    if (s.engine e).head.orphan then (s.endWriter e q false).dropHead e
    else
      let t : Trap := { t with agent := 2 + (Eng.fin e.eng).val, stamp := s.gtc.toNat, src := engNum e }
      let s := ((s.unblockEng e q.slot).dropReads e).settleHead e
      let s := s.modEngine e fun x =>
        { x with head := { x.head with st := .faulted phase, fault := some t, hostReq := none, unit := none } }
      s.modCtx ⟨e.core, q.slot⟩ fun c => c.cause t

/-- The head's registered stall (R153). -/
def State.engStall (s : State) (e : EngId) (q : QEntry) (obj : BitVec 32) : State := s.blockEng e q.slot obj

/-! ## Stamps (R242) -/

/-- What a source does from now on comes after a stamp that allows none before fabric cycle `n`. -/
def Core.noteStamp (k : Core) (i : Fin 7) (n : Nat) : Core := { k with stamps := k.stamps.set i (max (k.stamps.get i) n) }

/-- What happens before an action of `src` happens before the actions of `dst` that follow it. -/
def Core.passStamp (k : Core) (src dst : Fin 7) : Core := k.noteStamp dst (k.stamps.get src)

/-- A source has stamped an event (R242). -/
def State.stamped (s : State) (r : Src) : State :=
  match srcCore r with
  | some c => ({ s with lastStamp := max s.lastStamp (s.cycle + 2) } : State).modCore c fun k => k.noteStamp (srcSlot r) (s.cycle + 2)
  | none => s

/-- A source may stamp an event in the present fabric cycle: 2 cycles have passed since each stamp that happens before it. -/
def State.mayStamp (s : State) (r : Src) : Bool :=
  match srcCore r with
  | some c => decide ((s.core c).stamps.get (srcSlot r) ≤ s.cycle)
  | none => true

/-- A release: what any context does after an acquire comes after the stamps so far of the source that releases and of every source whose
writes it may have seen (R221, log 87). -/
def State.releaseStamp (s : State) : State := { s with relStamp := max s.relStamp s.lastStamp }

/-- An acquire of a context comes after the stamps of every release so far (log 87). -/
def State.acquireStamp (s : State) (i : CtxId) : State := s.modCore i.core fun k => k.noteStamp (srcSlot (.ctx i)) s.relStamp

/-- The sources that a retirement happens before: the context, the engine its token goes to, and every engine where it changes a
version. -/
def Core.passRetire (k : Core) (e : EngId) (sl : Slot) (d : Dest) (versions : Bool) : Core :=
  let from_ := srcSlot (.eng e)
  let k := k.passStamp from_ (srcSlot (.ctx ⟨e.core, sl⟩))
  let k := match d with
    | .port f _ => k.passStamp from_ (srcSlot (.eng ⟨e.core, f⟩))
    | _ => k
  if versions then engs.foldl (fun k f => k.passStamp from_ (srcSlot (.eng ⟨e.core, f⟩))) k else k

/-! ## Retirement (R152, R192) -/

/-- The bit VANY or VPART pushes at retirement (R176, R180). -/
def retireBit (e : Eng) (q : QEntry) (h : Head) : Option Bool :=
  let opc := (recOpc q.record).toNat
  if e = .vx && opc = 0x2C then some (h.carry.getLsbD 0)
  else if e = .vx && opc = 0x39 then some (decide (bits h.carry.toNat 31 0 ≠ 0))
  else none

/-- The completion record (R268). -/
def completion (s : State) (e : EngId) (q : QEntry) (h : Head) : EvEntry :=
  ⟨BitVec.ofNat 64 (1 + (Eng.fin e.eng).val * 2 ^ 4 + h.status * 2 ^ 8 + q.seq.toNat % 65536 * 2 ^ 16
      + min h.out 65535 * 2 ^ 32 + engNum e * 2 ^ 48), s.gtc⟩

/-- The record asks for a completion record (R268). -/
def wantsEvent (q : QEntry) (h : Head) : Bool := q.hdr.ev == 1 || h.status != 0

/-- What holds the retirement: a full destination, a full condition queue, a full event queue (R53, R152, R265). -/
def State.retireHold (s : State) (e : EngId) (q : QEntry) (h : Head) : Option (BitVec 32) :=
  let c := s.ctx ⟨e.core, q.slot⟩
  let d := postDest e.eng q.hdr.post.toNat
  if c.destFull e.eng d then some (destObj e.core q.slot e.eng d)
  else if (retireBit e.eng q h).isSome && !c.cqRoom then some (cqObj e.core q.slot)
  else if wantsEvent q h && !c.evRoom then some (evObj e.core q.slot)
  else none

/-- The version change of a record: BUMP, VBUMP or MRET (R152, R182, R202), and the tags of VTYPE (R183). -/
def Core.retireTiles (k : Core) (e : Eng) (q : QEntry) : Core :=
  let r := q.hdr
  let opc := (recOpc q.record).toNat
  let t := r.tile.toNat
  let aux := r.aux.toNat
  if e = .vx && opc = 0x40 then
    k.setVer t (if r.aux.getLsbD 8 then BitVec.ofNat 8 aux else k.ver t + BitVec.ofNat 8 aux)
  else
    let k := if r.bump = 1 || (e = .mx && opc = 0x05) then k.setVer t (k.ver t + 1) else k
    if e = .vx && opc = 0x41 then
      ((List.range 12).filter fun i => r.aux.getLsbD i).foldl (fun k i => k.setTag i r.dtype) k
    else k

/-- The counts VPART writes at its retirement, that of the false list last (R180; DESIGN CHOICE, log 94). -/
def Core.retireCounts (k : Core) (e : Eng) (q : QEntry) (h : Head) : Core :=
  if e = .vx && (recOpc q.record).toNat = 0x39 then
    (k.lstore q.hdr.d.base.toNat (leBytes 4 (bits h.carry.toNat 31 0))).lstore q.hdr.s2.base.toNat
      (leBytes 4 (bits h.carry.toNat 63 32))
  else k

/-- A harvest record retired counts toward its lease's term (R328). -/
def Core.countLease (k : Core) (e : Eng) (sl : Slot) : Core :=
  if h : (Eng.fin e).val < 4 ∧ sl = .h then
    let l := k.leases[(Eng.fin e).val]'h.1
    { k with leases := k.leases.set (Eng.fin e).val (if l.held then { l with ret := min 4 (l.ret + 1) } else l) h.1 }
  else k

/-- The record changes an accumulator version at its retirement. -/
def changesVersion (e : Eng) (q : QEntry) : Bool :=
  q.hdr.bump = 1 || (e = .vx && (recOpc q.record).toNat = 0x40) || (e = .mx && (recOpc q.record).toNat = 0x05)

/-- The retirement effects, in one event and in the order of R152 and R192. -/
def State.retireEffects (s : State) (e : EngId) (q : QEntry) (h : Head) : State :=
  let i : CtxId := ⟨e.core, q.slot⟩
  let s := s.modCtx i fun c => { c with fsr := c.fsr ||| h.flags.setWidth 64 }
  let s := s.modCore e.core fun k => ((k.retireCounts e.eng q h).retireTiles e.eng q).countLease e.eng q.slot
  let s := s.modCtx i fun c => match retireBit e.eng q h with | some b => c.pushBit b | none => c
  let s := s.modCtx i fun c => c.postToken e.eng (postDest e.eng q.hdr.post.toNat)
  let s := if wantsEvent q h then
      (s.modCtx i fun c => c.pushEvent (completion s e q h)).stamped (.eng e)
    else s
  let s := s.modCore e.core fun k => k.passRetire e q.slot (postDest e.eng q.hdr.post.toNat) (changesVersion e.eng q)
  if e.eng = .co then s.endWriter e q true else s

/-- RECORD_RETIREMENT of the head: it closes the engine's phase, waits until it is complete, is held while its post or push
cannot proceed, and then takes its effects in one event (R152, R227). An orphan takes none (R331). -/
def State.retire (s : State) (e : EngId) : State :=
  match (s.engine e).queue with
  | [] => s
  | q :: _ =>
    if (s.engine e).head.st ≠ .done then s
    else
      let closed : Option State := match (s.engine e).head.retire with
        | some _ => some s
        | none => (s.closePhase (.eng e) q.vnpu).map fun s =>
          s.modEngine e fun x => { x with head := { x.head with retire := some (s.phases (.eng e)).closed } }
      match closed with
      | none => s
      | some s =>
        let h := (s.engine e).head
        if !s.phaseDone (.eng e) (h.retire.getD 0) then s
        else if h.orphan then (s.endWriter e q true).dropHead e
        else match s.retireHold e q h with
          | some o => s.engStall e q o
          | none => if wantsEvent q h && !s.mayStamp (.eng e) then s else (s.retireEffects e q h).dropHead e

/-! ## Discarding (R157, R206, R279, R406) -/

/-- The records of a bank in engine `e` are discarded, with no retirement effects; their writers end with their context
(`State.closeWriters`). `keepCo` leaves a CO record that has started to run on as an orphan (R279, R331). -/
def State.discard (s : State) (e : EngId) (sl : Slot) (keepCo : Bool) : State :=
  let x := s.engine e
  if x.head.orphan then s.modEngine e fun x => { x with queue := x.queue.take 1 ++ (x.queue.drop 1).filter fun q => q.slot ≠ sl }
  else match x.queue with
    | [] => s
    | q :: _ =>
      if q.slot ≠ sl then s.modEngine e fun x => { x with queue := x.queue.filter fun q => q.slot ≠ sl }
      else
        let s := (((s.unblockEng e sl).dropReads e).giveUp (Asker.ofEng e)).settleHead e
        if keepCo && e.eng = .co && (match x.head.st with | .walking => true | .done => true | .waiting => false | .faulted _ => false) then
          s.modEngine e fun x => { x with
            queue := x.queue.take 1 ++ (x.queue.drop 1).filter fun q => q.slot ≠ sl, head := { x.head with orphan := true } }
        else s.modEngine e fun x => x.withQueue (x.queue.filter fun q => q.slot ≠ sl)

/-- Every record of a bank is discarded. -/
def State.discardBank (s : State) (c : CoreId) (sl : Slot) (keepCo : Bool) : State :=
  engs.foldl (fun s e => s.discard ⟨c, e⟩ sl keepCo) s

/-- No record of a context is queued or executing. -/
def State.drained (s : State) (i : CtxId) : Bool := engs.all fun e => !s.engHolds i.core e i.slot

/-- The first engine that still holds a record of a context. -/
def State.undrained (s : State) (i : CtxId) : Option Eng := engs.find? fun e => s.engHolds i.core e i.slot

end Sys2Proof.Machine
end

