-- ==== Sys2Proof/Machine/Units.lean ====
section
/-! DEFINITION. Units and harvest contexts: retiring (R313, R315, R321, R348), the image in memory (R424, R425), UnitFailure
(R423), and the revocation and parking of slot H (R330, R331, R362, R446). -/

namespace Sys2Proof.Machine

/-! ## The word at a PC (R115, R422) -/

/-- A FETCH_FAULT at an address (R422). -/
def fetchTrap (pc : Word) (sub : Nat) (s2 : Bool) : Trap :=
  { cause := 0x04, eaddr := pc, einfo := BitVec.ofNat 64 (sub + if s2 then 8 else 0) }

/-- The sub-cause of a translation that fails. -/
def fetchSub (e : XErr) : Nat := if e.cause = 0x07 then 3 else if e.cause = 0x06 then 2 else 1

/-- Who fetches for a context. -/
def State.fetchAcc (s : State) (i : CtxId) : Acc :=
  let c := s.ctx i
  { core := i.core, vnpu := c.vnpu, user := !c.sup, write := false, exec := true }

/-- The translation of the PC with the checks of R422 but for poison. -/
def State.fetchPage (s : State) (i : CtxId) : Except Trap TlbEntry :=
  let pc := (s.ctx i).pc
  let a := s.fetchAcc i
  match s.page a pc.toNat with
  | .error e => .error (fetchTrap pc (fetchSub e) e.s2)
  | .ok t =>
    match permitted { a with enc := t.enc } t with
    | some e => .error (fetchTrap pc 2 e.s2)
    | none =>
      if t.enc then .error (fetchTrap pc 5 true)
      else if !s.mayAccess a.vnpu (s.pageWorld t.ppage) then .error (fetchTrap pc 3 true)
      else .ok t

/-- The instruction cache's copy of a line. -/
def State.iCopy (s : State) (c : CoreId) (line : Nat) : Option LineCopy := (s.core c).icache.find? fun x => x.line = line

/-- The physical address of the word at the PC. -/
def wordAddr (t : TlbEntry) (pc : Word) : Nat := t.ppage * 4096 + pc.toNat % 4096 / 8 * 8

/-- The word at a physical address as the core's fetch sees it: the cached copy, or DRAM. -/
def State.wordAt (s : State) (c : CoreId) (pa : Nat) : Word :=
  BitVec.ofNat 64 (match s.iCopy c (pa / 128) with
    | some x => leNat (x.cells.read pa 8)
    | none => s.dword pa)

/-! ## Services in slot H (R435) -/

/-- A word that calls a service of the Strongroom. -/
def isService : Instr → Bool
  | .hvc .. | .tinst .. | .tvbump .. | .tremove .. | .tquery .. | .s1root .. | .tlbinv .. | .regquery .. | .partquery .. | .greset ..
  | .scrubreq .. | .recquery .. | .rtinst .. => true
  | _ => false

/-- The word a context stands at: the one it has issued, or the one at its PC if its fetch succeeds. -/
def State.peek (s : State) (i : CtxId) : Option Instr :=
  match (s.ctx i).issued with
  | some x => some x
  | none => match s.fetchPage i with
    | .error _ => none
    | .ok t => match decodeCtl (s.wordAt i.core (wordAddr t (s.ctx i).pc)) with
      | .ok x => some x
      | .error _ => none

/-- A context is in a service, which a revocation awaits (R435). -/
def State.inService (s : State) (i : CtxId) : Bool :=
  decide ((s.ctx i).stage ≠ .fresh) && (match s.peek i with | some x => isService x | none => false)

/-! ## Retiring -/

/-- The pass value of a virtual NPU gains the time a unit held its owner context (R321). -/
def State.chargePass (s : State) (v : VnpuId) (since : Nat) : State :=
  let ns := s.gtc.toNat - since
  s.modVnpu v fun x => { x with pass := (x.pass + ns * 256 / max 1 (s.contract v).weight) % 2 ^ 64 }

/-- A member of a level-1 domain has retired; the domain goes with its last member (R317, R368). -/
def State.domainLeave (s : State) (c : Ctx) (t : TopId) : State :=
  let mark := fun (d : Domain) => if d.id = c.l1id && d.top = t then { d with retired := c.l1rank.toNat :: d.retired } else d
  let rest := (s.domains.map mark).filter fun d => decide (d.retired.length < d.size)
  { s with domains := rest }

/-- The tensor slot that a harvest CO record of a core writes on after revocation (R331). -/
def State.orphanSlot (s : State) (c : CoreId) : Option Nat :=
  let x := s.engine ⟨c, .co⟩
  match x.queue with
  | q :: _ => if x.head.orphan then some (handleSlot q.hdr) else none
  | [] => none

/-- Every writer of a unit or harvest context that ends, in an engine, an image or the save pool, is not resumed: its tensor is sealed
where it had sent a line (R406). A harvest CO record that runs on stays the writer (R331). -/
def State.closeWriters (s : State) (u : UnitId) : State :=
  { s with tensors := s.tensors.map fun t =>
      if t.unit = some u && !(u.ctx.slot = .h && s.orphanSlot u.ctx.core = some t.slot) then t.closed false else t }

/-- A unit or harvest context ends: its registrations go, holds count as released, barriers count it as arrived, and its
iteration counts toward its nest's completion (R313, R348). -/
def State.leave (s : State) (u : UnitId) (c : Ctx) : State :=
  let s := s.dropAll u.ctx u.leaf
  let s := s.closeWriters u
  let s := (s.arriveAll u).releaseStamp
  let s := match u.ctx.slot with
    | .o => s.domainLeave c (topOf u.leaf)
    | .h => s
  s.nestRetired c.vnpu c.queue c.nest

/-- The unit in slot O retires (R315): its virtual NPU's pass value is raised where it gains an iteration to deal, and then charged (R321;
DESIGN CHOICE, log 106). -/
def State.retireUnit (s : State) (i : CtxId) : State :=
  let c := s.ctx i
  let s := (s.leave (s.unitOf i) c).giveUp (Asker.ofCtx i)
  let s := s.chargePass c.vnpu c.since
  s.modCtx i fun c => { c with live := false, blocked := none, inWfe := false, stage := .fresh, trap := none, failing := none, preq := false,
                               graceEnd := none, cutGate := none, holdEnd := none, defer := false }

/-- Leases end (R328). -/
def Core.endLeases (k : Core) : Core := { k with leases := Vector.replicate 4 {} }

/-- The bank of the harvest context in slot H. -/
def Core.bank (k : Core) (b : Fin 4) : Bank := k.cupboard.get b
def Core.setBank (k : Core) (b : Fin 4) (x : Bank) : Core := { k with cupboard := k.cupboard.set b x }

/-- The harvest context in slot H ends: its leases end and its bank is freed (R348). -/
def State.endHarvest (s : State) (i : CtxId) : State :=
  let c := s.ctx i
  let s := (s.leave (s.unitOf i) c).giveUp (Asker.ofCtx i)
  s.modCore i.core fun k =>
    { (k.endLeases.setBank c.bank {}) with ctxH := { k.ctxH with live := false, blocked := none, inWfe := false, stage := .fresh, trap := none, failing := none }
                                           revoke := false, revokeHard := false }

/-- END's last step, by slot (R348). -/
def State.endUnit (s : State) (i : CtxId) : State :=
  match i.slot with
  | .o => s.retireUnit i
  | .h => s.endHarvest i

/-! ## The image in memory (R424, R425) -/

/-- The save area of a slot in a virtual NPU (R424). -/
def State.areaOf (s : State) (v : VnpuId) (i : CtxId) : Nat :=
  ((s.vnpu v).ctxsave.toNat / 2 ^ 21 * 2 ^ 21 + 0x2000 * (2 * i.core.val + Slot.num i.slot)) % 2 ^ 64

/-- The save area of a context (R424). -/
def State.saveArea (s : State) (i : CtxId) : Nat := s.areaOf (s.ctx i).vnpu i

/-- The cells of a memory moved by an offset. -/
def Mem.shift (m : Mem) (src dst : Nat) : Mem := m.map fun e => (e.1 - src + dst, e.2)

/-- Bytes [dst, dst + n) of a memory replaced by bytes [src, src + n) of another. -/
def Mem.splice (m : Mem) (dst n : Nat) (x : Mem) (src : Nat) : Mem :=
  (m.filter fun e => e.1 < dst) ++ (x.part src (src + n)).shift src dst ++ m.filter fun e => dst + n ≤ e.1

/-- The lines of [pa, pa + n). -/
def linesOf (pa n : Nat) : List Nat := (List.range ((pa % 128 + n + 127) / 128)).map (· + pa / 128)

/-- A line of an image is written or read at its home slice by a context (R234, R393): the L1 of its core keeps no copy of it. -/
def State.touchLine (s : State) (a : Acc) (line : Nat) : State :=
  (s.sliceAccess (some (s.leafOf a.vnpu)) line a.write true).l1Evict a.core line

/-- Bytes [src, src + n) of another memory written by a source at a physical address, within one page: each line is a write of the
source, counted as it is performed (R226), and its poison ends (R450). Fewer than three phases are open here, so the count always finds
room (R230, R232). -/
def State.spliceIn (s : State) (r : Src) (a : Acc) (pa n : Nat) (x : Mem) (src : Nat) : State :=
  let s := (s.touch (pa / 4096)).noteProd pa n
  let s := { s with
    dram := s.dram.splice pa n x src
    poison := s.poison.filter fun l => !(decide (pa ≤ l * 128) && decide (l * 128 + 128 ≤ pa + n)) }
  (linesOf pa n).foldl (fun s l =>
    let s := s.touchLine a l
    (s.countNow r (homeSlice l).val a.vnpu).getD s) s

/-- Who writes or reads an image of a virtual NPU in a slot: the context, at S (log 8). -/
def imageAccOf (v : VnpuId) (i : CtxId) (write : Bool) : Acc := ⟨i.core, v, false, write, false, false⟩

/-- Who writes or reads an image. -/
def State.imageAcc (s : State) (i : CtxId) (write : Bool) : Acc := imageAccOf (s.ctx i).vnpu i write

/-- The page-sized pieces of 8 KiB at a virtual address, with the offset of each in the image. -/
def imagePieces (va : Nat) : List (Nat × Nat × Nat) :=
  let a := va % 4096
  if a = 0 then [(va, 0, 4096), (va + 4096, 4096, 4096)]
  else [(va, 0, 4096 - a), (va + 4096 - a, 4096 - a, 4096), (va + 8192 - a, 8192 - a, a)]

/-- Where the pages of an image that translate lie, with the bytes in each. -/
def State.imagePlaces (s : State) (a : Acc) (ps : List (Nat × Nat × Nat)) : List (Nat × Nat) :=
  ps.filterMap fun p => match s.checkPages a (p.1 % 2 ^ 64) p.2.2 with
    | .ok ((_, t) :: _) => some (t.ppage * 4096 + p.1 % 4096, p.2.2)
    | _ => none

/-- A routine holds a line of an image, or of a table that its walks read, for which the accesses wait (R282). -/
def State.imageHeld (s : State) (a : Acc) (ps : List (Nat × Nat × Nat)) : Bool :=
  (ps.any fun p => s.walkHeld a (p.1 % 2 ^ 64) p.2.2) || (s.imagePlaces a ps).any fun p => (linesOf p.1 p.2).any s.lineHeld

/-- The requests of the accesses to an image, of one line each (R385, R434). -/
def State.imageRequests (s : State) (a : Acc) (ps : List (Nat × Nat × Nat)) : List (List (Nat × Nat)) :=
  (s.imagePlaces a ps).flatMap fun p => (pieces (p.2 + 1) p.1 p.2).flatMap fun l =>
    withFill (a.core.val, l.2) (s.mcCharges (some (s.leafOf a.vnpu)) (l.1 / 128) true)

/-- A write of the bytes of an image page by page: the fault of the first page that fails, with the state the earlier pages
leave (R434). -/
def State.putImageAs (s : State) (i : CtxId) (v : VnpuId) (x : Mem) : List (Nat × Nat × Nat) → State × Option Trap
  | [] => (s, none)
  | (va, off, n) :: r =>
    match s.checkPages (imageAccOf v i true) (va % 2 ^ 64) n with
    | .error e => (s, some (accTrap true false e))
    | .ok pages =>
      let s := s.fillTlbs i.core pages
      match pages with
      | (_, t) :: _ => (s.spliceIn (.ctx i) (imageAccOf v i true) (t.ppage * 4096 + va % 4096) n x off).putImageAs i v x r
      | [] => s.putImageAs i v x r

/-- A write of an image by the context in a slot. -/
def State.putImage (s : State) (i : CtxId) (x : Mem) (ps : List (Nat × Nat × Nat)) : State × Option Trap :=
  s.putImageAs i (s.ctx i).vnpu x ps

/-- A read of an image page by page: its bytes over offsets 0 to 8191, and the fault of the first page that fails with the state that
the earlier pages leave (R434). -/
def State.getImage (s : State) (i : CtxId) : List (Nat × Nat × Nat) → State × Mem × Option Trap
  | [] => (s, [], none)
  | (va, off, n) :: r =>
    let a := s.imageAcc i false
    match s.checkPages a (va % 2 ^ 64) n with
    | .error e => (s, [], some (accTrap false false e))
    | .ok pages => match pages with
      | (_, t) :: _ =>
        let pa := t.ppage * 4096 + va % 4096
        match (linesOf pa n).find? fun l => s.badAt (l * 128) with
        | some l => (s, [], some { cause := 0x14, eaddr := BitVec.ofNat 64 (va + (l * 128 - pa)) })
        | none =>
          let here : Mem := if s.filled (pa / 4096) then (s.dram.part pa (pa + n)).shift pa off else []
          let s := (linesOf pa n).foldl (fun s l => (s.touch (pa / 4096)).touchLine a l) (s.fillTlbs i.core pages)
          let (s, m, t) := s.getImage i r
          (s, here ++ m, t)
      | [] => s.getImage i r

/-- The image of a context as its slot and engines stand (R425). -/
def State.imageNow (s : State) (i : CtxId) (c : Ctx) (flags : Nat) (report : List Word) : Mem :=
  let hs := (engs.filter fun e => !((s.engine ⟨i.core, e⟩).bankQueue i.slot).isEmpty).map fun e =>
    (e, (s.engine ⟨i.core, e⟩).bankHead i.slot)
  imageOf (ctxFields c flags (s.eff i) c.pc report
    ++ engs.flatMap (fun e => cutFields e ((s.engine ⟨i.core, e⟩).bankQueue i.slot) ((s.engine ⟨i.core, e⟩).bankHead i.slot))
    ++ carryFields hs)

/-! ## UnitFailure (R423) -/

/-- The loss of a unit is logged and reported to the host (R423, R436, R455, R456). -/
def State.reportLoss (s : State) (u : UnitId) (v : VnpuId) (cause : Nat) : State :=
  let p := s.leafContract u.leaf
  let hard := u.ctx.slot = .o && p.floor == p.ceil
  let s := s.errAt (ctxNum u.ctx) 9 hard u.leaf.val v.val (s.contract v).world.toNat cause 0 0
  (s.modVnpu v fun x => { x with fails := min 65535 (x.fails + 1) }).msixStatus v

/-- A context whose state is lost: each field is zero but those that say which context it is (R423). -/
def Ctx.blank (c : Ctx) : Ctx :=
  { live := c.live, vnpu := c.vnpu, leaf := c.leaf, serial := c.serial, bank := c.bank, queue := c.queue, nest := c.nest, l1id := c.l1id
    l1rank := c.l1rank, l1size := c.l1size, since := c.since, semMap := Vector.replicate 64 0, sup := false }

/-- The exception registers of a FATAL image: EADDR and EINFO of LOCKSTEP_MISMATCH and STATE_LOST are zero (R419, R423). -/
def Ctx.fatal (c : Ctx) (cause : Nat) : Ctx :=
  let zero := cause == 0x15 || cause == 0x1E
  { c with ecause := BitVec.ofNat 64 cause, eaddr := if zero then 0 else c.eaddr, einfo := if zero then 0 else c.einfo }

/-- A FATAL image of a context may go to its save area: none is written, or no routine holds a line of it and its writes can be counted
(R232, R282, R423). -/
def State.fatalFree (s : State) (i : CtxId) (v : VnpuId) : Bool :=
  !tb (s.vnpu v).ctxsave 0
    || (decide ((s.phases (.ctx i)).opens.length < 3) && !s.imageHeld (imageAccOf v i true) (imagePieces (s.areaOf v i)))

/-- UnitFailure of the context in a slot comes to its end once its image can be written and its record may be stamped (R242, R282). -/
def State.endFailure (s : State) (i : CtxId) : State :=
  match (s.ctx i).failing with
  | none => s
  | some cause =>
    let u := s.unitOf i
    let v := (s.ctx i).vnpu
    if !s.fatalFree i v || !s.mayStamp (.ctx i) then s
    else
      let s := if tb (s.vnpu v).ctxsave 0 then
        (s.putImage i (s.imageNow i ((s.ctx i).fatal cause) 1 []) (imagePieces (s.saveArea i))).1 else s
      ((s.endUnit i).reportLoss u v cause).stamped (.ctx i)

/-- UnitFailure of the context in a slot: its records are discarded and it issues nothing more; it ends as soon as it can. -/
def State.unitFailure (s : State) (i : CtxId) (cause : Nat) : State :=
  let s := s.discardBank i.core i.slot false
  (s.modCtx i fun c => { c with failing := some cause }).endFailure i

/-- The image of a unit as it is saved, with its records and heads. -/
def Saved.image (x : Saved) (flags : Nat) : Mem :=
  let es := engs.zip x.engines
  imageOf (ctxFields x.ctx flags x.ctx.prioBase.toNat x.ctx.pc []
    ++ es.flatMap (fun e => cutFields e.1 e.2.1 e.2.2)
    ++ carryFields ((es.filter fun e => !e.2.1.isEmpty).map fun e => (e.1, e.2.2)))

/-- The FATAL image of a context that is not in its slot goes to its save area (R423). -/
def State.fatalImage (s : State) (i : CtxId) (x : Saved) (cause : Nat) : State :=
  let v := x.ctx.vnpu
  let y : Saved := { x with ctx := x.ctx.fatal cause, engines := [] }
  if tb (s.vnpu v).ctxsave 0 then (s.putImageAs i v (y.image 1) (imagePieces (s.areaOf v i))).1 else s

/-- UnitFailure of a saved unit of a leaf comes to its end once its image can be written and its record may be stamped (R242, R282,
R423). -/
def State.endSaved (s : State) (c : CoreId) (l : LeafId) : State :=
  match (s.core c).saved.find? fun x => x.ctx.leaf = l with
  | none => s
  | some x => match x.ctx.failing with
    | none => s
    | some cause =>
      let u := x.ctx.unit ⟨c, .o⟩
      if !s.fatalFree u.ctx x.ctx.vnpu || !s.mayStamp (.ctx u.ctx) then s
      else
        let s := s.modCore c fun k => { k with saved := k.saved.filter fun y => y.ctx.leaf ≠ l }
        let s := s.fatalImage u.ctx x cause
        ((s.leave u x.ctx).reportLoss u x.ctx.vnpu cause).stamped (.ctx u.ctx)

/-- UnitFailure of a saved unit of a core, whose image is the one the pool holds (R423, R443). -/
def State.failSaved (s : State) (c : CoreId) (x : Saved) (cause : Nat) : State :=
  State.endSaved (s.modCore c fun k => { k with saved := k.saved.map fun y =>
    if y.ctx.leaf = x.ctx.leaf then { x with ctx := { x.ctx with failing := some cause } } else y }) c x.ctx.leaf

/-! ## Revocation (R330, R331, R362) -/

/-- The owner context waits on an object that the harvest context holds by WOHOLD (R362). -/
def State.revokeDeferred (s : State) (c : CoreId) : Bool :=
  let o : CtxId := ⟨c, .o⟩
  let h : CtxId := ⟨c, .h⟩
  (s.core c).ctxO.live && s.wft.any fun e => e.holder && decide (e.agent = .ctx h) &&
    (((s.ctx o).blocked = some e.obj && !(s.ctx o).inWfe)
      || s.wft.any fun w => !w.holder && w.explicit && decide (w.agent = .ctx o) && w.obj == e.obj && w.leaf == s.ctxLeaf o)
    && topOf (s.ctxLeaf o) == topOf e.leaf

/-- Counters 48-63 of a core take the values of a checkpoint, and 0 where it names none (R259). -/
def Core.loadSems (k : Core) (l : List (Nat × BitVec 32)) : Core :=
  { k with sems := (List.finRange 16).foldl (fun v i => v.set (48 + i.val) ((getKey (48 + i.val) l).getD 0)
      (by have := i.isLt; omega)) k.sems }

/-- Release stores of a context that wait for a phase are discarded; they still count for their phase (R233). -/
def State.dropUnsent (s : State) (i : CtxId) : State :=
  let r := Src.ctx i
  { s with net := s.net.map fun m =>
      match m.body with
      | .write _ after alloc tag =>
        if (s.turn r 0).same m.turn && !s.phaseDone r after then { m with body := .write [] after alloc tag } else m
      | _ => m }

/-- The harvest context goes back to its checkpoint and is parked (R331). -/
def State.park (s : State) (c : CoreId) (rev : Bool) : State :=
  let h : CtxId := ⟨c, .h⟩
  let x := s.ctx h
  let s := s.discardBank c .h true
  let s := s.dropAll h (s.ctxLeaf h)
  let s := s.dropUnsent h
  let s := (s.closeWriters (s.unitOf h)).giveUp (Asker.ofCtx h)
  let s := s.modCore c fun k =>
    let b := k.bank x.bank
    let b := if !rev then b else if b.revs = 63 then { b with revs := 0, marked := true } else { b with revs := b.revs + 1 }
    { ((k.endLeases.setBank x.bank { b with parked := true, order := s.parkOrder }).loadSems []) with
      ctxH := { x with live := false, landings := [], stps := [], blocked := none, inWfe := false, stage := .fresh, trap := none, holdEnd := none }
      revoke := false, revokeHard := false }
  { s with parkOrder := s.parkOrder + 1 }

/-- A revocation begins, or is deferred, if slot H is occupied (R330). -/
def State.askRevoke (s : State) (c : CoreId) (hard : Bool) : State :=
  if (s.core c).ctxH.live then
    s.modCore c fun k => { k with revoke := true, revokeHard := k.revokeHard || hard }
  else s

/-- Slot H is not taken now: its context is in a service, or its UnitFailure has begun (R423, R435). -/
def State.slotHStays (s : State) (c : CoreId) : Bool :=
  (s.core c).ctxH.live && ((s.core c).ctxH.failing.isSome || s.inService ⟨c, .h⟩)

/-- A revocation asked for runs unless it is deferred or slot H cannot be taken yet (R331, R362, R435). -/
def State.revokeNow (s : State) (c : CoreId) : State :=
  let k := s.core c
  if !k.revoke then s
  else if !k.ctxH.live then s.modCore c fun k => { k with revoke := false, revokeHard := false }
  else if s.slotHStays c then s
  else if !k.revokeHard && s.revokeDeferred c then s
  else s.park c true

end Sys2Proof.Machine
end

