-- ==== Sys2Proof/Machine/Ops.lean ====
section
/-! DEFINITION. The operations every control word shares: ticks and landings (R117-R128), taking a trap and returning from
one (R420-R430), and the checks, stalls and completion of an issued word (R74, R123, R124, R345). -/

namespace Sys2Proof.Machine

/-! ## Ticks and landings (R117, R120, R121) -/

/-- A landing takes effect: the register is written and the flags merge into FSR. -/
def Ctx.landOne (c : Ctx) (l : Landing) : Ctx :=
  let c := c.land l.reg l.val
  { c with fsr := c.fsr ||| l.flags.setWidth 64 }

/-- The landings whose tick has come take effect, in issue order (R120). -/
def Ctx.settle (c : Ctx) : Ctx :=
  let due := c.landings.filter fun l => l.rem = 0
  (due.foldl Ctx.landOne { c with landings := c.landings.filter fun l => l.rem ≠ 0 })

/-- One tick passes. -/
def Ctx.tickOnce (c : Ctx) : Ctx :=
  Ctx.settle { c with landings := c.landings.map fun l => { l with rem := l.rem - 1 } }

/-- `n` ticks pass; at most 10 remain to any landing (R127). -/
def Ctx.elapse : Nat → Ctx → Ctx
  | 0, c => c
  | n + 1, c => if c.landings.isEmpty then c else Ctx.elapse n c.tickOnce

/-- MOVHI keeps bits 41:0 of the value current at its landing (R120, R136): register number 128 + d marks such a landing,
whose latency is 0. -/
def Ctx.result (c : Ctx) (l : Landing) : Ctx :=
  if l.rem = 0 then
    if 128 ≤ l.reg then
      let d : Reg := BitVec.ofNat 6 l.reg
      c.wr d (BitVec.ofNat 64 (fld l.val 63 42 * 2 ^ 42 + fld (c.rd d) 41 0))
    else c.landOne l
  else { c with landings := c.landings ++ [l] }

/-- The loop levels that end at an address act (R345): the context and the next PC. -/
def Ctx.loopNext (c : Ctx) (a : Word) : Ctx × Word :=
  let act0 := c.loop0.active && c.loop0.stop == a
  let act1 := c.loop1.active && c.loop1.stop == a
  let do0 := fun (c : Ctx) =>
    if 1 < c.loop0.count.toNat then ({ c with loop0 := { c.loop0 with count := c.loop0.count - 1 } }, some c.loop0.start)
    else ({ c with loop0 := { c.loop0 with active := false } }, none)
  let do1 := fun (c : Ctx) =>
    if 1 < c.loop1.count.toNat then ({ c with loop1 := { c.loop1 with count := c.loop1.count - 1 } }, some c.loop1.start)
    else ({ c with loop1 := { c.loop1 with active := false } }, none)
  let both := fun (f g : Ctx → Ctx × Option Word) =>
    match f c with
    | (c, some t) => (c, t)
    | (c, none) => match g c with
      | (c, some t) => (c, t)
      | (c, none) => (c, a + 8)
  let skip := fun (c : Ctx) => (c, (none : Option Word))
  if act0 && act1 then (if c.later1 then both do1 do0 else both do0 do1)
  else if act0 then both do0 skip
  else if act1 then both do1 skip
  else (c, a + 8)

/-- A word at the PC completes: the tick advances by `n`, landings due take effect, then its own results of latency 0, and
the PC moves to `pc`, or falls through with the loop action of R345. Nothing issues for the core cycles that remain of `n` (R346). -/
def Ctx.complete (c : Ctx) (w : List Landing) (pc : Option Word) (n : Nat) : Ctx :=
  let a := c.pc
  let fl : Flg := (c.landings.filter fun l => l.rem = n).foldl (fun f l => f ||| l.flags) 0
  let c := { (Ctx.elapse (min n 10) c) with tickFlags := fl, tick := c.tick + BitVec.ofNat 64 n, last := a, pause := n - 1, stage := .fresh
                                            issued := none, released := false }
  let c := w.foldl Ctx.result c
  match pc with
  | some t => { c with pc := t }
  | none => let (c, t) := c.loopNext a; { c with pc := t }

/-- `n` ticks pass for the STPs that a later LDP of the context does not see yet (R118). -/
def Ctx.ageStps (c : Ctx) (n : Nat) : Ctx :=
  { c with stps := (c.stps.map fun x => { x with rem := x.rem - n }).filter fun x => x.rem ≠ 0 }

/-- The acting context's word completes. -/
def State.finish (s : State) (w : List Landing) (pc : Option Word) (n : Nat) : State :=
  (s.unblockCtx s.me).modCtx s.me fun c => (c.ageStps n).complete w pc n

/-! ## Taking a trap (R420, R421, R427, R233) -/

/-- A trap that the wait-for table raises at a blocking instruction (R355, R357, R358). -/
def Trap.ofWait (t : Trap) : Bool := t.cause == 0x0C || t.cause == 0x0D || t.cause == 0x0E

/-- The trap of a context may be taken: it stands before an issue, or in a registered wait that has taken no effect. An arrival at a
barrier is interrupted by a trap of its wait alone (R355, R421). -/
def Ctx.canTrap (c : Ctx) : Bool :=
  match c.stage with
  | .fresh => true
  | .arrived _ => c.blocked.isSome && (match c.trap with | some t => t.ofWait | none => false)
  | _ => c.blocked.isSome

/-- The grace of a pre-emption request has ended (R442). -/
def State.graceOver (s : State) (c : Ctx) : Bool :=
  c.preq && !c.defer && (match c.graceEnd with
    | some g => decide (g ≤ s.gtc.toNat)
    | none => false)

/-- A regulator holds a request of an agent (R386). -/
def State.requestHeld (s : State) (w : Asker) : Bool := s.regs.any fun r => r.held.any fun h => h.who == w && s.asks h.who

/-- A trap of a context may be taken now: a word that has issued and whose request a regulator holds is first to end its bounded stall
(R301, R387, R421). -/
def State.trapReady (s : State) (i : CtxId) : Bool :=
  let c := s.ctx i
  c.canTrap && !(c.issued.isSome && s.requestHeld (s.asker (.ctx i)))

/-- A step of an engine is under way, its request being held by a regulator, and the cut comes after it: a cut at the end of grace takes
the request back (R387, R427, R468; log 42). -/
def State.stepHeld (s : State) (e : EngId) (sl : Slot) : Bool :=
  s.requestHeld (s.asker (.eng e)) && !(decide (sl = .o) && s.graceOver (s.ctx ⟨e.core, sl⟩))

/-- An engine of a core is within a step, its request being held by a regulator: it has not stopped at a step boundary (R371, R386). -/
def State.stepsHeld (s : State) (c : CoreId) : Bool := engs.any fun e => s.requestHeld (s.asker (.eng ⟨c, e⟩))

/-- The context is a member of a transfer phase whose start is fixed, as it is once the last member has arrived (R371, R372). -/
def State.inPhase (s : State) (i : CtxId) : Bool :=
  (s.xphases.any fun p => p.start.isSome && p.members.contains i)
    || match (s.ctx i).stage with
      | .arrived b => s.barriers.any fun x => x.id = b && x.xf && x.full
      | _ => false

/-- Tokens put back to the ports of XF. -/
def Ctx.putBack (c : Ctx) (n : Fin 4 → Nat) : Ctx :=
  (List.finRange 4).foldl (fun c p => c.setPort .xf p (c.port .xf p + n p)) c

/-- The tokens a BARXF took at its arrival return to the ports of XF (R371, R372). -/
def Ctx.unpop (c : Ctx) : Ctx := { c.putBack c.xpops.get with xpops := Vector.replicate 4 0 }

/-- The arrival of a context at a meeting is undone, its tokens returned; a meeting at which no resident unit has arrived is
closed again (R355, R372). -/
def State.unarrive (s : State) (i : CtxId) : State :=
  match (s.ctx i).stage with
  | .arrived b =>
    let u := s.unitOf i
    let leave := fun (x : Barrier) => if x.id = b then { x with arrived := x.arrived.filter (· ≠ u) } else x
    let empty := fun (x : Barrier) => x.id == b && x.arrived.all fun w => (s.findUnit w).isNone
    State.modCtx { s with barriers := (s.barriers.map leave).filter fun x => !empty x } i fun c => { c.unpop with stage := .fresh }
  | _ => s

/-- A head record of the MMA family stops only at the end of a j0 loop (R204). -/
def mmaFamily (q : QEntry) : Bool := decide (1 ≤ (recOpc q.record).toNat) && decide ((recOpc q.record).toNat ≤ 4)

/-- The engines of a bank stand at their cut points (R427): MX at the end of a j0 loop, a finished record retired or held by
its destination, and no step under way. -/
def State.atCut (s : State) (i : CtxId) : Bool :=
  engs.all fun e =>
    let x := s.engine ⟨i.core, e⟩
    !x.headIs i.slot || !s.stepHeld ⟨i.core, e⟩ i.slot && (match x.head.st, x.queue with
      | .done, _ => x.head.retire.isSome && s.phaseDone (.eng ⟨i.core, e⟩) (x.head.retire.getD 0)
      | .walking, q :: _ => !(decide (e = .mx) && mmaFamily q && x.head.j0 != 0)
      | _, _ => true)

/-- Open phases of the engines that hold records of the bank are complete (R233). -/
def State.engPhasesQuiet (s : State) (i : CtxId) : Bool :=
  engs.all fun e => !s.engHolds i.core e i.slot || s.phasesQuiet (.eng ⟨i.core, e⟩)

/-- The cut of a bank as far as it has come: finished records that can retire do so, and the bytes of the steps done stand (R427). -/
def State.cutStep (s : State) (i : CtxId) : State :=
  engs.foldl (fun s e =>
    let x := s.engine ⟨i.core, e⟩
    if !x.headIs i.slot || s.stepHeld ⟨i.core, e⟩ i.slot then s
    else if (match x.head.st with | .done => true | _ => false) then s.retire ⟨i.core, e⟩ else s.settleHead ⟨i.core, e⟩) s

/-- The bank's queues are emptied, the image having taken them (R420). The writer of an encrypted tensor stays its writer
(R405). -/
def State.clearQueues (s : State) (i : CtxId) : State :=
  engs.foldl (fun s e =>
    let id : EngId := ⟨i.core, e⟩
    let mine := (s.engine id).headIs i.slot
    let s := if mine then ((s.unblockEng id i.slot).dropReads id).giveUp (Asker.ofEng id) else s
    s.modEngine id fun x => if mine then x.withQueue (x.queue.filter fun q => q.slot ≠ i.slot)
      else { x with queue := (if x.head.orphan then x.queue.take 1 else []) ++
              (if x.head.orphan then x.queue.drop 1 else x.queue).filter fun q => q.slot ≠ i.slot }) s

/-- The exception registers as a trap writes them (R420). -/
def Ctx.except (c : Ctx) (t : Trap) (report : Word) : Ctx :=
  { c with
    epc := c.pc, efrom := c.last, ecause := BitVec.ofNat 64 t.cause, eaddr := t.eaddr
    einfo := if t.report.isEmpty then t.einfo else report
    estat := (c.estat &&& 4) ||| (if c.sup then 2 else 0) ||| BitVec.ofNat 64 (t.agent % 8 * 16) }

/-- What a context keeps for the return to its tick, in place of what it kept of the same image (R121, R128). -/
def Ctx.keep (c : Ctx) : List Kept :=
  (if c.tickFlags = 0 ∧ c.stps = [] then [] else [⟨c.tick, c.seqs, c.tickFlags, c.stps⟩]) ++ c.kept.filter fun k => !(k.tick = c.tick && k.seqs = c.seqs)

/-- The context at the handler's first instruction (R420). The handler begins in the tick of the trap, whose flags an MTS FSR there
keeps; what the tick has of flags merged and of STPs not yet seen is kept for the return to it (R121, R128, R129). -/
def Ctx.atHandler (c : Ctx) (evec : Word) : Ctx :=
  { c with
    estat := c.estat ||| 1, sup := true, pc := evec &&& ~~~7, landings := [], trap := none, stage := .fresh
    blocked := none, inWfe := false, released := false, cutGate := none, kept := c.keep, stps := []
    issued := none, late := [] }

/-- EVEC and CTXSAVE are valid for a context (R424). -/
def State.vectored (s : State) (i : CtxId) : Bool :=
  let v := s.vnpu (s.ctx i).vnpu
  tb v.evec 0 && tb v.ctxsave 0

/-- The end of a trap entry: the landings and the image are written, and the handler is entered (R420). -/
def State.enterNow (s : State) (i : CtxId) (t : Trap) : State :=
  let area := s.saveArea i
  let c := ((s.ctx i).settle).except t (BitVec.ofNat 64 (area + 0x1F00))
  match s.putImage i (s.imageNow i c 0 t.report) (imagePieces area) with
  | (s, some _) => s.unitFailure i t.cause
  | (s, none) => (s.clearQueues i).setCtx i (c.atHandler (s.vnpu c.vnpu).evec)

/-- TRAP_ENTRY as far as it can go now: a double trap or an invalid vector is UnitFailure; else the cut is taken, the phase
is closed, and once every phase is complete and the entry may be stamped the handler is entered, as soon as no routine holds a line of
the image (R420, R423, R233, R242, R282); the image is charged to no regulator (R468, log 42). -/
def State.enter (s : State) (i : CtxId) : State :=
  let c := s.ctx i
  match c.trap with
  | none => s
  | some t =>
    if !c.canTrap || c.failing.isSome || s.inPhase i then s
    else if tb c.estat 0 || !s.vectored i then s.unitFailure i t.cause
    else
      let s := (((s.unblockCtx i).unarrive i).giveUp (Asker.ofCtx i)).modCtx i fun c => { c with stage := .fresh }
      let s := s.cutStep i
      if !s.atCut i then s
      else
        let gated : Option (State × Nat) := match t.gate with
          | some n => some (s, n)
          | none => (s.closePhase (.ctx i) c.vnpu).map fun s =>
            let n := (s.phases (.ctx i)).closed
            (s.modCtx i fun c => { c with trap := c.trap.map fun t => { t with gate := some n } }, n)
        match gated with
        | none => s
        | some (s, n) =>
          if s.phaseDone (.ctx i) n && s.engPhasesQuiet i && s.mayStamp (.ctx i)
              && !s.imageHeld (s.imageAcc i true) (imagePieces (s.saveArea i)) then (s.enterNow i t).stamped (.ctx i)
          else s

/-- A trap raised on a context by an agent of its core, of number `agent`, is entered as far as it can be (R421, R432). -/
def State.raiseBy (s : State) (i : CtxId) (agent : Nat) (t : Trap) : State :=
  let t : Trap := { t with agent := agent, stamp := s.gtc.toNat, src := i.core.val * 8 + agent }
  (((s.unarrive i).giveUp (Asker.ofCtx i)).modCtx i fun c => { (c.cause t) with stage := .fresh }).enter i

/-- A trap raised on a context by its own instruction or by an event of the context (R421). -/
def State.raise (s : State) (i : CtxId) (t : Trap) : State := s.raiseBy i (Slot.num i.slot) t

/-! ## Returning from a trap (R428, R430) -/

/-- A restored head whose copy is of an encrypted tensor: the Strongroom compares the copy, and the writer (R430). -/
def State.copyStale (s : State) (e : EngId) (q : QEntry) (h : Head) : Bool :=
  let enc := h.copy.getLsbD (53 * 8)
  let here := match h.st with | .walking => true | .faulted p => p = 0 | _ => false
  enc && here && (match s.tensors.find? fun t => t.leaf = s.leafOf q.vnpu && t.slot = handleSlot q.hdr with
    | some t => !(bits h.copy.toNat 383 352 == t.tid && bits h.copy.toNat 423 416 == t.world.toNat && t.enc
        && (e.eng ≠ .co || t.writer == some e))
    | none => true)

/-- The harvest context of a core holds a lease of an engine (R328). -/
def Core.leased (k : Core) (e : Eng) : Bool :=
  if h : (Eng.fin e).val < 4 then (k.leases[(Eng.fin e).val]'h).held else false

/-- A harvest record of engine e is queued or executing (R207). -/
def State.harvestIn (s : State) (c : CoreId) (e : Eng) : Bool := s.engHolds c e .h

/-- An owner record enters the queue of an engine that slot H leases, or in which a harvest record waits or runs: revocation begins
(R207, R253, R330). -/
def State.ownerEnters (s : State) (c : CoreId) (e : Eng) : State :=
  if (s.core c).leased e || s.harvestIn c e then s.askRevoke c false else s

/-- Records of a bank go into an engine, the first with its execution state; it resumes at once, or when the records of the
other bank before it have gone (R428, R430). A stale tensor copy faults at its micro-PC. Owner records begin a revocation as those of
an ENQ do, and wait for it (R207, R253). -/
def State.loadEngine (s : State) (e : EngId) (q : List QEntry) (h : Head) : State :=
  match q with
  | [] => s
  | r0 :: rest0 =>
    let s := if r0.slot = .o then s.ownerEnters e.core e.eng else s
    let wait := fun (x : QEntry) => { x with afterRevoke := decide (x.slot = .o) && (s.core e.core).revoke }
    let r := wait r0
    let rest := rest0.map wait
    let stale := s.copyStale e r h
    let t : Trap := { cause := 0x09, agent := 2 + (Eng.fin e.eng).val, stamp := s.gtc.toNat, src := engNum e }
    let h : Head := if stale then { h with st := .faulted 0, fault := some t } else h
    let q' := { r with resume := some h } :: rest
    let s := s.modEngine e fun x => if x.queue.isEmpty then x.withQueue q' else { x with queue := x.queue ++ q' }
    if stale then s.modCtx ⟨e.core, r.slot⟩ fun c => c.cause t else s

/-- The queues and heads of an image go into the engines of a bank (R428, R430). -/
def State.loadEngines (s : State) (i : CtxId) (m : Mem) (sup : Bool) (v : VnpuId) : State :=
  engs.foldl (fun s e =>
    let (q, h) := imageEngine m i.slot sup v e
    s.loadEngine ⟨i.core, e⟩ q h) s

/-- Notifications that came after the trap entry, `late`, and are in the queue still stay in the restored event queue (R428). -/
def mergeEvents (late old new : List EvEntry) : List EvEntry × List EvEntry :=
  let extra := late.filter fun e => old.contains e
  extra.foldl (fun (q, held) e => if q.length < 64 then (insertEv e q, held) else (q, held ++ [e])) (new, [])

/-- The context as ERET leaves it (R428): every item of the image, the privilege of ESTAT.PPRIV, the PC of EPC. -/
def Ctx.returned (c : Ctx) (m : Mem) : Ctx :=
  let x := loadCtx m c
  let own := fun (k : Kept) => k.tick = x.tick && k.seqs = x.seqs
  let k := (c.kept.find? own).getD ⟨x.tick, x.seqs, 0, []⟩
  let (q, held) := mergeEvents c.late c.events x.events
  { x with
    events := q, eventsHeld := c.eventsHeld ++ held, sup := tb c.estat 1, estat := c.estat &&& ~~~1, pc := c.epc
    stage := .fresh, blocked := none, inWfe := false, stps := k.stps, tickFlags := k.flags, kept := c.kept.filter fun k => !own k
    issued := none, late := [] }

/-- ERET once its phase is complete and the reads of the image may be made: the image is read and checked, and the context
resumes (R428, R429). -/
def State.returnFrom (s : State) (i : CtxId) : Except Trap State :=
  match s.getImage i (imagePieces (s.saveArea i)) with
  | (_, _, some t) => .error t
  | (s, m, none) =>
    match imageBad i.slot m with
    | some off => .error { cause := 0x02, einfo := BitVec.ofNat 64 off }
    | none =>
      let c := s.ctx i
      .ok ((s.setCtx i (c.returned m)).loadEngines i m (tb c.estat 1) c.vnpu)

/-! ## An issued word (R74, R123, R124) -/

/-- What the effect of a word answers: it completes, with results (a landing's `rem` is its latency), a taken target and
its ticks; it stalls; it traps; or it has left the slot in a state of its own. -/
inductive Ans where
  | done (s : State) (w : List Landing) (pc : Option Word) (n : Nat)
  | stall (s : State)
  | trap (s : State) (t : Trap)
  | gone (s : State)

/-- The privilege and slot limits of R73. -/
inductive Limit where
  | none | supervisor | slotO | slotH | never
deriving DecidableEq, Repr

def Limit.ok (l : Limit) (c : Ctx) (sl : Slot) : Bool :=
  match l with
  | .none => true
  | .supervisor => c.sup
  | .slotO => decide (sl = .o)
  | .slotH => decide (sl = .h)
  | .never => false

/-- The ticks to the first landing of a register, where several are to come (R126; DESIGN CHOICE, log 93). -/
def Ctx.pendingOn (c : Ctx) (r : Nat) : Option Nat :=
  (c.landings.filter fun l => l.reg = r).foldl (fun a l => match a with | some n => some (min n l.rem) | none => some l.rem) none

/-- The early read of R126: the first operand with a landing to come, under DEBUG.PENDTRAP. -/
def Ctx.early (c : Ctx) (ops : List Nat) : Option Trap :=
  if !tb c.debug 0 then none
  else (ops.filter fun r => r ≠ 0 && r ≠ 64).findSome? fun r =>
    (c.pendingOn r).map fun n => { cause := 0x0B, einfo := BitVec.ofNat 64 (r + n * 256) }

/-- The answer of a word's effect as a state. -/
def Ans.state (i : CtxId) : Ans → State
  | .done s w pc n => s.finish w pc n
  | .stall s => s
  | .trap s t => s.raise i t
  | .gone s => s

/-- PRIV with the word in EINFO (R75). -/
def privTrap (x : Instr) : Trap := { cause := 0x03, einfo := (encodeCtl x).getD 0 }

/-- A control word as it issues: check 4 of R74, the predicate, its operands, and its effect. The word has passed checks 1
to 3, which are its decoding. -/
def ctl (x : Instr) (p : Pred) (l : Limit) (ops : List Nat) (body : State → Ctx → Ans) (s : State) : Result :=
  let i := s.me
  let c := s.ctx i
  .next (
    if !l.ok c i.slot then s.raise i (privTrap x)
    else match c.early [kNum p.kp] with
      | some t => s.raise i t
      | none =>
        if !c.holds p then s.finish [] none 1
        else match c.early ops with
          | some t => s.raise i t
          | none => (body s c).state i)

/-- A word with one result of latency `lat`. -/
def one (s : State) (d : Reg) (v : Word) (lat : Nat) : Ans := .done s [⟨gNum d, v, 0, lat⟩] none 1

/-- A word with no result. -/
def plain (s : State) : Ans := .done s [] none 1

/-! ## Stalls of a word -/

/-- The phase of the acting context is closed once, and what follows waits until it is complete (R227, R228). -/
def State.closing (s : State) (k : State → Ans) : Ans :=
  let i := s.me
  match (s.ctx i).stage with
  | .closed n => if s.phaseDone (.ctx i) n then k s else .stall s
  | _ => match s.closePhase (.ctx i) (s.ctx i).vnpu with
    | none => .stall s
    | some s =>
      let n := (s.phases (.ctx i)).closed
      let s := s.modCtx i fun c => { c with stage := .closed n }
      if s.phaseDone (.ctx i) n then k s else .stall s

/-- A registered wait (R153, R264): what follows runs when it is over. -/
def State.await (s : State) (ready : Bool) (o : BitVec 32) (k : State → Ans) : Ans :=
  if ready then k (s.unblockCtx s.me) else .stall (s.blockCtx s.me o)

/-- The wait until every record the context queued has retired, registered on the queue of an engine that holds one
(R348, R369). -/
def State.drain (s : State) (k : State → Ans) : Ans :=
  let i := s.me
  match s.undrained i with
  | none => k (s.unblockCtx i)
  | some e => .stall (s.blockCtx i (queueObj i.core i.slot e))

/-- The phase closed and nothing awaited (R253): what follows runs at once, and stalls where three phases are open. -/
def State.closeOnly (s : State) (k : State → Ans) : Ans :=
  match s.closePhase (.ctx s.me) (s.ctx s.me).vnpu with
  | none => .stall s
  | some s => k s

/-- An access of the acting context's answer (R245). -/
def AccRes.then {α : Type} (r : AccRes α) (s0 : State) (k : State → α → Ans) : Ans :=
  match r with
  | .trap t => .trap s0 t
  | .stall s => .stall s
  | .ok s v => k s v

/-- Who accesses global memory for the acting context. -/
def State.myAcc (s : State) (write : Bool) : Acc := ⟨s.cur.core, (s.ctx s.me).vnpu, !(s.ctx s.me).sup, write, false, false⟩

end Sys2Proof.Machine
end

