-- ==== Sys2Proof/Machine/LoadStore.lean ====
section
/-! DEFINITION. Loads, stores, prefetch, fences and the Pantry (R244-R248), and the record buffers (R249-R251, R54). -/

namespace Sys2Proof.Machine

/-- The acting context is in slot O, whose loads may use the L1 (R23). -/
def State.inSlotO (s : State) : Bool := decide (s.cur.slot = .o)

/-- What the acting context does from here follows an acquire: in slot O no L1 copy stays, as slot H of the core may have passed on writes
of other cores (R221, R222, R235), and its stamps come after those of the releases (R242, log 87). -/
def State.acquired (s : State) : State :=
  let s := s.acquireStamp s.me
  if s.inSlotO then s.l1Drop s.cur.core else s

/-- The phase of the acting context is closed once for an instruction that does not wait for it itself (R227): what follows
is told how many phases its access is sent after. -/
def State.closeOnce (s : State) (k : State → Nat → Ans) : Ans :=
  match (s.ctx s.me).stage with
  | .closed n => k s n
  | _ => s.closeOnly fun s =>
    let n := (s.phases (.ctx s.me)).closed
    k (s.modCtx s.me fun c => { c with stage := .closed n }) n

/-- LD (R244). -/
def execLd (p : Pred) (d : Reg) (m : MemArg) (sx : Bool) (s : State) : Result :=
  ctl (.ld p d m sx) p .none (addrRegs m.base m.mode) (fun s c =>
    let (ea, wb) := c.ea m.base m.mode
    let n := sizeBytes m.size
    (s.load (.ctx s.me) (s.myAcc false) m.cls.toNat ea.toNat n s.inSlotO false).then s fun s bs =>
      .done s (baseUpdate m.base wb ++ [⟨gNum d, loadValue n sx bs, 0, 0⟩]) none 1) s

/-- ST (R244). -/
def execSt (p : Pred) (d : Reg) (m : MemArg) (s : State) : Result :=
  ctl (.st p d m) p .none (addrRegs m.base m.mode ++ [gNum d]) (fun s c =>
    let (ea, wb) := c.ea m.base m.mode
    (s.storeMsg (.ctx s.me) (s.myAcc true) m.cls.toNat ea.toNat (wordBytes (sizeBytes m.size) (c.rd d)) 0 false true none).then s
      fun s _ => .done s (baseUpdate m.base wb) none 1) s

/-- LD.ACQ: it reads the home slice, and in slot O it discards the L1 copies; at core scope too, where the spec lets them go at any time
(R222, R235, R244, log 88). -/
def execLdAcq (p : Pred) (d : Reg) (m : MemArg) (sx : Bool) (scope : BitVec 2) (s : State) : Result :=
  ctl (.ldAcq p d m sx scope) p .none (addrRegs m.base m.mode) (fun s c =>
    let (ea, wb) := c.ea m.base m.mode
    let n := sizeBytes m.size
    (s.load (.ctx s.me) (s.myAcc false) m.cls.toNat ea.toNat n false false).then s fun s bs =>
      .done s.acquired (baseUpdate m.base wb ++ [⟨gNum d, loadValue n sx bs, 0, 0⟩]) none 1) s

/-- ST.REL: the phase is closed, and the store is sent once every phase closed so far is complete (R227, R244). -/
def execStRel (p : Pred) (d : Reg) (m : MemArg) (scope : BitVec 2) (s : State) : Result :=
  ctl (.stRel p d m scope) p .none (addrRegs m.base m.mode ++ [gNum d]) (fun s c =>
    let (ea, wb) := c.ea m.base m.mode
    let bs := wordBytes (sizeBytes m.size) (c.rd d)
    if s.walkHeld (s.myAcc true) ea.toNat bs.length then .stall s
    else match s.checkPages (s.myAcc true) ea.toNat bs.length with
    | .error e => .trap s (accTrap true false e)
    | .ok _ => s.closeOnce fun s n =>
      (s.storeMsg (.ctx s.me) (s.myAcc true) m.cls.toNat ea.toNat bs n false true none).then s
        fun s _ => .done s.releaseStamp (baseUpdate m.base wb) none 1) s

/-- The line of an address is brought to its home slice, and in slot O to the L1 where no copy is there, or nothing happens; it waits
for a routine that holds the line or a table (R246, R282). -/
def State.prefetch (s : State) (ea : Nat) : AccRes Unit :=
  let a := s.myAcc false
  if s.walkHeld a ea 1 then .stall s
  else match s.checkPages a ea 1 with
  | .error _ => .ok s ()
  | .ok pages =>
    match physPieces pages ea 1 with
    | [] => .ok s ()
    | (_, pa, _) :: _ =>
      let line := pa / 128
      let fill := s.inSlotO && (s.l1Copy a.core line).isNone
      if s.badAt pa then .ok s ()
      else if s.lineHeld line then .stall s
      else
        let lf := s.leafOf a.vnpu
        match s.admitSeq a.vnpu (s.asker (.ctx s.me))
            (withFill (a.core.val, if fill then 128 else 0) (s.mcCharges (some lf) line true)) with
        | (false, s) => .stall s
        | (true, s) =>
          let s := ((s.fillTlbs a.core pages).touch (pa / 4096)).sliceAccess (some lf) line false true
          .ok (if fill then s.l1Fill a.core line else s) ()

/-- PF (R246). -/
def execPf (p : Pred) (a : Reg) (mode : AMode) (cls : BitVec 4) (s : State) : Result :=
  ctl (.pf p a mode cls) p .none (addrRegs a mode) (fun s c =>
    let (ea, wb) := c.ea a mode
    (s.prefetch ea.toNat).then s fun s _ => .done s (baseUpdate a wb) none 1) s

/-- FENCE: a release and an acquire (R219, R247). -/
def execFence (p : Pred) (mask : BitVec 16) (scope : BitVec 2) (s : State) : Result :=
  ctl (.fence p mask scope) p .none [] (fun s _ => s.closing fun s =>
    if !s.performed (.ctx s.me) mask then .stall s
    else plain s.releaseStamp.acquired) s

/-! ## The Pantry (R248) -/

/-- The checks of LDP and STP: space 0, then a region the context holds. -/
def State.pantryTrap (s : State) (ea n : Nat) : Option Trap :=
  if 0x100000 < ea + n then some { cause := 0x05, eaddr := BitVec.ofNat 64 ea }
  else ((s.core s.cur.core).firstNotHeld s.cur.slot ea n).map fun b => { cause := 0x05, eaddr := BitVec.ofNat 64 b }

/-- The bytes of [ea, ea + n) before an STP that the context does not see yet. -/
def PendStore.over (x : PendStore) (ea : Nat) (bs : List Byte) : List Byte :=
  bs.mapIdx fun k b => if x.addr ≤ ea + k then (x.old[ea + k - x.addr]?).getD b else b

/-- The bytes an LDP of a context reads: those of the Pantry, but for the STPs it does not see yet (R118). -/
def State.pantryRead (s : State) (i : CtxId) (ea n : Nat) : List Byte :=
  (s.ctx i).stps.foldr (fun x bs => x.over ea bs) ((s.core i.core).store.read ea n)

/-- LDP: exposed latency 3; a poisoned unit traps UNCORRECTABLE (R248, R449). It is performed after the earlier accesses of class 0
(R213). -/
def execLdp (p : Pred) (d a : Reg) (mode : AMode) (size : BitVec 2) (sx : Bool) (s : State) : Result :=
  ctl (.ldp p d a mode size sx) p .none (addrRegs a mode) (fun s c =>
    let (ea, wb) := c.ea a mode
    let n := sizeBytes size
    match s.pantryTrap ea.toNat n with
    | some t => .trap s t
    | none => match (s.core s.cur.core).poisoned ea.toNat n with
      | some u => .trap s { cause := 0x14, eaddr := BitVec.ofNat 64 u }
      | none =>
        if s.lateClass (.ctx s.me) 0 then .stall s
        else .done s (baseUpdate a wb ++ [⟨gNum d, loadValue n sx (s.pantryRead s.me ea.toNat n), 0, 3⟩]) none 1) s

/-- The bytes of an STP reach the Pantry; what they replace stands for the context's LDPs until the second tick on (R118). -/
def State.pantryWrite (s : State) (i : CtxId) (ea : Nat) (bs : List Byte) : State :=
  let old := (s.core i.core).store.read ea bs.length
  (s.modCore i.core fun k => k.lstore ea bs).modCtx i fun c => { c with
    stps := c.stps ++ [⟨ea, old, 2⟩]
    kept := c.kept.map fun k => { k with stps := k.stps.filter fun x => !overlap x.addr x.old.length ea bs.length } }

/-- STP: a later LDP sees it from the second tick on (R118, R248). It is performed after the earlier accesses of class 0 (R213). -/
def execStp (p : Pred) (d a : Reg) (mode : AMode) (size : BitVec 2) (s : State) : Result :=
  ctl (.stp p d a mode size) p .none (addrRegs a mode ++ [gNum d]) (fun s c =>
    let (ea, wb) := c.ea a mode
    let n := sizeBytes size
    match s.pantryTrap ea.toNat n with
    | some t => .trap s t
    | none =>
      if s.lateClass (.ctx s.me) 0 then .stall s
      else .done (s.pantryWrite s.me ea.toNat (wordBytes n (c.rd d))) (baseUpdate a wb) none 1) s

/-! ## Record buffers (R249-R251) -/

/-- The address of RBLD and RBST (R38). -/
def Ctx.rbAddr (c : Ctx) (a : Reg) (off : BitVec 18) : Word :=
  (if a = 0 then c.pc &&& ~~~63 else c.rd a) + (off.signExtend 64 <<< 6)

/-- RBLD (R250). -/
def execRbld (p : Pred) (a : Reg) (off : BitVec 18) (n : RbReg) (s : State) : Result :=
  ctl (.rbld p a off n) p .none [gNum a] (fun s c =>
    let ea := (c.rbAddr a off).toNat
    if ea % 64 ≠ 0 then .trap s { cause := 0x08 }
    else (s.load (.ctx s.me) (s.myAcc false) 0 ea 64 s.inSlotO false).then s fun s bs =>
      plain (s.modCtx s.me fun x => x.setBuf n (BitVec.ofNat 512 (leNat bs)))) s

/-- RBST (R250). -/
def execRbst (p : Pred) (a : Reg) (off : BitVec 18) (n : RbReg) (s : State) : Result :=
  ctl (.rbst p a off n) p .none [gNum a] (fun s c =>
    let ea := (c.rbAddr a off).toNat
    if ea % 64 ≠ 0 then .trap s { cause := 0x08 }
    else (s.storeMsg (.ctx s.me) (s.myAcc true) 0 ea (leBytes 64 (c.buf n).toNat) 0 false true none).then s fun s _ => plain s) s

/-- The bits of a field of a record buffer: the lowest, the width, and whether RBGET sign-extends it (R54). -/
def bufField (id : BitVec 6) : Nat × Nat × Bool :=
  match id.toNat with
  | 0x10 => (224, 32, false) | 0x11 => (352, 32, false) | 0x12 => (480, 32, false)
  | 0x13 => (64, 16, false) | 0x14 => (80, 16, false) | 0x15 => (96, 16, false) | 0x16 => (112, 16, false)
  | 0x17 => (20, 8, false) | 0x18 => (28, 4, false) | 0x19 => (36, 4, false) | 0x1A => (33, 3, false) | 0x1B => (0, 16, false)
  | 0x20 => (200, 24, true) | 0x21 => (176, 24, true) | 0x22 => (152, 24, true) | 0x23 => (128, 24, true)
  | 0x24 => (328, 24, true) | 0x25 => (304, 24, true) | 0x26 => (280, 24, true) | 0x27 => (256, 24, true)
  | 0x28 => (456, 24, true) | 0x29 => (432, 24, true) | 0x2A => (408, 24, true) | 0x2B => (384, 24, true)
  | n => (64 * (n % 8), 64, false)

/-- A field of a buffer replaced by the low bits of a word. -/
def putField (w : BitVec 512) (f : Nat × Nat × Bool) (v : Word) : BitVec 512 :=
  let m : BitVec 512 := BitVec.ofNat 512 (2 ^ f.2.1 - 1) <<< f.1
  (w &&& ~~~m) ||| (BitVec.ofNat 512 (v.toNat % 2 ^ f.2.1) <<< f.1)

/-- A field of a buffer as RBGET reads it. -/
def getField (w : BitVec 512) (f : Nat × Nat × Bool) : Word :=
  let v := w.toNat / 2 ^ f.1 % 2 ^ f.2.1
  if f.2.2 && decide (2 ^ (f.2.1 - 1) ≤ v) then BitVec.ofInt 64 ((v : Int) - 2 ^ f.2.1) else BitVec.ofNat 64 v

/-- RBSET (R251, R54). -/
def execRbset (p : Pred) (n : RbReg) (a : Reg) (id : BitVec 6) (s : State) : Result :=
  ctl (.rbset p n a id) p .none [gNum a] (fun s c =>
    plain (s.modCtx s.me fun x => x.setBuf n (putField (c.buf n) (bufField id) (c.rd a)))) s

/-- RBGET (R251, R54). -/
def execRbget (p : Pred) (d : Reg) (n : RbReg) (id : BitVec 6) (s : State) : Result :=
  ctl (.rbget p d n id) p .none [] (fun s c => one s d (getField (c.buf n) (bufField id)) 0) s

end Sys2Proof.Machine
end

