-- ==== Sys2Proof/Machine/Queues.lean ====
section
/-! DEFINITION. Engine queues, tokens, semaphores, the event queue and accumulator versions, as the control core reaches them
(R252-R266). -/

namespace Sys2Proof.Machine

/-- RND = 7 is replaced by FCR.RM (R45, R253). -/
def resolveRnd (w : BitVec 512) (fcr : Word) : BitVec 512 :=
  if (unpackRec w).rnd.toNat = 7 then packRec (recOpc w) { unpackRec w with rnd := BitVec.ofNat 3 (fld fcr 2 0) } else w

/-- The entry of a record that a context queues now: an owner record waits for a revocation that is begun or deferred (R252, R253). -/
def State.newEntry (s : State) (i : CtxId) (e : Eng) (w : BitVec 512) : QEntry :=
  let c := s.ctx i
  { record := resolveRnd w c.fcr, slot := i.slot, seq := c.seqs.get (Eng.fin e), gate := (s.phases (.ctx i)).closed, sup := c.sup
    vnpu := c.vnpu, afterRevoke := decide (i.slot = .o) && (s.core i.core).revoke }

/-- A record enters the tail of an engine's queue, its number and its phase taken (R252, R253). -/
def State.enqueue (s : State) (i : CtxId) (e : Eng) (w : BitVec 512) : State :=
  let q := s.newEntry i e w
  let s := s.modCtx i fun c => { c with seqs := c.seqs.set (Eng.fin e) (q.seq + 1) }
  let s := s.modCore i.core fun k => k.passStamp (srcSlot (.ctx i)) (srcSlot (.eng ⟨i.core, e⟩))
  s.modEngine ⟨i.core, e⟩ fun x => { x with queue := x.queue ++ [q] }

/-- An instruction that orders every access of the context before it with every one after it, and synchronises with what it pops or
awaits (R213, R220, R350). -/
def State.ordered (s : State) : State := (s.modCtx s.me fun c => { c with order := c.order + 1 }).acquired

/-- ENQ (R253). -/
def execEnq (p : Pred) (e : Eng) (n : RbReg) (s : State) : Result :=
  ctl (.enq p e n) p .none [] (fun s c =>
    let i := s.me
    let k := s.core i.core
    if i.slot = .h && (decide (e = .xf) || !k.leased e) then .trap s { cause := 0x1C }
    else
      let s := if i.slot = .o then s.ownerEnters i.core e else s
      s.await (decide ((s.engine ⟨i.core, e⟩).queue.length < 8)) (queueObj i.core i.slot e) fun s =>
        s.closeOnly fun s => plain (s.enqueue i e (c.buf n))) s

/-- QDRAIN (R254). -/
def execQdrain (p : Pred) (e : Eng) (s : State) : Result :=
  ctl (.qdrain p e) p .none [] (fun s _ =>
    s.await (!s.engHolds s.cur.core e s.cur.slot) (queueObj s.cur.core s.cur.slot e) fun s => plain s.ordered) s

/-! ## Tokens (R256, R447) -/

/-- XF has no tokens for slot H (R447). -/
def State.noTokens (s : State) (e : Eng) : Bool := decide (e = .xf) && decide (s.cur.slot = .h)

/-- TKPOST (R256). -/
def execTkpost (p : Pred) (e : Eng) (s : State) : Result :=
  ctl (.tkpost p e) p .none [] (fun s _ =>
    if s.noTokens e then .trap s { cause := 0x16 }
    else s.closing fun s =>
      s.await (decide ((s.ctx s.me).portCount e 0 < 15)) (portObj s.cur.core s.cur.slot e 0) fun s =>
        plain ((s.modCtx s.me fun c => c.setPort e 0 (c.port e 0 + 1)).modCore s.cur.core fun k =>
          k.passStamp (srcSlot (.ctx s.me)) (srcSlot (.eng ⟨s.cur.core, e⟩)))) s

/-- TKWAIT (R256). -/
def execTkwait (p : Pred) (e : Eng) (s : State) : Result :=
  ctl (.tkwait p e) p .none [] (fun s _ =>
    if s.noTokens e then .trap s { cause := 0x16 }
    else s.await (decide (0 < (s.ctx s.me).fifo e)) (fifoObj s.cur.core s.cur.slot e) fun s =>
      plain (s.modCtx s.me fun c => c.setFifo e (c.fifo e - 1)).ordered) s

/-- TKPOLL: one that pops a token synchronises with its post (R220, R256). -/
def execTkpoll (p : Pred) (d : Reg) (e : Eng) (s : State) : Result :=
  ctl (.tkpoll p d e) p .none [] (fun s c =>
    if s.noTokens e then .trap s { cause := 0x16 }
    else if 0 < c.fifo e then one (s.modCtx s.me fun c => c.setFifo e (c.fifo e - 1)).acquired d 1 0
    else one s d 0 0) s

/-! ## Semaphores (R259-R262) -/

/-- The physical counter a virtual number names (R259). -/
def Ctx.counter (c : Ctx) (n : BitVec 6) : Option (Fin 64) :=
  let b := c.semMap[n.toNat]'n.isLt
  if b.getLsbD 7 then none else some ⟨b.toNat % 64, Nat.mod_lt _ (by decide)⟩

/-- An unmapped number (R260). -/
def unmapped (n : BitVec 6) : Trap := { cause := 0x06, eaddr := n.setWidth 64 }

/-- A context whose map names a counter is woken by a SEMINC of it (R366). -/
def Ctx.wakeFor (c : Ctx) (x : Fin 64) : Ctx :=
  if c.live && c.semMap.toList.any fun b => !b.getLsbD 7 && b.toNat % 64 == x.val then { c with wake := true } else c

/-- SEMINC (R260). -/
def execSeminc (p : Pred) (n : BitVec 6) (a : Reg) (s : State) : Result :=
  ctl (.seminc p n a) p .none [gNum a] (fun s c => match c.counter n with
    | none => .trap s (unmapped n)
    | some x => s.closing fun s =>
      plain (s.releaseStamp.modCore s.cur.core fun k =>
        { k with sems := k.sems.set x (k.sems.get x + (c.rd a).setWidth 32), ctxO := k.ctxO.wakeFor x, ctxH := k.ctxH.wakeFor x })) s

/-- SEMWAIT (R260). -/
def execSemwait (p : Pred) (n : BitVec 6) (a : Reg) (s : State) : Result :=
  ctl (.semwait p n a) p .none [gNum a] (fun s c => match c.counter n with
    | none => .trap s (unmapped n)
    | some x =>
      let v : BitVec 32 := (c.rd a).setWidth 32
      s.await (decide (v.toNat ≤ ((s.core s.cur.core).sems.get x).toNat)) (semObj s.cur.core x.val) fun s =>
        plain (s.modCore s.cur.core fun k => { k with sems := k.sems.set x (k.sems.get x - v) }).acquired) s

/-- SEMMAP (R262). -/
def execSemmap (p : Pred) (n : BitVec 6) (a : Reg) (s : State) : Result :=
  ctl (.semmap p n a) p .supervisor [gNum a] (fun s c =>
    let v := c.rd a
    let put := fun (b : BitVec 8) => plain (s.modCtx s.me fun c => { c with semMap := c.semMap.set n.toNat b n.isLt })
    if fld v 62 6 ≠ 0 then .trap s { cause := 0x02, einfo := (encodeCtl (.semmap p n a)).getD 0 }
    else if tb v 63 then put 0x80
    else if !semEntryOk s.cur.slot (fld v 5 0) then
      .trap s { cause := 0x06, eaddr := n.setWidth 64, einfo := BitVec.ofNat 64 (fld v 5 0) }
    else put (BitVec.ofNat 8 (fld v 5 0))) s

/-! ## Accumulator versions and the event queue (R263, R266) -/

/-- ACCVER (R263). -/
def execAccver (p : Pred) (d : Reg) (t : BitVec 6) (s : State) : Result :=
  ctl (.accver p d t) p .none [] (fun s _ =>
    let k := s.core s.cur.core
    let base := 0x10000000 + 0x10000 * t.toNat
    if s.cur.slot = .h && !k.holdsAddr .h base then .trap s { cause := 0x06, eaddr := BitVec.ofNat 64 base }
    else one s d ((k.ver t.toNat).setWidth 64) 0) s

/-- EQPOP (R266): the queue is kept in the order of (stamp, source number), so its first entry is the least. -/
def execEqpop (p : Pred) (d : Reg) (s : State) : Result :=
  ctl (.eqpop p d) p .none [] (fun s c =>
    s.await (!c.events.isEmpty) (evObj s.cur.core s.cur.slot) fun s => match c.events with
      | [] => .stall s
      | e :: r =>
        .done (s.modCtx s.me fun x => ({ x with events := r }).refillEvents).ordered
          [⟨gNum d, e.lo, 0, 0⟩, ⟨gNum d + 1, e.hi, 0, 0⟩] none 1) s

end Sys2Proof.Machine
end

