-- ==== Sys2Proof/Machine/Flow.lean ====
section
/-! DEFINITION. Control flow: branches, calls, loops, NOP, TRAP and END (R341-R348). -/

namespace Sys2Proof.Machine

/-- The target of an F-B word (R37). -/
def branchTo (pc : Word) (off : BitVec 48) : Word := pc + (off.signExtend 64 <<< 3)

/-- ALIGN of a jump (R342). -/
def jumpTrap (t : Word) : Trap := { cause := 0x08, eaddr := t }

/-- A jump to a register's value, with the results that go with it (R341, R342). -/
def jumpTo (s : State) (t : Word) (w : List Landing) : Ans :=
  if t &&& 7 ≠ 0 then .trap s (jumpTrap t) else .done s w (some t) 1

/-- The link register written with PC + 8 (R341). -/
def linkTo (c : Ctx) : List Landing := [⟨63, c.pc + 8, 0, 0⟩]

/-- BR (R341). -/
def execBr (p : Pred) (off : BitVec 48) (s : State) : Result :=
  ctl (.br p off) p .none [] (fun s c => .done s [] (some (branchTo c.pc off)) 1) s

/-- BCQ: it stands in local order as TKWAIT does (R341, R349, R350). -/
def execBcq (p : Pred) (off : BitVec 48) (s : State) : Result :=
  ctl (.bcq p off) p .none [] (fun s c =>
    s.await (!c.cq.isEmpty) (cqObj s.cur.core s.cur.slot) fun s => match c.cq with
      | [] => .stall s
      | b :: r => .done (s.modCtx s.me fun x => { x with cq := r }).ordered [] (if b then some (branchTo c.pc off) else none) 1) s

/-- JR (R341). -/
def execJr (p : Pred) (a : Reg) (s : State) : Result := ctl (.jr p a) p .none [gNum a] (fun s c => jumpTo s (c.rd a) []) s

/-- CALL (R341). -/
def execCall (p : Pred) (off : BitVec 48) (s : State) : Result :=
  ctl (.call p off) p .none [] (fun s c => .done s (linkTo c) (some (branchTo c.pc off)) 1) s

/-- CALLR: gA is read before lr is written (R341). -/
def execCallr (p : Pred) (a : Reg) (s : State) : Result := ctl (.callr p a) p .none [gNum a] (fun s c => jumpTo s (c.rd a) (linkTo c)) s

/-- RET (R341). -/
def execRet (p : Pred) (s : State) : Result := ctl (.ret p) p .none [63] (fun s c => jumpTo s (c.rd 63) []) s

/-- LOOP (R344): the level started last is the later one (R345). -/
def execLoop (p : Pred) (level : BitVec 1) (a : Reg) (off : BitVec 36) (s : State) : Result :=
  ctl (.loop p level a off) p .none [gNum a] (fun s c =>
    let stop := c.pc + (off.signExtend 64 <<< 3)
    let n : BitVec 32 := (c.rd a).setWidth 32
    if n = 0 then .done s [] (some (stop + 8)) 1
    else
      let l : Loop := ⟨c.pc + 8, stop, n, true⟩
      plain (s.modCtx s.me fun x => if level = 0 then { x with loop0 := l, later1 := false } else { x with loop1 := l, later1 := true })) s

/-- NOP: the tick advances by n, which the word holds as n - 1 (R346). -/
def execNop (p : Pred) (n : BitVec 16) (s : State) : Result := ctl (.nop p n) p .none [] (fun s _ => .done s [] none (n.toNat + 1)) s

/-- TRAP: the tick advances and EPC is the following word (R347). -/
def execTrap (p : Pred) (e : BitVec 16) (s : State) : Result :=
  ctl (.trap p e) p .none [] (fun s c => .trap (s.finish [] (some (c.pc + 8)) 1) { cause := 0x1A, einfo := e.setWidth 64 }) s

/-- END (R348). -/
def execEndUnit (p : Pred) (s : State) : Result :=
  ctl (.endUnit p) p .none [] (fun s _ => s.drain fun s => s.closing fun s => .gone (s.endUnit s.me)) s

end Sys2Proof.Machine
end

