-- ==== Sys2Proof/Machine/Programs.lean ====
section
/-! DEFINITION. Phase programs: the XF records that a BARXF runs, their checks (R373, R374), and the tokens they take (R371). -/

namespace Sys2Proof.Machine

/-- AUX bits outside a mask are zero. -/
def auxIn (m : BitVec 16) (r : EngRec) : Bool := r.aux &&& ~~~m == 0

/-! ## Checks (R373, R374) -/

/-- The steps of a record. -/
def stepsOf (r : EngRec) : Nat := r.count0 * r.count1 * r.count2 * r.count3

/-- The step address of linear index n (R46, R95). -/
def addrAt (r : EngRec) (d : Desc) (n : Nat) : Int :=
  d.at (n % r.count0) (n / r.count0 % r.count1) (n / (r.count0 * r.count1) % r.count2) (n / (r.count0 * r.count1 * r.count2))

/-- The phase cycle of S2 BASE. -/
def startOf (r : EngRec) : Nat := r.s2.base.toNat

/-- What every XF record requires. -/
def okXf (m : BitVec 16) (r : EngRec) : Bool :=
  r.dtype == 0 && r.stype == 0 && r.sat == 0 && r.vchk == 0 && r.bump == 0 && r.s2imm == 1 && auxIn m r

/-- The fields and cycles of an XF operation against the program's E (R373, R374); none for an unlisted operation. -/
def xfFields (opc e : Nat) (r : EngRec) : Option Bool :=
  match opc with
  | 1 => some (okXf 0x3F r && r.d.isZero && decide (startOf r + stepsOf r ≤ e + 1))
  | 2 => some (okXf 0x3F r && r.s1.isZero && decide (startOf r + stepsOf r ≤ e + 1))
  | 3 => some (okXf 0xFFF r && r.d.isZero && r.s1.isZero && decide (startOf r + stepsOf r ≤ e))
  | 4 => some (okXf 0 r && r.d.isZero && r.s1.isZero && r.trip0 == 0 && r.trip1 == 0 && r.trip2 == 0 && r.trip3 == 0
      && decide (startOf r ≤ 65535))
  | _ => none

/-- The fields alone of an XF operation, against an E that all its steps meet (R44, R373). -/
def xfForm (opc : Nat) (r : EngRec) : Bool := (xfFields opc (startOf r + stepsOf r) r).getD false

/-- The last phase cycle that a record of a program needs: that of its last step, or of what the step leads to (R376). -/
def lastCycle (opc : Nat) (r : EngRec) : Nat := startOf r + stepsOf r - 1 + (if opc = 2 then 2 else if opc = 3 then 1 else 0)

/-- The local side of an XF operation, if it has one. -/
def xfSide (opc : Nat) (r : EngRec) : Option Desc := if opc = 1 then some r.s1 else if opc = 2 then some r.d else none

/-- The lanes an XF operation names. -/
def xfLanes (opc : Nat) (r : EngRec) : List Nat :=
  let a := r.aux.toNat
  if opc = 1 || opc = 2 then [bits a 4 0] else if opc = 3 then [bits a 4 0, bits a 10 6] else []

/-- The first failure of a record of a program: its fields, its local addresses, their alignment, its lanes (R374). -/
def xfCheck (k : Core) (sl : Slot) (lanes : BitVec 32) (e : Nat) (q : QEntry) : Option Trap :=
  let r := q.hdr
  let opc := (recOpc q.record).toNat
  match xfFields opc e r with
  | none => some { cause := 0x01 }
  | some ok =>
    if !(headerOk .xf r && ok) then some { cause := 0x02 }
    else
      let addrs := match xfSide opc r with
        | some d => (List.range (stepsOf r)).map fun n => (d.space, addrAt r d n)
        | none => []
      match addrs.findSome? fun a => (match k.localCheck sl a.1 a.2 32 with | .error t => some t | .ok _ => none) with
      | some t => some t
      | none => match addrs.find? fun a => a.2 % 32 ≠ 0 with
        | some a => some (stepTrap 0x08 a.2)
        | none => if (xfLanes opc r).any fun l => !lanes.getLsbD l then some { cause := 0x06 } else none

/-- E of a program: the end cycle of its XEND (R373). -/
def programEnd (prog : List QEntry) : Nat := match prog.getLast? with | some q => startOf q.hdr | none => 0

/-- The first record of a program that fails, with its fault (R374). -/
def firstBadRecord (k : Core) (sl : Slot) (lanes : BitVec 32) (e : Nat) : Nat → List QEntry → Option (Nat × Trap)
  | _, [] => none
  | n, q :: r => match xfCheck k sl lanes e q with
    | some t => some (n, t)
    | none => firstBadRecord k sl lanes e (n + 1) r

/-! ## Programs (R371) -/

/-- The phase program of a member: the XF records up to and including the first XEND (R371). -/
def upToXend : List QEntry → Option (List QEntry)
  | [] => none
  | q :: r => if (recOpc q.record).toNat = 4 then some [q] else (upToXend r).map fun l => q :: l

def State.program (s : State) (i : CtxId) : Option (List QEntry) := upToXend ((s.engine ⟨i.core, .xf⟩).bankQueue i.slot)

/-- An owner record waits for the revocation its ENQ began: on its engine, or in the queue of any engine where a revocation was
deferred as it was queued (R253, R331). -/
def State.awaitsRevocation (s : State) (e : EngId) (q : QEntry) : Bool :=
  let k := s.core e.core
  decide (q.slot = .o) && k.revoke && k.ctxH.live && (q.afterRevoke || k.leased e.eng || s.harvestIn e.core e.eng)

/-- The validation of a member's program (R374). -/
def State.validate (s : State) (i : CtxId) : Option XFault :=
  let prog := (s.program i).getD []
  let lanes := (s.leafContract (s.ctxLeaf i)).lanes
  (firstBadRecord (s.core i.core) i.slot lanes (programEnd prog) 0 prog).map fun f => ⟨i, f.1, none, f.2⟩

/-! ## Tokens (R44, R371) -/

/-- A record of a program takes its tokens as the program is run: the one that resumes at the step of a poisoned source took them
before (R430). -/
def QEntry.takesTokens (q : QEntry) : Bool :=
  match q.resume with
  | some h => decide (h.st ≠ .faulted 0)
  | none => true

/-- The tokens of a record's WAIT field taken from the ports of XF, and remembered while they may return. -/
def Ctx.takePorts (c : Ctx) (r : EngRec) : Ctx :=
  { c.popPorts .xf r with xpops := Vector.ofFn fun p => c.xpops.get p + (if r.wait.getLsbD p.val then 1 else 0) }

/-- The tokens of a list of records are taken, record by record, or the first empty port where one is missing (R371). -/
def popAll (c : Ctx) : List QEntry → Except (Fin 4) Ctx
  | [] => .ok c
  | q :: r =>
    if !q.takesTokens then popAll c r
    else match c.emptyPorts .xf q.hdr with
      | [] => popAll (c.takePorts q.hdr) r
      | p :: _ => .error p

/-- The records of a member's program that take their tokens at its arrival: those before its first failure (R44, R374, log 76). -/
def State.popping (s : State) (i : CtxId) (prog : List QEntry) : List QEntry :=
  match s.validate i with
  | some f => prog.take f.record
  | none => prog

/-- The tokens that a list of records takes from a port of XF. -/
def takenAt (l : List QEntry) (p : Fin 4) : Nat := (l.filter fun q => q.takesTokens && q.hdr.wait.getLsbD p.val).length

/-- The records whose tokens return at the close where a TX before them finds a poisoned source (R449, log 76). -/
def mayReturn (kept : List QEntry) : List QEntry := (kept.dropWhile fun q => (recOpc q.record).toNat ≠ 1).drop 1

/-- As the phase starts the tokens of the records before the first failure are gone, and any others taken at the arrival return; those
that may return at the close still count toward the 15 of a port (R44, R53, R374, log 76). -/
def Ctx.keepPops (c : Ctx) (kept : List QEntry) : Ctx :=
  { c.putBack fun p => c.xpops.get p - takenAt kept p with xpops := Vector.ofFn fun p => takenAt (mayReturn kept) p }

end Sys2Proof.Machine
end

