-- ==== Sys2Proof/Machine/Waits.lean ====
section
/-! DEFINITION. Explicit waits, WFE and barriers (R351-R371), and the processing of the wait-for table (R354-R358). -/

namespace Sys2Proof.Machine

/-! ## Objects as operands (R352, R363) -/

/-- Bits a layout leaves zero are zero, and its fields are in range (R264, R352). -/
def objValid (o : BitVec 32) : Bool :=
  let f := fun hi lo => bits o.toNat hi lo
  match objKind o with
  | 0 => f 22 16 == 0
  | 1 => true
  | 2 => (objCore o).isSome && f 11 0 == 0 && decide (f 19 16 ≤ 5) &&
      (if f 19 16 = 5 then decide (f 15 12 ≤ 4) else decide (f 15 12 ≤ 3) || f 15 12 == 8 || (f 15 12 == 9 && decide (f 19 16 ≤ 3)))
  | 3 => (objCore o).isSome && f 20 20 == 0 && f 19 6 == 0
  | 4 => (objCore o).isSome && decide (f 19 16 ≤ 11) && f 15 8 == 0
  | 5 => (objCore o).isSome && f 19 0 == 0
  | 6 => (objCore o).isSome && f 19 0 == 0
  | 7 => true
  | _ => false

/-- The object belongs to another partition (R363). -/
def State.objForeign (s : State) (i : CtxId) (o : BitVec 32) : Bool :=
  match objKind o with
  | 0 => bits o.toNat 25 23 ≠ (s.ctxTop i).val
  | 2 | 4 | 5 | 6 => match objCore o with
    | some c => !(((s.window c).owner == some (s.ctxLeaf i) && !(s.core c).dark) || (s.window c).harvest == some (s.ctxLeaf i))
    | none => false
  | _ => false

/-- The status of an id as an operand: 0, 2 or 3 (R363, R364). -/
def State.objStatus (s : State) (i : CtxId) (w : Word) : Nat :=
  let o : BitVec 32 := w.setWidth 32
  if fld w 63 32 ≠ 0 || !objValid o then 3 else if s.objForeign i o then 2 else 0

/-- WOHOLD takes kinds 1, 3 and 7 alone (R363). -/
def State.holdStatus (s : State) (i : CtxId) (w : Word) : Nat :=
  let k := objKind (w.setWidth 32)
  if k ≠ 1 && k ≠ 3 && k ≠ 7 then 3 else s.objStatus i w

/-! ## Requests to the table (R363) -/

/-- The word has sent its request, which the table has taken with the operand it had (R363). -/
def Ctx.requested (c : Ctx) : Bool :=
  match c.stage with
  | .asked | .replied _ => true
  | _ => false

/-- A request that the word awaits: it is sent once, and the reply's status is told to what follows. -/
def State.request (s : State) (q : WftReq) (k : State → Word → Ans) : Ans :=
  match (s.ctx s.me).stage with
  | .replied st => k s st
  | .asked => .stall s
  | _ => .stall (({ s with wftQueue := s.wftQueue ++ [q] }).modCtx s.me fun c => { c with stage := .asked })

/-- WOREG (R363). -/
def execWoreg (p : Pred) (d a : Reg) (s : State) : Result :=
  ctl (.woreg p d a) p .none [gNum a] (fun s c =>
    let st := s.objStatus s.me (c.rd a)
    if !c.requested && st ≠ 0 then one s d (BitVec.ofNat 64 st) 0
    else s.request (.woreg s.me ((c.rd a).setWidth 32)) fun s v => one s d v 0) s

/-- WODEREG (R363). -/
def execWodereg (p : Pred) (a : Reg) (s : State) : Result :=
  ctl (.wodereg p a) p .none [gNum a] (fun s c =>
    if !c.requested && s.objStatus s.me (c.rd a) ≠ 0 then plain s
    else s.request (.wodereg s.me ((c.rd a).setWidth 32)) fun s _ => plain s) s

/-- WOHOLD (R363). -/
def execWohold (p : Pred) (d a : Reg) (s : State) : Result :=
  ctl (.wohold p d a) p .none [gNum a] (fun s c =>
    let st := s.holdStatus s.me (c.rd a)
    if !c.requested && st ≠ 0 then one s d (BitVec.ofNat 64 st) 0
    else s.request (.wohold s.me ((c.rd a).setWidth 32)) fun s v => one s d v 0) s

/-- WOREL: the removal goes to the table once the phase is complete (R227, R363). -/
def execWorel (p : Pred) (a : Reg) (s : State) : Result :=
  ctl (.worel p a) p .none [gNum a] (fun s c => s.closing fun s =>
    if s.holdStatus s.me (c.rd a) ≠ 0 then plain s
    else plain (State.releaseStamp { s with wftQueue := s.wftQueue ++ [.worel s.me (s.ctxLeaf s.me) ((c.rd a).setWidth 32)] })) s

/-- The contexts that hold an object as a top-level partition sees it (R353). -/
def State.ctxHolders (s : State) (t : TopId) (o : BitVec 32) : List Agent :=
  (s.holders t o).filter fun h => match h.src with
    | .ctx _ => true
    | _ => false

/-- A context's waiter registrations of an object go (R363). -/
def State.dropWaits (s : State) (i : CtxId) (o : BitVec 32) : State := s.wftDrop (.ctx i) (s.ctxLeaf i) fun e => e.obj = o && !e.holder

/-- WOWAIT: the table ends it at once where no context holds the object; otherwise the context is blocked until a release
is processed, and no later load of slot O meets a copy older than it (R222, R363, R365). -/
def execWowait (p : Pred) (a : Reg) (s : State) : Result :=
  ctl (.wowait p a) p .none [gNum a] (fun s c =>
    let o : BitVec 32 := (c.rd a).setWidth 32
    if c.blocked = some o && c.inWowait then
      if c.released then
        let s := s.dropWaits s.me o
        plain s.acquired
      else .stall s
    else if !c.requested && s.objStatus s.me (c.rd a) ≠ 0 then plain s
    else s.request (.wowait s.me o) fun s _ => plain s.acquired) s

/-- The members of the open instance of a barrier that no context runs yet: they are holders of it (R353, R368). -/
def State.barrierMissing (s : State) (o : BitVec 32) : Nat :=
  match s.barriers.find? fun b => objKind o = 0 && b.obj = o with
  | some b => b.missing
  | none => 0

/-- The word of WOPOLL as the table processes it: its status, and where that is 0 what it finds (R364). -/
def State.pollWord (s : State) (i : CtxId) (o : BitVec 32) : Word :=
  let st := s.objStatus i (o.setWidth 64)
  if st ≠ 0 then BitVec.ofNat 64 (st * 2 ^ 56) else
  let l := s.ctxLeaf i
  let t := topOf l
  let here := s.wft.filter fun e => e.obj = o && sameObj t e.leaf o
  let mine := here.filter fun e => e.agent = .ctx i && e.leaf = l
  let held := s.ctxHolders t o
  let waiters := (here.filter fun e => !e.holder).length
  BitVec.ofNat 64 ((if mine.any fun e => !e.holder then 1 else 0) + (if held.contains (ctxAgent i l) then 2 else 0)
    + (if held.isEmpty then 0 else 4) + min ((s.holders t o).length + s.barrierMissing o) 255 * 2 ^ 8 + min waiters 255 * 2 ^ 16)

/-- WOPOLL: an operand that is no id is refused at once; the rest is sampled while the table processes it (R363, R364). -/
def execWopoll (p : Pred) (d a : Reg) (s : State) : Result :=
  ctl (.wopoll p d a) p .none [gNum a] (fun s c =>
    if !c.requested && fld (c.rd a) 63 32 ≠ 0 then one s d (BitVec.ofNat 64 (3 * 2 ^ 56)) 0
    else s.request (.wopoll s.me ((c.rd a).setWidth 32)) fun s v => one s d v 0) s

/-- WFE (R366): its wait is registered on every object of which the context holds a WOREG registration, or on its event queue. -/
def execWfe (p : Pred) (s : State) : Result :=
  ctl (.wfe p) p .none [] (fun s c =>
    if c.wake then plain ((s.unblockCtx s.me).modCtx s.me fun c => { c with wake := false })
    else if c.inWfe then .stall s
    else
      let l := s.ctxLeaf s.me
      let sleep := fun (s : State) => s.modCtx s.me fun c => { c with inWfe := true }
      match (s.wft.filter fun e => e.agent = .ctx s.me && e.leaf = l && !e.holder && e.explicit).map (·.obj) with
      | o :: r =>
        let s := s.blockCtx s.me o
        .stall (sleep { s with wftQueue := s.wftQueue ++ r.map fun o => .block (.ctx s.me) o })
      | [] => .stall (sleep (s.blockCtx s.me (evObj s.cur.core s.cur.slot)))) s

/-! ## Barriers (R368-R371) -/

/-- A DOMAIN trap with its sub-cause (R370). -/
def domainTrap (n : Nat) : Trap := { cause := 0x1F, einfo := BitVec.ofNat 64 n }

/-- The open meeting of an object. -/
def State.openBarrier (s : State) (o : BitVec 32) : Option Barrier := s.barriers.find? fun b => b.obj = o

/-- Every member of the open meeting of an object has arrived, and it is yet to complete: a transfer phase does so at its start (R368,
R369, R371). -/
def State.completing (s : State) (o : BitVec 32) : Bool :=
  (s.barriers.any fun b => b.obj = o && b.full)
    || s.xphases.any fun x => x.obj = o && (match x.start with | some st => decide (s.cycle < st) | none => true)

/-- A context arrives at the open meeting of its domain, or opens one (R368-R370): the state with its arrival, a trap for
mixed kinds, or none while a meeting it is no member of is open, or every member of the open one has arrived. -/
def State.arrive (s : State) (i : CtxId) (level : Nat) (xf : Bool) : Option (Except Trap State) :=
  let o := s.barrierObj i level
  let u := s.unitOf i
  if s.completing o then none
  else match s.openBarrier o with
  | some b =>
    let member := b.members.contains u || level = 1
    if !member then none
    else if b.xf != xf then some (.error (domainTrap 4))
    else
      let join := fun (x : Barrier) => if x.id = b.id then { x with
        members := if x.members.contains u then x.members else x.members ++ [u]
        arrived := if x.arrived.contains u then x.arrived else x.arrived ++ [u], lastAt := s.cycle } else x
      some (.ok (({ s with barriers := s.barriers.map join }).modCtx i fun c => { c with stage := .arrived b.id }))
  | none =>
    let (ms, missing) := s.barrierMembers i level
    let b : Barrier := ⟨s.barrierIds, o, xf, ms, missing, [u] ++ (if level = 1 then s.domainRetired i else []), s.cycle⟩
    some (.ok (({ s with barriers := s.barriers ++ [b], barrierIds := s.barrierIds + 1 }).modCtx i fun c => { c with stage := .arrived b.id }))

/-- The wait of a member that has arrived, registered on the barrier (R369). -/
def State.awaitBarrier (s : State) (o : BitVec 32) : Ans := .stall (s.blockCtx s.me o)

/-- BAR (R369). -/
def execBar (p : Pred) (level : BitVec 2) (s : State) : Result :=
  ctl (.bar p level) p .none [] (fun s c =>
    let o := s.barrierObj s.me level.toNat
    if s.cur.slot = .h && level ≠ 0 then .trap s (domainTrap 1)
    else match c.stage with
      | .arrived b => if s.barriers.any fun x => x.id = b then s.awaitBarrier o else plain (s.l1Drop s.cur.core)
      | _ => s.closing fun s =>
        if level = 0 then s.drain plain
        else match s.arrive s.me level.toNat false with
          | none => .stall (s.blockCtx s.me o)
          | some (.error t) => .trap s t
          | some (.ok s) => .stall (s.blockCtx s.me o)) s

/-- BARXF (R371). -/
def execBarxf (p : Pred) (level : BitVec 2) (s : State) : Result :=
  ctl (.barxf p level) p .none [] (fun s c =>
    let o := s.barrierObj s.me level.toNat
    if level = 0 then .trap s (domainTrap 2)
    else if s.cur.slot = .h then .trap s (domainTrap 1)
    else match c.stage with
      | .arrived b =>
        (match (s.xphases.find? fun x => x.id = b).bind (·.start) with
        | some st => if st ≤ s.cycle then plain (s.l1Drop s.cur.core) else .stall s
        | none => if s.barriers.any fun x => x.id = b then s.awaitBarrier o else plain (s.l1Drop s.cur.core))
      | _ => match s.program s.me with
        | none => .trap s (domainTrap 3)
        | some prog => s.closing fun s =>
          if prog.any (s.awaitsRevocation ⟨s.cur.core, .xf⟩) || s.stepsHeld s.cur.core then .stall s
          else match popAll (s.ctx s.me) (s.popping s.me prog) with
          | .error q => .stall (s.blockCtx s.me (portObj s.cur.core s.cur.slot .xf q.val))
          | .ok x => match s.arrive s.me level.toNat true with
            | none => .stall (s.blockCtx s.me o)
            | some (.error t) => .trap s t
            | some (.ok s') =>
              let st := (s'.ctx s'.me).stage
              let s' := (s'.unblockCtx s'.me).setCtx s'.me { x with stage := st, blocked := none }
              .stall (s'.blockCtx s'.me o)) s

/-! ## Processing the table (R351, R354-R358, R363) -/

/-- A finding of a walk as a trap (R355, R357). -/
def walkTrap (start : BitVec 32 × Nat) : Walk → Option Trap
  | .cycle pairs =>
    let all := start :: pairs
    some { cause := 0x0D, eaddr := BitVec.ofNat 64 all.length, report := all.map pairWord }
  | .progress o sub holder => some { cause := 0x0E, eaddr := o.setWidth 64, einfo := BitVec.ofNat 64 (sub + holder * 2 ^ 16) }
  | _ => none

/-- The trap of a walk reaches the context concerned: at its blocking instruction, its registration removed and nothing executed, or,
for an engine's wait, before its next issue or at the instruction at which it is blocked (R355). -/
def State.deliverWalk (s : State) (a : Src) (i : CtxId) (t : Trap) : State :=
  match a with
  | .ctx _ => s.raise i t
  | _ => s.modCtx i fun c => c.cause { t with agent := Slot.num i.slot, stamp := s.gtc.toNat, src := ctxNum i }

/-- The context for whose bank an agent waits. -/
def State.waiterCtx (s : State) : Src → CtxId
  | .ctx i => i
  | .eng e => ⟨e.core, match (s.engine e).queue with | q :: _ => q.slot | [] => .o⟩
  | .root => ⟨0, .o⟩

/-- The walk from a blocked agent and what it finds (R354-R357). -/
def State.walkFrom (s : State) (a : Src) (o : BitVec 32) : State :=
  let i := s.waiterCtx a
  let l := s.ctxLeaf i
  match s.walk (topOf l) ⟨a, l, i.slot⟩ 32 [] o with
  | .clear => s
  | .long => ((s.wftUnchecked l).modCtx i fun c => c.pushEvent (notification o (srcNum a) s.gtc)).stamped (.ctx i)
  | w => match walkTrap (o, srcNum a) w with
    | some t => s.deliverWalk a i t
    | none => s

/-- A wait that finds no entry (R358). -/
def State.waitLost (s : State) (a : Src) (i : CtxId) (o : BitVec 32) : State :=
  let l := s.ctxLeaf i
  if tb (s.leaf l).wftstat 2 then s.deliverWalk a i { cause := 0x0C, eaddr := o.setWidth 64 } else s.wftLost l

/-- A registered wait begins: it takes an entry, and the table walks from it where it still waits; a wait in WFE serves inheritance
only (R354, R358). -/
def State.registerWait (s : State) (a : Src) (o : BitVec 32) : State :=
  let i := s.waiterCtx a
  let l := s.ctxLeaf i
  if !s.wftRoom l then s.waitLost a i o
  else
    let s := s.wftAdd ⟨o, a, false, false, l⟩
    if s.waitsOn ⟨a, l, i.slot⟩ = some o then s.walkFrom a o else s

/-- The reply of the table to a context (R363). -/
def State.reply (s : State) (i : CtxId) (v : Word) : State :=
  s.modCtx i fun c => match c.stage with
    | .asked => { c with stage := .replied v }
    | _ => c

/-- The agents that wait on an object of a bank of a core: contexts, those of other cores by WOWAIT, and the engines of the core
(R354, R363). -/
def State.affected (s : State) (e : EngId) (sl : Slot) : List Agent :=
  let mine := fun (o : BitVec 32) => decide (objCore o = some e.core) && decide (objSlot o = sl)
  let as := (allCtx.filter fun i => (s.ctx i).live && ((s.ctx i).blocked.any mine)).map (fun i => ctxAgent i (s.ctxLeaf i))
    ++ ((engs.filter fun f => ((s.engine ⟨e.core, f⟩).blocked.any mine)).map fun f =>
      ⟨.eng ⟨e.core, f⟩, s.ctxLeaf (s.waiterCtx (.eng ⟨e.core, f⟩)), (s.waiterCtx (.eng ⟨e.core, f⟩)).slot⟩)
  as.filter fun a => (s.waitsOn a).isSome

/-- A context waits on an object: it is blocked on it, or is in WFE and holds a WOREG registration of it (R366). -/
def State.waitsFor (s : State) (i : CtxId) (o : BitVec 32) : Bool :=
  let c := s.ctx i
  c.live && (c.blocked == some o || (c.inWfe && s.wft.any fun e =>
    e.agent == .ctx i && e.leaf == s.ctxLeaf i && e.obj == o && !e.holder && e.explicit))

/-- The contexts that a request may have notified by its walk (R354, R356). -/
def State.walkers (s : State) : WftReq → List CtxId
  | .block a _ => [s.waiterCtx a]
  | .wowait i _ => [i]
  | .idle e sl => (s.affected e sl).map fun a => s.waiterCtx a.src
  | .woreg _ _ => []
  | .wodereg _ _ => []
  | .wohold _ _ => []
  | .worel _ _ _ => []
  | .wopoll _ _ => []

/-- One request processed (R351). -/
def State.processReq (s : State) : WftReq → State
  | .block a o =>
    (match a with
    | .ctx i => if s.waitsFor i o then s.registerWait a o else s
    | .eng e => if (s.engine e).blocked = some o then s.registerWait a o else s
    | .root => s)
  | .woreg i o =>
    let l := s.ctxLeaf i
    if s.wft.any fun e => e.agent = .ctx i && e.leaf = l && e.obj = o && !e.holder && e.explicit then s.reply i 0
    else if !s.wftRoom l then s.reply i 1
    else (s.wftAdd ⟨o, .ctx i, false, true, l⟩).reply i 0
  | .wodereg i o =>
    let l := s.ctxLeaf i
    let had := s.wft.any fun e => e.agent = .ctx i && e.leaf = l && e.obj = o && !e.holder && e.explicit
    let s := s.wftDrop (.ctx i) l fun e => e.obj = o && !e.holder && e.explicit
    (if had then s.modCtx i fun c => { c with wake := true } else s).reply i 0
  | .wohold i o =>
    let l := s.ctxLeaf i
    if s.wft.any fun e => e.agent = .ctx i && e.leaf = l && e.obj = o && e.holder then s.reply i 0
    else if !s.wftRoom l then s.reply i 1
    else (s.wftAdd ⟨o, .ctx i, true, true, l⟩).reply i 0
  | .worel i l o =>
    if s.wft.any fun e => e.agent = .ctx i && e.leaf = l && e.obj = o && e.holder then
      (s.wftDrop (.ctx i) l fun e => e.obj = o && e.holder).releaseObj (topOf l) o
    else s
  | .wowait i o =>
    let l := s.ctxLeaf i
    if (s.ctx i).stage ≠ .asked then s
    else if (s.ctxHolders (topOf l) o).isEmpty then (s.dropWaits i o).reply i 0
    else
      let s := s.modCtx i fun c => { c with blocked := some o, stage := .fresh, released := false, inWowait := true }
      s.registerWait (.ctx i) o
  | .wopoll i o => s.reply i (s.pollWord i o)
  | .idle e sl => (s.affected e sl).foldl (fun s a => match s.waitsOn a with | some o => s.walkFrom a.src o | none => s) s

end Sys2Proof.Machine
end

