-- ==== Sys2Proof/Machine/Harvest.lean ====
section
/-! DEFINITION. Leases, lending, recall, checkpoints and YIELD (R324-R333, R367). -/

namespace Sys2Proof.Machine

/-- The lease of engine e, changed. -/
def Core.setLease (k : Core) (e : Eng) (l : Lease) : Core :=
  if h : (Eng.fin e).val < 4 then { k with leases := k.leases.set (Eng.fin e).val l h } else k

/-- LEASE (R328): status 1 where an owner record of the engine is queued or executing, or harvest is recalled. -/
def execLease (p : Pred) (d : Reg) (e : Eng) (s : State) : Result :=
  ctl (.lease p d e) p .slotH [] (fun s _ =>
    let k := s.core s.cur.core
    if k.leased e then one s d 0 0
    else if s.engHolds s.cur.core e .o || k.recalled then one s d 1 0
    else one (s.modCore s.cur.core fun k => k.setLease e ⟨true, 0, 0, s.coreCycle s.cur.core⟩) d 0 0) s

/-- LEASEREL: its wait for the records of the context itself is bounded, not registered (R301, R328). -/
def execLeaserel (p : Pred) (e : Eng) (s : State) : Result :=
  ctl (.leaserel p e) p .slotH [] (fun s _ =>
    if s.engHolds s.cur.core e .h then .stall s else plain (s.modCore s.cur.core fun k => k.setLease e {})) s

/-- The regions that change holder are zero-filled, and the lent set is the operand (R326). -/
def Core.lend (k : Core) (m : BitVec 60) : Core :=
  { (k.zeroFillMask (k.lent ^^^ m)) with lent := m, recalled := false, lender := some k.ctxO.vnpu }

/-- LEND (R326): its wait for the records of the context itself is bounded, not registered (R301); where a region is returned and slot H
is occupied, a revocation comes first, which R362 may defer. -/
def execLend (p : Pred) (a : Reg) (s : State) : Result :=
  ctl (.lend p a) p .slotO [gNum a] (fun s c =>
    let m := c.rd a
    if fld m 63 60 ≠ 0 then .trap s { cause := 0x02, einfo := m }
    else if !s.drained s.me then .stall s
    else
      let k := s.core s.cur.core
      let mask : BitVec 60 := m.setWidth 60
      if k.lent &&& ~~~mask ≠ 0 && k.ctxH.live then
        let s := (s.askRevoke s.cur.core false).revokeNow s.cur.core
        if (s.core s.cur.core).ctxH.live then .stall s else plain (s.modCore s.cur.core fun k => k.lend mask)
      else plain (s.modCore s.cur.core fun k => k.lend mask)) s

/-- RECALL (R332): nothing defers its revocation (R362), which waits for a service alone (R435). -/
def execRecall (p : Pred) (s : State) : Result :=
  ctl (.recall p) p .slotO [] (fun s _ =>
    let s := ((s.askRevoke s.cur.core true).revokeNow s.cur.core).modCore s.cur.core fun k => { k with recalled := true }
    if (s.core s.cur.core).ctxH.live then .stall s else plain s) s

/-! ## Checkpoints (R324, R325) -/

/-- The values of the physical counters 48-63 that a context's map names (R258, R324). -/
def Core.mappedSems (k : Core) (c : Ctx) : List (Nat × BitVec 32) :=
  ((List.finRange 16).filter fun i => c.semMap.toList.any fun b => !b.getLsbD 7 && b.toNat % 64 == 48 + i.val).map fun i =>
    (48 + i.val, k.sems[48 + i.val]'(by have := i.isLt; omega))

/-- The checkpoint of the context in slot H written into its bank (R324, R446). -/
def Core.checkpoint (k : Core) : Core :=
  let c := k.ctxH
  k.setBank c.bank { (k.bank c.bank) with
    used := true, ctx := { c with stage := .fresh, blocked := none, inWfe := false, stps := [], trap := none }
    sems := k.mappedSems c, revs := 0, marked := false }

/-- The stalls of an RSMARK in slot H, and what follows them; a hold by WOHOLD traps PROGRESS (R325, R367). -/
def State.rsmark (s : State) (k : State → Ans) : Ans :=
  let i := s.me
  let l := s.ctxLeaf i
  match s.wft.find? fun e => e.holder && e.agent = .ctx i && e.leaf = l with
  | some e => .trap s { cause := 0x0E, eaddr := e.obj.setWidth 64, einfo := BitVec.ofNat 64 (2 + ctxNum i * 2 ^ 16) }
  | none => if !s.drained i || s.slxnOpen i then .stall s else k s

/-- RSMARK: in slot O it has no other effect (R325). -/
def execRsmark (p : Pred) (s : State) : Result :=
  ctl (.rsmark p) p .none [] (fun s _ =>
    if s.cur.slot = .o then plain s else s.rsmark fun s => plain (s.modCore s.cur.core Core.checkpoint)) s

/-- YIELD (R333): a hold of 256 core cycles in slot O; in slot H a checkpoint at the next word, and the context is
parked. -/
def execYield (p : Pred) (s : State) : Result :=
  ctl (.yield p) p .none [] (fun s _ =>
    let core := s.cur.core
    if s.cur.slot = .o then
      .gone ((s.finish [] none 1).modCtx s.me fun c => { c with holdEnd := some (s.coreCycle core + 256) })
    else s.rsmark fun s =>
      let next := (s.ctx s.me).pc + 8
      let b := (s.core core).ctxH.bank
      let s := ((s.finish [] (some next) 1).modCore core Core.checkpoint).park core false
      .gone (s.modCore core fun k => k.setBank b { (k.bank b) with yielded := true })) s

end Sys2Proof.Machine
end

