-- ==== Sys2Proof/Machine/Reset.lean ====
section
/-! DEFINITION. The measured clear routine and its signature (R411, R412), and the guest reset of a virtual NPU (R300, R416,
R417). -/

namespace Sys2Proof.Machine

/-! ## The clear routine (R411) -/

/-- Slot O after the routine: every register zero; the semaphore map, which only software changes (R259), stays (log 9). -/
def Ctx.cleared (c : Ctx) : Ctx := { semMap := c.semMap }

/-- Counters 0-47 of a core. -/
def Core.lowSems (k : Core) : List (BitVec 32) := k.sems.toList.take 48

/-- Counters 0-47 written. -/
def Core.setLowSems (k : Core) (l : List (BitVec 32)) : Core :=
  { k with sems := (List.finRange 48).foldl (fun v i => v.set i.val ((l[i.val]?).getD 0)
      (by have := i.isLt; omega)) k.sems }

/-- Counters 0-47 are saved for the owner of the window, unless its values are saved already, and read zero; they are loaded again at
its next dispatch or resumption (R259, R320, R411). -/
def Core.switchSems (k : Core) : Core :=
  match k.window.owner with
  | none => k.setLowSems []
  | some l => { (k.setLowSems []) with semsOf := if (getKey l k.semsOf).isSome then k.semsOf else (l, k.lowSems) :: k.semsOf }

/-- Every tag reads F32 and every version 0 (R151, R190). -/
def Core.clearTiles (k : Core) : Core := { k with tags := Vector.replicate 12 0, vers := Vector.replicate 12 0 }

/-- The measured clear routine: everything of slot O, every tag and version, and the regions it holds; lent regions and slot H are not
touched (R151, R190, R411, log 9). -/
def Core.clear (k : Core) : Core :=
  let k := (k.zeroFillMask (~~~k.lent)).clearTiles
  { k.switchSems with ctxO := k.ctxO.cleared, l1 := [], icache := [], tlb := [], clearDue := none, served := [] }

/-- Region r holds a non-zero byte. -/
def Core.regionDirty (k : Core) (r : Nat) : Bool :=
  let b := regionBase r
  k.store.any fun e => decide (b ≤ e.1) && decide (e.1 < b + 2 ^ 16)

/-- A loop level holds something. -/
def Loop.dirty (l : Loop) : Bool := l.active || l.start != 0 || l.stop != 0 || l.count != 0

/-- A register of slot O is not zero (R112, R412). -/
def Ctx.dirty (c : Ctx) : Bool :=
  c.pc != 0 || c.tick != 0 || c.loop0.dirty || c.loop1.dirty || c.seqs.toList.any (· != 0) || c.slxn != 0 || !c.landings.isEmpty
    || c.wake || (c.g.toList.drop 1).any (· != 0) || c.k.toNat / 2 != 0 || c.rb.toList.any (· != 0)
    || c.fcr != 0 || c.fsr != 0 || c.debug != 0 || c.liveset != 0 || c.boost != 0 || c.prioBase != 0 || c.pace.toList.any (· != 0)
    || c.tentab != 0 || c.tenlim != 0 || c.sscratch != 0 || c.epc != 0 || c.efrom != 0 || c.ecause != 0 || c.eaddr != 0
    || c.einfo != 0 || c.estat != 0

/-- CLRSIG's word for the slot-O state of a core (R412); the regions are those slot O holds (log 9). Bit 63 is the parity of its own
logic. -/
def Core.signature (k : Core) : Word :=
  let regions := ((List.range 60).filter fun r => !k.lent.getLsbD r &&
    (k.regionDirty r || (decide (16 ≤ r) && decide (r < 28) && (k.tag (r - 16) != 0 || k.ver (r - 16) != 0)))).foldl
      (fun a r => a + 2 ^ r) 0
  let c := k.ctxO
  let counts := k.lowSems.any (· != 0) || c.ports.toList.any (· != 0) || c.fifos.toList.any (· != 0) || !c.cq.isEmpty
    || !c.events.isEmpty || engs.any fun e => !((k.engine e).bankQueue .o).isEmpty
  let copies := !k.l1.isEmpty || !k.icache.isEmpty || !k.tlb.isEmpty
  BitVec.ofNat 64 (regions + (if c.dirty then 2 ^ 60 else 0) + (if counts then 2 ^ 61 else 0) + (if copies then 2 ^ 62 else 0)
    + (if k.sigBad then 2 ^ 63 else 0))

/-- The routine runs on a core for a world: a signature that is not zero quarantines the core and is logged (R412, R455). -/
def State.clearCore (s : State) (c : CoreId) (world : BitVec 8) : State :=
  let k := (s.core c).clear
  let s := s.setCore c { k with world := world }
  if k.signature = 0 then s
  else (s.modCore c fun k => { k with quarantined := true }).errAt (ctxNum ⟨c, .o⟩) 5 true 0xFF 0xFF 0xFF 0 0 k.signature.toNat

/-! ## Guest reset (R416, R417) -/

/-- A context of a virtual NPU in guest reset stops: its records are aborted, its registrations go, barriers count it as
arrived; slot O waits for the clear routine. -/
def State.stopForReset (s : State) (v : VnpuId) (i : CtxId) : State :=
  if !(s.ctx i).live || (s.ctx i).vnpu ≠ v || s.inPhase i then s
  else
    let u := s.unitOf i
    let c := s.ctx i
    let s := s.discardBank i.core i.slot false
    let s := s.dropAll i u.leaf
    let s := s.closeWriters u
    let s := s.arriveAll u
    let s := (s.dropUnsent i).giveUp (Asker.ofCtx i)
    let off := fun (c : Ctx) => { c with live := false, blocked := none, inWfe := false, stage := .fresh, trap := none, failing := none, preq := false,
                                         graceEnd := none, cutGate := none, holdEnd := none, defer := false, landings := [], stps := [], xpops := Vector.replicate 4 0 }
    match i.slot with
    | .o => s.modCore i.core fun k => { k with ctxO := off k.ctxO, clearDue := some v }
    | .h => s.modCore i.core fun k =>
      { (k.endLeases.setBank c.bank {}) with ctxH := off k.ctxH, revoke := false, revokeHard := false }

/-- A harvest CO record that runs on is aborted with the virtual NPU's other records. -/
def State.dropOrphan (s : State) (v : VnpuId) (c : CoreId) : State :=
  let e : EngId := ⟨c, .co⟩
  match (s.engine e).queue with
  | q :: _ => if (s.engine e).head.orphan && q.vnpu = v then (s.endWriter e q false).dropHead e else s
  | [] => s

/-- Saved units of the virtual NPU lose their registrations and count as arrived; their writers are sealed where a line was
sent. -/
def State.stopSaved (s : State) (v : VnpuId) (c : CoreId) : State :=
  ((s.core c).saved.filter fun x => x.ctx.vnpu = v).foldl (fun s x =>
    let u := x.ctx.unit ⟨c, .o⟩
    ((s.closeWriters u).dropAll u.ctx u.leaf).arriveAll u) s

/-- Contexts of the virtual NPU that may stop now do so; a member of a transfer phase stops when it closes. -/
def State.resetStops (s : State) (v : VnpuId) : State :=
  let s := allCtx.foldl (fun s i => s.stopForReset v i) s
  allCores.foldl (fun s c => s.dropOrphan v c) s

/-- A guest reset starts (R417): a virtual NPU already in reset advances its generation once more. Outstanding sweeps are
cancelled (R452). -/
def State.startReset (s : State) (v : VnpuId) : State :=
  let s := s.modVnpu v fun x => { x with rgen := x.rgen + 1, busy := true, sweeps := [] }
  let s := s.resetStops v
  allCores.foldl (fun s c => s.stopSaved v c) s

/-- Requests of a virtual NPU on the chip that have not reached their targets (R417). -/
def State.drainCount (s : State) (v : VnpuId) : Nat :=
  (s.net.filter fun m => m.vnpu = v && (match m.body with
    | .write .. => true
    | .invoke _ => true
    | _ => false)).length

/-- Some context of a virtual NPU still runs: a member of a transfer phase. -/
def State.anyLive (s : State) (v : VnpuId) : Bool := allCtx.any fun i => (s.ctx i).live && (s.ctx i).vnpu = v

/-- The PROD line of a module queue is registered with its home slice; where that fails the queue stops (R305, R308). -/
def State.registerProd (s : State) (v : VnpuId) (q : Fin 8) : State :=
  let r := (s.contract v).queues.get q
  let s := { s with prodAt := s.prodAt.filter fun x => !(x.1 = v && x.2.1 = q) }
  if !(s.contract v).enable || !r.inModule then s
  else match s.qPlace v r.qcb with
    | some pa => { s with prodAt := s.prodAt ++ [(v, q, pa)], prodDue := s.prodDue ++ [(v, q)] }
    | none => s.stopQueue v q

/-- The launch queues of a virtual NPU at the end of its reset: every nest dropped counts in REJ, the block is written, and
the MSI-X is sent (R417); a module queue's PROD line is registered again (R305). A contract that is not enabled has no blocks. -/
def State.endQueue (s : State) (v : VnpuId) (q : Fin 8) : State :=
  let x := (s.vnpu v).queue q
  let open_ := (x.nests.filter fun n => !n.complete).length
  let dropped := (x.prod - x.cons).toNat + open_
  let s := s.modQueue v q fun x =>
    { x with cons := x.prod, done := x.prod, rej := x.rej + BitVec.ofNat 32 dropped, nests := [], unpublished := none, qstop := false, dfail := false }
  if !(s.contract v).enable then s else (s.publish v q true).registerProd v q

/-- What a core still holds of a virtual NPU goes: saved units, parked harvest contexts, and slot O, which has served it, is cleared
unless another unit holds it (R411, R417, log 77). -/
def State.endCore (s : State) (v : VnpuId) (c : CoreId) : State :=
  let s := s.modCore c fun k =>
    { k with
      saved := k.saved.filter fun x => x.ctx.vnpu ≠ v
      cupboard := k.cupboard.map fun b => if b.used && b.parked && b.ctx.vnpu = v then {} else b }
  let k := s.core c
  if k.clearDue = some v || (k.served.contains v && !k.ctxO.live && k.clearDue.isNone) then s.clearCore c k.world else s

/-- The domains of some nests go, and with them the barriers of their level-1 domains, which no other unit is to meet (R317, R368,
R418). -/
def State.dropDomains (s : State) (uids : List Nat) : State :=
  let gone := s.domains.filter fun d => uids.contains d.nest
  { s with
    domains := s.domains.filter fun d => !uids.contains d.nest
    barriers := s.barriers.filter fun b => !(gone.any fun d => b.obj = barObj 1 d.top d.id.toNat) }

/-- GUEST_RESET_DRAIN at drain count 0 (R417). -/
def State.finishReset (s : State) (v : VnpuId) : State :=
  let s := s.resetStops v
  if !(s.vnpu v).busy || s.drainCount v ≠ 0 || s.anyLive v then s
  else
    let s := allCores.foldl (fun s c => s.endCore v c) s
    let uids := (s.vnpu v).queues.toList.flatMap fun x => x.nests.map (·.uid)
    let s := s.dropDomains uids
    let s := (List.finRange 8).foldl (fun s q => s.endQueue v q) s
    let s := s.modVnpu v fun x => { x with busy := false, badDb := false, leftRun := false }
    s.msixStatus v

end Sys2Proof.Machine
end

