-- ==== Sys2Proof/Machine/Preempt.lean ====
section
/-! DEFINITION. Pre-emption of owner units: requests (R437), saving a unit (R440, R442), resuming it (R443), and a change of
the world slot O serves (R401, R411). -/

namespace Sys2Proof.Machine

/-- The GTC at which grace that begins now ends (R437). -/
def State.graceFrom (s : State) : Nat := s.gtc.toNat + 1000 * s.contracts.grace

/-- A pre-emption request on the owner context of a core, if it holds a unit (R437): PREQ, the PREEMPT trap where PIE asks for
it, and grace, which DEF holds (R439). -/
def State.askPreempt (s : State) (c : CoreId) : State :=
  let i : CtxId := ⟨c, .o⟩
  let x := s.ctx i
  if !x.live || x.preq then s
  else
    let x := { x with preq := true, graceEnd := if x.defer then none else some s.graceFrom }
    let t : Trap := { cause := 0x19, agent := 0, stamp := s.gtc.toNat, src := ctxNum i }
    s.setCtx i (if tb x.estat 2 && !tb x.estat 0 then x.cause t else x)

/-- DEF ends: a request held by it starts its grace (R439). -/
def State.endDefer (s : State) (i : CtxId) : State :=
  s.modCtx i fun c =>
    { c with defer := false, graceEnd := if c.defer && c.preq && c.graceEnd.isNone then some s.graceFrom else c.graceEnd }

/-- Bytes the save pool holds: 8 KiB and the live regions of each saved unit (R442). -/
def State.poolUsed (s : State) : Nat :=
  allCores.foldl (fun n c => n + (s.core c).saved.foldl (fun n x => n + 8192 + 65536 * maskSize x.live) 0) 0

/-- The cells of the regions of a mask, by address. -/
def Core.regionCells (k : Core) (m : BitVec 60) : Mem :=
  k.store.filter fun e => m.getLsbD (regionOf e.1)

/-- The tags and versions of the tiles of a mask. -/
def Core.tileTags (k : Core) (m : BitVec 60) : List (Nat × BitVec 4) :=
  ((List.range 12).filter fun t => m.getLsbD (16 + t)).map fun t => (t, k.tag t)
def Core.tileVers (k : Core) (m : BitVec 60) : List (Nat × BitVec 8) :=
  ((List.range 12).filter fun t => m.getLsbD (16 + t)).map fun t => (t, k.ver t)

/-- The unit in slot O is saved: its context, its records and the live regions go to the save pool, and the regions of slot O
that are not live are zero-filled (R440, R442). Where the pool cannot hold the regions they are lost. -/
def State.saveUnit (s : State) (c : CoreId) (live : BitVec 60) : State :=
  let i : CtxId := ⟨c, .o⟩
  let k := s.core c
  let keep := live &&& ~~~k.lent
  let n := maskSize keep
  let lost := decide (0 < n) && decide (s.contracts.pool * 2 ^ 20 < s.poolUsed + 8192 + 65536 * n)
  let kept : BitVec 60 := if lost then 0 else keep
  let x := k.ctxO
  let saved : Saved := {
    ctx := { x with pause := 0, preq := false, graceEnd := none, holdEnd := none, blocked := none, inWfe := false
                    stps := x.stps.filter fun p => kept.getLsbD (regionOf p.addr)
                    issued := none, cutGate := none
                    kept := x.kept.map fun q => { q with stps := q.stps.filter fun p => kept.getLsbD (regionOf p.addr) } }
    engines := engs.map fun e => ((k.engine e).bankQueue .o, (k.engine e).bankHead .o)
    cells := k.regionCells kept
    poison := k.poison.filter fun u => kept.getLsbD (regionOf (u * 64))
    tags := k.tileTags kept
    vers := k.tileVers kept
    live := kept
    lost := lost }
  let s := s.chargePass x.vnpu x.since
  let s := (s.clearQueues i).giveUp (Asker.ofCtx i)
  s.modCore c (fun k =>
    let k := k.zeroFillMask (~~~(k.lent ||| live))
    { k with saved := k.saved ++ [saved], ctxO := { x with live := false, preq := false, graceEnd := none, holdEnd := none, cutGate := none
                                                           blocked := none, inWfe := false, stage := .fresh, trap := none
                                                           landings := [], stps := [] } })

/-- The world served by slot O of a core becomes that of a virtual NPU: on a change the clear routine runs (R411). -/
def State.serveWorld (s : State) (c : CoreId) (v : VnpuId) : State :=
  let w := (s.contract v).world
  if (s.core c).world = w then s else s.clearCore c w

/-- Slot O serves a virtual NPU (R417). -/
def Core.serves (k : Core) (v : VnpuId) : Core := { k with served := if k.served.contains v then k.served else v :: k.served }

/-- The saved regions put back (R443). -/
def Core.putCells (k : Core) (x : Saved) : Core :=
  let k := k.zeroFillMask x.live
  let k := { k with
    store := x.cells.foldl (fun m e => m.set e.1 e.2) k.store
    poison := x.poison ++ k.poison }
  let k := x.tags.foldl (fun k e => k.setTag e.1 e.2) k
  x.vers.foldl (fun k e => k.setVer e.1 e.2) k

/-- The exception registers of a saved image pass the checks of R429. -/
def Ctx.excOk (c : Ctx) : Bool := c.epc.toNat % 8 == 0 && decide (c.ecause.toNat < 256) && decide (c.estatVal.toNat < 128)

/-- An engine fault in the cut of a resumed unit is delivered before its first issue (R421, R443). -/
def State.deliverCut (s : State) (c : CoreId) : State :=
  engs.foldl (fun s e =>
    let x := s.engine ⟨c, e⟩
    match (x.bankHead .o).st, (x.bankHead .o).fault with
    | .faulted _, some t =>
      if (x.bankQueue .o).isEmpty then s
      else s.modCtx ⟨c, .o⟩ fun k => k.cause { t with agent := 2 + (Eng.fin e).val, src := engNum ⟨c, e⟩ }
    | _, _ => s) s

/-- A saved unit of a leaf resumes in slot O of its core (R443): the clear routine for its world, its regions, its context and
its records; lost regions, a bad image or a failed MAC fail it with STATE_LOST. -/
def State.resumeUnit (s : State) (c : CoreId) (l : LeafId) (macOk : Bool) : State :=
  match (s.core c).saved.find? fun x => x.ctx.leaf = l && x.ctx.failing.isNone with
  | none => s
  | some x =>
    let s := s.serveWorld c x.ctx.vnpu
    if (s.core c).quarantined || x.lost || !macOk || !x.ctx.excOk then
      s.failSaved c (if macOk then x else { x with ctx := x.ctx.blank }) 0x1E
    else
      let s := s.modCore c fun k => { k.putCells x with saved := k.saved.filter fun y => y.ctx.leaf ≠ l }
      let s := s.modCore c fun k => k.serves x.ctx.vnpu
      let s := s.setCtx ⟨c, .o⟩ { x.ctx with live := true, since := s.gtc.toNat }
      let s := (engs.zip x.engines).foldl (fun s e => s.loadEngine ⟨c, e.1⟩ e.2.1 e.2.2) s
      s.deliverCut c

end Sys2Proof.Machine
end

