-- ==== Sys2Proof/Machine/System.lean ====
section
/-! DEFINITION. System registers (R76, R100, R101, R125, R257, R269, R316-R318, R329, R334, R338, R340, R359, R360, R424, R431-R433),
ERET, pre-emption points, image moves, PARKST, PEND, CLRSIG and HVC (R428, R434-R441, R445, R457). -/

namespace Sys2Proof.Machine

/-! ## Reading system registers -/

/-- CTXID (R316). -/
def State.ctxidVal (s : State) (i : CtxId) : Word :=
  let c := s.ctx i
  BitVec.ofNat 64 (i.core.val + Slot.num i.slot * 2 ^ 7 + c.vnpu.val * 2 ^ 8 + (s.ctxWorld i).toNat * 2 ^ 16
    + (match i.slot with | .o => 0 | .h => c.bank.val) * 2 ^ 24 + c.serial.toNat * 2 ^ 32)

/-- DMR (R317). -/
def State.dmrVal (s : State) (i : CtxId) : Word :=
  let c := s.ctx i
  BitVec.ofNat 64 (i.core.val + c.l1id.toNat * 2 ^ 8 + c.l1rank.toNat * 2 ^ 24 + c.l1size.toNat * 2 ^ 28
    + (s.ctxLeaf i).val * 2 ^ 32 + (s.ctxTop i).val * 2 ^ 38)

/-- A lease as its byte of LEASEST (R329). -/
def Lease.byte (l : Lease) : Nat := if l.held then 1 + l.ret % 8 * 2 + l.renew % 16 * 16 else 0

/-- LEASEST (R329). -/
def Core.leasestVal (k : Core) : Word :=
  BitVec.ofNat 64 (k.leases.toList.mapIdx fun e l => l.byte * 2 ^ (8 * e)).sum

/-- TKCOUNT (R257). -/
def State.tkcountVal (s : State) (i : CtxId) : Word :=
  let c := s.ctx i
  BitVec.ofNat 64 ((engs.mapIdx fun n e => c.fifo e % 16 * 2 ^ (4 * n)).sum
    + (engs.mapIdx fun n e => min 15 ((s.engine ⟨i.core, e⟩).bankQueue i.slot).length * 2 ^ (20 + 4 * n)).sum)

/-- BOOSTST (R340). OWN names the owner of the contract's byte, on a cluster of the high base rail as well (DESIGN CHOICE, log 99). -/
def State.booststVal (s : State) (i : CtxId) : Word :=
  let k := s.cluster (clusterOf i.core)
  let own := s.contracts.boostOwn.get (clusterOf i.core) = some (s.ctxLeaf i)
  BitVec.ofNat 64 ((if k.clockHigh then 1 else 0) + (if s.contracts.baseHigh.getLsbD (clusterOf i.core) then 2 else 0)
    + (if own then 4 else 0) + (if k.granted then 8 else 0) + k.fall.toNat * 16
    + (if own then (s.leaf (s.ctxLeaf i)).account % 2 ^ 13 * 2 ^ 16 else 0))

/-- A system register as MFS reads it at issue (R433). -/
def State.sysRead (s : State) (i : CtxId) (n : SReg) : Word :=
  let c := s.ctx i
  match n with
  | .ctxid => s.ctxidVal i
  | .prio => BitVec.ofNat 64 (c.prioBase.toNat + s.eff i * 16)
  | .dmr => s.dmrVal i
  | .liveset => c.liveset
  | .fcr => c.fcr
  | .fsr => c.fsr
  | .debug => c.debug
  | .pace e => c.pace.get (Eng.fin e)
  | .boost => c.boost
  | .boostst => s.booststVal i
  | .evec => (s.vnpu c.vnpu).evec
  | .epc => c.epc
  | .efrom => c.efrom
  | .ecause => c.ecause
  | .eaddr => c.eaddr
  | .einfo => c.einfo
  | .estat => c.estatVal
  | .sscratch => c.sscratch
  | .wftstat => (s.leaf (s.ctxLeaf i)).wftstat
  | .wftquota => BitVec.ofNat 64 ((s.leafContract (s.ctxLeaf i)).wftq % 2 ^ 14 + s.wftUsed (s.ctxLeaf i) % 2 ^ 14 * 2 ^ 16)
  | .leasest => (s.core i.core).leasestVal
  | .tkcount => s.tkcountVal i
  | .ctxsave => (s.vnpu c.vnpu).ctxsave
  | .tentab => c.tentab
  | .tenlim => c.tenlim

/-- The level MFS needs (R76). -/
def SRegRead (n : SReg) : Limit :=
  match n with
  | .pace _ | .evec | .epc | .efrom | .ecause | .eaddr | .einfo | .estat | .sscratch | .wftstat | .wftquota | .ctxsave
  | .tentab | .tenlim => .supervisor
  | .ctxid | .prio | .dmr | .liveset | .fcr | .fsr | .debug | .boost | .boostst | .leasest | .tkcount => .none

/-- The level MTS needs; a read-only register is never written (R76). -/
def SRegWrite (n : SReg) : Limit :=
  match n with
  | .ctxid | .dmr | .boostst | .wftquota | .leasest | .tkcount => .never
  | .liveset | .fcr | .fsr | .debug | .boost => .none
  | .prio | .pace _ | .evec | .epc | .efrom | .ecause | .eaddr | .einfo | .estat | .sscratch | .wftstat | .ctxsave
  | .tentab | .tenlim => .supervisor

/-! ## Writing system registers -/

/-- The values an MTS accepts. -/
def sysOk (n : SReg) (w : Word) : Bool :=
  match n with
  | .prio => prioOk w
  | .liveset => livesetOk w
  | .fcr => fcrOk w
  | .fsr => fsrOk w
  | .debug | .boost => bit0Ok w
  | .pace _ => paceOk w
  | .evec => fld w 2 1 == 0
  | .ctxsave => fld w 20 1 == 0
  | .epc => fld w 2 0 == 0
  | .ecause => fld w 63 8 == 0
  | .estat => fld w 63 7 == 0
  | .wftstat => fld w 15 3 == 0 && fld w 63 32 == 0
  | .tentab => tentabOk w
  | .tenlim => tenlimOk w
  | .efrom | .eaddr | .einfo | .sscratch | .ctxid | .dmr | .boostst | .wftquota | .leasest | .tkcount => true

/-- The writable fields of a system register written (R433). FSR keeps the flags that landed in the same tick (R121). -/
def State.sysWrite (s : State) (i : CtxId) (n : SReg) (w : Word) : State :=
  let c := s.ctx i
  match n with
  | .prio => s.setCtx i { c with prioBase := w.setWidth 3 }
  | .liveset => s.setCtx i { c with liveset := w }
  | .fcr => s.setCtx i { c with fcr := w }
  | .fsr => s.setCtx i { c with fsr := w ||| c.tickFlags.setWidth 64 }
  | .debug => s.setCtx i { c with debug := w }
  | .pace e => s.setCtx i { c with pace := c.pace.set (Eng.fin e) w }
  | .boost => s.setCtx i { c with boost := w }
  | .evec => s.modVnpu c.vnpu fun v => { v with evec := w }
  | .epc => s.setCtx i { c with epc := w }
  | .efrom => s.setCtx i { c with efrom := w }
  | .ecause => s.setCtx i { c with ecause := w }
  | .eaddr => s.setCtx i { c with eaddr := w }
  | .einfo => s.setCtx i { c with einfo := w }
  | .estat => s.setCtx i { c with estat := w &&& ~~~8 }
  | .sscratch => s.setCtx i { c with sscratch := w }
  | .wftstat => s.modLeaf (s.ctxLeaf i) fun l => { l with wftstat := w }
  | .ctxsave => s.modVnpu c.vnpu fun v => { v with ctxsave := w }
  | .tentab => s.setCtx i { c with tentab := w }
  | .tenlim => s.setCtx i { c with tenlim := w }
  | .ctxid | .dmr | .boostst | .wftquota | .leasest | .tkcount => s

/-- MFS (R433). -/
def execMfs (p : Pred) (d : Reg) (n : SReg) (s : State) : Result :=
  ctl (.mfs p d n) p (SRegRead n) [] (fun s _ => one s d (s.sysRead s.me n) 0) s

/-- What every MTS does: RESERVED_FIELD for a value it refuses, else the write (R433). -/
def mts (x : Instr) (n : SReg) (a : Reg) (s : State) (c : Ctx) : Ans :=
  if sysOk n (c.rd a) then plain (s.sysWrite s.me n (c.rd a)) else .trap s { cause := 0x02, einfo := (encodeCtl x).getD 0 }

/-- MTS (R433). -/
def execMts (p : Pred) (n : SReg) (a : Reg) (s : State) : Result :=
  ctl (.mts p n a) p (SRegWrite n) [gNum a] (fun s c => mts (.mts p n a) n a s c) s

/-- MTS EVEC: held once for the virtual NPU, so every core has the value when it completes (R424). -/
def execEvecWrite (p : Pred) (a : Reg) (s : State) : Result :=
  ctl (.evecWrite p a) p .supervisor [gNum a] (fun s c => mts (.evecWrite p a) .evec a s c) s

/-- MTS CTXSAVE (R424). -/
def execCtxsaveWrite (p : Pred) (a : Reg) (s : State) : Result :=
  ctl (.ctxsaveWrite p a) p .supervisor [gNum a] (fun s c => mts (.ctxsaveWrite p a) .ctxsave a s c) s

/-! ## Traps and images -/

/-- ERET (R428): it may be issued whatever ACTIVE holds. -/
def execEret (p : Pred) (s : State) : Result :=
  ctl (.eret p) p .supervisor [] (fun s c => s.drain fun s => s.closing fun s =>
    if s.imageHeld (s.imageAcc s.me false) (imagePieces (s.saveArea s.me)) then .stall s
    else match s.returnFrom s.me with
      | .error t => .trap s t
      | .ok s' => .gone (s'.modCtx s.me fun x => { x with last := c.pc })) s

/-- ALIGN of CTXSV and CTXLD (R434). -/
def imageAlign : Trap := { cause := 0x08 }

/-- Bytes 0x0008 to 0x0037 of an image from the current exception registers (R434), ESTAT without DEF (R469, log 78). -/
def Ctx.stampExc (c : Ctx) (m : Mem) : Mem :=
  [(0x0008, c.epc), (0x0010, c.efrom), (0x0018, c.ecause), (0x0020, c.eaddr), (0x0028, c.einfo), (0x0030, c.estat)].foldl
    (fun m f => m.write f.1 (leBytes 8 f.2.toNat)) m

/-- The parts of some pieces of an image that lie in [lo, lo + n) of it. -/
def trimPieces (lo n : Nat) (ps : List (Nat × Nat × Nat)) : List (Nat × Nat × Nat) :=
  ps.filterMap fun p =>
    let a := max p.2.1 lo
    let b := min (p.2.1 + p.2.2) (lo + n)
    if a < b then some (p.1 + (a - p.2.1), a, b - a) else none

/-- An image copied page by page, its exception registers those of the context: the fault of the first page that fails, with the state
that the bytes copied before it leave (R434). -/
def State.copyImage (s : State) (i : CtxId) (dst : Nat) : List (Nat × Nat × Nat) → State × Option Trap
  | [] => (s, none)
  | p :: r =>
    match s.getImage i [p] with
    | (s, _, some t) => (s, some t)
    | (s, m, none) =>
      match s.putImage i (if p.2.1 = 0 then (s.ctx i).stampExc m else m) (trimPieces p.2.1 p.2.2 (imagePieces dst)) with
      | (s, some t) => (s, some t)
      | (s, none) => s.copyImage i dst r

/-- The copies of a CTXSV or a CTXLD may be made: no routine holds a line of them, and the regulators have let each line's read and
write through (R282, R385, R386, R434). -/
def State.copyGate (s : State) (ps : List (Nat × Nat × Nat)) : Bool × State :=
  let a := s.imageAcc s.me false
  if s.imageHeld a ps then (false, s) else s.admitSeq a.vnpu (s.asker (.ctx s.me)) (s.imageRequests a ps)

/-- CTXSV: the cut of the bank is taken, and it waits for the phases of the context and of its engines (R233, R427), then copies the
save area (R434). -/
def execCtxsv (p : Pred) (a : Reg) (s : State) : Result :=
  ctl (.ctxsv p a) p .supervisor [gNum a] (fun s c =>
    if fld (c.rd a) 5 0 ≠ 0 then .trap s imageAlign
    else s.closing fun s =>
      let s := s.cutStep s.me
      let dst := (c.rd a).toNat
      let src := imagePieces (s.saveArea s.me)
      if !s.atCut s.me || !s.engPhasesQuiet s.me then .stall s
      else match s.copyGate (src ++ imagePieces dst) with
        | (false, s) => .stall s
        | (true, s) => match s.copyImage s.me dst src with
          | (s, some t) => .trap s t
          | (s, none) => plain s) s

/-- The exception registers loaded from an image; ACTIVE and DEF stay (R434). -/
def Ctx.loadExc (c : Ctx) (m : Mem) : Ctx :=
  { c with
    epc := m.word 0x0008, efrom := m.word 0x0010, ecause := m.word 0x0018, eaddr := m.word 0x0020, einfo := m.word 0x0028
    estat := (m.word 0x0030 &&& ~~~9) ||| (c.estat &&& 1) }

/-- CTXLD: the exception registers of the image are checked before anything is copied or loaded, and where a page faults the save area
stays as it is (R434). -/
def execCtxld (p : Pred) (a : Reg) (s : State) : Result :=
  ctl (.ctxld p a) p .supervisor [gNum a] (fun s c =>
    let src := (c.rd a).toNat
    if fld (c.rd a) 5 0 ≠ 0 then .trap s imageAlign
    else s.closing fun s =>
      let dst := imagePieces (s.saveArea s.me)
      match s.copyGate (imagePieces src ++ dst) with
      | (false, s) => .stall s
      | (true, s) => match s.getImage s.me [(src, 0, 64)] with
        | (s, _, some t) => .trap s t
        | (s, head, none) => match excBad head with
          | some off => .trap s { cause := 0x02, einfo := BitVec.ofNat 64 off }
          | none => match s.getImage s.me (imagePieces src) with
            | (s, _, some t) => .trap s t
            | (s, m, none) => match s.putImage s.me m dst with
              | (_, some t) => .trap s t
              | (s, none) => plain (s.modCtx s.me fun c => c.loadExc m)) s

/-! ## Pre-emption points -/

/-- OPBND: with a request pending it saves the unit, with no live region, at the word after it (R440). -/
def execOpbnd (p : Pred) (s : State) : Result :=
  ctl (.opbnd p) p .slotO [] (fun s c =>
    if !c.preq then plain s
    else s.drain fun s => s.closing fun s => .gone ((s.finish [] (some (c.pc + 8)) 1).saveUnit s.cur.core 0)) s

/-- DEFER (R439). -/
def execDefer (p : Pred) (s : State) : Result :=
  ctl (.defer p) p .supervisor [] (fun s c =>
    if s.cur.slot = .h || c.preq then plain s
    else plain (s.modCtx s.me fun c => { c with defer := true, deferEnd := s.gtc.toNat + 20000 })) s

/-- UNDEFER (R439). -/
def execUndefer (p : Pred) (s : State) : Result :=
  ctl (.undefer p) p .supervisor [] (fun s _ => if s.cur.slot = .h then plain s else plain (s.endDefer s.me)) s

/-- The word of PEND (R438). -/
def State.pendVal (s : State) (i : CtxId) : Word :=
  let c := s.ctx i
  let k := s.core i.core
  let grace := match c.graceEnd with
    | some e => (e - s.gtc.toNat + 999) / 1000
    | none => 0
  BitVec.ofNat 64 ((if c.preq then 1 else 0) + (if c.defer then 2 else 0)
    + (if i.slot = .h && k.revoke && !k.revokeHard && s.revokeDeferred i.core then 4 else 0) + grace % 65536 * 2 ^ 8)

/-- PEND (R438). -/
def execPend (p : Pred) (d : Reg) (s : State) : Result :=
  ctl (.pend p d) p .none [] (fun s _ => one s d (s.pendVal s.me) 0) s

/-- CLRSIG (R457). -/
def execClrsig (p : Pred) (d : Reg) (s : State) : Result :=
  ctl (.clrsig p d) p .supervisor [] (fun s _ => one s d (s.core s.cur.core).signature 0) s

/-- The word of PARKST (R445). -/
def Core.parkVal (k : Core) (v : VnpuId) : Word :=
  BitVec.ofNat 64 (k.cupboard.toList.mapIdx fun b x =>
    (if x.used && x.ctx.vnpu = v then 1 + (if x.parked then 0 else 2) + x.revs % 64 * 4 else 0) * 2 ^ (8 * b)).sum

/-- PARKST (R445). -/
def execParkst (p : Pred) (d : Reg) (s : State) : Result :=
  ctl (.parkst p d) p .supervisor [] (fun s c => one s d ((s.core s.cur.core).parkVal c.vnpu) 0) s

/-! ## HVC (R408, R435) -/

/-- The answer of a service: the status in g1, and the value, zero where the status is not, in g2 (R408). -/
def served (s : State) (status : Nat) (value : Nat) : Ans :=
  .done s [⟨1, BitVec.ofNat 64 status, 0, 0⟩, ⟨2, if status = 0 then BitVec.ofNat 64 value else 0, 0, 0⟩] none 1

/-- A service, at the caller's privilege: the phase is closed and complete before it runs (R435); a U caller of an S service
receives status 1 (R409). -/
def service (x : Instr) (p : Pred) (sup : Bool) (ops : List Nat) (body : State → Ctx → Ans) (s : State) : Result :=
  ctl x p .none ops (fun s c => s.closing fun s => if sup && !c.sup then served s 1 0 else body s c) s

/-- HVC with a number that names no service: status 2 (R408). -/
def execHvc (p : Pred) (e : BitVec 16) (s : State) : Result :=
  ctl (.hvc p e) p .none [] (fun s _ => s.closing fun s => served s 2 0) s

end Sys2Proof.Machine
end

