-- ==== Sys2Proof/Machine/Tensor.lean ====
section
/-! DEFINITION. Tensor entries (R55, R270, R271) and the Strongroom's copies of them. -/

namespace Sys2Proof.Machine

/-- A field of an entry or of a tensor copy, by its first byte and its length. -/
def entryField (e : Nat) (byte n : Nat) : Nat := e / 2 ^ (8 * byte) % 2 ^ (8 * n)

def entVbase (e : Nat) : Nat := entryField e 0 8
def entDim (e n : Nat) : Nat := entryField e (8 + 4 * n) 4
def entStr (e n : Nat) : Int := (BitVec.ofNat 32 (entryField e (24 + 4 * n) 4)).toInt
def entGen (e : Nat) : Nat := entryField e 40 2 % 4096
def entType (e : Nat) : Nat := entryField e 42 1 % 16
def entHost (e : Nat) : Bool := entryField e 43 1 % 2 == 1
def entTid (e : Nat) : Nat := entryField e 44 4
def entWver (e : Nat) : Nat := entryField e 48 4
def entWorld (e : Nat) : Nat := entryField e 52 1
def entEnc (e : Nat) : Bool := entryField e 53 1 % 2 == 1
def entSealed (e : Nat) : Bool := entryField e 53 1 / 2 % 2 == 1

/-- The zero fields of bytes 40-43 are zero (R271). -/
def entZeros (e : Nat) : Bool := entryField e 40 2 / 4096 == 0 && entryField e 42 1 / 16 == 0 && entryField e 43 1 / 2 == 0

/-- The elements of a tensor (R274). -/
def entCount (e : Nat) : Nat := entDim e 0 * entDim e 1 * entDim e 2 * entDim e 3

/-- GEN equals the handle's generation and is not 0 (R55, R271). -/
def entCurrent (e gen : Nat) : Bool := entGen e == gen && entGen e != 0

/-- The Strongroom's copy for a slot of a leaf; one never installed is all zero (R270). -/
def State.tensor (s : State) (l : LeafId) (slot : Nat) : TensorCopy :=
  (s.tensors.find? fun t => t.leaf = l && t.slot = slot).getD ⟨l, slot, 0, 0, 0, false, false, none, false, none⟩

/-- A copy installed or changed. -/
def State.setTensor (s : State) (t : TensorCopy) : State :=
  { s with tensors := t :: s.tensors.filter fun x => !(x.leaf = t.leaf && x.slot = t.slot) }

/-- Bytes 44-53 of an entry from the Strongroom's copy (R270). -/
def TensorCopy.bytes (t : TensorCopy) : Nat :=
  t.tid + t.wver % 2 ^ 32 * 2 ^ 32 + t.world.toNat * 2 ^ 64 + (if t.enc then 2 ^ 72 else 0) + (if t.sealed then 2 ^ 73 else 0)

/-- The slots TENLIM allows (R269). -/
def Ctx.slots (c : Ctx) : Nat := fld c.tenlim 20 0

/-- The address of a slot's entry (R269). -/
def Ctx.entryAddr (c : Ctx) (slot : Nat) : Nat := ((fld c.tentab 63 6) * 64 + 64 * slot) % 2 ^ 64

end Sys2Proof.Machine
end

