-- ==== Sys2Proof/Machine/Walk.lean ====
section
/-! DEFINITION. One step of an engine record: the record at the head of the queue, the operands of a step with their checks
in the order of R155 and R199, and lanes of a vector (R51, R148). -/

namespace Sys2Proof.Machine

/-! ## The head that walks -/

/-- The head of the queue of engine `e` of the acting core takes one step of its walk; a head that does not walk takes none.
A resumed head whose header breaks R44 or the operation's own checks faults at its micro-PC (R430). -/
def walk (e : Eng) (ok : Bool) (r : EngRec) (body : State → EngId → QEntry → Head → State) (s : State) : Result :=
  let id : EngId := ⟨s.cur.core, e⟩
  .next (match (s.engine id).queue with
    | [] => s
    | q :: _ =>
      let h := (s.engine id).head
      if h.st ≠ .walking then s
      else if !(headerOk e r && ok) then s.engFault id 0 { cause := 0x02 }
      else body s id q h)

/-- The head after its step. -/
def State.setHead (s : State) (e : EngId) (h : Head) : State := s.modEngine e fun x => { x with head := h }

/-! ## Operands of a step -/

/-- A local operand: the space of its base, its address, or the addresses of its vectors (R149), the bytes at each, their alignment,
whether it is a row operand of R149, the tag its tile must have, and whether the step reads it. -/
structure Opd where
  space : Nat
  addrs : List Int
  n : Nat
  align : Nat
  row : Bool
  tag : Option (BitVec 4)
  rd : Bool
deriving DecidableEq, Repr

/-- The three checks over a list of operands, the first failure first (R155, R199): the addresses of the operands, vector by vector. -/
def Core.opds (k : Core) (sl : Slot) : List Opd → Except Trap (List Nat)
  | [] => .ok []
  | o :: r => match k.operand sl o.space o.addrs o.n o.align o.row o.tag with
    | .error t => .error t
    | .ok as => match k.opds sl r with
      | .error t => .error t
      | .ok l => .ok (as ++ l)

/-- The operands that a step reads, as ranges. -/
def readRanges : List Opd → List Nat → List (Nat × Nat)
  | [], _ => []
  | o :: r, l => (if o.rd then (l.take o.addrs.length).map fun a => (a, o.n) else []) ++ readRanges r (l.drop o.addrs.length)

/-- The operands of a step checked, poison last (R155). -/
def Core.checked (k : Core) (sl : Slot) (os : List Opd) : Except Trap (List Nat) :=
  match k.opds sl os with
  | .error t => .error t
  | .ok l => match k.poisonIn (readRanges os l) with
    | some t => .error t
    | none => .ok l

/-- The bytes of a local range as a number (R4). -/
def Core.val (k : Core) (a n : Nat) : Nat := leNat (k.store.read a n)

/-! ## Lanes (R51, R148) -/

/-- Lane e of a vector of `w`-bit lanes. -/
def lane (w v e : Nat) : Nat := v / 2 ^ (w * e) % 2 ^ w

/-- Lanes of `w` bits as a vector, lane 0 lowest. -/
def packLanes (w : Nat) : List Nat → Nat
  | [] => 0
  | x :: r => x % 2 ^ w + 2 ^ w * packLanes w r

/-- The two parts of a list of results with flags. -/
def codes (l : List (Nat × Flg)) : List Nat := l.map (·.1)
def flagsOf (l : List (Nat × Flg)) : Flg := l.foldl (fun f x => f ||| x.2) 0

end Sys2Proof.Machine
end

