-- ==== Sys2Proof/Machine/Vector.lean ====
section
/-! DEFINITION. What the records of the vector engine share: the checks of R158 and R159, the immediate of R160, operands
and lanes of a step (R148, R149, R151), and the step itself (R150, R155). -/

namespace Sys2Proof.Machine

/-! ## Types of R158 -/

def isFl (c : BitVec 4) : Bool := decide (c.toNat ≤ 2)
def isIn (c : BitVec 4) : Bool := let n := c.toNat; n == 14 || (decide (6 ≤ n) && n != 9 && decide (n ≤ 12))
def isBt (c : BitVec 4) : Bool := let n := c.toNat; decide (n ≤ 14) && n != 5 && n != 9

/-- The type of a code; 15 does not pass R44. -/
def tyOf (c : BitVec 4) : Ty := (Ty.ofCode c.toNat).getD .f32

/-- The width of a type code in bits. -/
def tw (c : BitVec 4) : Nat := (tyOf c).width

/-- DTYPE equals STYPE and lies in a class. -/
def sameIn (p : BitVec 4 → Bool) (r : EngRec) : Bool := r.dtype == r.stype && p r.dtype

def flIn (c : BitVec 4) : Bool := isFl c || isIn c

/-- S2 is not used. -/
def noS2 (r : EngRec) : Bool := r.s2.isZero && r.s2imm == 0
/-- S2 is a vector. -/
def vecS2 (r : EngRec) : Bool := r.s2imm == 0
/-- S2 is the immediate. -/
def immS2 (r : EngRec) : Bool := r.s2imm == 1
def noSat (r : EngRec) : Bool := r.sat == 0
/-- SAT may be 1 only with an In type. -/
def satIn (r : EngRec) : Bool := r.sat == 0 || isIn r.dtype

/-! ## The checks of R158 and R159, by operation -/

def okArith (r : EngRec) : Bool := sameIn flIn r
def okMinMax (r : EngRec) : Bool := sameIn flIn r && noSat r && r.aux == 0
def okAbs (r : EngRec) : Bool := sameIn flIn r && satIn r && r.aux == 0 && noS2 r
def okLogic (r : EngRec) : Bool := sameIn isBt r && noSat r && r.aux == 0
def okShift (r : EngRec) : Bool := sameIn isIn r && noSat r && r.aux == 0
def okSel (r : EngRec) : Bool := sameIn isBt r && noSat r && r.aux == 0 && vecS2 r
def okCmp (r : EngRec) : Bool :=
  let nod := r.aux.getLsbD 14
  flIn r.stype && noSat r && auxIn 0xC00F r
    && (if nod then r.d.isZero && r.dtype == 0 else !r.d.isZero && isIn r.dtype && tw r.dtype == tw r.stype)
    && decide (r.aux.toNat % 16 ≤ if isFl r.stype then 7 else 9)
def okClamp (r : EngRec) : Bool := sameIn flIn r && noSat r && r.aux == 0 && immS2 r
def okScale (r : EngRec) : Bool := sameIn isFl r
def okMov (r : EngRec) : Bool := r.dtype == r.stype && noSat r && r.aux == 0 && noS2 r
def okBcast (r : EngRec) : Bool :=
  sameIn isBt r && noSat r && r.aux == 0 && (immS2 r == r.s1.isZero) && (immS2 r || r.s2.isZero)
def okFun (r : EngRec) : Bool := isFl r.stype && isFl r.dtype && noS2 r
def okCvt (r : EngRec) : Bool := noS2 r
def scaledTy (c : BitVec 4) : Bool := c.toNat == 3 || c.toNat == 4 || c.toNat == 5
def okQuant (r : EngRec) : Bool := isFl r.stype && scaledTy r.dtype && vecS2 r
def okDeq (r : EngRec) : Bool := scaledTy r.stype && isFl r.dtype && vecS2 r
def okRand (r : EngRec) : Bool :=
  let d := r.dtype.toNat
  (d == 0 || d == 1 || d == 6 || d == 10) && r.stype == 0 && noSat r && r.s1.isZero && immS2 r
def okRed (r : EngRec) : Bool := sameIn flIn r && auxIn 1 r && noS2 r && r.d.s0 == 0
def okRedSum (r : EngRec) : Bool := okRed r && satIn r
def okRedMax (r : EngRec) : Bool := okRed r && noSat r
def okScan (r : EngRec) : Bool := sameIn flIn r && satIn r && auxIn 7 r && noS2 r && r.aux.toNat % 4 != 3
def okAny (r : EngRec) : Bool := isBt r.stype && r.dtype == 0 && noSat r && auxIn 1 r && r.d.isZero && noS2 r
def okCnt (r : EngRec) : Bool :=
  isBt r.stype && (r.dtype.toNat == 10 || r.dtype.toNat == 6) && noSat r && auxIn 1 r && noS2 r && r.d.s0 == 0
/-- The distance of VZIP and VUNZIP (R160). -/
def delta (r : EngRec) : Int := r.s2.base.toInt
def okZip (r : EngRec) : Bool :=
  sameIn isBt r && noSat r && r.aux == 0 && immS2 r && decide (delta r % 64 = 0) && decide (512 ≤ (delta r).natAbs)
def okPerm (r : EngRec) : Bool := sameIn isBt r && decide (16 ≤ tw r.dtype) && noSat r && r.aux == 0 && vecS2 r
def okGather (r : EngRec) : Bool :=
  sameIn isBt r && noSat r && auxIn 1 r && vecS2 r && (!r.aux.getLsbD 0 || r.s2.noStride)
def okPart (r : EngRec) : Bool :=
  isBt r.stype && r.dtype.toNat == 10 && noSat r && r.aux == 0 && vecS2 r && r.d.noStride && r.s2.noStride
def okBytes (r : EngRec) : Bool :=
  r.dtype == 0 && r.stype == 0 && noSat r && noS2 r && auxIn 0x3FF r && decide (1 ≤ r.aux.toNat) && decide (r.aux.toNat ≤ 512)
def okIota (r : EngRec) : Bool := isIn r.dtype && r.stype == 0 && noSat r && r.s1.isZero && immS2 r
def okZero (r : EngRec) : Bool := r.dtype == 0 && r.stype == 0 && noSat r && r.aux == 0 && r.s1.isZero && noS2 r
/-- VBUMP and VTYPE use no descriptor, and word 1 is zero. -/
def okTile (r : EngRec) : Bool :=
  r.stype == 0 && noSat r && r.d.isZero && r.s1.isZero && noS2 r && r.trip0 == 0 && r.trip1 == 0 && r.trip2 == 0 && r.trip3 == 0
def okBump (r : EngRec) : Bool := okTile r && r.dtype == 0 && auxIn 0x1FF r && r.bump == 0
def okType (r : EngRec) : Bool := okTile r && auxIn 0xFFF r && r.aux != 0

/-! ## Operands (R148, R149, R151) -/

/-- A vector operand of `n` bytes at the step address of a descriptor. -/
def vecAt (d : Desc) (a : Int) (n : Nat) (tag : Option (BitVec 4)) (rd : Bool) : Opd :=
  ⟨d.space, [a], n, min 64 n, true, tag, rd⟩

/-- A scalar operand of `n` bytes. -/
def scalarAt (d : Desc) (a : Int) (n : Nat) (tag : Option (BitVec 4)) (rd : Bool) : Opd := ⟨d.space, [a], n, n, false, tag, rd⟩

/-- The bytes of a vector of W lanes of a type code. -/
def vecBytes (w : Nat) (c : BitVec 4) : Nat := w * tw c / 8

/-- The immediate by the lane type (R160). -/
def immOf (c : BitVec 4) (r : EngRec) : Nat :=
  if c.toNat = 14 then (r.s2.base.signExtend 64).toNat else r.s2.base.toNat % 2 ^ tw c

/-! ## A step -/

/-- What a step does: its writes, flags, carries and push. -/
structure VOut where
  writes : List (Nat × List Byte) := []
  flags : Flg := 0
  carry : Option Word := none
  vcarry : Option Nat := none
  push : Option Bool := none

/-- A step of the vector engine: it faults with no effect, or writes, and the head moves on (R150, R155, R156). -/
def vxStep (ok : Bool) (r : EngRec) (f : Core → Slot → Head → Except Trap VOut) (s : State) : Result :=
  walk .vx ok r (fun s e q h =>
    match f (s.core e.core) q.slot h with
    | .error t => s.engFault e 0 t
    | .ok o =>
      let s := s.unblockEng e q.slot
      let s := s.modCore e.core fun k => o.writes.foldl (fun k w => k.lstore w.1 w.2) k
      let s := match o.push with
        | some b => s.modCtx ⟨e.core, q.slot⟩ fun c => c.pushBit b
        | none => s
      s.setHead e (Head.advance { h with
        flags := h.flags ||| o.flags
        carry := o.carry.getD h.carry
        vcarry := (o.vcarry.map fun n => BitVec.ofNat 4096 n).getD h.vcarry } r)) s

/-- The rounding of lane e of a step of W lanes under the record's RND and seed (R95, R162). -/
def laneRnd (r : EngRec) (h : Head) (w e : Nat) : Rnd := Rnd.ofCode r.rnd.toNat r.aux.toNat (h.linear r * w + e)

/-- A step that writes each lane of D from the lanes of S1, S2 (or the immediate) and D. -/
structure LaneOp where
  /-- W. -/
  w : Nat
  /-- D is read as well. -/
  rdD : Bool := false
  /-- The type code of S2 as a vector; none where it is not a vector. -/
  s2 : Option (BitVec 4) := none
  /-- S1 is a vector of STYPE. -/
  hasS1 : Bool := true

/-- The operands of a lane step in the order D, S1, S2. -/
def LaneOp.opds (o : LaneOp) (r : EngRec) (h : Head) : List Opd :=
  [vecAt r.d (h.addr r.d) (vecBytes o.w r.dtype) (some r.dtype) o.rdD]
    ++ (if o.hasS1 then [vecAt r.s1 (h.addr r.s1) (vecBytes o.w r.stype) (some r.stype) true] else [])
    ++ (match o.s2 with
      | some c => [vecAt r.s2 (h.addr r.s2) (vecBytes o.w c) (some c) true]
      | none => [])

/-- A step that computes every lane of D by `f lane S1.e B(e) D.e`. -/
def laneStep (o : LaneOp) (r : EngRec) (f : Nat → Nat → Nat → Nat → Nat × Flg) (k : Core) (sl : Slot) (h : Head) :
    Except Trap VOut :=
  match k.checked sl (o.opds r h) with
  | .error t => .error t
  | .ok as =>
    let aD := as.headD 0
    let a1 := (as.drop 1).headD 0
    let a2 := (as.drop (if o.hasS1 then 2 else 1)).headD 0
    let n := vecBytes o.w r.dtype
    let vD := if o.rdD then k.val aD n else 0
    let v1 := if o.hasS1 then k.val a1 (vecBytes o.w r.stype) else 0
    let v2 := match o.s2 with | some c => k.val a2 (vecBytes o.w c) | none => 0
    let out := (List.range o.w).map fun e =>
      f e (lane (tw r.stype) v1 e)
        (match o.s2 with | some c => lane (tw c) v2 e | none => immOf (if o.hasS1 then r.stype else r.dtype) r)
        (lane (tw r.dtype) vD e)
    .ok { writes := [(aD, leBytes n (packLanes (tw r.dtype) (codes out)))], flags := flagsOf out }

/-- W for operands of one width (R148). -/
def lanesOf (c : BitVec 4) : Nat := 4096 / tw c

/-- S2 as a vector of STYPE, unless it is the immediate. -/
def s2Of (r : EngRec) : Option (BitVec 4) := if r.s2imm = 1 then none else some r.stype

/-- A lane step whose operands all have the width of STYPE. -/
def sameLanes (r : EngRec) : LaneOp := { w := lanesOf r.stype, s2 := s2Of r }

/-- A lane operation of one source. -/
def oneSource (r : EngRec) : LaneOp := { w := 4096 / max (tw r.stype) (tw r.dtype) }

/-- The format of a type code, F32 where it has none. -/
def fmtOf (c : BitVec 4) : Fmt := (tyOf c).fmt.getD fmtF32

/-- SAT as a truth value. -/
def satOf (r : EngRec) : Bool := r.sat == 1

end Sys2Proof.Machine
end

