-- ==== Sys2Proof/Machine/Copy.lean ====
section
/-! DEFINITION. The copy engines: the checks of R272 and R273, the tensor entry (R271), the step (R274-R278), and the lines
of encrypted tensors (R405-R407). -/

namespace Sys2Proof.Machine

/-! ## Checks (R272, R273) -/

/-- What every copy operation requires. -/
def okCopyCommon (r : EngRec) : Bool := noSat r && r.s2imm == 0 && r.dtype == r.stype

/-- A copy between a tensor and local spaces. -/
def okTensor (spaces : List Nat) (r : EngRec) : Bool := okCopyCommon r && spaces.contains r.d.space && r.aux == 0

/-- The base of the list of GATHIN and SCATOUT (R272). -/
def listBase (r : EngRec) : Nat := 64 * (r.aux.toNat % 2 ^ 14)

/-- A copy with an index list. -/
def okList (spaces : List Nat) (r : EngRec) : Bool :=
  okCopyCommon r && spaces.contains r.d.space && auxIn 0x3FFF r && decide (listBase r + 4 * (r.trip1.toNat + 1) ≤ 0x100000)

def okFill (r : EngRec) : Bool :=
  noSat r && r.s2imm == 1 && r.stype == 0 && r.s1.isZero && r.aux == 0 && decide (r.d.space ≤ 2)
def okCploc (r : EngRec) : Bool :=
  okCopyCommon r && r.s2.isZero && r.aux == 0 && decide (r.d.space ≤ 2) && decide (r.s1.space ≤ 2)
def okPfin (r : EngRec) : Bool := okCopyCommon r && r.d.isZero && r.aux == 0

/-- The size of an element of a copy in bytes: one byte of a 4-bit type (R274). -/
def elemSize (c : BitVec 4) : Nat := if tw c = 4 then 1 else tw c / 8

/-! ## The tensor entry at start (R271, R405) -/

/-- What the start of a copy record finds. -/
inductive StartRes where
  | fault (t : Trap)
  | stall (s : State)
  | ok (s : State) (copy : BitVec 432)

/-- The access of an engine for a record. -/
def engAcc (e : EngId) (q : QEntry) (write enc : Bool) : Acc :=
  { core := e.core, vnpu := q.vnpu, user := !q.sup, write := write, exec := false, enc := enc }

/-- A copy record takes its tensor's entry, once (R271); a writer of an encrypted tensor becomes its writer (R405). -/
def State.takeEntry (s : State) (e : EngId) (q : QEntry) : StartRes :=
  let r := q.hdr
  let c := s.ctx ⟨e.core, q.slot⟩
  let slot := handleSlot r
  if c.slots ≤ slot then .fault { cause := 0x0A }
  else match s.load (.eng e) (engAcc e q false false) r.cls.toNat (c.entryAddr slot) 44 false true with
    | .trap t => .fault t
    | .stall s => .stall s
    | .ok s bs =>
      let ent := leNat bs
      let l := s.leafOf q.vnpu
      let t := s.tensor l slot
      let want := if e.eng = .co then r.dtype.toNat else r.stype.toNat
      if !entCurrent ent (handleGen r) then .fault { cause := 0x09 }
      else if entType ent = 15 || !entZeros ent || entType ent ≠ want then .fault { cause := 0x02 }
      else if e.eng = .co && t.enc && (t.sealed || t.writer.isSome) then .fault { cause := 0x17 }
      else
        let s := if e.eng = .co && t.enc then s.setTensor { t with writer := some e, unit := some (s.unitOf ⟨e.core, q.slot⟩) } else s
        .ok s (BitVec.ofNat 432 (ent + t.bytes * 2 ^ 352))

/-! ## The step (R274) -/

/-- Whether the step lies inside the clamp extents; an extent of 0 clamps nothing. -/
def inExtent (r : EngRec) (h : Head) : Bool :=
  let ok := fun (x : BitVec 24) (j : Nat) => x == 0 || decide (j < x.toNat)
  ok r.s2.s0 h.j0 && ok r.s2.s1 h.j1 && ok r.s2.s2 h.j2 && ok r.s2.s3 h.j3

/-- The linear element of a step; `r1` is the index of level 1. -/
def stepIndex (r : EngRec) (h : Head) (r1 : Nat) : Int :=
  (r.s2.base.toNat : Int) + r.s1.s0.toInt * (h.j0 : Int) + r.s1.s1.toInt * (r1 : Int) + r.s1.s2.toInt * (h.j2 : Int)
    + r.s1.s3.toInt * (h.j3 : Int)

/-- The address of an element of a tensor. -/
def elemAddr (ent idx : Nat) : Int :=
  let d0 := entDim ent 0
  let d1 := entDim ent 1
  let d2 := entDim ent 2
  (entVbase ent : Int) + ((idx % d0 : Nat) : Int) * entStr ent 0 + ((idx / d0 % d1 : Nat) : Int) * entStr ent 1
    + ((idx / (d0 * d1) % d2 : Nat) : Int) * entStr ent 2 + ((idx / (d0 * d1 * d2) : Nat) : Int) * entStr ent 3

/-- Entry j1 of the list, read from the Pantry as an access of the engine (R274, R277). -/
def listEntry (k : Core) (sl : Slot) (r : EngRec) (h : Head) : Except Trap Nat :=
  match k.checked sl [⟨0, [((listBase r + 4 * h.j1 : Nat) : Int)], 4, 4, false, none, true⟩] with
  | .error t => .error t
  | .ok as => .ok (k.val (as.headD 0) 4)

/-- The tensor address of a step in the extents, aligned to its element (R274); EADDR of the ALIGN of one that is not is the address
(DEDUCED, log 86). -/
def tensorAddr (list : Bool) (k : Core) (sl : Slot) (r : EngRec) (h : Head) : Except Trap Nat :=
  let go := fun (r1 : Nat) =>
    let ent := h.copy.toNat
    let idx := stepIndex r h r1
    if idx < 0 || (entCount ent : Int) ≤ idx then Except.error ({ cause := 0x0A } : Trap)
    else
      let va := elemAddr ent idx.toNat
      if va % (elemSize r.dtype : Int) ≠ 0 then .error (stepTrap 0x08 va)
      else if va < 0 || 2 ^ 64 ≤ va then .error { stepTrap 0x05 va with einfo := accInfo false false true }
      else .ok va.toNat
  if list then
    match listEntry k sl r h with
    | .error t => .error t
    | .ok n => go n
  else go h.j1

/-- The local side of a step (R274). -/
def localSide (r : EngRec) (h : Head) (rd : Bool) : Opd :=
  ⟨r.d.space, [h.addr r.d], elemSize r.dtype, elemSize r.dtype, false, some r.dtype, rd⟩

/-! ## Units of 64 bytes (R211) -/

/-- The aligned 64-byte unit of the tensor that a step reaches; none where it reaches none. -/
def tensorUnit (list : Bool) (k : Core) (sl : Slot) (r : EngRec) (h : Head) : Option Nat :=
  if !inExtent r h then none
  else match tensorAddr list k sl r h with
    | .ok va => some (va / 64)
    | .error _ => none

/-- The steps of a loop that lie inside its clamp extent, of `c` in all. -/
def extentOf (x : BitVec 24) (c : Nat) : Nat := if x = 0 then c else min x.toNat c

/-- The first step inside the clamp extents from a step on, if one follows. -/
def nextIn (r : EngRec) (h : Head) : Option Head :=
  let l0 := extentOf r.s2.s0 r.count0
  let l1 := extentOf r.s2.s1 r.count1
  let l2 := extentOf r.s2.s2 r.count2
  let l3 := extentOf r.s2.s3 r.count3
  let c3 := if h.j3 + 1 < l3 then some { h with j0 := 0, j1 := 0, j2 := 0, j3 := h.j3 + 1 } else none
  let c2 := if h.j2 + 1 < l2 then some { h with j0 := 0, j1 := 0, j2 := h.j2 + 1 } else c3
  let c1 := if h.j1 + 1 < l1 then some { h with j0 := 0, j1 := h.j1 + 1 } else c2
  if l3 ≤ h.j3 then none
  else if l2 ≤ h.j2 then c3
  else if l1 ≤ h.j1 then c2
  else if l0 ≤ h.j0 then c1
  else some h

/-- The unit `u` of the first step inside the clamp extents from a step on: a clamped step reaches nothing, and divides no unit. -/
def unitFrom (r : EngRec) (u : Head → Option Nat) (h : Head) : Option Nat := (nextIn r h).bind u

/-- The aligned 64-byte unit of the local side of a step. -/
def localUnit (r : EngRec) (h : Head) : Nat := (h.addr r.d).toNat / 64

/-- The local stores as the steps of a copy see them: with what those before have written (R150, R275). -/
def Head.view (h : Head) (k : Core) : Core := match h.put with
  | some u => k.writeUnit u
  | none => k

/-- The bytes of an element as a field of a 64-byte unit. -/
def unitField (a : Nat) (bs : List Byte) : BitVec 512 := BitVec.ofNat 512 (leNat bs * 2 ^ (8 * (a % 64)))

/-- The bits that `n` bytes at an address have in its unit of `w`-bit bytes. -/
def unitMask (w a n : Nat) : Nat := (2 ^ (w * n) - 1) * 2 ^ (w * (a % 64))

/-- A unit's bytes with those of an element at an address in it. -/
def mergeUnit (d : BitVec 512) (a : Nat) (bs : List Byte) : BitVec 512 :=
  (d &&& ~~~BitVec.ofNat 512 (unitMask 8 a bs.length)) ||| unitField a bs

/-- A step writes an element at a local address: it joins the bytes of its unit (R211), and the unit read, if it is the same. -/
def Head.putLocal (h : Head) (a : Nat) (bs : List Byte) : Head :=
  let u := (h.put.filter fun u => u.unit = a / 64).getD ⟨a / 64, 0, 0⟩
  { h with
    put := some { u with mask := u.mask ||| BitVec.ofNat 64 (unitMask 1 a bs.length), data := mergeUnit u.data a bs }
    seen := h.seen.map fun x => if x.1 = a / 64 then (x.1, mergeUnit x.2 a bs) else x }

/-- A step reads `n` bytes of an element at a local address, from its unit as the steps there read it (R211). -/
def Head.readLocal (h : Head) (k : Core) (a n : Nat) : List Byte × Head :=
  let d := match h.seen.filter fun x => x.1 = a / 64 with
    | some x => x.2
    | none => BitVec.ofNat 512 ((h.view k).val (a / 64 * 64) 64)
  (((leBytes 64 d.toNat).drop (a % 64)).take n, { h with seen := some (a / 64, d) })

/-! ## Host reads (R239, R278) -/

/-- The read of the unit of an address that a walking head has asked for. -/
def State.unitRead (s : State) (e : EngId) (h : Head) (va : Nat) : Option HostReq :=
  s.hostReqs.find? fun r => r.eng = e && h.hostReq = some r.tag && r.addr = va / 64 * 64

/-- The head has done with a unit: its read goes. -/
def State.dropUnit (s : State) (e : EngId) (h : Head) (unit : Option Nat) : State :=
  { s with hostReqs := s.hostReqs.filter fun r => !(r.eng = e && h.hostReq = some r.tag && unit = some (r.addr / 64)) }

/-- A read of the unit of an address leaves for the host, once the regulator of the core lets it through (R278, R385). -/
def State.askUnit (s : State) (e : EngId) (q : QEntry) (h : Head) (va : Nat) : State :=
  match s.admitAll q.vnpu (s.asker (.eng e)) [(e.core.val, 64)] with
  | (false, s) => s
  | (true, s) =>
    let tag := h.hostReq.getD s.msgs
    let x := s.vnpu q.vnpu
    let rq : HostReq := { id := s.msgs, eng := e, tag := tag, vnpu := q.vnpu, rgen := x.rgen, addr := va / 64 * 64, key := x.keyGen }
    { s with hostReqs := s.hostReqs ++ [rq], msgs := s.msgs + 1 }.setHead e { h with hostReq := some tag }

/-- The first unit among the next steps of a walk that is still to be asked for. -/
def nextUnit (r : EngRec) (u : Head → Option Nat) (need : Nat → Bool) : Nat → Head → Option Nat
  | 0, _ => none
  | n + 1, h =>
    if h.st ≠ .walking then none
    else match (u h).filter need with
      | some x => some x
      | none => nextUnit r u need n (Head.advance h r)

/-- While a head waits for a unit it asks for one more among its next 2,048 steps, in a page that is translated: reads of different
units are in flight together (R239, log 80). -/
def State.askAhead (s : State) (e : EngId) (q : QEntry) (h : Head) (u : Head → Option Nat) : State :=
  match nextUnit q.hdr u (fun x => s.hostGranted q.vnpu (64 * x) && (s.unitRead e h (64 * x)).isNone) 2048 h with
  | some x => if s.inRun q.vnpu then s.askUnit e q h (64 * x) else s
  | none => s

/-! ## Encrypted lines (R405-R407) -/

/-- The line of an address as its tag names it: va[47:7]. -/
def lineNo (va : Nat) : Nat := va / 128 % 2 ^ 41

/-- The first address of the line of an address. -/
def lineVa (va : Nat) : Nat := va / 128 * 128

/-- The tag of a line of the version a record captured. -/
def copyTag (h : Head) (va : Nat) : LineTag := ⟨entTid h.copy.toNat, entWver h.copy.toNat, lineNo va⟩

/-- The physical line of a virtual address. -/
def State.physLine (s : State) (a : Acc) (va : Nat) : Option Nat :=
  match s.page a va with
  | .error _ => none
  | .ok t => some ((t.ppage * 4096 + va % 4096) / 128)

/-- A line is the line of the version captured, and where it is filled from DRAM (it does not `hit`) its check passes (R407). -/
def State.lineGood (s : State) (h : Head) (va line : Nat) (hit : Bool) : Bool :=
  s.filled (line / 32) && getKey line s.lineTags == some (copyTag h va) && (hit || !s.badLines.contains line)

/-- A line that fails its check as it is filled is not kept in the slice (R407). -/
def State.expel (s : State) (line : Nat) : State :=
  s.modSlice (homeSlice line) fun x => { x with resident := x.resident.filter fun r => r.line ≠ line }

/-- The slot's Strongroom copy notes that its writer has sent a line (R406). -/
def State.noteSent (s : State) (e : EngId) : State :=
  { s with tensors := s.tensors.map fun t => if t.writer = some e then { t with sent := true } else t }

/-- Bytes merged into an open line. -/
def mergeLine (d : BitVec 1024) (off : Nat) (bs : List Byte) : BitVec 1024 :=
  let n := bs.length
  let m := (2 ^ (8 * n) - 1) * 2 ^ (8 * off)
  BitVec.ofNat 1024 (d.toNat - (d.toNat &&& m) + leNat bs * 2 ^ (8 * off))

/-! ## The answer of a step -/

/-- What a step of a copy engine answers. -/
inductive CRes where
  | fault (t : Trap)
  | stall (s : State)
  | ok (s : State) (h : Head)

/-- An access as a step's answer. -/
def AccRes.step {α : Type} (r : AccRes α) (k : State → α → CRes) : CRes :=
  match r with
  | .trap t => .fault t
  | .stall s => .stall s
  | .ok s v => k s v

/-- The first cause a record reports without trapping (R268). -/
def Head.note (h : Head) (cause : Nat) : Head := if h.status = 0 then { h with status := cause } else h

/-- An open line is sent: all 128 bytes, with its tag (R405). -/
def State.sendLine (s : State) (e : EngId) (q : QEntry) (h : Head) (alloc : Bool) : CRes :=
  match h.openLine with
  | none => .ok s h
  | some l =>
    (s.storeMsg (.eng e) (engAcc e q true true) q.hdr.cls.toNat l.va (leBytes 128 l.data.toNat) 0 true alloc
        (some (copyTag h l.va))).step fun s _ =>
      .ok (s.noteSent e) { h with openLine := none, lastLine := some l.va }

/-- The local unit that a head's steps wrote is performed once the next step `n` lies in another one, or none follows (R211). -/
def State.leaveUnit (s : State) (e : EngId) (q : QEntry) (n : Head) : State × Head :=
  match n.put with
  | none => (s, n)
  | some u => if n.st = .walking && localUnit q.hdr n = u.unit then (s, n)
    else (s.modCore e.core fun k => k.writeUnit u, { n with put := none })

/-- The end of a step: the head moves on, within the unit `u` of the tensor where the next step inside the clamp extents is of it, the
local unit it leaves is performed (R211), and after the last step an open line is sent (R405). -/
def State.stepEnd (s : State) (e : EngId) (q : QEntry) (h : Head) (alloc : Bool) (u : Head → Option Nat) : CRes :=
  let (s, n) := s.leaveUnit e q (Head.advance h q.hdr)
  let w := unitFrom q.hdr u h
  let stay := decide (n.st = .walking) && (h.unit.isSome || inExtent q.hdr h) && w.isSome && decide (unitFrom q.hdr u n = w)
  let n := { n with unit := if stay then some (h.unit.getD (s.msgs - 1)) else none }
  let s := if stay then s else s.dropUnit e h w
  if n.st = .done then s.sendLine e q n alloc else .ok s n

/-- A step of a copy engine. A step that faults takes no effect; one that stalls is tried again. -/
def copyStep (e : Eng) (ok : Bool) (r : EngRec) (f : State → EngId → QEntry → Head → CRes) (s : State) : Result :=
  walk e ok r (fun s e q h =>
    match f s e q h with
    | .fault t => s.engFault e 0 t
    | .stall s => s
    | .ok s h => s.setHead e h) s

/-! ## Copies in (R274, R276, R277, R407) -/

/-- An element of a host tensor read by CI, with the cause it notes; none while it waits. A unit that has been answered is served; a
read that was sent ends with its completion; none is sent out of RUN (R239, R278, R414, R415). -/
def State.readHost (s : State) (e : EngId) (q : QEntry) (h : Head) (va n : Nat) (u : Head → Option Nat) :
    State × Option (List Byte × Head) :=
  let zeros := List.replicate n (0 : Byte)
  match s.unitRead e h va with
  | some rq => match rq.result with
    | some (some bs) => (s, some ((bs.drop (va % 64)).take n, h))
    | some none => (s, some (zeros, h.note 0x13))
    | none => (s.askAhead e q h u, none)
  | none => match s.hostPage q.vnpu va with
    | .closed => (s, some (zeros, h.note 0x13))
    | .wait s => (s, none)
    | .ready => (s.askUnit e q h va, none)

/-- The bytes of a tensor element read by CI, with the cause it notes; none while it waits (R274, R277, R407). -/
def State.readElem (s : State) (e : EngId) (q : QEntry) (h : Head) (va n : Nat) (u : Head → Option Nat) :
    Except Trap (State × Option (List Byte × Head)) :=
  let ent := h.copy.toNat
  let zeros := List.replicate n (0 : Byte)
  if entHost ent then .ok (s.readHost e q h va n u)
  else
    let enc := entEnc ent
    let a := engAcc e q false enc
    let line := (s.physLine a va).getD 0
    let hit := s.resident line
    match s.loadPart (.eng e) a q.hdr.cls.toNat va n false true h.unit.isSome with
    | .trap t => if t.cause = 0x14 then .ok (s, some (zeros, h.note 0x14)) else .error t
    | .stall s => .ok (s, none)
    | .ok s bs =>
      if !enc || s.lineGood h va line hit then .ok (s, some (bs, h))
      else .ok (if hit then s else s.expel line, some (zeros, h.note 0x13))

/-- One step of CPIN, CPINA and GATHIN (R274). -/
def copyIn (list : Bool) (r : EngRec) (s : State) (e : EngId) (q : QEntry) (h : Head) : CRes :=
  let k := h.view (s.core e.core)
  let n := elemSize r.dtype
  let u := tensorUnit list k q.slot r
  match k.checked q.slot [localSide r h false] with
  | .error t => .fault t
  | .ok as =>
    let loc := as.headD 0
    let put := fun (s : State) (bs : List Byte) (h : Head) => s.stepEnd e q (h.putLocal loc bs) true u
    if !inExtent r h then put s (List.replicate n 0) { h with out := h.out + 1 }
    else match tensorAddr list k q.slot r h with
      | .error t => .fault t
      | .ok va => match s.readElem e q h va n (if list then fun _ => none else u) with
        | .error t => .fault t
        | .ok (s, none) => .stall s
        | .ok (s, some (bs, h)) => put s bs h

/-- CPIN (R274). -/
def execCpin (r : EngRec) (s : State) : Result := copyStep .ci (okTensor [0, 1] r) r (copyIn false r) s
/-- CPINA (R276): its destination is the Attic share. -/
def execCpina (r : EngRec) (s : State) : Result := copyStep .ci (okTensor [2] r) r (copyIn false r) s
/-- GATHIN (R274). -/
def execGathin (r : EngRec) (s : State) : Result := copyStep .ci (okList [0, 1] r) r (copyIn true r) s

/-- One step of PFIN (R276): it asks for the line at its home slice, or counts a step that cannot. A line of an encrypted tensor that
fails its check as it is filled is not kept (R407). -/
def pfinStep (r : EngRec) (s : State) (e : EngId) (q : QEntry) (h : Head) : CRes :=
  let fin := fun (s : State) (h : Head) => s.stepEnd e q h true fun _ => none
  let skip := fin s { h with out := h.out + 1 }
  if !inExtent r h then skip
  else match tensorAddr false (s.core e.core) q.slot r h with
    | .error t => if t.cause = 0x05 then skip else .fault t
    | .ok va =>
      let ent := h.copy.toNat
      if entHost ent then fin s h
      else if s.walkHeld (engAcc e q false (entEnc ent)) va 1 then .stall s
      else match s.checkPages (engAcc e q false (entEnc ent)) va 1 with
        | .error _ => skip
        | .ok pages =>
          let pa := ((physPieces pages va 1).headD (0, 0, 0)).2.1
          let line := pa / 128
          let l := s.leafOf q.vnpu
          let kept := !entEnc ent || s.resident line || s.lineGood h va line false
          if s.badAt pa then skip
          else if s.lineHeld line then .stall s
          else match s.admitSeq q.vnpu (s.asker (.eng e)) (s.mcCharges (some l) line true) with
            | (false, s) => .stall s
            | (true, s) =>
              let s := ((s.fillTlbs e.core pages).touch (line / 32)).sliceAccess (some l) line false true
              fin (if kept then s else s.expel line) h

/-- PFIN (R276). -/
def execPfin (r : EngRec) (s : State) : Result := copyStep .ci (okPfin r) r (pfinStep r) s

/-- FILL (R275): the element of the immediate; a 4-bit one stands in both nibbles. -/
def execFill (r : EngRec) (s : State) : Result :=
  copyStep .ci (okFill r) r (fun s e q h =>
    match (s.core e.core).checked q.slot [localSide r h false] with
    | .error t => .fault t
    | .ok as =>
      let v := immOf r.dtype r
      let v := if tw r.dtype = 4 then v * 17 else v
      s.stepEnd e q (h.putLocal (as.headD 0) (leBytes (elemSize r.dtype) v)) true fun _ => none) s

/-- CPLOC (R275): the read precedes the write, and a later step reads what an earlier one wrote. -/
def execCploc (r : EngRec) (s : State) : Result :=
  let n := elemSize r.dtype
  copyStep .ci (okCploc r) r (fun s e q h =>
    let k := h.view (s.core e.core)
    match k.checked q.slot
        [localSide r h false, ⟨r.s1.space, [h.addr r.s1], n, n, false, some r.stype, true⟩] with
    | .error t => .fault t
    | .ok as =>
      let (bs, h) := h.readLocal k (as.getD 1 0) n
      s.stepEnd e q (h.putLocal (as.getD 0 0) bs) true fun _ => none) s

/-! ## Copies out (R274, R276, R278, R405) -/

/-- An element written to an encrypted tensor (R405). Where the last step has sent one line and the next must wait, the step is taken
again with the new line open. -/
def State.writeEnc (s : State) (e : EngId) (q : QEntry) (h : Head) (va : Nat) (bs : List Byte) (alloc : Bool) : CRes :=
  if s.walkHeld (engAcc e q true true) va bs.length then .stall s
  else match s.checkPages (engAcc e q true true) va bs.length with
  | .error x => .fault (accTrap true true x)
  | .ok _ =>
    let line := lineVa va
    let opened := fun (h : Head) (d : BitVec 1024) => { h with openLine := some ⟨line, mergeLine d (va % 128) bs⟩ }
    let merge := fun (s : State) (h : Head) (d : BitVec 1024) => s.stepEnd e q (opened h d) alloc fun _ => none
    let late := match h.lastLine with | some l => decide (line ≤ l) | none => false
    match h.openLine with
    | none => if late then .fault { cause := 0x17 } else merge s h 0
    | some o =>
      if line = o.va then merge s h o.data
      else if line < o.va || late then .fault { cause := 0x17 }
      else match s.sendLine e q h alloc with
        | .ok s h => (match merge s h 0 with
          | .stall s => .ok s (opened h 0)
          | x => x)
        | x => x

/-- An element written to a host tensor: it joins the message of its unit, or begins one (R211, R278). Out of RUN no page is translated
and the message carries no byte (R415). -/
def State.writeHost (s : State) (e : EngId) (q : QEntry) (h : Head) (va : Nat) (bs : List Byte) (alloc : Bool) (u : Head → Option Nat) :
    CRes :=
  let charge := [(e.core.val, bs.length)]
  match h.unit with
  | some id => ((s.charge (s.leafOf q.vnpu) (s.asker (.eng e)) charge).appendPart id (s.hostAddr q.vnpu va) bs).stepEnd e q h alloc u
  | none =>
    let send := fun (s : State) (h : Head) (parts : List (Nat × List Byte)) =>
      match s.admitAll q.vnpu (s.asker (.eng e)) charge with
      | (false, s) => CRes.stall s
      | (true, t) => match t.sendCounted (.eng e) q.hdr.cls.toNat hostPort q.vnpu fun _ => .hostWrite q.vnpu parts with
        | none => .stall s
        | some s => s.stepEnd e q h alloc (if parts.isEmpty then fun _ => none else u)
    match s.hostPage q.vnpu va with
    | .wait s => .stall s
    | .closed => send s (h.note 0x13) []
    | .ready => send s h [(s.hostAddr q.vnpu va, bs)]

/-- An element written to a plain tensor: it joins the message of its unit, or begins one (R211, R274). -/
def State.writePlain (s : State) (e : EngId) (q : QEntry) (h : Head) (va : Nat) (bs : List Byte) (alloc : Bool) (u : Head → Option Nat) :
    CRes :=
  let a := engAcc e q true false
  match h.unit with
  | some id => match s.checkPages a va bs.length with
    | .error x => .fault (accTrap true true x)
    | .ok pages =>
      let pa := ((physPieces pages va bs.length).headD (0, 0, 0)).2.1
      ((s.charge (s.leafOf q.vnpu) (s.asker (.eng e)) [(e.core.val, bs.length)]).appendPart id pa bs).stepEnd e q h alloc u
  | none => (s.storeMsg (.eng e) a q.hdr.cls.toNat va bs 0 true alloc none).step fun s _ => s.stepEnd e q h alloc u

/-- An element written to a tensor (R274, R278, R405). -/
def State.writeElem (s : State) (e : EngId) (q : QEntry) (h : Head) (va : Nat) (bs : List Byte) (alloc : Bool) (u : Head → Option Nat) :
    CRes :=
  let ent := h.copy.toNat
  if entHost ent then s.writeHost e q h va bs alloc u
  else if entEnc ent then s.writeEnc e q h va bs alloc
  else s.writePlain e q h va bs alloc u

/-- One step of CPOUT, SCATOUT, CPOUTA and CPREM (R274): an out-of-extent step writes nothing. -/
def copyOut (list alloc : Bool) (r : EngRec) (s : State) (e : EngId) (q : QEntry) (h : Head) : CRes :=
  let k := s.core e.core
  let n := elemSize r.dtype
  let u := tensorUnit list k q.slot r
  match k.opds q.slot [localSide r h true] with
  | .error t => .fault t
  | .ok as =>
    let loc := as.headD 0
    if !inExtent r h then s.stepEnd e q { h with out := h.out + 1 } alloc u
    else match tensorAddr list k q.slot r h with
      | .error t => .fault { t with einfo := if t.cause = 0x05 && t.einfo ≠ 0 then t.einfo ||| 1 else t.einfo }
      | .ok va => match k.poisonIn [(loc, n)] with
        | some t => .fault t
        | none =>
          let (bs, h) := h.readLocal k loc n
          s.writeElem e q h va bs alloc u

/-- CPOUT (R274). -/
def execCpout (r : EngRec) (s : State) : Result := copyStep .co (okTensor [0, 2] r) r (copyOut false true r) s
/-- SCATOUT (R274). -/
def execScatout (r : EngRec) (s : State) : Result := copyStep .co (okList [0, 2] r) r (copyOut true true r) s
/-- CPOUTA (R276): its source is the accumulator store. -/
def execCpouta (r : EngRec) (s : State) : Result := copyStep .co (okTensor [1] r) r (copyOut false true r) s
/-- CPREM (R276): its writes do not allocate in the home slice. -/
def execCprem (r : EngRec) (s : State) : Result := copyStep .co (okTensor [0, 1, 2] r) r (copyOut false false r) s

/-- The host address that the current step of a walking copy record reaches, whose translation it may wait for (R454). -/
def State.hostStep (s : State) (e : EngId) : Option (VnpuId × Nat) :=
  match (s.engine e).queue with
  | [] => none
  | q :: _ =>
    let h := (s.engine e).head
    let r := q.hdr
    let opc := (recOpc q.record).toNat
    let tens := e.eng = .co || (e.eng = .ci && (opc ≤ 3))
    if h.st = .walking && tens && entHost h.copy.toNat && inExtent r h then
      match tensorAddr (decide (opc = if e.eng = .ci then 3 else 2)) (s.core e.core) q.slot r h with
      | .ok va => some (q.vnpu, va)
      | .error _ => none
    else none

end Sys2Proof.Machine
end

