-- ==== Sys2Proof/Machine/Services.lean ====
section
/-! DEFINITION. The services of the Strongroom (R389, R390, R408-R410, R436). -/

namespace Sys2Proof.Machine

/-- A class-0 read of the calling context (R410). -/
def State.readFor (s : State) (va n : Nat) (k : State → Nat → Ans) : Ans :=
  (s.load (.ctx s.me) (s.myAcc false) 0 va n s.inSlotO false).then s fun s bs => k s (leNat bs)

/-- TINST (R410). -/
def execTinst (p : Pred) (s : State) : Result :=
  service (.tinst p) p true [1, 2] (fun s c =>
    let slot := (c.rd 1).toNat
    let req := (c.rd 2).toNat
    let l := s.ctxLeaf s.me
    let w := s.ctxWorld s.me
    if c.slots ≤ slot || req % 64 ≠ 0 then served s 2 0
    else s.readFor req 64 fun s q =>
      if entWorld q ≠ w.toNat || entSealed q then served s 2 0
      else if (s.tensor l slot).writer.isSome then served s 3 0
      else
        let copy : TensorCopy := ⟨l, slot, entTid q, 0, w, entEnc q, false, none, false, none⟩
        if !entEnc q then served (s.setTensor copy) 0 0
        else s.readFor (c.entryAddr slot) 44 fun s e =>
          if w.toNat < 2 || entHost e || entTid q ≤ (getKey w s.highWater).getD 0 then served s 5 0
          else served ({ s with highWater := putKey w (entTid q) s.highWater }.setTensor copy) 0 0) s

/-- TVBUMP (R410). -/
def execTvbump (p : Pred) (s : State) : Result :=
  service (.tvbump p) p true [1] (fun s c =>
    let h := (c.rd 1).toNat
    let slot := h / 4096
    let l := s.ctxLeaf s.me
    if 2 ^ 32 ≤ h || c.slots ≤ slot then served s 2 0
    else s.readFor (c.entryAddr slot) 44 fun s e =>
      let t := s.tensor l slot
      if !entCurrent e (h % 4096) then served s 2 0
      else if !t.enc then served s 2 0
      else if t.writer.isSome then served s 3 0
      else if t.wver = 2 ^ 32 - 1 then served s 4 0
      else served (s.setTensor { t with wver := t.wver + 1, sealed := false }) 0 (t.wver + 1)) s

/-- TREMOVE (R409). -/
def execTremove (p : Pred) (s : State) : Result :=
  service (.tremove p) p true [1] (fun s c =>
    let slot := (c.rd 1).toNat
    let l := s.ctxLeaf s.me
    if c.slots ≤ slot then served s 2 0
    else if (s.tensor l slot).writer.isSome then served s 3 0
    else
      let others := fun (t : TensorCopy) => !(t.leaf = l && t.slot = slot)
      served { s with tensors := s.tensors.filter others } 0 0) s

/-- TQUERY (R409). -/
def execTquery (p : Pred) (s : State) : Result :=
  service (.tquery p) p false [1] (fun s c =>
    let slot := (c.rd 1).toNat
    if c.slots ≤ slot then served s 2 0
    else
      let t := s.tensor (s.ctxLeaf s.me) slot
      served s 0 (t.wver % 2 ^ 32 + (if t.enc then 2 ^ 32 else 0) + (if t.sealed then 2 ^ 33 else 0)
        + (if t.writer.isSome then 2 ^ 34 else 0))) s

/-- S1ROOT (R409). -/
def execS1root (p : Pred) (s : State) : Result :=
  service (.s1root p) p true [1] (fun s c =>
    let a := (c.rd 1).toNat
    if a % 4096 ≠ 0 || 2 ^ 48 ≤ a then served s 2 0
    else
      let v := c.vnpu
      served ((s.modVnpu v fun x => { x with s1root := a }).dropTlb fun e => e.vnpu = v) 0 0) s

/-- An entry of a virtual NPU translates some byte of [a, a + n); `n` 0 means all (R409). -/
def TlbEntry.inRange (e : TlbEntry) (v : VnpuId) (a n : Nat) : Bool :=
  e.vnpu = v && (n == 0 || e.meetsVa (a / 4096) ((a % 4096 + n + 4095) / 4096))

/-- TLBINV: the entries that overlap the range leave every core and strip (R401, R409). -/
def execTlbinv (p : Pred) (s : State) : Result :=
  service (.tlbinv p) p true [1, 2] (fun s c =>
    let a := (c.rd 1).toNat
    let n := (c.rd 2).toNat
    let v := c.vnpu
    served (s.dropTlb fun e => e.inRange v a n) 0 0) s

/-- REGSTAT (R389). -/
def State.regstat (s : State) (l : LeafId) (pt : Nat) : Nat :=
  let r := s.reg l pt
  let held := s.heldAt l pt
  let us := match (held.map (·.since)).min? with
    | some t => min 65535 ((s.gtc.toNat - t) / 1000)
    | none => 0
  (BitVec.ofInt 32 (Int.fdiv r.lvl 8)).toNat + (if held.isEmpty then 0 else 2 ^ 32) + (if r.tripped then 2 ^ 33 else 0) + us * 2 ^ 48

/-- REGQUERY (R409). -/
def execRegquery (p : Pred) (s : State) : Result :=
  service (.regquery p) p false [1] (fun s c =>
    let pt := (c.rd 1).toNat
    if 112 < pt then served s 2 0 else served s 0 (s.regstat (s.ctxLeaf s.me) pt)) s

/-- PARTSTAT (R390). -/
def State.partstat (s : State) (v : VnpuId) : Nat :=
  let c := s.contract v
  c.leaf.val + (topOf c.leaf).val * 2 ^ 6 + c.world.toNat * 2 ^ 16 + c.tc % 4 * 2 ^ 24 + (if c.shared then 2 ^ 26 else 0)

/-- PARTQUERY (R409). -/
def execPartquery (p : Pred) (s : State) : Result :=
  service (.partquery p) p false [] (fun s c => served s 0 (s.partstat c.vnpu)) s

/-- GRESET: it returns when the reset is complete (R409, R417). -/
def execGreset (p : Pred) (s : State) : Result :=
  ctl (.greset p) p .none [1] (fun s c =>
    let n := (c.rd 1).toNat
    match c.stage with
    | .revoking => if h : n < 64 then (if (s.vnpu ⟨n, h⟩).busy then .stall s else served s 0 0) else served s 2 0
    | _ => s.closing fun s =>
      if !c.sup then served s 1 0
      else if h : n < 64 then
        let v : VnpuId := ⟨n, h⟩
        if v = c.vnpu then served s 2 0
        else if !(s.contract v).enable || topOf (s.leafOf v) ≠ s.ctxTop s.me then served s 5 0
        else .stall ((s.startReset v).modCtx s.me fun c => { c with stage := .revoking })
      else served s 2 0) s

/-- SCRUBREQ (R436, R452). -/
def execScrubreq (p : Pred) (s : State) : Result :=
  service (.scrubreq p) p true [1, 2, 3] (fun s c =>
    let va := (c.rd 1).toNat
    let n := (c.rd 2).toNat
    let rc := (c.rd 3).toNat
    let v := c.vnpu
    if va % 4096 ≠ 0 || n % 4096 ≠ 0 || n < 4096 || 2 ^ 30 < n || rc % 64 ≠ 0 then served s 2 0
    else if 4 ≤ (s.vnpu v).sweeps.length then served s 3 0
    else
      let t := (Config.sweepTicket s.free).toNat
      let w : Sweep := ⟨va, n, rc, t, s.gtc.toNat, s.me⟩
      served { (s.modVnpu v fun x => { x with sweeps := x.sweeps ++ [w] }) with free := s.free + 1 } 0 t) s

/-- A bit for each queue that satisfies `p`. -/
def queueBits (v : Vnpu) (p : LaunchQueue → Bool) : Nat :=
  (v.queues.toList.mapIdx fun i q => if p q then 2 ^ i else 0).sum

/-- RECQUERY (R436). -/
def execRecquery (p : Pred) (s : State) : Result :=
  service (.recquery p) p false [] (fun s c =>
    let v := s.vnpu c.vnpu
    served s 0 (min v.stale 65535 + min v.fails 65535 * 2 ^ 16 + queueBits v (·.qstop) * 2 ^ 32 + queueBits v (·.dfail) * 2 ^ 40)) s

end Sys2Proof.Machine
end

