-- ==== Sys2Proof/Machine/Routines.lean ====
section
/-! DEFINITION. Slice routines: RTINST and RTMAP (R288-R292), SLX and SLXN (R293-R298), the routine machine and its 21
instructions (R283-R287). -/

namespace Sys2Proof.Machine

/-! ## Images and maps (R288, R289) -/

/-- The words of the built-in routines (R288). -/
def builtin : Nat → List (BitVec 32)
  | 0 => [0x3AD80000, 0x07188000, 0x4C000000]
  | 1 => [0x3AD80000, 0x06588000, 0x4A7807E0, 0x4A9007E0, 0x0673A000, 0x465307E0, 0x3B120000, 0x4C000000]
  | 2 => [0x3AD80000, 0x43188000, 0x4C000000]
  | 3 => [0x3AD80000, 0x1B188000, 0x4C000000]
  | 4 => [0x3AD80000, 0x1F188000, 0x4C000000]
  | 5 => [0x3AD80000, 0x23188000, 0x4C000000]
  | 6 => [0x3AD80000, 0x27188000, 0x4C000000]
  | 7 => [0x3AD80000, 0x3B100000, 0x4C000000]
  | 8 => [0x3AD80000, 0x30188000, 0x3711C000, 0x4C000000]
  | 9 => [0x3AD80000, 0x3010C004, 0x3710C000, 0x4C000000]
  | 10 => [0x3AD80000, 0x4A5807E0, 0x4A7107C0, 0x30129800, 0x3E800001, 0x0652A000, 0x3AB00000, 0x46B207E0, 0x3715C000,
           0x4C000000]
  | 11 => [0x3AD80000, 0x4A580BC0, 0x4A700BC0, 0x30129800, 0x4A9803F0, 0x3EA00001, 0x0694A800, 0x3A510000, 0x465403F0,
           0x3712C000, 0x4C000000]
  | 12 => [0x3AD80000, 0x0F188000, 0x4C000000]
  | 13 => [0x3AD80000, 0x13188000, 0x4C000000]
  | 14 => [0x3AD80000, 0x17188000, 0x4C000000]
  | 15 => [0x3AD80000, 0x30188806, 0x3E400001, 0x06589000, 0x3712C000, 0x4C000000]
  | _ => []

/-- The image of a routine id of a leaf. -/
def State.image (s : State) (l : LeafId) (rid : Nat) : Option (List (BitVec 32)) :=
  if rid < 16 then some (builtin rid)
  else (s.routines.find? fun r => r.leaf = l && r.rid = rid).map (·.words)

/-- The physical slot of a routine id of a leaf (R289). -/
def State.physSlot (s : State) (l : LeafId) (rid : Nat) : Nat :=
  if rid < 16 then rid else ((s.routines.find? fun r => r.leaf = l && r.rid = rid).map (·.slot)).getD 0

/-- The id names a built-in or an installed routine of the leaf. -/
def State.idKnown (s : State) (l : LeafId) (rid : Nat) : Bool := decide (rid < 16) || s.routines.any fun r => r.leaf = l && r.rid = rid

/-- The virtual NPU whose map a context takes: its own; in slot H that whose unit lent to it, where one did (R290, log 10). -/
def State.mapOwner (s : State) (i : CtxId) : VnpuId :=
  match i.slot with
  | .o => (s.ctx i).vnpu
  | .h => (s.core i.core).lender.getD (s.ctx i).vnpu

/-- The id a virtual routine number names (R290), among those that the leaf of the context has (R289): any other is as if unmapped (DESIGN
CHOICE, log 96). -/
def State.mapped (s : State) (i : CtxId) (vr : Fin 32) : Option (Fin 256) :=
  ((s.vnpu (s.mapOwner i)).rtMap.get vr).filter fun n => s.idKnown (s.ctxLeaf i) n.val

/-! ## RTINST and RTMAP (R291, R292) -/

/-- The result word (R291). -/
def rtWord (status word id : Nat) (none_ : Bool) : Word :=
  BitVec.ofNat 64 (status + word * 2 ^ 8 + id * 2 ^ 16 + (if none_ then 2 ^ 24 else 0))

/-- The words of an image read as bytes. -/
def imageWords : Nat → Nat → List (BitVec 32)
  | 0, _ => []
  | k + 1, v => BitVec.ofNat 32 v :: imageWords k (v / 2 ^ 32)

/-- A word that R58 or R80 refuses. -/
def wordBad (w : BitVec 32) : Bool := match decodeSl w with | .ok _ => false | .error _ => true

/-- The first rejected word of an image (R291). -/
def firstBad (ws : List (BitVec 32)) : Option Nat := ws.findIdx? wordBad

/-- The least free id of a leaf, and a free physical slot (R289, R291). -/
def State.freeId (s : State) (l : LeafId) : Option (Nat × Nat) :=
  let q := (s.leafContract l).rtq
  let mine := s.routines.filter fun r => r.leaf = l
  if q ≤ mine.length then none
  else
    match ((List.range q).map (· + 16)).find? fun n => !(mine.any fun r => r.rid = n) with
    | none => none
    | some id => (((List.range 240).map (· + 16)).find? fun n => !(s.routines.any fun r => r.slot = n)).map fun ph => (id, ph)

/-- Some invocation of an id of a leaf is under way, queued or held (R291). -/
def State.idInUse (s : State) (l : LeafId) (rid : Nat) : Bool :=
  let mine := fun (v : Invocation) => v.rid = rid && s.leafOf v.vnpu = l
  s.openInvs.any mine || s.net.any fun m => match m.body with
    | .invoke v => mine v
    | _ => false

/-- An id unmapped in every routine map of a leaf (R291). -/
def State.unmapId (s : State) (l : LeafId) (rid : Nat) : State :=
  { s with vnpus := Vector.ofFn fun v =>
      let x := s.vnpus.get v
      if s.leafOf v = l then { x with rtMap := x.rtMap.map fun e => match e with
        | some n => if n.val = rid then none else some n
        | none => none } else x }

/-- The image of a routine reaches every slice, which holds a good copy of its slot then (R291, R298). -/
def State.installRoutine (s : State) (r : Routine) : State :=
  { s with
    routines := r :: s.routines
    slices := s.slices.map fun x => { x with badImages := x.badImages.filter (· ≠ r.slot) } }

/-- RTINST (R291). -/
def execRtinst (p : Pred) (d a b : Reg) (s : State) : Result :=
  ctl (.rtinst p d a b) p .supervisor [gNum a, gNum b] (fun s c =>
    let f := c.rd b
    let l := s.ctxLeaf s.me
    let answer := fun (s : State) st w id => one s d (rtWord st w id false) 0
    if fld f 62 8 ≠ 0 then answer s 3 0 0
    else if !tb f 63 then
      let k := fld f 7 0
      if k = 0 || 16 < k then answer s 3 0 0
      else if (c.rd a).toNat % 64 ≠ 0 then .trap s { cause := 0x08 }
      else s.readFor (c.rd a).toNat (4 * k) fun s v =>
        let ws := imageWords k v
        match firstBad ws with
        | some n => answer s 1 n 0
        | none => match s.freeId l with
          | none => answer s 2 0 0
          | some (id, ph) => answer (s.installRoutine ⟨l, id, ph, ws⟩) 0 0 id
    else
      let id := fld f 7 0
      let free := fun (s : State) =>
        if s.idInUse l id then Ans.stall s
        else
          let others := fun (r : Routine) => !(r.leaf = l && r.rid = id)
          answer { s with routines := s.routines.filter others } 0 0 0
      if id < 16 then answer s 4 0 0
      else if !s.idKnown l id then answer s 3 0 0
      else match c.stage with
        | .revoking => free s
        | _ => free ((s.unmapId l id).modCtx s.me fun c => { c with stage := .revoking })) s

/-- RTMAP (R292). -/
def execRtmap (p : Pred) (d a b : Reg) (s : State) : Result :=
  ctl (.rtmap p d a b) p .supervisor [gNum a, gNum b] (fun s c =>
    let f := c.rd b
    let l := s.ctxLeaf s.me
    let n : Fin 32 := ⟨(c.rd a).toNat % 32, Nat.mod_lt _ (by decide)⟩
    let id : Fin 256 := ⟨f.toNat % 256, Nat.mod_lt _ (by decide)⟩
    let old := (s.vnpu c.vnpu).rtMap.get n
    if fld (c.rd a) 63 5 ≠ 0 || fld f 62 8 ≠ 0 then one s d (rtWord 3 0 0 false) 0
    else if !tb f 63 && !s.idKnown l id.val then one s d (rtWord 3 0 0 false) 0
    else
      let s := s.modVnpu c.vnpu fun v => { v with rtMap := v.rtMap.set n (if tb f 63 then none else some id) }
      one s d (match old with | some o => rtWord 0 0 o.val false | none => rtWord 0 0 0 true) 0) s

/-! ## Invocations (R293-R298) -/

/-- The address of an invocation, checked at the core in the order of R293, encryption last: its physical address, or the trap of
R298. -/
def State.invAddr (s : State) (a : Acc) (ea : Word) (vr : BitVec 5) (id : Option (Fin 256)) :
    Except Trap (Nat × List (Nat × TlbEntry)) :=
  if ea &&& 7 ≠ 0 then .error { cause := 0x08, eaddr := ea }
  else match id with
    | none => .error { cause := 0x12, eaddr := ea, einfo := vr.setWidth 64 }
    | some _ =>
      let enc := match s.page a ea.toNat with | .ok t => t.enc | .error _ => false
      match s.checkPages { a with enc := enc } ea.toNat 8 with
      | .error e => .error { (accTrap true false e) with eaddr := ea }
      | .ok pages => if enc then .error { cause := 0x06, eaddr := ea, einfo := accInfo true true false }
        else match physPieces pages ea.toNat 8 with
        | (_, pa, _) :: _ => .ok (pa, pages)
        | [] => .error { cause := 0x05, eaddr := ea, einfo := 1 }

/-- The translation of an invocation walks, and a routine holds a line of a table that it reads (R282, R398). -/
def State.invHeld (s : State) (a : Acc) (ea : Word) (id : Option (Fin 256)) : Bool :=
  ea &&& 7 == 0 && id.isSome && s.walkHeld a ea.toNat 8

/-- The invocation is sent as a counted message of its class (R226, R293); it waits while an earlier access of its class to
another home slice is unacknowledged (R216), and is held by the regulator of the core port (R386). -/
def State.sendInv (s : State) (v : Invocation) (pages : List (Nat × TlbEntry)) : AccRes Unit :=
  let r := Src.ctx v.src
  let home := (homeSlice (v.pa / 128)).val
  let wait := s.net.any fun m => (s.turn r v.cls).same m.turn && m.cls == v.cls && m.target != home && (match m.body with
    | .write .. => true
    | .invoke _ => true
    | _ => false)
  if wait then .stall s
  else match s.admitAll v.vnpu (s.asker r) [(v.src.core.val, 24)] with
    | (false, s) => .stall s
    | (true, t) =>
      match (t.fillTlbs v.src.core pages).sendCounted r v.cls home v.vnpu fun ph => .invoke { v with phase := ph } with
      | some s => .ok s ()
      | none => .stall s

/-- The invocation of the acting context. -/
def State.newInv (s : State) (c : Ctx) (wait : Bool) (pa : Nat) (ea : Word) (id : Fin 256) (vr : BitVec 5) (x0 x1 : Word) (cls : Nat) :
    Invocation :=
  ⟨s.msgs, s.me, wait, pa, ea.toNat, id.val, vr.toNat, ea.toNat / 8 % 16, x0, x1, cls, c.order, 0, c.vnpu, (s.vnpu c.vnpu).rgen, c.slxn,
   !c.sup, c.serial⟩

/-- The virtual routine number as an index. -/
def vrIx (vr : BitVec 5) : Fin 32 := ⟨vr.toNat, vr.isLt⟩

/-- SLX (R293): the reply of done is in the stage when it has returned (R294). -/
def execSlx (p : Pred) (cls : BitVec 4) (d a b x : Reg) (vr : BitVec 5) (s : State) : Result :=
  ctl (.slx p cls d a b x vr) p .none [gNum a, gNum b, gNum x] (fun s c =>
    match c.stage with
    | .replied q => one s d q 0
    | .sent _ => .stall s
    | _ =>
      let id := s.mapped s.me (vrIx vr)
      if s.invHeld (s.myAcc true) (c.rd a) id then .stall s
      else match s.invAddr (s.myAcc true) (c.rd a) vr id, id with
      | .error t, _ => .trap s t
      | .ok (pa, pages), some n =>
        let v := s.newInv c true pa (c.rd a) n vr (c.rd b) (c.rd x) cls.toNat
        (s.sendInv v pages).then s fun s _ => .stall (s.modCtx s.me fun c => { c with stage := .sent v.id })
      | .ok _, none => .trap s { cause := 0x12, eaddr := c.rd a, einfo := vr.setWidth 64 }) s

/-- A routine-fault record (R296, R298). -/
def faultRecord (v : Invocation) (cause detail : Nat) (gtc : Word) : EvEntry :=
  ⟨BitVec.ofNat 64 (2 + v.cls * 2 ^ 4 + cause * 2 ^ 8 + v.seq.toNat % 65536 * 2 ^ 16 + v.vr * 2 ^ 32 + detail * 2 ^ 40
    + (v.src.core.val * 8 + 7) * 2 ^ 48), gtc⟩

/-- SLXN (R295): every fault found here is a routine-fault record, which waits until it may be stamped (R242), and nothing is sent after
it. -/
def execSlxn (p : Pred) (cls : BitVec 4) (a b x : Reg) (vr : BitVec 5) (s : State) : Result :=
  ctl (.slxn p cls a b x vr) p .none [gNum a, gNum b, gNum x] (fun s c =>
    let id := s.mapped s.me (vrIx vr)
    let count := fun (s : State) => s.modCtx s.me fun c => { c with slxn := c.slxn + 1 }
    let refuse := fun (t : Trap) =>
      let v := s.newInv c false 0 (c.rd a) 0 vr 0 0 cls.toNat
      if !s.mayStamp (.ctx s.me) then .stall s
      else plain (((count s).modCtx s.me fun c => c.pushEvent (faultRecord v t.cause 0 s.gtc)).stamped (.ctx s.me))
    if s.invHeld (s.myAcc true) (c.rd a) id then .stall s
    else match s.invAddr (s.myAcc true) (c.rd a) vr id, id with
    | .error t, _ => refuse t
    | .ok (pa, pages), some n =>
      (s.sendInv (s.newInv c false pa (c.rd a) n vr (c.rd b) (c.rd x) cls.toNat) pages).then s fun s _ => plain (count s)
    | .ok _, none => refuse { cause := 0x12 }) s

/-! ## The routine machine (R283-R287) -/

/-- A slice register read (R57, R283). -/
def Exec.rd (e : Exec) (r : SlReg) : Word :=
  if h : r.toNat < 16 then e.lanes[r.toNat]
  else match r.toNat with
    | 16 => e.x0
    | 17 => e.x1
    | 18 => e.y[0]
    | 19 => e.y[1]
    | 20 => e.y[2]
    | 21 => e.y[3]
    | 22 => e.q
    | 23 => BitVec.ofNat 64 e.n.val
    | 24 => e.lanes[e.n.val]
    | _ => 0

/-- A lane written (R284). -/
def Exec.wrLane (e : Exec) (k : Fin 16) (v : Word) : Exec :=
  { e with lanes := e.lanes.set k.val v k.isLt, written := e.written ||| (1#16 <<< k.val) }

/-- A slice register written (R57). -/
def Exec.wr (e : Exec) (r : SlReg) (v : Word) : Exec :=
  if h : r.toNat < 16 then e.wrLane ⟨r.toNat, h⟩ v
  else match r.toNat with
    | 18 => { e with y := e.y.set 0 v }
    | 19 => { e with y := e.y.set 1 v }
    | 20 => { e with y := e.y.set 2 v }
    | 21 => { e with y := e.y.set 3 v }
    | 22 => { e with q := v }
    | 24 => e.wrLane e.n v
    | _ => e

/-- The written lanes stored to the held line (R285). The invoking core has read the line at its home: its L1 keeps no older copy
(R222, R234). Nothing is stored to a page that has passed to another world since (R402). -/
def State.commitLanes (s : State) (v : Invocation) (e : Exec) : State :=
  let base := v.pa / 128 * 128
  if e.written = 0 || !s.mayAccess v.vnpu (s.pageWorld (v.pa / 4096)) then s
  else
  let s := (List.finRange 16).foldl (fun s k =>
    if e.written.getLsbD k.val then
      s.dstore (base + 8 * k.val) (leBytes 8 (e.lanes.get k).toNat)
    else s) s
  s.sliceAccess (some (s.leafOf v.vnpu)) (v.pa / 128) true true

/-- The answer of an invocation leaves its slice, which counts the invocation (R297). -/
def State.answerInv (s : State) (m : SliceId) (v : Invocation) (r : Reply) : State :=
  (s.countArrival m.val (.ctx v.src) v.phase).post { s.mkMsg (.ctx v.src) v.cls m.val v.phase v.vnpu (.reply v r) with rgen := v.rgen }

/-- The routine of the acting executor ends, with commit or without (R285). -/
def State.endRoutine (s : State) (e : Exec) (commit : Bool) : State :=
  let m := s.cur.slice
  let s := s.modSlice m fun x => x.setExec s.cur.exec {}
  match e.inv with
  | none => s
  | some v => ((if commit then s.commitLanes v e else s).l1Evict v.src.core (v.pa / 128)).answerInv m v (.done e.q)

/-- A word of the acting executor: its effect; after the last word the routine ends as by LRET (R285). -/
def slWord (f : Exec → Exec) (s : State) : Result :=
  let e := (s.slice s.cur.slice).exec s.cur.exec
  let e := { f e with words := e.words.drop 1 }
  .next (if e.words.isEmpty then s.endRoutine e true else s.modSlice s.cur.slice fun x => x.setExec s.cur.exec e)

/-- An operation of two sources. -/
def sl2 (d a b : SlReg) (f : Word → Word → Word) (s : State) : Result := slWord (fun e => e.wr d (f (e.rd a) (e.rd b))) s

def execLadd (d a b : SlReg) (s : State) : Result := sl2 d a b (· + ·) s
def execLsub (d a b : SlReg) (s : State) : Result := sl2 d a b (· - ·) s
def execLand (d a b : SlReg) (s : State) : Result := sl2 d a b (· &&& ·) s
def execLor (d a b : SlReg) (s : State) : Result := sl2 d a b (· ||| ·) s
def execLxor (d a b : SlReg) (s : State) : Result := sl2 d a b (· ^^^ ·) s
def execLmin (d a b : SlReg) (s : State) : Result := sl2 d a b (fun x y => if x.sle y then x else y) s
def execLmax (d a b : SlReg) (s : State) : Result := sl2 d a b (fun x y => if x.sle y then y else x) s
def execLminu (d a b : SlReg) (s : State) : Result := sl2 d a b (fun x y => if x.ule y then x else y) s
def execLmaxu (d a b : SlReg) (s : State) : Result := sl2 d a b (fun x y => if x.ule y then y else x) s
def execLshl (d a b : SlReg) (s : State) : Result := sl2 d a b (fun x y => x <<< (y.toNat % 64)) s
def execLshr (d a b : SlReg) (s : State) : Result := sl2 d a b (fun x y => x >>> (y.toNat % 64)) s

/-- LCMP: f of the integer condition (R286, R137). -/
def execLcmp (a b : SlReg) (cc : BitVec 4) (s : State) : Result :=
  slWord (fun e => { e with f := intCond cc.toNat (e.rd a) (e.rd b) }) s

/-- LSEL. -/
def execLsel (d a b : SlReg) (s : State) : Result := slWord (fun e => e.wr d (if e.f then e.rd a else e.rd b)) s

def execLmov (d a : SlReg) (s : State) : Result := slWord (fun e => e.wr d (e.rd a)) s
def execLmovi (d : SlReg) (imm : BitVec 11) (s : State) : Result := slWord (fun e => e.wr d (imm.signExtend 64)) s

/-- One half of LADDF (R287). -/
def halfSum (x y : Nat) : Nat := (addFmt fmtF32 .rne false (fmtF32.decode x) (fmtF32.decode y)).1

/-- LADDF (R287). -/
def execLaddf (d a b : SlReg) (s : State) : Result :=
  sl2 d a b (fun x y => BitVec.ofNat 64 (halfSum (x.toNat % 2 ^ 32) (y.toNat % 2 ^ 32)
    + halfSum (x.toNat / 2 ^ 32) (y.toNat / 2 ^ 32) * 2 ^ 32)) s

/-- A mask of `w` bits from `pos` on. -/
def fieldMask (pos w : Nat) : Word := BitVec.ofNat 64 ((2 ^ w - 1) * 2 ^ pos)

/-- LINS: the other bits of d are kept (R286). -/
def execLins (d a : SlReg) (pos wm1 : BitVec 6) (s : State) : Result :=
  slWord (fun e =>
    let m := fieldMask pos.toNat (wm1.toNat + 1)
    e.wr d ((e.rd d &&& ~~~m) ||| ((e.rd a <<< pos.toNat) &&& m))) s

/-- LEXT (R286). -/
def execLext (d a : SlReg) (pos wm1 : BitVec 6) (s : State) : Result :=
  slWord (fun e => e.wr d ((e.rd a >>> pos.toNat) &&& fieldMask 0 (wm1.toNat + 1))) s

/-- LRET (R285). -/
def execLret (s : State) : Result := .next (s.endRoutine ((s.slice s.cur.slice).exec s.cur.exec) true)

/-- LFAIL (R285). -/
def execLfail (s : State) : Result := .next (s.endRoutine ((s.slice s.cur.slice).exec s.cur.exec) false)

/-- LNOP (R286). -/
def execLnop (s : State) : Result := slWord (fun e => e) s

end Sys2Proof.Machine
end

