-- ==== Sys2Proof/Machine/Arrivals.lean ====
section
/-! DEFINITION. The events of messages: arrivals at a home slice or the host port (R229, R238, R276, R282, R386, R415), markers and
phases (R229-R232), slice invocations and their replies (R280-R282, R293-R300), and the migration of a page (R299). -/

namespace Sys2Proof.Machine

/-! ## Order of a source (R213, R214) -/

/-- The place of a message in the order of its source: an invocation keeps that of its first sending (R299). -/
def Msg.key (m : Msg) : Nat :=
  match m.body with
  | .invoke i => i.id
  | _ => m.id

/-- An access of turn `t` to [pa, pa + n) of global memory, or of the host's, of place `key`, comes after one still to be performed
(R213, R214). -/
def State.behind (s : State) (t : Turn) (key : Nat) (host : Bool) (pa n : Nat) : Bool :=
  (s.net.any fun m => decide (m.key < key) && m.blocks t host pa n)
    || (!host && s.openInvs.any fun i => decide (i.id < key) && i.blocks t pa n)

/-- A message leaves the network. -/
def State.unpost (s : State) (m : Msg) : State := { s with net := s.net.filter fun x => x.id ≠ m.id }

/-! ## ACCESS_ARRIVAL -/

/-- The tag of a line of an encrypted tensor, as its write leaves it (R405, R407). -/
def State.putTag (s : State) (line : Nat) : Option LineTag → State
  | some t => { s with lineTags := putKey line t s.lineTags, badLines := s.badLines.filter (· ≠ line) }
  | none => s

/-- A write is performed at its home slice in one event: DRAM, the ways, the copies of the source's L1, the tag (R211, R234, R393,
R405). -/
def State.performWrite (s : State) (m : Msg) (parts : List (Nat × List Byte)) (line : Nat) (alloc : Bool) (tag : Option LineTag) :
    State :=
  let s := parts.foldl (fun s p =>
    let s := s.dstore p.1 p.2
    match srcCore m.src with
    | some c => s.l1Update c p.1 p.2
    | none => s) s
  (s.sliceAccess (some (s.leafOf m.vnpu)) line true alloc).putTag line tag

/-- The line that a write reaches. -/
def lineOfParts (parts : List (Nat × List Byte)) : Nat := (parts.headD (0, [])).1 / 128

/-- A write arrives: it waits for its phase, for what it is ordered after, for a routine that holds its line and for the
regulator of its controller; one whose page has passed to a world its sender may not access is refused. Performed or refused it is
counted (R227, R229, R282, R386, R396). -/
def State.arriveWrite (s : State) (m : Msg) (parts : List (Nat × List Byte)) (after : Nat) (alloc : Bool) (tag : Option LineTag) :
    State :=
  let line := lineOfParts parts
  let count := fun (s : State) => (s.unpost m).countArrival m.target m.src m.phase
  if parts.isEmpty || !s.mayAccess m.vnpu (s.pageWorld (line / 32)) then count s
  else if !s.phaseDone m.src after || (parts.any fun p => s.behind m.turn m.key false p.1 p.2.length) || s.lineHeld line then s
  else match s.admitSeq m.vnpu (.msg m.id) (s.mcCharges (some (s.leafOf m.vnpu)) line alloc) with
    | (false, s) => s
    | (true, s) => count (s.performWrite m parts line alloc tag)

/-- A write of host memory is accepted by the host port in the order of its source, or dropped with STATUS INTEGRITY where its
interface is not in RUN; it is counted either way (R214, R229, R238, R415). -/
def State.arriveHost (s : State) (m : Msg) (v : VnpuId) (parts : List (Nat × List Byte)) : State :=
  if parts.any fun p => s.behind m.turn m.key true p.1 p.2.length then s
  else
    let s := if s.inRun v then parts.foldl (fun s p => { s with host := s.host.write p.1 p.2 }) s
      else match m.src with
        | .eng e => s.modEngine e fun x => { x with head := x.head.note 0x13 }
        | _ => s
    (s.unpost m).countArrival hostPort m.src m.phase

/-- A page is marked for migration (R299). -/
def State.marked (s : State) (page : Nat) : Bool := s.migrating.any fun g => decide (g.old ≤ page) && decide (page < g.old + g.pages)

/-- An invocation arrives at its home slice: it is queued, or NACKed on a page marked for migration (R280, R299). The spec gives the
queues no capacity: none is ever full (DESIGN CHOICE, log 95). -/
def State.arriveInv (s : State) (m : Msg) (i : Invocation) : State :=
  let home := homeSlice (i.pa / 128)
  if s.net.any fun x => decide (x.key < m.key) && x.blocks m.turn false (i.pa / 128 * 128) 128 then s
  else if s.marked (i.pa / 4096) then (s.unpost m).answerInv home i .nack
  else (s.unpost m).modSlice home fun x => { x with queue := x.queue ++ [i] }

/-- ACCESS_ARRIVAL of the message the event names. -/
def execAccessArrival (s : State) : Result :=
  .next (match s.net.find? fun m => m.id = s.cur.ev.n with
    | none => s
    | some m => match m.body with
      | .write parts after alloc tag => s.arriveWrite m parts after alloc tag
      | .hostWrite v parts => s.arriveHost m v parts
      | .invoke i => s.arriveInv m i
      | .marker _ _ => s
      | .reply _ _ => s)

/-! ## Markers and phases (R229-R232, R297) -/

/-- One acknowledgement of a target for a phase. -/
def Phases.ack (p : Phases) (num target : Nat) : Phases :=
  { p with opens := p.opens.map fun o => if o.num = num then { o with targets := removeFirst (· = target) o.targets } else o }

/-- PHASE_MARKER: a marker whose count has arrived is acknowledged, and its counter goes back by the count: to 0, unless
retries have arrived that a supplementary marker counts (R229, R297). -/
def execPhaseMarker (s : State) : Result :=
  .next (match s.net.find? fun m => m.id = s.cur.ev.n with
    | none => s
    | some m => match m.body with
      | .marker num count =>
        let have_ := s.arrived m.target m.src num
        if have_ < count then s
        else
          let s := (s.unpost m).clearArrival m.target m.src num
          let s := if have_ = count then s
            else { s with arrivals := ⟨m.target, m.src, num % 4, have_ - count⟩ :: s.arrivals }
          s.setPhases m.src ((s.phases m.src).ack num m.target)
      | _ => s)

/-- The first phase of a source that a reply still to be taken keeps open (R297). -/
def State.replyPhase (s : State) (r : Src) : Option Nat :=
  (s.net.filterMap fun m => match m.body with
    | .reply i _ => if Src.ctx i.src == r then some i.phase else none
    | _ => none).min?

/-- PHASE_COMPLETION: phases that every target has acknowledged complete, in order (R231). -/
def execPhaseCompletion (s : State) : Result :=
  let r := s.cur.ev.src
  let p := s.phases r
  .next (if s.recordWaits r then s
    else s.setPhases r (match s.replyPhase r with
      | some k => Phases.pop (k - p.completed) p
      | none => Phases.pop p.opens.length p))

/-! ## SLICE_INVOCATION (R280-R283, R298) -/

/-- The leaf of an invocation. -/
def State.invLeaf (s : State) (i : Invocation) : LeafId := s.leafOf i.vnpu

/-- An invocation is ready: no executor holds its line, and nothing of its source that it is ordered after is still to be
performed (R213, R280). -/
def State.invReady (s : State) (i : Invocation) : Bool :=
  !s.lineHeld (i.pa / 128) && !s.behind i.turn i.id false (i.pa / 128 * 128) 128

/-- The ready invocations of a partition as they are granted: traffic class 0 before others, then in order of arrival (R280). -/
def State.readyOf (s : State) (m : SliceId) (t : TopId) : List Invocation :=
  let ready := (s.slice m).queue.filter fun i => topOf (s.invLeaf i) = t && s.invReady i
  (ready.filter fun i => (s.contract i.vnpu).tc = 0) ++ ready.filter fun i => (s.contract i.vnpu).tc ≠ 0

/-- The invocations that a slice may grant: round robin over the top-level partitions, from the one after the last granted (R280). -/
def State.grantable (s : State) (m : SliceId) : List (TopId × Invocation) :=
  ((List.finRange 8).map fun n => (⟨((s.slice m).rr + 1 + n.val) % 8, Nat.mod_lt _ (by decide)⟩ : TopId)).flatMap fun t =>
    (s.readyOf m t).map fun i => (t, i)

/-- EINFO of SLICE_ROUTINE_FAULT (R298). -/
def sliceInfo (m : SliceId) (sub : Nat) : Nat := sub + m.val * 2 ^ 8

/-- The faults found before the hold begins, in the order of R298: cause, EINFO, sub-cause. An id that the leaf has no more meets the
cause of an unmapped number (log 96). -/
def State.invFault (s : State) (m : SliceId) (i : Invocation) : Option (Nat × Nat × Nat) :=
  if s.badAt i.pa then some (0x14, 0, 0)
  else if !s.mayAccess i.vnpu (s.pageWorld (i.pa / 4096)) then some (0x07, 2, 0)
  else if !s.idKnown (s.invLeaf i) i.rid then some (0x12, i.vr, 0)
  else if (s.slice m).badImages.contains (s.physSlot (s.invLeaf i) i.rid) then some (0x11, sliceInfo m 2, 2)
  else none

/-- The lanes of a line (R283). -/
def State.lanesAt (s : State) (line : Nat) : Vector Word 16 :=
  Vector.ofFn fun k => BitVec.ofNat 64 (leNat (s.dbytes (line * 128 + 8 * k.val) 8))

/-- The executor as a routine starts (R283). -/
def State.startExec (s : State) (i : Invocation) : Exec :=
  { inv := some i, lanes := s.lanesAt (i.pa / 128), x0 := i.x0, x1 := i.x1, n := ⟨i.lane % 16, Nat.mod_lt _ (by decide)⟩
    words := (s.image (s.invLeaf i) i.rid).getD [] }

/-- The first of the invocations that no regulator holds is granted to an executor, which fills its line and holds it, or is rejected by
its fault (R280, R298, R386). -/
def State.grantFirst (s : State) (m : SliceId) (x : Fin 4) : List (TopId × Invocation) → State
  | [] => s
  | (t, i) :: rest =>
    let line := i.pa / 128
    let grant := fun (s : State) => s.modSlice m fun y => { y with rr := t.val, queue := y.queue.filter fun j => !(j.id = i.id && j.src = i.src) }
    match s.invFault m i with
    | some (cause, info, sub) =>
      let s := grant s
      let s := if sub = 2 then s.modSlice m fun y =>
          { y with badImages := y.badImages.filter (· ≠ s.physSlot (s.invLeaf i) i.rid) } else s
      s.answerInv m i (.fault cause info sub)
    | none => match s.admitSeq i.vnpu (.inv i.id) (s.mcCharges (some (s.invLeaf i)) line true) with
      | (false, s) => s.grantFirst m x rest
      | (true, s) =>
        let s := ((grant s).touch (line / 32)).sliceAccess (some (s.invLeaf i)) line false true
        s.modSlice m fun y => y.setExec x (s.startExec i)

/-- SLICE_INVOCATION: a free executor of the slice takes the invocation granted. -/
def State.takeInv (s : State) (m : SliceId) : State :=
  match (List.finRange 4).find? fun x => (((s.slice m).exec x).inv).isNone with
  | none => s
  | some x => s.grantFirst m x (s.grantable m)

/-- SLICE_INVOCATION (R280). -/
def execSliceInvocation (s : State) : Result := .next (s.takeInv s.cur.ev.slice)

/-! ## SLX_REPLY (R293-R300) -/

/-- The retry of an invocation is counted in its phase: in the current phase, which is closed first where the count would pass 65,535,
or by a supplementary marker (R230, R297). -/
def State.countRetry (s : State) (i : Invocation) (home : Nat) : Option State :=
  let r := Src.ctx i.src
  let full := decide (i.phase = (s.phases r).closed ∧ 65535 ≤ (getKey home (s.phases r).counts).getD 0)
  (if full then s.closePhase r i.vnpu else some s).map fun s =>
    let p := s.phases r
    if i.phase = p.closed then
      s.setPhases r { p with counts := putKey home ((getKey home p.counts).getD 0 + 1) p.counts }
    else
      let add := fun (o : OpenPhase) => if o.num = i.phase then { o with targets := o.targets ++ [home] } else o
      (s.setPhases r { p with opens := p.opens.map add }).post (s.mkMsg r 0 home i.phase i.vnpu (.marker i.phase 1))

/-- The message of an invocation sent again: its generation, SERIAL and order are those of its first sending. -/
def State.againMsg (s : State) (i : Invocation) (home : Nat) : Msg :=
  { s.mkMsg (.ctx i.src) i.cls home i.phase i.vnpu (.invoke i) with rgen := i.rgen, serial := i.serial, order := i.order }

/-- A NACKed invocation is sent again after its translation is refreshed, once its page is not marked any more; it is checked as at first
(R299). -/
def State.retryInv (s : State) (m : Msg) (i : Invocation) (fail : State → Trap → State) : State :=
  let a : Acc := { core := i.src.core, vnpu := i.vnpu, user := i.user, write := true }
  let fresh := s.modCore i.src.core fun k => { k with tlb := k.tlb.filter fun e => !(e.vnpu = i.vnpu && e.covers i.va) }
  let rid : Fin 256 := ⟨i.rid % 256, Nat.mod_lt _ (by decide)⟩
  if fresh.invHeld a (BitVec.ofNat 64 i.va) (some rid) then s
  else match fresh.invAddr a (BitVec.ofNat 64 i.va) (BitVec.ofNat 5 i.vr) (some rid) with
  | .error t => fail (fresh.unpost m) t
  | .ok (pa, pages) => if s.marked (pa / 4096) then s else match fresh.admitAll i.vnpu (.msg m.id) [(i.src.core.val, 24)] with
    | (false, s) => s
    | (true, t) =>
      let home := (homeSlice (pa / 128)).val
      match ((t.unpost m).fillTlbs i.src.core pages).countRetry i home with
      | none => s
      | some s => s.post (s.againMsg { i with pa := pa } home)

/-- The context that waits for the reply of an SLX (R294). -/
def State.awaitsReply (s : State) (i : Invocation) : Bool :=
  let c := s.ctx i.src
  c.live && c.stage == .sent i.id

/-- The context to which the record of an SLXN is owed. -/
def State.owedRecord (s : State) (i : Invocation) : Bool :=
  let c := s.ctx i.src
  c.live && c.vnpu == i.vnpu && c.serial == i.serial

/-- The reply of an SLX: q is ready to land, the invocation is sent again, or the context traps at the SLX (R293, R294). A
reply to a context that no longer waits is discarded (R297). -/
def State.slxReply (s : State) (m : Msg) (i : Invocation) (r : Reply) : State :=
  if !s.awaitsReply i then s.unpost m
  else match r with
    | .done q => (s.unpost m).modCtx i.src fun c => { c with stage := .replied q }
    | .nack => s.retryInv m i fun s t => s.raise i.src t
    | .fault cause info _ =>
      (s.unpost m).raiseBy i.src 7 { cause := cause, eaddr := BitVec.ofNat 64 i.va, einfo := BitVec.ofNat 64 info }

/-- The reply of an SLXN: a fault is a record in the event queue, once it may be stamped (R242, R295, R296). -/
def State.slxnReply (s : State) (m : Msg) (i : Invocation) (r : Reply) : State :=
  let record := fun (s : State) cause sub =>
    if s.owedRecord i then (s.modCtx i.src fun c => c.pushEvent (faultRecord i cause sub s.gtc)).stamped (.ctx i.src) else s
  if s.owedRecord i && !s.mayStamp (.ctx i.src) then s
  else match r with
  | .done _ => s.unpost m
  | .nack => s.retryInv m i fun s t => record s t.cause 0
  | .fault cause _ sub => record (s.unpost m) cause sub

/-- SLX_REPLY: a reply of an earlier reset generation is discarded (R300). -/
def execSlxReply (s : State) : Result :=
  .next (match s.net.find? fun m => m.id = s.cur.ev.n with
    | none => s
    | some m => match m.body with
      | .reply i r =>
        if i.rgen ≠ (s.vnpu i.vnpu).rgen then s.unpost m
        else if i.wait then s.slxReply m i r
        else s.slxnReply m i r
      | _ => s)

/-! ## PAGE_MIGRATION (R299) -/

/-- The stage-2 entry that maps a page: its address, its value, and the logarithm of the bytes it maps (R398, R399). -/
def pageEntry (s : State) : Nat → Nat → Nat → Option (Nat × Nat × Nat)
  | 0, _, _ => none
  | n + 1, table, a =>
    let level := 3 - n
    let at_ := table + 8 * levelIndex level a
    let e := s.dword at_
    if !entryOk false level e then none
    else if bits e 1 1 = 1 then some (at_, e, leafSize level e)
    else pageEntry s n (bits e 47 12 * 4096) a

/-- The stage-2 entry of a page of the intermediate space. -/
def State.mapEntry (s : State) (v : VnpuId) (ipage : Nat) : Option (Nat × Nat × Nat) :=
  if (s.vnpu v).s2root = 0 then none else pageEntry s 4 (s.vnpu v).s2root (ipage * 4096 % 2 ^ 48)

/-- A write of the root controller to a line is performed and counted (R226): where it makes one, fewer than three of its phases are open,
so that the count finds room (R230, R232). -/
def State.rootWrote (s : State) (line : Nat) : State :=
  ((s.countNow .root (homeSlice line).val 0).getD s).sliceAccess none line true true

/-- The root controller may write a line: no routine holds it, and a phase may close (R232, R282). -/
def State.rootMay (s : State) (line : Nat) : Bool := decide (s.rootPhases.opens.length < 3) && !s.lineHeld line

/-- The entry is rewritten; one of 64 KiB stands in 16 places of its line (R399). -/
def State.putEntry (s : State) (at_ size v : Nat) : State :=
  (if size = 16 then (List.range 16).foldl (fun s i => s.dstore (at_ / 128 * 128 + 8 * i) (leBytes 8 v)) s
    else s.dstore at_ (leBytes 8 v)).rootWrote (at_ / 128)

/-- Invocations on pages marked for migration that no executor holds are NACKed (R299). -/
def State.nackMarked (s : State) : State :=
  (List.finRange 72).foldl (fun s m =>
    let out := (s.slice m).queue.filter fun i => s.marked (i.pa / 4096)
    if out.isEmpty then s
    else
      let t := s.modSlice m fun x => { x with queue := x.queue.filter fun i => !s.marked (i.pa / 4096) }
      out.foldl (fun s i => s.answerInv m i .nack) t) s

/-- Some line of `n` pages from a page is held, or a write or an invocation to it is in flight. -/
def State.pagesBusy (s : State) (page n : Nat) : Bool :=
  let among := fun (pa : Nat) => decide (page ≤ pa / 4096) && decide (pa / 4096 < page + n)
  (s.slices.toList.any fun x => x.execs.toList.any fun e => match e.inv with | some i => among i.pa | none => false)
    || s.net.any fun m => match m.body with
      | .write parts _ _ _ => parts.any fun p => among p.1
      | .invoke i => among i.pa
      | _ => false

/-- Every copy of a page's lines on the die goes, and every translation to it (R401, R402). -/
def State.forgetPage (s : State) (page : Nat) : State :=
  State.dropTlb { s with
    slices := s.slices.map fun x => { x with resident := x.resident.filter fun r => r.line / 32 ≠ page }
    cores := s.cores.map fun k => { k with
      l1 := k.l1.filter fun l => l.line / 32 ≠ page
      icache := k.icache.filter fun l => l.line / 32 ≠ page } } fun e => e.meetsPa page

/-- A page passes to a world (R402): its lines and translations go, its byte is set, and it is pending-zero. -/
def State.passPage (s : State) (page : Nat) (w : BitVec 8) : State :=
  let s := s.forgetPage page
  { s with
    owner := if w = 0 then s.owner.filter fun e => e.1 ≠ page else putKey page w s.owner
    zeroed := s.zeroed.filter (· ≠ page) }

/-- The contents, tags and marks of a page copied to another, line by line a write of the root controller (R226, R299); of a pending-zero
page the other is pending too. -/
def State.copyPage (s : State) (old new : Nat) : State :=
  if !s.filled old then s
  else
    let s := s.touch new
    let far := fun (l : Nat) => l / 32 = old
    let to_ := fun (l : Nat) => new * 32 + l % 32
    (List.range 32).foldl (fun s i => s.rootWrote (new * 32 + i)) { s with
      dram := s.dram.splice (new * 4096) 4096 s.dram (old * 4096)
      lineTags := s.lineTags ++ (s.lineTags.filter fun e => far e.1).map fun e => (to_ e.1, e.2)
      badLines := s.badLines ++ (s.badLines.filter far).map to_
      poison := s.poison ++ (s.poison.filter far).map to_ }

/-- The mapping is marked: the whole of a large one moves, to pages of world 0 aligned as it is (log 36). -/
def State.mark (s : State) (v : VnpuId) (ipage new : Nat) : State :=
  match s.mapEntry v ipage with
  | none => s
  | some (_, e, size) =>
    let n := 2 ^ (size - 12)
    let old := bits e 37 12 / n * n
    let free := (List.range n).all fun i => s.pageWorld (new + i) == 0
    if new % n ≠ 0 || old = new || 2 ^ 26 < new + n || !free then s
    else State.nackMarked { s with migrating := ⟨v, ipage / n * n, old, new, n⟩ :: s.migrating }

/-- The mapping flips: each page with its world, contents and marks is at its new place, where a PROD word in it is heard from then
on, and the old page passes to world 0. -/
def State.flip (s : State) (g : Migration) : State :=
  let rest := s.migrating.filter fun x => x ≠ g
  match s.mapEntry g.vnpu g.ipage with
  | none => { s with migrating := rest }
  | some (at_, e, size) =>
    let s := (List.range g.pages).foldl (fun s i => (s.passPage (g.new + i) (s.pageWorld (g.old + i))).copyPage (g.old + i) (g.new + i)) s
    let s := s.putEntry at_ size (e - bits e 47 12 * 4096 + g.new * 4096)
    let s := (List.range g.pages).foldl (fun s i => s.passPage (g.old + i) 0) s
    { s with
      migrating := rest
      prodAt := s.prodAt.map fun x =>
        if decide (g.old * 4096 ≤ x.2.2) && decide (x.2.2 < (g.old + g.pages) * 4096) then (x.1, x.2.1, x.2.2 + g.new * 4096 - g.old * 4096) else x }

/-- The Strongroom marks a page, and once no line of it is held and the root controller's phases are complete copies and flips it (R232,
R299). -/
def State.migrate (s : State) (v : VnpuId) (ipage new : Nat) : State :=
  match s.migrating.find? fun g => g.vnpu = v && decide (g.ipage ≤ ipage) && decide (ipage < g.ipage + g.pages) with
  | none => s.mark v ipage new
  | some g =>
    let s := s.nackMarked
    let entry := match s.mapEntry g.vnpu g.ipage with
      | some (at_, _, _) => s.lineHeld (at_ / 128)
      | none => false
    if s.pagesBusy g.old g.pages || entry || !s.phasesQuiet .root then s else s.flip g

/-- PAGE_MIGRATION. -/
def execPageMigration (s : State) : Result := .next (s.migrate s.cur.ev.vnpu s.cur.ev.n s.cur.ev.m)

end Sys2Proof.Machine
end

