-- ==== Sys2Proof/Machine/Matrix.lean ====
section
/-! DEFINITION. The matrix engine: the checks of R196-R198, the step of the MMA family (R200, R201, R106, R107), MRET
(R202) and MZERO (R203), with their tags (R191) and carry (R205). -/

namespace Sys2Proof.Machine

/-! ## Checks (R196, R197) -/

/-- The types of MMA. -/
def mmaTypes (r : EngRec) : Bool :=
  let s := r.stype.toNat
  (decide (1 ≤ s) && decide (s ≤ 5) && r.dtype == 0) || ((s == 8 || s == 9) && r.dtype == 6)

/-- Every stride of a descriptor is a multiple of m. -/
def strideMult (m : Nat) (d : Desc) : Bool :=
  decide (d.s0.toNat % m = 0) && decide (d.s1.toNat % m = 0) && decide (d.s2.toNat % m = 0) && decide (d.s3.toNat % m = 0)

/-- The conditions the MMA family shares. -/
def okFamily (r : EngRec) : Bool :=
  noSat r && r.s2imm == 0 && r.d.space == 1 && r.d.s0 == 0 && r.s2.space == 2 && decide (r.s2.base.toNat % 2 ^ 15 = 0)
    && strideMult (2 ^ 15) r.s2 && decide (r.trip0.toNat ≤ 16383)

def fedLocal (r : EngRec) : Bool := r.s1.space == 0 || r.s1.space == 2

def okMma (r : EngRec) : Bool := mmaTypes r && okFamily r && r.aux == 0 && fedLocal r
def okMmas (r : EngRec) : Bool :=
  scaledTy r.stype && r.dtype == 0 && okFamily r && fedLocal r && strideMult 256 r.s1
def okMmat (r : EngRec) : Bool := mmaTypes r && okFamily r && auxIn 1 r && r.s1.space == 1
def okMret (r : EngRec) : Bool :=
  (r.stype.toNat == 0 || r.stype.toNat == 6) && decide (r.dtype.toNat ≤ 12) && noS2 r && r.s1.space == 1 && r.bump == 0
def okMzero (r : EngRec) : Bool :=
  r.stype == 0 && noSat r && r.aux == 0 && r.s1.isZero && noS2 r && r.d.space == 1

/-- R198: the tile a record names must be held by its context. -/
def Core.tileCheck (k : Core) (sl : Slot) (opc : Nat) (r : EngRec) : Option Trap :=
  let a := 0x10000000 + 0x10000 * r.tile.toNat
  if (r.vchk == 1 || r.bump == 1 || opc == 5) && !k.holdsAddr sl a then some { cause := 0x05, eaddr := BitVec.ofNat 64 a }
  else none

/-! ## A step -/

/-- What a step does: its writes, the tiles it tags, its flags, and the column accumulators. -/
structure MOut where
  writes : List (Nat × List Byte) := []
  tags : List Nat := []
  flags : Flg := 0
  acc : Option Nat := none

/-- A step of the matrix engine: it faults with no effect, or writes and tags, and the head moves on (R193, R199). The first step after
a resumption makes the head check of the tile again (R430); what a step does not use it does not check. -/
def mxStep (ok : Bool) (r : EngRec) (f : Core → Slot → Head → Except Trap MOut) (s : State) : Result :=
  walk .mx ok r (fun s e q h =>
    match (if h.resumed then (s.core e.core).tileCheck q.slot (recOpc q.record).toNat r else none), f (s.core e.core) q.slot h with
    | some t, _ => s.engFault e 0 t
    | none, .error t => s.engFault e 0 t
    | none, .ok o =>
      let s := s.modCore e.core fun k => o.writes.foldl (fun k w => k.lstore w.1 w.2) k
      let s := s.modCore e.core fun k => o.tags.foldl (fun k t => k.setTag t r.dtype) k
      s.setHead e (Head.advance { h with
        flags := h.flags ||| o.flags, mcarry := (o.acc.map fun n => BitVec.ofNat 4096 n).getD h.mcarry
        resumed := false } r)) s

/-! ## The order of sums (R106) -/

/-- The exact sum of finite values, +0 where it is zero. -/
def exactSum (l : List Num) : Num :=
  let q : Int := l.foldl (fun q v => match v with | .fin _ _ e => min q e | _ => q) 0
  let v : Int := l.foldl (fun a v => match v with | .fin n m e => a + coeff n m e q | _ => a) 0
  .fin (decide (v < 0)) v.natAbs q

/-- The group sum G of a list of products, with the invalid flag (R106). -/
def groupSum (ps : List (Num × Flg)) : Num × Flg :=
  let vs := ps.map (·.1)
  let pos := vs.any fun v => match v with | .inf n => !n | _ => false
  let neg := vs.any fun v => match v with | .inf n => n | _ => false
  let iv := flagsOf' ps ||| Flg.when (pos && neg) Flg.iv
  if vs.any Num.isNan || (pos && neg) then (.nan false, iv)
  else if pos then (.inf false, iv)
  else if neg then (.inf true, iv)
  else (exactSum vs, iv)
where
  /-- The flags of the products. -/
  flagsOf' (l : List (Num × Flg)) : Flg := l.foldl (fun f x => f ||| x.2) 0

/-- One product of R106: SA * A * SB * B. -/
def product (sa a sb b : Num) : Num × Flg :=
  let x := Num.mul sa a
  let y := Num.mul sb b
  let z := Num.mul x.1 y.1
  (z.1, x.2 ||| y.2 ||| z.2)

/-- One group of a column: elements i of the chunks, their scales, and the accumulator lane before it (R200). -/
def groupStep (c : BitVec 4) (va vb : Nat) (sa sb : Nat → Num) (is : List Nat) (acc : Nat) : Nat × Flg :=
  let w := tw c
  if isIn c || c.toNat = 9 then
    let g : Int := is.foldl (fun g i => g + intDecode (tyOf c) (lane w va i) * intDecode (tyOf c) (lane w vb i)) 0
    ((((acc : Int) + g) % 2 ^ 32).toNat, 0)
  else
    let f := fmtOf c
    let g := groupSum (is.map fun i => product (sa i) (f.decode (lane w va i)) (sb i) (f.decode (lane w vb i)))
    let r := addFmt fmtF32 .rne false (fmtF32.decode acc) g.1
    (r.1, g.2 ||| r.2)

/-- The eight groups of a column (R184, R200). -/
def columnStep (c : BitVec 4) (va vb : Nat) (sa sb : Nat → Num) (acc : Nat) : Nat × Flg :=
  let gw := 256 / tw c
  (List.range 8).foldl (fun x g =>
    let r := groupStep c va vb sa sb ((List.range gw).map (· + g * gw)) x.1
    (r.1, x.2 ||| r.2)) (acc, 0)

/-! ## MMA, MMAZ, MMAS, MMAT (R200, R201) -/

/-- The bytes of data per scale block (R201). -/
def blockQ (c : BitVec 4) : Nat := if c.toNat = 5 then 16 else 32

/-- The A scales of a step: their address (R201). -/
def scaleA (r : EngRec) (h : Head) : Int :=
  4096 * (r.aux.toNat % 256 : Nat) + (h.addr r.s1 - r.s1.base.toNat) / (blockQ r.stype : Int)

/-- The B scales of a step: the address of column 0's (R201). -/
def scaleB (r : EngRec) (h : Head) : Int :=
  0x20000000 + 8192 * (r.aux.toNat / 256 : Nat) + (h.addr r.s2 - r.s2.base.toNat) / (blockQ r.stype : Int)

/-- The operands of a step in the order D, S1, S2, A scales, B scales (R199). -/
def mmaOpds (zero scaled accS1 : Bool) (r : EngRec) (h : Head) : List Opd :=
  let q := 256 / blockQ r.stype
  let first := h.j0 = 0 && !zero
  [⟨1, [h.addr r.d], 512, 512, true, if first then some r.dtype else none, first⟩,
   ⟨r.s1.space, [h.addr r.s1], 256, 64, true, if accS1 then some r.stype else none, true⟩,
   ⟨2, [h.addr r.s2], 32768, 32768, false, none, true⟩]
    ++ (if scaled then [⟨0, [scaleA r h], q, 1, false, none, true⟩, ⟨2, [scaleB r h], 128 * q, 1, false, none, true⟩] else [])

/-- One step of the MMA family (R200). -/
def mmaStep (zero scaled accS1 : Bool) (r : EngRec) (k : Core) (sl : Slot) (h : Head) : Except Trap MOut :=
  match k.checked sl (mmaOpds zero scaled accS1 r h) with
  | .error t => .error t
  | .ok as =>
    let aD := as.getD 0 0
    let va := k.val (as.getD 1 0) 256
    let b := as.getD 2 0
    let q := 256 / blockQ r.stype
    let one : Num := .fin false 1 0
    let sa := if scaled then k.val (as.getD 3 0) q else 0
    let sb := if scaled then k.val (as.getD 4 0) (128 * q) else 0
    let start := if h.j0 = 0 then (if zero then 0 else k.val aD 512) else h.mcarry.toNat
    let out := (List.range 128).map fun n =>
      columnStep r.stype va (k.val (b + 256 * n) 256)
        (fun i => if scaled then ofE8 (lane 8 sa (i / 32)) else one)
        (fun i => if scaled then ofE8 (lane 8 sb (n * q + i / 32)) else one)
        (lane 32 start n)
    let acc := packLanes 32 (codes out)
    let last := h.lastJ0 r
    .ok {
      writes := if last then [(aD, leBytes 512 acc)] else []
      tags := if last && zero then [tileOf aD] else []
      flags := flagsOf out
      acc := some acc }

/-- MMA (R200). -/
def execMma (r : EngRec) (s : State) : Result := mxStep (okMma r) r (mmaStep false false false r) s
/-- MMAZ (R200). -/
def execMmaz (r : EngRec) (s : State) : Result := mxStep (okMma r) r (mmaStep true false false r) s
/-- MMAS (R201). -/
def execMmas (r : EngRec) (s : State) : Result := mxStep (okMmas r) r (mmaStep false true false r) s
/-- MMAT (R200): S1 in the accumulator store, ZeroStart by AUX[0]. -/
def execMmat (r : EngRec) (s : State) : Result := mxStep (okMmat r) r (mmaStep (r.aux.getLsbD 0) false true r) s

/-! ## MRET and MZERO (R202, R203) -/

/-- One step of MRET (R202). -/
def mretStep (r : EngRec) (k : Core) (sl : Slot) (h : Head) : Except Trap MOut :=
  let n := 128 * tw r.dtype / 8
  match k.checked sl [⟨r.d.space, [h.addr r.d], n, min 64 n, true, none, false⟩,
      ⟨1, [h.addr r.s1], 512, 512, true, some r.stype, true⟩] with
  | .error t => .error t
  | .ok as =>
    let aD := as.getD 0 0
    let v := k.val (as.getD 1 0) 512
    let out := (List.range 128).map fun e =>
      convert (tyOf r.stype) (tyOf r.dtype) (laneRnd r h 128 e) (satOf r) (lane 32 v e)
    .ok {
      writes := [(aD, leBytes n (packLanes (tw r.dtype) (codes out)))]
      tags := if aD / 2 ^ 28 = 1 then [tileOf aD] else []
      flags := flagsOf out }

/-- MRET (R202): the version changes at retirement. -/
def execMret (r : EngRec) (s : State) : Result := mxStep (okMret r) r (mretStep r) s

/-- MZERO (R203). -/
def execMzero (r : EngRec) (s : State) : Result :=
  mxStep (okMzero r) r (fun k sl h =>
    match k.checked sl [⟨1, [h.addr r.d], 512, 512, true, none, false⟩] with
    | .error t => .error t
    | .ok as => .ok { writes := [(as.headD 0, List.replicate 512 0)], tags := [tileOf (as.headD 0)] }) s

end Sys2Proof.Machine
end

