-- ==== Sys2Proof/Machine/Transfer.lean ====
section
/-! DEFINITION. Transfer phases: the beats of the lanes (R375), and the steps of TX, MUXSEL, XHOLD and XEND (R376, R377). -/

namespace Sys2Proof.Machine

/-! ## Beats (R375) -/

/-- The beat of a lane and direction present at a stop in a phase cycle: of two, the one injected nearer, then of the core of
higher number, then of the later record; where none is, 32 zero bytes. Phases that run at once have beats of their own, on lanes and stops
that they share too (DESIGN CHOICE, log 102). -/
def XPhase.present (x : XPhase) (stop lane : Nat) (west : Bool) (c : Nat) : BitVec 256 :=
  let here := x.beats.filter fun b => b.lane = lane && b.west = west
    && (if west then decide (stop ≤ b.stop) && b.cycle + (b.stop - stop) + 3 == c
        else decide (b.stop ≤ stop) && b.cycle + (stop - b.stop) + 3 == c)
  let near := fun (b : Beat) => if west then b.stop - stop else stop - b.stop
  let better := fun (a b : Beat) => decide (near a < near b) || (near a == near b && (decide (b.core < a.core)
    || (a.core == b.core && decide (b.order < a.order))))
  match here.foldl (fun (o : Option Beat) b => match o with
      | some a => if better b a then some b else some a
      | none => some b) none with
  | some b => b.data
  | none => 0

/-! ## Steps (R376, R377) -/

def State.modPhase (s : State) (n : Nat) (f : XPhase → XPhase) : State :=
  { s with xphases := s.xphases.map fun x => if x.id = n then f x else x }

/-- The number of a record in the program of a member, whose earlier records may have retired. -/
def XPhase.ordinal (x : XPhase) (i : CtxId) (seq : BitVec 32) : Nat :=
  match x.firsts.find? fun f => f.1 = i with
  | some f => (seq - f.2).toNat
  | none => 0

/-- The records of a member's program that have retired. -/
def State.retiredOf (s : State) (i : CtxId) : Nat :=
  match s.xphases.find? (fun x => x.members.contains i), (s.engine ⟨i.core, .xf⟩).bankQueue i.slot with
  | some x, q :: _ => x.ordinal i q.seq
  | _, _ => 0

/-- The records of a program that run: those before the first that fails its validation; `off` records have retired (R374). -/
def XPhase.ran (x : XPhase) (i : CtxId) (off : Nat) (prog : List QEntry) : List QEntry :=
  match x.faults.find? fun f => f.ctx = i && f.step.isNone with
  | some g => prog.take (g.record - off)
  | none => prog

/-- The head record of a program has run to its last step by a phase cycle, and retires; the XEND waits for the close, and a record from
the first fault on for its report (R374, R376, R377, R449). The tokens that may still return are those after the next TX (log 76). -/
def State.finishRecord (s : State) (x : XPhase) (i : CtxId) (c : Nat) : State :=
  let e : EngId := ⟨i.core, .xf⟩
  match (s.engine e).queue with
  | [] => s
  | q :: _ =>
    let opc := (recOpc q.record).toNat
    if opc = 4 || (s.engine e).head.st ≠ .waiting || (x.faults.any fun f => f.ctx = i && decide (f.record ≤ x.ordinal i q.seq))
      || decide (c ≤ lastCycle opc q.hdr) then s
    else
      let left := (x.ran i (x.ordinal i q.seq) ((s.program i).getD [])).drop 1
      (s.modEngine e fun y => { y with head := { y.head with st := .done } }).modCtx i fun c =>
        { c with xpops := Vector.ofFn fun p => takenAt (mayReturn left) p }

/-- A record of a phase program acts in the current phase cycle: it is given the phase and its phase cycle. It has no effect
outside a phase that has begun, or from its program's first faulting record on (R371, R374). -/
def inPhaseStep (f : State → CtxId → XPhase → Nat → State) (s : State) : Result :=
  let i : CtxId := ⟨s.cur.core, .o⟩
  .next (match s.xphases.find? fun x => x.members.contains i with
    | none => s
    | some x => match x.start with
      | none => s
      | some st =>
        let dead := x.faults.any fun y => y.ctx = i && y.step.isNone && decide (y.record ≤ s.cur.xrec)
        if s.cycle < st || dead then s else f s i x (s.cycle - st))

/-- The step of a record in a phase cycle, if it has one. -/
def stepAt (r : EngRec) (c : Nat) : Option Nat := if startOf r ≤ c && decide (c - startOf r < stepsOf r) then some (c - startOf r) else none

/-- TX (R376): a poisoned source is sent as zeros, and its fault reported after the phase closes (R449). -/
def execTx (r : EngRec) (s : State) : Result :=
  inPhaseStep (fun s i x c =>
    match stepAt r c with
    | none => s
    | some n =>
      let k := s.core i.core
      let a := (addrAt r r.s1 n).toNat
      let bad := k.poisoned a 32
      let data : BitVec 256 := if bad.isSome then 0 else BitVec.ofNat 256 (k.val a 32)
      let b : Beat := { stop := stopOf i.core, lane := bits r.aux.toNat 4 0, west := r.aux.getLsbD 5, cycle := c,
                        core := i.core.val, order := s.cur.xrec, data := data }
      let fs := match bad with
        | some u => if x.faults.any fun y => y.ctx = i && decide (y.record ≤ s.cur.xrec) then x.faults
            else ⟨i, s.cur.xrec, some n, stepTrap 0x14 u⟩ :: x.faults.filter fun y => !(y.ctx = i && y.step.isSome)
        | none => x.faults
      s.modPhase x.id fun x => { x with beats := x.beats ++ [b], faults := fs }) s

/-- MUXSEL (R376): the write is performed two cycles later. -/
def execMuxsel (r : EngRec) (s : State) : Result :=
  inPhaseStep (fun s i x c =>
    match stepAt r c with
    | none => s
    | some n =>
      let w : BeatWrite := { core := i.core, addr := (addrAt r r.d n).toNat, cycle := c + 2,
                             data := x.present (stopOf i.core) (bits r.aux.toNat 4 0) (r.aux.getLsbD 5) c }
      s.modPhase x.id fun x => { x with writes := x.writes ++ [w] }) s

/-- XHOLD (R376): the beat captured is injected on the other lane one cycle later. -/
def execXhold (r : EngRec) (s : State) : Result :=
  inPhaseStep (fun s i x c =>
    match stepAt r c with
    | none => s
    | some _ =>
      let b : Beat := { stop := stopOf i.core, lane := bits r.aux.toNat 10 6, west := r.aux.getLsbD 11, cycle := c + 1,
                        core := i.core.val, order := s.cur.xrec,
                        data := x.present (stopOf i.core) (bits r.aux.toNat 4 0) (r.aux.getLsbD 5) c }
      s.modPhase x.id fun x => { x with beats := x.beats ++ [b] }) s

/-- E of a member's program, unless its XEND itself failed validation (R374). -/
def XPhase.endOf (x : XPhase) (i : CtxId) (n : Nat) (r : EngRec) : Option Nat :=
  if x.faults.any fun y => y.ctx = i && y.step.isNone && y.record = n then none else some (startOf r)

/-- XEND (R377): the member's program ends at E, which P exceeds. -/
def execXend (r : EngRec) (s : State) : Result :=
  let i : CtxId := ⟨s.cur.core, .o⟩
  .next (match s.xphases.find? fun x => x.members.contains i with
    | none => s
    | some x => match x.endOf i s.cur.xrec r with
      | none => s
      | some e => s.modPhase x.id fun x => { x with p := max x.p (e + 1) })

/-- The writes of MUXSEL due in a phase cycle are performed (R376). -/
def State.performBeats (s : State) (x : XPhase) (c : Nat) : State :=
  let due := x.writes.filter fun w => w.cycle ≤ c
  let s := due.foldl (fun s w => s.modCore w.core fun k => k.lstore w.addr (leBytes 32 w.data.toNat)) s
  s.modPhase x.id fun x => { x with writes := x.writes.filter fun w => !decide (w.cycle ≤ c) }

end Sys2Proof.Machine
end

