-- ==== Sys2Proof/Machine/Starts.lean ====
section
/-! DEFINITION. The start of a record (R152, R192, R207, R271, R334, R430), and the events of engines and contexts: landing,
retirement, trap entry, the processing of the wait-for table, revocation, lease terms, and the ends of holds and of DEF. -/

namespace Sys2Proof.Machine

/-! ## Head checks by operation (R159, R197, R272, R273) -/

/-- The operation's own checks of a record of CI, CO, MX or VX. -/
def recordOk : Instr → Bool
  | .vadd r | .vsub r | .vmul r | .vfma r => okArith r
  | .vmin r | .vmax r => okMinMax r
  | .vabs r | .vneg r => okAbs r
  | .vand r | .vor r | .vxor r => okLogic r
  | .vshl r | .vshr r | .vsra r => okShift r
  | .vsel r => okSel r
  | .vcmp r => okCmp r
  | .vclamp r => okClamp r
  | .vscale r => okScale r
  | .vmov r => okMov r
  | .vbcast r => okBcast r
  | .vexp2 r | .vlog2 r | .vrcp r | .vrsq r | .vsqrt r | .vtanh r => okFun r
  | .vcvt r => okCvt r
  | .vquant r => okQuant r
  | .vdeq r => okDeq r
  | .vrand r => okRand r
  | .vredsum r => okRedSum r
  | .vredmax r | .vredmin r => okRedMax r
  | .vscan r => okScan r
  | .vany r => okAny r
  | .vcnt r => okCnt r
  | .vzip2 r | .vzip3 r | .vzip4 r | .vunzip2 r | .vunzip3 r | .vunzip4 r => okZip r
  | .vperm r => okPerm r
  | .vgather r | .vscatter r => okGather r
  | .vpart r => okPart r
  | .vldp r | .vstp r => okBytes r
  | .viota r => okIota r
  | .vzero r => okZero r
  | .vbump r => okBump r
  | .vtype r => okType r
  | .mma r | .mmaz r => okMma r
  | .mmas r => okMmas r
  | .mmat r => okMmat r
  | .mret r => okMret r
  | .mzero r => okMzero r
  | .cpin r => okTensor [0, 1] r
  | .cpina r => okTensor [2] r
  | .gathin r => okList [0, 1] r
  | .fill r => okFill r
  | .cploc r => okCploc r
  | .pfin r => okPfin r
  | .cpout r => okTensor [0, 2] r
  | .scatout r => okList [0, 2] r
  | .cpouta r => okTensor [1] r
  | .cprem r => okTensor [0, 1, 2] r
  | _ => false

/-- The operation takes a tensor's entry at its start (R271): every copy between a tensor and local spaces, and PFIN. -/
def takesEntry (e : Eng) (opc : Nat) : Bool :=
  match e with
  | .ci => opc == 1 || opc == 2 || opc == 3 || opc == 6
  | .co => true
  | .mx | .vx | .xf => false

/-- The first failure at the head: an unlisted operation, the header, the operation's own checks, and for MX the tile (R44,
R152, R192). -/
def headTrap (k : Core) (e : Eng) (q : QEntry) : Option Trap :=
  match decodeRec e q.record with
  | .error _ => some { cause := 0x01 }
  | .ok i =>
    if !(headerOk e q.hdr && if e = .xf then xfForm (recOpc q.record).toNat q.hdr else recordOk i) then some { cause := 0x02 }
    else if e = .mx then k.tileCheck q.slot (recOpc q.record).toNat q.hdr
    else none

/-! ## The start stage (R152) -/

/-- What holds a record at its start, as a registered object: the owner claim, the version, an empty port (R153, R207). -/
def State.startHold (s : State) (e : EngId) (q : QEntry) : Option (BitVec 32) :=
  let k := s.core e.core
  let r := q.hdr
  if q.slot = .h && s.engHolds e.core e.eng .o then some (claimObj e.core e.eng)
  else if r.vchk = 1 && k.ver r.tile.toNat != r.ver then some (verObj e.core q.slot r.tile.toNat r.ver.toNat)
  else (((k.ctx q.slot).emptyPorts e.eng r).head?).map fun p => portObj e.core q.slot e.eng p.val

/-- The start of the bank's record before this one on the engine (R334). -/
def Engine.lastStart (x : Engine) (sl : Slot) : Option Nat :=
  match sl with
  | .o => x.startO
  | .h => x.startH

/-- GAP core cycles have passed since the context's last start on the engine (R334). -/
def State.paced (s : State) (e : EngId) (sl : Slot) : Bool :=
  match (s.engine e).lastStart sl with
  | none => true
  | some n => decide (n + fld ((s.ctx ⟨e.core, sl⟩).pace.get (Eng.fin e.eng)) 15 0 ≤ s.coreCycle e.core)

/-- The tokens are popped, the start is noted, and the record walks from step 0. Its carry is 0 until a step forms one, which a first step
that faults leaves (R205; DESIGN CHOICE, log 46). -/
def State.begin (s : State) (e : EngId) (q : QEntry) (pop : Bool) (copy : BitVec 432) : State :=
  let s := s.unblockEng e q.slot
  let s := if pop then s.modCtx ⟨e.core, q.slot⟩ fun c => c.popPorts e.eng q.hdr else s
  let now := some (s.coreCycle e.core)
  s.modEngine e fun x => { x with
    head := { st := .walking, copy := copy }
    startO := if pop && q.slot = .o then now else x.startO
    startH := if pop && q.slot = .h then now else x.startH }

/-- The tensor entry, where the operation takes one, and the begin of the walk; a fault here comes after the pops (R271,
R426). -/
def State.startEntry (s : State) (e : EngId) (q : QEntry) (pop : Bool) : State :=
  if !takesEntry e.eng (recOpc q.record).toNat then s.begin e q pop 0
  else match s.takeEntry e q with
    | .stall s => s
    | .fault t =>
      let s := s.unblockEng e q.slot
      let s := if pop then s.modCtx ⟨e.core, q.slot⟩ fun c => c.popPorts e.eng q.hdr else s
      s.engFault e 2 t
    | .ok s copy => s.begin e q pop copy

/-- The head of XF outside a phase: its checks alone, for a BARXF starts it (R44, R79, R81, R371). A program's record that faulted in
its phase stands again as not started once the fault has been taken, but for the step of a poisoned source (R430, R449). -/
def State.xfHead (s : State) (e : EngId) (q : QEntry) : State :=
  match (s.engine e).head.st with
  | .walking | .done => s
  | .waiting => match headTrap (s.core e.core) e.eng q with
    | some t => s.engFault e 1 t
    | none => s
  | .faulted p =>
    if ((s.ctx ⟨e.core, q.slot⟩).trap).isSome then s
    else match headTrap (s.core e.core) e.eng q with
      | some t => s.engFault e p t
      | none => if p = 1 then s.modEngine e fun x => { x with head := {} } else s

/-- RECORD_START of the head of an engine: its checks, its start stage, or its resumption by PHASE (R152, R192, R430). The
records of a phase program are checked here and do not start (R79, R371). A re-check that fails at a resumption faults at the saved micro-PC, with the
saved PHASE (R430). -/
def State.recordStart (s : State) (e : EngId) : State :=
  match (s.engine e).queue with
  | [] => s
  | q :: _ =>
    if e.eng = .xf then s.xfHead e q else
    let h := (s.engine e).head
    let resumable := ((s.ctx ⟨e.core, q.slot⟩).trap).isNone
    let full := fun (_ : Unit) =>
      if !s.phaseDone (.ctx ⟨e.core, q.slot⟩) q.gate || s.awaitsRevocation e q then s
      else match s.startHold e q with
        | some o => s.engStall e q o
        | none => if !s.paced e q.slot then s else s.startEntry e q true
    match h.st with
    | .walking | .done => s
    | .waiting => match headTrap (s.core e.core) e.eng q with
      | some t => s.engFault e 1 t
      | none => full ()
    | .faulted p =>
      if !resumable then s
      else match headTrap (s.core e.core) e.eng q with
        | some t => s.engFault e p t
        | none =>
          if p = 1 then full ()
          else if p = 2 then s.startEntry e q false
          else s.modEngine e fun x => { x with head := { x.head with st := .walking, fault := none, resumed := false } }

/-- RECORD_START. -/
def execRecordStart (s : State) : Result := .next (s.recordStart ⟨s.cur.ev.core, s.cur.ev.eng⟩)

/-- RECORD_RETIREMENT. -/
def execRecordRetirement (s : State) : Result := .next (s.retire ⟨s.cur.ev.core, s.cur.ev.eng⟩)

/-! ## Contexts -/

/-- The context an event names. -/
def State.evCtx (s : State) : CtxId := ⟨s.cur.ev.core, s.cur.ev.slot⟩

/-- LANDING (R117): the landings whose tick has come are written, with their flags. -/
def execLanding (s : State) : Result := .next (s.modCtx s.evCtx Ctx.settle)

/-- TRAP_ENTRY (R420). -/
def execTrapEntry (s : State) : Result := .next (s.enter s.evCtx)

/-- WAIT_REGISTRATION (R354): the table processes the oldest request. -/
def execWaitRegistration (s : State) : Result :=
  .next (match s.wftQueue with
    | [] => s
    | q :: r => if (s.walkers q).any fun i => !s.mayStamp (.ctx i) then s else State.processReq { s with wftQueue := r } q)

/-- YIELD_HOLD_END (R333): 256 core cycles have passed. -/
def execYieldHoldEnd (s : State) : Result :=
  let i : CtxId := ⟨s.cur.ev.core, .o⟩
  .next (match (s.ctx i).holdEnd with
    | some n => if n ≤ s.coreCycle i.core then s.modCtx i fun c => { c with holdEnd := none } else s
    | none => s)

/-- DEF_END (R439): 20 microseconds after DEFER. -/
def execDefEnd (s : State) : Result :=
  let i : CtxId := ⟨s.cur.ev.core, .o⟩
  let c := s.ctx i
  .next (if c.defer && decide (c.deferEnd ≤ s.gtc.toNat) then s.endDefer i else s)

/-! ## Slot H -/

/-- REVOCATION (R331): a revocation asked for runs unless it is deferred. -/
def execRevocation (s : State) : Result := .next (s.revokeNow s.cur.ev.core)

/-- LEASE_TERM_END (R207, R328): after 4 records or 8192 core cycles the term is renewed, or revocation begins where an
owner record of the engine is queued. -/
def execLeaseTermEnd (s : State) : Result :=
  let c := s.cur.ev.core
  let e := s.cur.ev.eng
  let k := s.core c
  .next (if h : (Eng.fin e).val < 4 then
      let l := k.leases[(Eng.fin e).val]'h
      if !l.held || (decide (l.ret < 4) && decide (s.coreCycle c < l.start + 8192)) then s
      else if s.engHolds c e .o then s.askRevoke c false
      else s.modCore c fun k => k.setLease e { l with ret := 0, renew := (l.renew + 1) % 16, start := s.coreCycle c }
    else s)

end Sys2Proof.Machine
end

