-- ==== Sys2Proof/Machine/Meetings.lean ====
section
/-! DEFINITION. The completion of barriers (R369) and the start and close of transfer phases (R371-R377). -/

namespace Sys2Proof.Machine

/-! ## BARRIER_COMPLETION -/

/-- The L1 copies of the members of a barrier that stand in slot O are discarded (R235, R369). -/
def State.dropMembers (s : State) (b : Barrier) : State :=
  b.arrived.foldl (fun s u => if u.ctx.slot = .o then s.l1Drop u.ctx.core else s) s

/-- What the members did before they arrived comes before what each does next (R242). -/
def State.meetStamps (s : State) (b : Barrier) : State :=
  let n := b.arrived.foldl (fun n u => max n ((s.core u.ctx.core).stamps.get (srcSlot (.ctx u.ctx)))) 0
  b.arrived.foldl (fun s u => s.modCore u.ctx.core fun k => k.noteStamp (srcSlot (.ctx u.ctx)) n) s

/-- The members of a barrier are freed of their wait on it. -/
def State.freeMembers (s : State) (b : Barrier) : State :=
  b.arrived.foldl (fun s u => if (s.ctx u.ctx).blocked = some b.obj then s.unblockCtx u.ctx else s) s

/-- BARRIER_COMPLETION: every member of a BAR has arrived (R369). -/
def execBarrierCompletion (s : State) : Result :=
  .next (match s.barriers.find? fun b => b.id = s.cur.ev.n with
    | none => s
    | some b =>
      if b.xf || !b.full then s
      else
        let rest := s.barriers.filter fun x => x.id ≠ b.id
        (State.dropMembers (State.freeMembers { s with barriers := rest } b) b).meetStamps b)

/-! ## TRANSFER_PHASE_START -/

/-- S: the first fabric cycle at least 32 after the last arrival that begins a group (R371). -/
def phaseStart (cycle : Nat) : Nat := (cycle + 32 + 7) / 8 * 8

/-- The members of a barrier that run in it: those that arrived and are resident in their slots. -/
def State.runners (s : State) (b : Barrier) : List CtxId :=
  (b.arrived.map (·.ctx)).filter fun i => (s.ctx i).live && (s.ctx i).stage == .arrived b.id

/-- P of a phase: 1 plus the greatest E among its members (R377). -/
def State.phaseP (s : State) (x : XPhase) : Nat :=
  x.members.foldl (fun p i =>
    let prog := (s.program i).getD []
    match prog.getLast? with
    | some q => (match x.endOf i (prog.length - 1) q.hdr with | some e => max p (e + 1) | none => p)
    | none => p) 0

/-- The tokens that the program of a member took at its arrival, as the phase starts (log 76). -/
def State.settlePops (s : State) (x : XPhase) (i : CtxId) : State :=
  let prog := (s.program i).getD []
  let kept := match x.faults.find? fun f => f.ctx = i with
    | some f => prog.take f.record
    | none => prog
  s.modCtx i fun c => c.keepPops kept

/-- The records of a program stand as not started. -/
def State.freshProgram (s : State) (i : CtxId) : State :=
  let n := ((s.program i).getD []).length
  s.modEngine ⟨i.core, .xf⟩ fun x => x.withQueue (x.queue.mapIdx fun k q => if k < n then { q with resume := none } else q)

/-- TRANSFER_PHASE_START: the last member has arrived, which fixes S; the programs are validated (R371, R374). -/
def execTransferPhaseStart (s : State) : Result :=
  .next (match s.barriers.find? fun b => b.id = s.cur.ev.n with
    | none => s
    | some b =>
      if !b.xf || !b.full then s
      else
        let ms := s.runners b
        let x : XPhase := {
          id := b.id, obj := b.obj, members := ms, start := some (phaseStart b.lastAt), faults := ms.filterMap s.validate
          beats := [], writes := [], p := 0
          firsts := ms.filterMap fun i => ((s.program i).getD []).head?.map fun q => (i, q.seq) }
        let x := { x with p := s.phaseP x }
        let rest := s.barriers.filter fun y => y.id ≠ b.id
        let s := State.freeMembers { s with barriers := rest, xphases := s.xphases ++ [x] } b
        (ms.foldl (fun s i => (s.settlePops x i).freshProgram i) s).meetStamps b)

/-! ## TRANSFER_PHASE_CLOSE -/

/-- The execution state of a record of a program whose fault is reported after the phase: at the head of the program's walk, or at
the step of a poisoned source (R374, R449). -/
def faultHead (e : EngId) (now : Nat) (q : QEntry) (f : XFault) : Head :=
  let t : Trap := { f.trap with agent := 2 + (Eng.fin e.eng).val, stamp := now, src := engNum e }
  let n := f.step.getD 0
  let r := q.hdr
  { st := .faulted (if f.step.isSome then 0 else 1), fault := some t, j0 := n % r.count0, j1 := n / r.count0 % r.count1
    j2 := n / (r.count0 * r.count1) % r.count2, j3 := n / (r.count0 * r.count1 * r.count2) }

/-- What XF of a core does is stamped in the present fabric cycle: R377 gives the cycle in which an XEND retires (DEDUCED, log 105). -/
def State.stampNow (s : State) (e : EngId) : State :=
  s.modCore e.core fun k => { k with stamps := k.stamps.set (srcSlot (.eng e)) (min (k.stamps.get (srcSlot (.eng e))) s.cycle) }

/-- The program of a member ends with its phase: the records before its first fault have every step done, and those that have not yet
retired do so in order; the fault stands at its record and reaches the context (R374, R377). The records after it that ran take their
tokens again, so these return (R430, log 76). -/
def State.endProgram (s : State) (x : XPhase) (i : CtxId) : State :=
  let e : EngId := ⟨i.core, .xf⟩
  let prog := (s.program i).getD []
  let off := s.retiredOf i
  let n := prog.length
  let fault := x.faults.find? fun f => f.ctx = i
  let upTo := match fault with | some f => f.record - off | none => n
  let mark := fun (k : Nat) (q : QEntry) =>
    if k < upTo then { q with resume := some { st := .done } }
    else match fault with
      | some f => if k = f.record - off then { q with resume := some (faultHead e s.gtc.toNat q f) } else q
      | none => q
  let ran := x.ran i off prog
  let again := match fault with
    | some f => if f.step.isSome then ran.drop (f.record - off + 1) else []
    | none => []
  let s := s.modEngine e fun y =>
    let z := y.withQueue (y.queue.mapIdx mark)
    if y.head.st = .done then { z with head := y.head } else z
  let s := s.modCtx i fun c => { c with xpops := Vector.ofFn fun p => takenAt again p }
  let s := ((List.range upTo).foldl (fun s _ => (s.stampNow e).retire e) s).modCtx i Ctx.unpop
  match fault with
  | some f => s.modCtx i fun c => c.cause { f.trap with agent := 2 + (Eng.fin e.eng).val, stamp := s.gtc.toNat, src := engNum e }
  | none => s

/-- What waited for the phase to close: a member whose virtual NPU is in guest reset stops, and one whose leaf is suspended is pre-empted
(R322, R372, R416). -/
def State.afterPhase (s : State) (i : CtxId) : State :=
  let s := if (s.vnpu (s.ctx i).vnpu).busy then s.resetStops (s.ctx i).vnpu else s
  if (s.ctx i).live && s.suspended (s.ctxLeaf i) then s.askPreempt i.core else s

/-- TRANSFER_PHASE_CLOSE, at phase cycle P + 8 (R377): every MUXSEL write stands, and the XENDs retire. -/
def execTransferPhaseClose (s : State) : Result :=
  .next (match s.xphases.find? fun x => x.id = s.cur.ev.n with
    | none => s
    | some x => match x.start with
      | none => s
      | some st =>
        if s.cycle < st + x.p + 8 then s
        else
          let s := s.performBeats x (x.p + 8)
          let s := x.members.foldl (fun s i => s.endProgram x i) s
          let rest := s.xphases.filter fun y => y.id ≠ x.id
          let s := { s with xphases := rest }
          x.members.foldl State.afterPhase s)

end Sys2Proof.Machine
end

