-- ==== Sys2Proof/Machine/Launch.lean ====
section
/-! DEFINITION. The walker: notifications and taking a nest (R305-R308), dispatch and resumption of units (R310-R317, R412, R443),
and harvest contexts dealt and unparked (R323, R324, R446). -/

namespace Sys2Proof.Machine

/-! ## PROD_NOTIFICATION and WALKER_TAKE -/

/-- The launch queue an event names. -/
def State.evQueue (s : State) : LaunchQueue := (s.vnpu s.cur.ev.vnpu).queue s.cur.ev.queue

/-- The walker has heard of a write to PROD of a queue. -/
def State.heard (s : State) (v : VnpuId) (q : Fin 8) : State := { s with prodDue := s.prodDue.filter fun x => !(x.1 = v && x.2 = q) }

/-- The walker reads PROD of a module queue, as an acquire, once no routine holds its line; a failed read stops the queue (R282, R305,
R308). -/
def State.readProd (s : State) (v : VnpuId) (q : Fin 8) : State :=
  let r := (s.contract v).queues.get q
  if !(s.contract v).enable || !r.inModule || ((s.vnpu v).queue q).qstop || (s.vnpu v).busy then s.heard v q
  else if s.qBusy v r r.qcb then s
  else match s.qRead v r r.qcb 4 with
    | none => (s.heard v q).stopQueue v q
    | some (s, bs) => (s.heard v q).modQueue v q fun x => { x with prod := BitVec.ofNat 32 (leNat bs) }

/-- PROD_NOTIFICATION (R305); a write of the control block that waited is tried again. -/
def execProdNotification (s : State) : Result :=
  let v := s.cur.ev.vnpu
  let q := s.cur.ev.queue
  .next ((if s.evQueue.unpublished.isSome then s.publish v q false else s).readProd v q)

/-- The level in bits [2k+1:2k] of ORDER (R306). -/
def orderAt (o : BitVec 8) (k : Nat) : Nat := bits o.toNat (2 * k + 1) (2 * k)

/-- ORDER is a permutation of 0-3 (R307). -/
def orderOk (o : BitVec 8) : Bool := (List.range 4).all fun l => (List.range 4).any fun k => orderAt o k == l

/-- A descriptor as a nest (R306). -/
def nestOf (uid index d : Nat) : Nest :=
  let f := fun byte n => d / 2 ^ (8 * byte) % 2 ^ (8 * n)
  { uid := uid, index := index, entry := BitVec.ofNat 64 (f 0 8), args := BitVec.ofNat 64 (f 8 8), trip0 := f 16 4, trip1 := f 20 4
    trip2 := f 24 4, trip3 := f 28 4, order := BitVec.ofNat 8 (f 32 1), group := f 33 1 % 16, gang := f 34 1 % 2 == 1
    fuse := f 34 1 / 2 % 2 == 1, serial := f 34 1 / 4 % 2 == 1, harvest := f 34 1 / 8 % 2 == 1, next := 0, retired := 0, rejected := false }

/-- The checks of R307 on a descriptor. -/
def nestOk (c : VnpuContract) (d : Nat) : Bool :=
  let f := fun byte n => d / 2 ^ (8 * byte) % 2 ^ (8 * n)
  let n := nestOf 0 0 d
  n.entry &&& 7 == 0 && n.trip0 != 0 && n.trip1 != 0 && n.trip2 != 0 && n.trip3 != 0 && orderOk n.order
    && decide (1 ≤ n.group) && decide (n.group ≤ 12) && f 33 1 / 16 == 0 && f 34 1 / 16 == 0 && f 35 29 == 0
    && !(n.harvest && !c.harvest) && !(n.harvest && n.gang)

/-- A nest enters a queue, taken or rejected: CONS, and for a rejection REJ and DONE, advance (R307). -/
def State.takeNest (s : State) (v : VnpuId) (q : Fin 8) (n : Nest) : State :=
  let s' := s.modQueue v q fun x =>
    { x with cons := x.cons + 1, rej := if n.rejected then x.rej + 1 else x.rej, nests := x.nests ++ [n] }
  (({ s' with nestUid := s'.nestUid + 1 }.publish v q false).settleQueue v q).gained s v

/-- A descriptor that could not be read: the nest is rejected, with DFAIL (R308). -/
def State.failTake (s : State) (v : VnpuId) (q : Fin 8) : State :=
  let n := { nestOf s.nestUid ((s.vnpu v).queue q).cons.toNat 0 with rejected := true }
  ((s.takeNest v q n).modQueue v q fun x => { x with dfail := true }).msixStatus v

/-- The address of the head entry of a queue (R303). -/
def entryAt (r : QueueRec) (x : LaunchQueue) : Nat := (r.ring + 64 * (x.cons.toNat % 2 ^ r.k)) % 2 ^ 64

/-- The translations a host queue needs before its head entry is taken: its block's page and its entry's (R278, R308). -/
def State.queuePages (s : State) (v : VnpuId) (r : QueueRec) (x : LaunchQueue) : HostRes :=
  if r.inModule then .ready
  else match s.hostPage v r.qcb with
    | .ready => s.hostPage v (entryAt r x)
    | a => a

/-- The read of the head entry of a host queue is charged at host ingress (R385). -/
def State.fetchCharge (r : QueueRec) : List (Nat × Nat) := if r.inModule then [] else [(96, 64)]

/-- WALKER_TAKE (R307): `flag` says that the completion of the read came and passed its integrity check (R308). A host queue is read in
RUN alone (R413), and an entry whose line a routine holds once it is free (R282). -/
def execWalkerTake (s : State) : Result :=
  let v := s.cur.ev.vnpu
  let q := s.cur.ev.queue
  let r := (s.contract v).queues.get q
  let x := s.evQueue
  .next (if !(s.contract v).enable || (s.vnpu v).busy || !x.takeable then s
    else if s.qBusy v r (entryAt r x) then s
    else match s.queuePages v r x with
      | .wait s => s.unhold (s.leafOf v) (.walker v q) fun _ => false
      | .closed => s.unhold (s.leafOf v) (.walker v q) fun _ => false
      | .ready => match s.admitAll v (.walker v q) (State.fetchCharge r) with
       | (false, s) => s
       | (true, s) =>
        let bytes := if s.cur.ev.flag then s.qRead v r (entryAt r x) 64 else none
        match bytes with
        | none => s.failTake v q
        | some (s, bs) =>
          let d := leNat bs
          s.takeNest v q { nestOf s.nestUid x.cons.toNat d with rejected := !nestOk (s.contract v) d })

/-! ## Choosing what to deal (R311, R314, R361) -/

/-- The indices of iteration p (R310). -/
def Nest.indices (n : Nest) (p : Nat) : Vector Word 4 :=
  let trip := fun l => if l = 0 then n.trip0 else if l = 1 then n.trip1 else if l = 2 then n.trip2 else n.trip3
  let go := fun (x : Nat × Vector Word 4) (k : Nat) =>
    let l := orderAt n.order k
    let t := max 1 (trip l)
    (x.1 / t, x.2.set (l % 4) (BitVec.ofNat 64 (x.1 % t)) (Nat.mod_lt _ (by decide)))
  ((List.range 4).foldl go (p, Vector.replicate 4 0)).2

/-- The domain of iteration p, its rank, and the domain's size (R310). -/
def Nest.domainOf (n : Nest) (p : Nat) : Nat × Nat × Nat :=
  let g := max 1 n.group
  (p / g, p % g, min g (n.total - p / g * g))

/-- A unit of a leaf is resident on a core, running or saved (R311). -/
def State.residentOn (s : State) (c : CoreId) (l : LeafId) : Bool := (s.unitsOn c).any fun u => u.leaf = l

/-- The owner context of a core qualifies for an iteration of a leaf (R311, R12, R412). -/
def State.qualifies (s : State) (c : CoreId) (l : LeafId) : Bool :=
  let k := s.core c
  s.windowOwner c == some l && !k.ctxO.live && k.clearDue.isNone && !k.quarantined && !s.residentOn c l
    && (!s.lockstep c || c.val % 2 == 0)

/-- The domain record of a nest's domain, if its first member has been dealt. -/
def State.domainRec (s : State) (uid d : Nat) : Option Domain := s.domains.find? fun x => x.nest = uid && x.index = d

/-- The cores to which the walker deals now: the least qualifying core, in the domain's cluster once it is fixed; with GANG, as many as
the domain has members, of one cluster (R311). -/
def State.targets (s : State) (l : LeafId) (n : Nest) : List CoreId :=
  let (d, rank, size) := n.domainOf n.next
  let free := allCores.filter fun c => s.qualifies c l
  if n.gang then
    ((List.finRange 8).findSome? fun k =>
      let here := free.filter fun c => clusterOf c = k
      if size ≤ here.length then some (here.take size) else none).getD []
  else
    let here := match s.domainRec n.uid d with
      | some x => if rank = 0 then free else free.filter fun c => clusterOf c = x.cluster
      | none => free
    here.take 1

/-- The effective priority of a launch queue: the least of its number and the EFF of its resident units (R361). -/
def State.queueEff (s : State) (v : VnpuId) (q : Fin 8) : Nat :=
  s.allUnits.foldl (fun p u => match s.findUnit u with
    | some c => if c.vnpu = v && c.queue = q then min p (s.effOf u) else p
    | none => p) q.val

/-- The first of a list by least key. -/
def leastBy {α : Type} (f : α → Nat) (l : List α) : Option α :=
  l.foldl (fun o x => match o with
    | some y => if f x < f y then some x else some y
    | none => some x) none

/-- The queue of a virtual NPU that deals, among those whose head nest satisfies `can` (R314). -/
def State.pickQueue (s : State) (v : VnpuId) (can : Nest → Bool) : Option (Fin 8 × Nest) :=
  leastBy (fun x => s.queueEff v x.1) ((List.finRange 8).filterMap fun q =>
    let x := (s.vnpu v).queue q
    match x.headNest with
    | some n => if x.serialOk n && can n then some (q, n) else none
    | none => none)

/-- The virtual NPU, queue and nest that deal for a leaf: least pass value, then least number (R314). -/
def State.pickNest (s : State) (l : LeafId) (can : Nest → Bool) : Option (VnpuId × Fin 8 × Nest) :=
  let able := (List.finRange 64).filterMap fun v =>
    if (s.contract v).enable && s.leafOf v = l && !(s.vnpu v).busy then (s.pickQueue v can).map fun x => (v, x) else none
  leastBy (fun x => (s.vnpu x.1).pass) able

/-! ## DISPATCH (R312, R113, R317) -/

/-- Counters 0-47 of the leaf that owns the window are loaded where they were saved (R259, R320). -/
def State.loadLow (s : State) (c : CoreId) (l : LeafId) : State :=
  s.modCore c fun k => match getKey l k.semsOf with
    | some v => { (k.setLowSems v) with semsOf := k.semsOf.filter fun e => e.1 ≠ l }
    | none => k

/-- The least domain id that no resident domain of a top-level partition has (R317). -/
def State.freeDomain (s : State) (t : TopId) : BitVec 16 :=
  let used := (s.domains.filter fun d => d.top = t).map fun d => d.id.toNat
  BitVec.ofNat 16 (((List.range (used.length + 1)).find? fun n => !used.contains n).getD 0)

/-- A member joins its domain, which its first member opens, and an open level-1 barrier of it (R317, R368). -/
def State.joinDomain (s : State) (n : Nest) (u : UnitId) : State × BitVec 16 :=
  let (d, rank, size) := n.domainOf n.next
  let t := topOf u.leaf
  match s.domainRec n.uid d with
  | none =>
    let id := s.freeDomain t
    let x : Domain := { id := id, nest := n.uid, index := d, size := size, top := t, cluster := clusterOf u.ctx.core
                        members := [(rank, u)], retired := [] }
    ({ s with domains := s.domains ++ [x] }, id)
  | some x =>
    let join := fun (y : Domain) => if y.nest = n.uid && y.index = d then { y with members := y.members ++ [(rank, u)] } else y
    let o := barObj 1 t x.id.toNat
    let meet := fun (b : Barrier) => if b.obj = o && 0 < b.missing then
      { b with missing := b.missing - 1, members := b.members ++ [u] } else b
    ({ s with domains := s.domains.map join, barriers := s.barriers.map meet }, x.id)

/-- The partition holds every core of a cluster in the current window (R24). -/
def State.holdsCluster (s : State) (l : LeafId) (k : ClusterId) : Bool :=
  allCores.all fun c => clusterOf c ≠ k || (s.lockstep c && c.val % 2 == 1) || s.windowOwner c == some l

/-- The context of a unit at its dispatch, or of a harvest context at its start (R113, R312, R323). -/
def freshCtx (v : VnpuId) (l : LeafId) (q : Fin 8) (n : Nest) (semMap : Vector (BitVec 8) 64) (serial : Nat) (now : Nat) : Ctx :=
  let x := n.indices n.next
  { live := true, pc := n.entry, liveset := 0x0FFFFFFFFFFFFFFF, prioBase := BitVec.ofNat 3 q.val
    g := ((((((Vector.replicate 64 0).set 55 n.args).set 56 x[0]).set 57 x[1]).set 58 x[2]).set 59 x[3])
    vnpu := v, leaf := l, serial := BitVec.ofNat 32 serial, queue := q, nest := n.uid, semMap := semMap, since := now }

/-- Fusion of the unit of a core ends, and its L1s keep no copy (R24, R235, log 26). -/
def State.endFusion (s : State) (c : CoreId) : State :=
  if (s.core c).fused then (s.l1Drop c).modCore c fun k => { k with fused := false } else s

/-- The owner context of a core takes the next iteration of a nest; every tag reads F32 and every version 0 (R113, R151, R190, R312,
R317). -/
def State.setUnit (s : State) (c : CoreId) (v : VnpuId) (q : Fin 8) (n : Nest) : State :=
  let l := s.leafOf v
  let (_, rank, size) := n.domainOf n.next
  let x := freshCtx v l q n (s.core c).ctxO.semMap (s.vnpu v).dispatched s.gtc.toNat
  let (s, id) := s.joinDomain n (x.unit ⟨c, .o⟩)
  let x := { x with l1id := id, l1rank := BitVec.ofNat 4 rank, l1size := BitVec.ofNat 4 (size - 1) }
  let fuse := n.fuse && s.holdsCluster l (clusterOf c)
  let s := (s.endFusion c).l1Drop c
  let s := s.modCore c fun k =>
    let k := k.clearTiles.serves v
    { k with ctxO := x, icache := if k.lastNest = some n.uid then k.icache else [], lastNest := some n.uid, fused := fuse
             eng := k.eng.map fun e => { e with startO := none } }
  let s := if fuse then s.l1Drop c else s
  let s := s.modVnpu v fun y => { y with dispatched := y.dispatched + 1 }
  s.modQueue v q fun y => { y with nests := y.nests.map fun m => if m.uid = n.uid then { m with next := m.next + 1 } else m }

/-- The next iteration of a queue's head nest is dealt to a core that serves its world (R312). -/
def State.dealTo (s : State) (c : CoreId) (v : VnpuId) (q : Fin 8) : State :=
  match ((s.vnpu v).queue q).headNest with
  | none => s
  | some n => ((s.loadLow c (s.leafOf v)).setUnit c v q n).acquireStamp ⟨c, .o⟩

/-- Iterations are dispatched to cores, one to each: the clear routine runs on each where the world changes, and where it quarantines one
nothing is dealt, so that a domain of GANG is dealt whole or not at all (R311, R411, R412). -/
def State.dispatchTo (s : State) (cs : List CoreId) (v : VnpuId) (q : Fin 8) : State :=
  let s := cs.foldl (fun s c => s.serveWorld c v) s
  if cs.any fun c => (s.core c).quarantined then s else cs.foldl (fun s c => s.dealTo c v q) s

/-- DISPATCH for a free owner context: the walker deals the iteration it chooses to its least qualifying core, or a whole domain with
GANG (R311-R314). -/
def execDispatch (s : State) : Result :=
  let c := s.cur.ev.core
  .next (match s.windowOwner c with
    | none => s
    | some l =>
      if !s.qualifies c l then s
      else match s.pickNest l fun n => !n.harvest && (s.targets l n).contains c with
        | none => s
        | some (v, q, n) => s.dispatchTo (s.targets l n) v q)

/-! ## UNIT_RESUME (R314, R443) -/

/-- UNIT_RESUME: a saved unit of the window's owner resumes on its core; `flag` says that the MAC check of what was saved
passed. -/
def execUnitResume (s : State) : Result :=
  let c := s.cur.ev.core
  .next (match s.windowOwner c with
    | none => s
    | some l =>
      if (s.core c).ctxO.live || (s.core c).clearDue.isSome then s
      else if !((s.core c).saved.any fun x => x.ctx.leaf = l) then s
      else (((s.endFusion c).resumeUnit c l s.cur.ev.flag).loadLow c l).modCore c fun k =>
        { k with eng := k.eng.map fun e => { e with startO := none } })

/-! ## Harvest contexts (R323, R324, R446) -/

/-- The harvest leaf of a core whose slot H may take a context: it is empty, harvest is not recalled, and the core is not the checking
core of a pair (R12, R323, R332). -/
def State.harvestFree (s : State) (c : CoreId) : Option LeafId :=
  let k := s.core c
  if k.ctxH.live || k.recalled || k.quarantined || k.revoke || (s.lockstep c && c.val % 2 == 1) then none else (s.window c).harvest

/-- The parked contexts of a leaf on a core, by bank. -/
def State.parkedOf (s : State) (c : CoreId) (l : LeafId) : List (Fin 4) :=
  (List.finRange 4).filter fun b =>
    let x := (s.core c).bank b
    x.used && x.parked && x.ctx.failing.isNone && x.ctx.leaf == l

/-- A core qualifies for a harvest iteration of a leaf (R323). -/
def State.harvestQualifies (s : State) (c : CoreId) (l : LeafId) : Bool :=
  s.harvestFree c == some l && (s.parkedOf c l).isEmpty && (List.finRange 4).any fun b => !((s.core c).bank b).used

/-- No bank is marked as parked by YIELD: a context has entered slot H (R333). -/
def Core.clearYields (k : Core) : Core := { k with cupboard := k.cupboard.map fun b => { b with yielded := false } }

/-- HARVEST_DEAL: an iteration of a HARVEST nest starts in slot H, with its implicit RSMARK; SERIAL counts the contexts started before it,
as that of a unit does (R316, R323; DESIGN CHOICE, log 98). -/
def execHarvestDeal (s : State) : Result :=
  let c := s.cur.ev.core
  .next (match s.harvestFree c with
    | none => s
    | some l =>
      if (allCores.find? fun d => s.harvestQualifies d l) ≠ some c then s
      else match s.pickNest l fun n => n.harvest, (List.finRange 4).find? fun b => !((s.core c).bank b).used with
        | some (v, q, n), some b =>
          let x := freshCtx v l q n semMapH (s.vnpu v).harvested s.gtc.toNat
          let s := s.modCore c fun k =>
            let k := ((k.endLeases.loadSems []).clearYields).setBank b {}
            Core.checkpoint { k with
              ctxH := { x with bank := b }, icache := [], eng := k.eng.map fun e => { e with startH := none } }
          let s := (s.modVnpu v fun y => { y with harvested := y.harvested + 1 }).acquireStamp ⟨c, .h⟩
          s.modQueue v q fun y => { y with nests := y.nests.map fun m => if m.uid = n.uid then { m with next := m.next + 1 } else m }
        | _, _ => s)

/-- The parked context that the walker chooses: the least PRIO.BASE, the oldest parked first; one that has just yielded only where
there is no other (R324, R333). -/
def State.unparkChoice (s : State) (c : CoreId) (l : LeafId) : Option (Fin 4) :=
  let all := s.parkedOf c l
  let others := all.filter fun b => !((s.core c).bank b).yielded
  let from_ := if others.isEmpty then all else others
  let key := fun (b : Fin 4) => ((s.core c).bank b).ctx.prioBase.toNat * (s.parkOrder + 1) + ((s.core c).bank b).order
  leastBy key from_

/-- UNPARK: the checkpoint is loaded into slot H and its RSMARK re-issued; a marked context traps REVOKED first (R324, R446). -/
def execUnpark (s : State) : Result :=
  let c := s.cur.ev.core
  .next (match s.harvestFree c with
    | none => s
    | some l => match s.unparkChoice c l with
      | none => s
      | some b =>
        let x := (s.core c).bank b
        let s := s.modCore c fun k =>
          let k := ((k.loadSems x.sems).clearYields).setBank b { x with parked := false, marked := false, yielded := false }
          { k with ctxH := { x.ctx with live := true, bank := b, issued := none }, icache := [], eng := k.eng.map fun e => { e with startH := none } }
        if x.marked then s.raise ⟨c, .h⟩ { cause := 0x18, einfo := 64 } else s)

end Sys2Proof.Machine
end

