-- ==== Sys2Proof/Machine/Frames.lean ====
section
/-! DEFINITION. Frames and windows (R319, R320, R379), budgets (R322, R384), forced pre-emption (R442), regulators (R386, R387) and
the ways of the slices (R393-R395). -/

namespace Sys2Proof.Machine

/-! ## Ways (R393-R395) -/

/-- H(L, w) of a slice. -/
def Slice.hitsAt (x : Slice) (l : LeafId) (w : Nat) : Nat := (((getKey l x.hits).getD [])[w - 1]?).getD 0

/-- The leaves that hold or may hold ways. -/
def State.wayLeaves (s : State) : List LeafId := (List.finRange 64).filter fun l => 0 < (s.leafContract l).ceil

/-- The leaf that takes the next unassigned way: the greatest H(L, n(L) + 1), ties to the lower number (R394). -/
def pickWay (s : State) (x : Slice) (n : LeafId → Nat) : Option LeafId :=
  (s.wayLeaves.filter fun l => n l < (s.leafContract l).ceil).foldl (fun o l => match o with
    | some b => if x.hitsAt b (n b + 1) < x.hitsAt l (n l + 1) then some l else some b
    | none => some l) none

/-- n(L): FLOOR, and the ways left over given one by one (R394). -/
def wayCounts (s : State) (x : Slice) : Nat → List (LeafId × Nat) → List (LeafId × Nat)
  | 0, ns => ns
  | k + 1, ns => match pickWay s x fun l => (getKey l ns).getD 0 with
    | some l => wayCounts s x k (putKey l ((getKey l ns).getD 0 + 1) ns)
    | none => ns

/-- Ways stay with their holder where n allows, lowest-numbered first (R394). -/
def keepWays (n : LeafId → Nat) : List (Option LeafId) → List LeafId → List (Option LeafId)
  | [], _ => []
  | some l :: r, seen => if (seen.filter (· = l)).length < n l then some l :: keepWays n r (l :: seen) else none :: keepWays n r seen
  | none :: r, seen => none :: keepWays n r seen

/-- The free ways given to the leaves that lack some, lowest-numbered way and leaf first (R394). -/
def fillWays : List (Option LeafId) → List LeafId → List (Option LeafId)
  | [], _ => []
  | none :: r, l :: ls => some l :: fillWays r ls
  | w :: r, ls => w :: fillWays r ls

/-- The ways a slice's leaves lack. -/
def lacking (ls : List LeafId) (n : LeafId → Nat) (ws : List (Option LeafId)) : List LeafId :=
  ls.flatMap fun l => List.replicate (n l - (ws.filter (· = some l)).length) l

/-- A list of holders as the sixteen ways. -/
def holdersOf (ws : List (Option LeafId)) : Vector (Option LeafId) 16 := Vector.ofFn fun i => (ws[i.val]?).getD none

/-- A slice reassigns its ways and halves its counters (R394). -/
def State.reassign (s : State) (x : Slice) : Slice :=
  let floors := s.wayLeaves.map fun l => (l, (s.leafContract l).floor)
  let ns := wayCounts s x (16 - (floors.map (·.2)).sum) floors
  let n := fun (l : LeafId) => (getKey l ns).getD 0
  let kept := keepWays n x.holders.toList []
  { x with holders := holdersOf (fillWays kept (lacking s.wayLeaves n kept)), hits := x.hits.map fun e => (e.1, e.2.map (· / 2)) }

/-- The masks of a slice as a set takes effect: FLOOR ways each, the ways left over being given at the first adjustment (R390, R394,
R395). -/
def State.floorWays (s : State) (x : Slice) : Slice :=
  let n := fun (l : LeafId) => (s.leafContract l).floor
  let kept := keepWays n x.holders.toList []
  { x with holders := holdersOf (fillWays kept (lacking s.wayLeaves n kept)) }

/-- A leaf's adjustments counted where its mask at a slice changed (R390). -/
def State.countAdj (s : State) (a b : Slice) : State :=
  let mask := fun (x : Slice) (l : LeafId) => x.holders.toList.map fun h => h == some l
  ((List.finRange 64).filter fun l => mask a l != mask b l).foldl (fun s l => s.modLeaf l fun y => { y with adj := y.adj + 1 }) s

/-- WAY_REASSIGNMENT of a slice (R394). -/
def execWayReassignment (s : State) : Result :=
  let m := s.cur.ev.slice
  let x := s.slice m
  .next (if s.gtc.toNat % 100000 ≠ 0 then s else (s.modSlice m fun y => s.reassign y).countAdj x (s.reassign x))

/-! ## Regulators (R386, R387) -/

/-- REGULATOR_REFILL: at each GTC value that is a multiple of 125 (R386). A regulator that is not listed is full. -/
def execRegulatorRefill (s : State) : Result :=
  let fill := fun (r : Regulator) =>
    let p := s.leafContract r.leaf
    { r with lvl := min (8 * (p.depth r.point) : Int) (r.lvl + p.rate r.point) }
  .next (if s.gtc.toNat % 125 ≠ 0 then s else { s with regs := s.regs.map fill })

/-- The contexts that a trip at a point reaches (R387). -/
def State.tripped (s : State) (l : LeafId) (pt : Nat) : List CtxId :=
  allCtx.filter fun i => (s.ctx i).live && s.ctxLeaf i = l && (if pt < 96 then i.core.val == pt else i.slot == .o)

/-- A cause given to a context by an event that is not its own instruction's (R421). -/
def State.causeAt (s : State) (i : CtxId) (t : Trap) : State :=
  s.modCtx i fun c => c.cause { t with agent := Slot.num i.slot, stamp := s.gtc.toNat, src := ctxNum i }

/-- REGULATOR_TRIP: a request held for THRESH microseconds under REGMODE 1, once in the frame (R387). -/
def execRegulatorTrip (s : State) : Result :=
  let l := s.cur.ev.leaf
  let pt := s.cur.ev.point.val
  let r := s.reg l pt
  let p := s.leafContract l
  let late := (s.heldAt l pt).any fun h => decide (h.since + 1000 * p.thresh ≤ s.gtc.toNat)
  .next (if !p.regTrap || r.tripped || !late then s
      else (s.tripped l pt).foldl (fun s i => s.causeAt i { cause := 0x10, einfo := BitVec.ofNat 64 pt }) (s.setReg { r with tripped := true }))

/-! ## FRAME_START (R319, R379) -/

/-- A virtual NPU that a set creates has no vectors, no save area and the routine map of a new one (R290, R424). -/
def Vnpu.created (x : Vnpu) : Vnpu := { x with evec := 0, ctxsave := 0, rtMap := rtMap0 }

/-- An accepted set takes effect: READY, regulators full, accounts at their start, masks at FLOOR, where the TSYNC period changes the
missing of edges counted from here, PROD lines registered (R305, R337, R386, R395, R462, R473, R475); a virtual NPU it disables is reset (R416). -/
def State.takeEffect (s : State) (c : Contracts) : State :=
  let off := (List.finRange 64).filter fun v => (s.contract v).enable && !(c.vnpus.get v).enable
  let s := off.foldl (fun s v => s.startReset v) s
  let new := (List.finRange 64).filter fun v => !(s.contract v).enable && (c.vnpus.get v).enable
  let s := new.foldl (fun s v => s.modVnpu v Vnpu.created) s
  let s := { s with contracts := c, pending := none, regs := [], blobstat := 1, ready := true
                    tsLast := if c.tsync = s.contracts.tsync then s.tsLast else s.gtc.toNat
                    accountsFresh := s.gtc.toNat % 10000 == 0 }
  let s := { s with
    leaves := Vector.ofFn fun l => let x := s.leaves.get l
      { x with account := (c.leaves.get l).bstart, adj := 0 }
    slices := s.slices.map fun x => s.floorWays x }
  (List.finRange 64).foldl (fun s v => (List.finRange 8).foldl (fun s q => s.registerProd v q) s) s

/-- The frame length in force, or of the set that is to be the first. -/
def State.frameNs (s : State) : Nat :=
  if s.contracts.frame ≠ 0 then 1000 * s.contracts.frame else match s.pending with
    | some c => 1000 * c.frame
    | none => 0

/-- A window whose leaf is suspended runs on with owner none until the boundary that ends it, which saves the counters of the leaf, after
the budgets have begun anew (R320, R322). -/
def State.noteSuspended (s : State) : State :=
  { s with cores := s.cores.map fun k => { k with dark := k.dark || k.window.owner.any fun l => s.suspended l } }

/-- FRAME_START: whenever the GTC is a multiple of 1000 F (R319). -/
def execFrameStart (s : State) : Result :=
  .next (if s.frameNs = 0 || s.gtc.toNat % s.frameNs ≠ 0 then s
    else
      let s := s.noteSuspended
      let s := match s.pending with
        | some c => s.takeEffect c
        | none => s
      { s with
        frameStartAt := s.gtc.toNat
        leaves := s.leaves.map fun x => { x with used := 0, reached := false }
        topUsed := Vector.replicate 8 0
        topReached := 0
        regs := s.regs.map fun r => { r with tripped := false } })

/-! ## WINDOW_BOUNDARY (R320) -/

/-- The window of a core at the present time, with the GTC at which it began (R319). -/
def State.dueWindow (s : State) (c : CoreId) : Option (Window × Nat) :=
  let off := s.gtc.toNat - s.frameStartAt
  (((s.contracts.windows.get c).filter fun w => w.offset ≤ off).getLast?).map fun w => (w, s.frameStartAt + w.offset)

/-- The lent set becomes a window's default mask: every region that changes holder reads zero (R320, R326). -/
def Core.defaultLend (k : Core) (m : BitVec 60) : Core :=
  { ((k.zeroFillMask k.lent).zeroFillMask m) with lent := m, lender := none }

/-- Fusion ends on every core of the cluster of a core (R24). -/
def State.endFusions (s : State) (c : CoreId) : State :=
  (allCores.filter fun d => clusterOf d = clusterOf c).foldl State.endFusion s

/-- The boundary itself, the outgoing unit being saved or of the same owner (R320). Fusion ends with the tenure, for every core of the
cluster, which no partition holds whole any more (R24, log 26). -/
def State.crossBoundary (s : State) (c : CoreId) (w : Window) (start : Nat) (same : Bool) : State :=
  let k := s.core c
  let keep := same && k.window.harvest == w.harvest && k.window.lend == w.lend
  let s := if same then s else s.endFusions c
  s.modCore c fun k =>
    let k := if keep then k else k.defaultLend w.lend
    let k := if same then k else k.switchSems
    { k with recalled := false, window := w, windowAt := some start, dark := false }

/-- WINDOW_BOUNDARY of a core: the outgoing owner's unit is pre-empted first, which a transfer phase delays (R320, R372). A window
without an owner is no leaf's tenure. -/
def execWindowBoundary (s : State) : Result :=
  let c := s.cur.ev.core
  let i : CtxId := ⟨c, .o⟩
  .next (match s.dueWindow c with
    | none => s
    | some (w, start) =>
      let k := s.core c
      if k.windowAt = some start || s.contracts.frame = 0 then s
      else
        let same := k.windowAt.isSome && (s.windowOwner c).isSome && s.windowOwner c == w.owner.filter fun l => !s.suspended l
        if !same && k.ctxO.live then (if s.inPhase i then s else s.askPreempt c)
        else if !same || k.window.harvest != w.harvest || k.window.lend != w.lend then
          let s := (s.askRevoke c true).revokeNow c
          if (s.core c).ctxH.live then s else s.crossBoundary c w start same
        else s.crossBoundary c w start same)

/-! ## FORCED_PREEMPTION (R442) -/

/-- A member that is pre-empted before S withdraws its arrival at a BARXF; a BAR keeps its arrival (R369, R372). -/
def State.withdraw (s : State) (i : CtxId) : State :=
  match (s.ctx i).stage with
  | .arrived b => if s.barriers.any fun x => x.id = b && x.xf then s.unarrive i else s
  | _ => s

/-- The context stands where its cut may be taken: no reply of the slices or the table is awaited (R294, R442). -/
def Ctx.canCut (c : Ctx) : Bool :=
  c.failing.isNone && match c.stage with
  | .fresh => true
  | .arrived _ => true
  | .closed _ => c.blocked.isSome
  | .revoking => c.blocked.isSome
  | .asked => c.blocked.isSome
  | .replied _ => false
  | .sent _ => false

/-- FORCED_PREEMPTION: at the end of grace the cut is taken, and once every phase is complete the unit is saved with its live
regions (R442). -/
def State.forceSave (s : State) (c : CoreId) : State :=
  let i : CtxId := ⟨c, .o⟩
  let x := s.ctx i
  if !x.live || !x.preq || x.defer || s.inPhase i || !x.canCut then s
  else match x.graceEnd with
    | none => s
    | some g =>
      if s.gtc.toNat < g then s
      else
        let s := (s.withdraw i).cutStep i
        if !s.atCut i then s
        else match (s.ctx i).cutGate with
          | none => match s.closePhase (.ctx i) x.vnpu with
            | none => s
            | some s => s.modCtx i fun c => { c with cutGate := some (s.phases (.ctx i)).closed }
          | some n =>
          if !s.phaseDone (.ctx i) n || !s.phasesQuiet (.ctx i) || !s.engPhasesQuiet i then s
          else
          let s := (s.unblockCtx i).modCtx i fun y => { y with stage := match y.stage with | .arrived b => .arrived b | _ => .fresh }
          s.saveUnit c ((s.ctx i).liveset.setWidth 60)

/-- FORCED_PREEMPTION (R442). -/
def execForcedPreemption (s : State) : Result := .next (s.forceSave s.cur.ev.core)

/-! ## BUDGET_TIME (R322, R384) -/

/-- The mode of a budget of B ns is applied to a leaf: its units trap, or are pre-empted as at a window end (R322). -/
def State.applyBudget (s : State) (l : LeafId) (suspend : Bool) (b : Nat) : State :=
  allCores.foldl (fun s c =>
    let i : CtxId := ⟨c, .o⟩
    if !(s.ctx i).live || s.ctxLeaf i ≠ l then s
    else if suspend then (if s.inPhase i then s else s.askPreempt c)
    else s.causeAt i { cause := 0x0F, einfo := BitVec.ofNat 64 b }) s

/-- BUDGET_TIME: a leaf's consumption, or that of its top-level partition, has reached its budget, once in the frame. -/
def execBudgetTime (s : State) : Result :=
  let l := s.cur.ev.leaf
  let t := topOf l
  let p := s.leafContract l
  let q := s.topContract t
  let s1 := if p.budget ≠ 0 && decide (p.budget ≤ (s.leaf l).used) && !(s.leaf l).reached then
      (s.modLeaf l fun x => { x with reached := true }).applyBudget l p.suspend p.budget
    else s
  .next (if q.budget ≠ 0 && decide (q.budget ≤ s1.topUsed.get t) && !s1.topReached.getLsbD t then
      ((List.finRange 64).filter fun m => topOf m = t).foldl (fun s m => s.applyBudget m q.suspend q.budget)
        { s1 with topReached := s1.topReached ||| (1#8 <<< t.val) }
    else s1)

end Sys2Proof.Machine
end

