-- ==== Sys2Proof/Machine/Power.lean ====
section
/-! DEFINITION. Intervals, rails and clocks (R16, R17, R335-R340), retention (R451), the timestamp (R19, R473), and the monitors of
rails and clocks (R455, R472, R486). -/

namespace Sys2Proof.Machine

/-! ## INTERVAL_BOUNDARY (R339) -/

/-- A cluster is on the high base rail (R335). -/
def State.baseHigh (s : State) (k : ClusterId) : Bool := s.contracts.baseHigh.getLsbD k

/-- The boost owner of a cluster on the low base rail (R335). -/
def State.boostOwner (s : State) (k : ClusterId) : Option LeafId := if s.baseHigh k then none else s.contracts.boostOwn.get k

/-- The contexts that claim for a cluster (R339). -/
def State.claimants (s : State) (k : ClusterId) : List CtxId :=
  match s.boostOwner k with
  | none => []
  | some l => allCtx.filter fun i => clusterOf i.core = k && (s.ctx i).live && s.ctxLeaf i = l && tb (s.ctx i).boost 0

/-- The priority of a cluster's claim, if it claims (R339). -/
def State.claim (s : State) (k : ClusterId) : Option Nat := ((s.claimants k).map s.eff).min?

/-- The reading of a sensor, in quarters of a degree (R487). -/
def tempAt (temps : List Int) (n : Nat) : Int := (temps[n]?).getD 0

/-- The sensors on the die: all but the sixteen of the LPDDR packages (R487). -/
def dieTemps (temps : List Int) : List Int := temps.take 14 ++ temps.drop 30

/-- The readings of the LPDDR packages. -/
def dramTemps (temps : List Int) : List Int := (temps.drop 14).take 16

/-- The greatest reading of a list. -/
def hottest (l : List Int) : Int := l.foldl max (-1000)

/-- A cluster's sensor reads 100 degrees or more (R488). -/
def State.warm (s : State) (k : ClusterId) : Bool := decide (400 ≤ tempAt s.temps k.val)

/-- Every cluster is held low (R488). -/
def State.allLow (s : State) : Bool := s.hot || decide (440 ≤ hottest (dieTemps s.temps))

/-- No claim is granted: the bucket is empty and the module draws more than 500 W (R339). -/
def State.bucketBlocks (s : State) : Bool := s.ePermits == 0 && decide (500000 < s.pEst)

/-- An entry put in order of priority, then number. -/
def insertClaim (x : Nat × ClusterId) : List (Nat × ClusterId) → List (Nat × ClusterId)
  | [] => [x]
  | y :: r => if x.1 < y.1 || (x.1 == y.1 && decide (x.2 < y.2)) then x :: y :: r else y :: insertClaim x r

/-- The claims that may be granted, in their order (R339). -/
def State.openClaims (s : State) : List (Nat × ClusterId) :=
  if s.bucketBlocks then []
  else ((List.finRange 8).filterMap fun k => if s.warm k then none else (s.claim k).map fun p => (p, k)).foldl (fun l x => insertClaim x l) []

/-- Each account grants its claims while it holds a permit (R339): the state with the permits deducted, and the clusters granted. -/
def State.grantClaims (s : State) : State × List ClusterId :=
  s.openClaims.foldl (fun (s, g) x => match s.boostOwner x.2 with
    | none => (s, g)
    | some l =>
      if (s.leaf l).account = 0 then (s, g)
      else (s.modLeaf l fun y => { y with account := y.account - 1 }, x.2 :: g)) (s, [])

/-- The cause of a fall, the first that holds in the order 3, 4, 2, 1 (R340): the thermal limit keeps a warm cluster's claim from the
grant, and holds low a cluster that was granted, or whose base rail is high. -/
def State.fallCause (s : State) (k : ClusterId) (granted : Bool) : BitVec 3 :=
  if !s.baseHigh k && (s.claim k).isNone then 3
  else if s.warm k || (s.allLow && (granted || s.baseHigh k)) then 4
  else if s.bucketBlocks then 2
  else 1

/-- A cluster after the decision of a boundary: a rise moves the rail first, a fall the clock first (R17). -/
def stepRail (x : Cluster) (high granted : Bool) (fall : BitVec 3) (now : Nat) : Cluster :=
  let x := { x with granted := granted }
  if high then
    if x.railHigh && x.moving.isNone then x
    else match x.moving with
      | some (true, _) => x
      | _ => { x with moving := some (true, now) }
  else if x.railHigh || x.clockHigh || (x.moving.any fun m => m.1) then
    { x with clockHigh := false, fall := fall, moving := some (false, now) }
  else x

/-- The accounts whose owner had no boosted cluster gain their refill (R339). -/
def State.refillAccounts (s : State) : State :=
  { s with leaves := Vector.ofFn fun l =>
      let x := s.leaves.get l
      let p := s.leafContract l
      if x.boosted || !((List.finRange 8).any fun k => s.boostOwner k == some l) then x
      else { x with account := min p.bcap (x.account + p.brate) } }

/-- The energy of an interval is settled: in units of 10 nJ, one permit is 16,000 of them (R336, R339). -/
def State.settleEnergy (s : State) (pEst : Nat) : State :=
  let d : Int := s.qRem + 500000 - pEst
  let e : Int := Int.tdiv d 16000
  let q : Int := d - e * 16000
  let sum : Int := s.ePermits + e
  let clamped : Int := max 0 (min 16384 sum)
  { s with ePermits := clamped.toNat, qRem := if clamped = sum then q else 0 }

/-- The interval that ends is settled (R339, R462): the first boundary after module reset ends none, and accounts that a set has just
filled are not refilled at the boundary where it takes effect. -/
def State.settleInterval (s : State) (pEst : Nat) : State :=
  if !s.settled then { s with settled := true, pEst := pEst }
  else
    let s := if s.accountsFresh && s.frameStartAt / 10000 == s.gtc.toNat / 10000 then s else s.refillAccounts
    { s.settleEnergy pEst with pEst := pEst }

/-- A fabric cycle begins an interval: the first epoch at which the GTC has reached a multiple of 10,000 since the last (R16). -/
def State.intervalDue (s : State) : Bool := decide (s.cycle % 4 = 0) && decide (s.spiAt / 10000 < s.gtc.toNat / 10000)

/-- INTERVAL_BOUNDARY: `n` is P_est of the interval ended, in mW (R16, R339). -/
def execIntervalBoundary (s : State) : Result :=
  if !s.intervalDue then .next s else
  let s := { s.settleInterval s.cur.ev.n with
                    accountsFresh := false
                    spiFrame := (s.spiFrame + 1) % 2 ^ 16, spiAt := s.gtc.toNat }
  let (t, granted) := s.grantClaims
  let high := fun (k : ClusterId) => !s.allLow && (s.baseHigh k || granted.contains k)
  .next { t with
    clusters := Vector.ofFn fun k => stepRail (s.cluster k) (high k) (granted.contains k) (s.fallCause k (granted.contains k)) s.cycle
    leaves := Vector.ofFn fun l =>
      { t.leaves.get l with boosted := (List.finRange 8).any fun k => s.boostOwner k == some l && high k } }

/-- RAIL_CONFIRMED (R17): the rail a cluster moves to is reached. -/
def execRailConfirmed (s : State) : Result :=
  .next (s.modCluster s.cur.ev.cluster fun x => match x.moving with
    | some (h, _) => { x with railHigh := h, moving := none }
    | none => x)

/-- DIVIDER_SWITCH (R17): at an epoch, once the high rail is confirmed; a rail that is to fall is not switched to. -/
def execDividerSwitch (s : State) : Result :=
  .next (if s.cycle % 4 ≠ 0 then s
    else s.modCluster s.cur.ev.cluster fun x => if x.railHigh && x.moving.isNone then { x with clockHigh := true } else x)

/-! ## Failures of contexts of a set of cores (R423, R448, R451) -/

/-- UnitFailure of a parked harvest context, with the image of its checkpoint, comes to its end once that can be written and its record
may be stamped (R242, R282, R423). -/
def State.endParked (s : State) (c : CoreId) (b : Fin 4) : State :=
  let x := (s.core c).bank b
  match x.ctx.failing with
  | none => s
  | some cause =>
    let v := x.ctx.vnpu
    let u := x.ctx.unit ⟨c, .h⟩
    if !x.used || !x.parked || !s.fatalFree u.ctx v || !s.mayStamp (.ctx u.ctx) then s
    else
      let s := s.modCore c fun k => k.setBank b {}
      let s := s.fatalImage u.ctx { ctx := x.ctx, engines := [], cells := [], poison := [], tags := [], vers := [], live := 0, lost := false } cause
      ((s.nestRetired v x.ctx.queue x.ctx.nest).reportLoss u v cause).stamped (.ctx u.ctx)

/-- A parked harvest context fails (R423). -/
def State.failParked (s : State) (c : CoreId) (b : Fin 4) (cause : Nat) : State :=
  let x := (s.core c).bank b
  if !x.used || !x.parked then s
  else State.endParked (s.modCore c fun k => k.setBank b { x with ctx := { x.ctx with failing := some cause } }) c b

/-- The failures of a core that wait for their images (R282, R423). -/
def State.endFailures (s : State) (c : CoreId) : State :=
  let s := (s.endFailure ⟨c, .o⟩).endFailure ⟨c, .h⟩
  let s := ((s.core c).saved.map fun x => x.ctx.leaf).foldl (fun s l => s.endSaved c l) s
  (List.finRange 4).foldl (fun s b => s.endParked c b) s

/-- Every resident unit, running or saved, and every harvest context of a core fails; STATE_LOST takes the state of those that run. -/
def State.failCore (s : State) (c : CoreId) (cause : Nat) : State :=
  let s := if cause = 0x1E then (s.modCtx ⟨c, .o⟩ Ctx.blank).modCtx ⟨c, .h⟩ Ctx.blank else s
  let s := if (s.ctx ⟨c, .o⟩).live then s.unitFailure ⟨c, .o⟩ cause else s
  let s := if (s.ctx ⟨c, .h⟩).live then s.unitFailure ⟨c, .h⟩ cause else s
  let s := (s.core c).saved.foldl (fun s x => s.failSaved c x cause) s
  (List.finRange 4).foldl (fun s b => s.failParked c b cause) s

/-- The cores are quarantined until module reset, and what runs there fails. -/
def State.loseCores (s : State) (cs : List CoreId) (cause : Nat) : State :=
  let s := cs.foldl (fun s c => s.modCore c fun k => { k with quarantined := true }) s
  cs.foldl (fun s c => s.failCore c cause) s

/-! ## Retention (R451) -/

/-- Nothing of a context is active: it is absent, or blocked in a registered wait. A hold of YIELD ends by itself, and the context
issues. -/
def Ctx.quiet (c : Ctx) : Bool := !c.live || (c.blocked.isSome && c.trap.isNone && c.holdEnd.isNone)

/-- No context of a cluster issues, no engine holds a record, and no transfer phase runs there (R451). -/
def State.clusterQuiet (s : State) (k : ClusterId) : Bool :=
  allCores.all fun c => clusterOf c ≠ k ||
    ((s.core c).ctxO.quiet && (s.core c).ctxH.quiet && (engs.all fun e => ((s.core c).engine e).queue.isEmpty)
      && !s.inPhase ⟨c, .o⟩)

/-- TICK and PC of the contexts of a cluster: one that issues moves them. -/
def State.clusterMarks (s : State) (k : ClusterId) : List (Word × Word) :=
  allCtx.filterMap fun i =>
    if clusterOf i.core ≠ k then none else if (s.ctx i).live then some ((s.ctx i).tick, (s.ctx i).pc) else some (0, 0)

/-- Since when each cluster has been quiet: it is quiet now, and nothing of it has issued since the last fabric cycle (R451). -/
def State.noteQuiet (s : State) : State :=
  { s with clusters := Vector.ofFn fun k =>
      let x := s.clusters.get k
      let m := s.clusterMarks k
      { x with marks := m
               quietAt := if !s.clusterQuiet k then none else if m = x.marks then some (x.quietAt.getD s.gtc.toNat) else some s.gtc.toNat } }

/-- A resident unit of a cluster belongs to a virtual NPU of traffic class 0. -/
def State.holdsClass0 (s : State) (k : ClusterId) : Bool :=
  allCores.any fun c => clusterOf c = k &&
    (((s.core c).ctxO.live && (s.contract (s.core c).ctxO.vnpu).tc == 0)
      || (s.core c).saved.any fun x => (s.contract x.ctx.vnpu).tc == 0)

/-- RETENTION_ENTRY: after 20 microseconds in which nothing of the cluster was active, at an epoch, so that the clocks stop and start on
whole groups of cycles and the ratio realigns at every epoch (R16, R451; DESIGN CHOICE, log 100). -/
def execRetentionEntry (s : State) : Result :=
  let k := s.cur.ev.cluster
  .next (match (s.cluster k).quietAt with
    | some t => if s.cycle % 4 == 0 && decide (t + 20000 ≤ s.gtc.toNat) && s.clusterQuiet k
          && s.clusterMarks k == (s.cluster k).marks && !s.holdsClass0 k then
        s.modCluster k fun x => { x with retention := true } else s
    | none => s)

/-- RETENTION_EXIT: `flag` says that a retention element lost its parity (R451). Off an epoch it stays due, and ends retention at the next
one (R16, log 100). -/
def execRetentionExit (s : State) : Result :=
  let k := s.cur.ev.cluster
  let lost := s.cur.ev.flag || (s.cluster k).waking == some true
  .next (if !(s.cluster k).retention then s
    else if s.cycle % 4 != 0 then s.modCluster k fun x => { x with waking := some lost }
    else
      let s := s.modCluster k fun x => { x with retention := false, quietAt := none, waking := none }
      if !lost then s
      else
        let cs := allCores.filter fun c => clusterOf c = k
        (s.errAt 857 4 true 0xFF 0xFF 0xFF 0 0 0).loseCores cs 0x1E)

/-! ## LOCKSTEP_MISMATCH (R448) -/

/-- The pair of a core: the executing core and the checking core (R12). -/
def pairOf (c : CoreId) : List CoreId := allCores.filter fun d => d.val / 2 = c.val / 2

/-- LOCKSTEP_MISMATCH of the pair of a core. -/
def execLockstepMismatch (s : State) : Result :=
  let c := s.cur.ev.core
  .next (if !s.lockstep c then s
    else (s.errAt (ctxNum ⟨c, .o⟩) 1 true 0xFF 0xFF 0xFF 0x15 0 0).loseCores (pairOf c) 0x15)

/-! ## Monitors (R455, R472, R486) -/

/-- RAIL_EXCURSION: a rail has been out of tolerance for 1 microsecond; with `flag` it is within tolerance again, and no longer holds
FAULT_N (R472, R485). -/
def execRailExcursion (s : State) : Result :=
  let r := s.cur.ev.rail
  .next (if s.cur.ev.flag then { s with railsOut := s.railsOut.filter fun x => x.1 ≠ r }
    else if s.railsOut.any fun x => x.1 = r then s
    else State.errAt { s with railsOut := (r, s.gtc.toNat - 1000) :: s.railsOut } 857 7 true 0xFF 0xFF 0xFF 0 0 0)

/-- The excursion of a rail has lasted 100 microseconds (R472). -/
def State.longExcursion (s : State) (r : Rail) : Bool := s.railsOut.any fun x => decide (x.1 = r) && decide (x.2 + 100000 ≤ s.gtc.toNat)

/-- RAIL_HALT: an excursion that lasts 100 microseconds halts guest issue until module reset (R472). -/
def execRailHalt (s : State) : Result := .next (if s.longExcursion s.cur.ev.rail then { s with halted := true } else s)

/-- WATCHDOG: the frame count has not advanced for 100 microseconds (R486). -/
def execWatchdog (s : State) : Result := .next (if s.spiAt + 100000 ≤ s.gtc.toNat then { s with faultN := true } else s)

/-- CLOCK_MONITOR (R455). -/
def execClockMonitor (s : State) : Result := .next (s.errAt 857 7 true 0xFF 0xFF 0xFF 0 0 0)

/-- ROOT_CONTROLLER_MISMATCH: guest issue halts until module reset (R455). -/
def execRootControllerMismatch (s : State) : Result :=
  .next (State.errAt { s with rootBad := true, halted := true } 857 6 true 0xFF 0xFF 0xFF 0 0 0)

/-! ## The timestamp (R19, R473) -/

/-- The signed distance of a value from the nearest multiple of a period, the lower one where two are as near (R473; DESIGN CHOICE, log
108). -/
def nearestError (v period : Nat) : Int :=
  let r := v % max 1 period
  if 2 * r ≤ period then (r : Int) else (r : Int) - period

/-- TSYNC: a rising edge captures the GTC, starts the removal of its error, and clears TSYNCLOST (R473). Under host discipline it captures
the GTC and does no more (DEDUCED, log 108). -/
def execTsync (s : State) : Result :=
  .next (if s.contracts.tsync = 0 then { s with tscap := s.gtc }
    else { s with tscap := s.gtc, slew := nearestError s.gtc.toNat (s.contracts.tsync * 1000000) * 2 ^ 32
                  tsLast := s.gtc.toNat, tsLost := false })

/-- TSYNCLOST: three expected edges are missed (R473). FAULT_N is not asserted, and the GTC runs on SYSCLK alone. -/
def execTsynclost (s : State) : Result :=
  .next (if s.contracts.tsync = 0 || s.tsLost || decide (s.gtc.toNat < s.tsLast + 3 * (s.contracts.tsync * 1000000)) then s
    else State.errAt { s with tsLost := true, slew := 0 } 857 7 false 0xFF 0xFF 0xFF 0 0 0)

/-- GTCSLEW: a host write replaces the remainder; under TSYNC discipline it is ignored (R473). -/
def execGtcslew (s : State) : Result := .next (if s.contracts.tsync ≠ 0 then s else { s with slew := s.cur.ev.word.toInt * 2 ^ 32 })

end Sys2Proof.Machine
end

