-- ==== Sys2Proof/Machine/Isolation.lean ====
section
/-! DEFINITION. Guest reset (R416, R417), pages that change world (R402), and the scrubber with its receipts (R452, R453). -/

namespace Sys2Proof.Machine

/-- GUEST_RESET of a virtual NPU (R417). -/
def execGuestReset (s : State) : Result := .next (s.startReset s.cur.ev.vnpu)

/-- GUEST_RESET_DRAIN: at drain count 0 the reset completes (R417). -/
def execGuestResetDrain (s : State) : Result := .next (s.finishReset s.cur.ev.vnpu)

/-! ## Pages (R402) -/

/-- The stage-2 entry of a page of a virtual NPU is cleared where it maps a physical page (R402); of a large mapping the whole entry
goes (log 36). -/
def State.unmapPage (s : State) (v : VnpuId) (ipage page : Nat) : State :=
  match s.mapEntry v ipage with
  | some (at_, e, size) =>
    let n := 2 ^ (size - 12)
    let first := bits e 37 12 / n * n
    if first ≤ page && page < first + n then
      State.dropTlb (s.putEntry at_ size 0) fun t => t.vnpu = v && (List.range n).any fun i => t.meetsPa (first + i)
    else s
  | none => s

/-- The root controller may rewrite the stage-2 entry of a page (R232, R282). -/
def State.entryMay (s : State) (v : VnpuId) (ipage : Nat) : Bool :=
  match s.mapEntry v ipage with
  | some (at_, _, _) => s.rootMay (at_ / 128)
  | none => true

/-- PAGE_WORLD_CHANGE: physical page `n`, which a virtual NPU maps at page `m` of its intermediate space, passes to the world in
`word` (R402); it is tried again after a fabric cycle where the entry may not be written yet (R232, R282). -/
def execPageWorldChange (s : State) : Result :=
  let e := s.cur.ev
  let w : BitVec 8 := e.word.setWidth 8
  .next (if s.pageWorld e.n = w || 2 ^ 26 ≤ e.n then s
    else if !s.entryMay e.vnpu e.m then { s with agenda := s.agenda ++ [.clock, .event .pageWorldChange e] }
    else (s.unmapPage e.vnpu e.m e.n).passPage e.n w)

/-- PENDING_ZERO_FILL of a page (R402). -/
def execPendingZeroFill (s : State) : Result := .next (if s.cur.ev.n < 2 ^ 26 then s.touch s.cur.ev.n else s)

/-! ## Sweeps (R452, R453) -/

/-- What a sweep has met: the lines swept, how many exceptions, and the first 252 with their kinds, last first. -/
structure Swept where
  lines : Nat := 0
  count : Nat := 0
  kept : List (Nat × Nat) := []
deriving DecidableEq, Repr

/-- An exception is met (R453). -/
def Swept.meet (w : Swept) (kind va : Nat) : Swept :=
  { w with count := w.count + 1, kept := if w.count < 252 then (va, kind) :: w.kept else w.kept }

/-- The lines of a page, by virtual address. -/
def pageLines (va : Nat) : List Nat := (List.range 32).map fun i => va + 128 * i

/-- One page of a sweep: an unmapped page, or one of a world the virtual NPU may not access, is not swept; of the others each poisoned
line is an exception, and a retired page is one (R453). -/
def State.sweepPage (s : State) (v : VnpuId) (retired : List Nat) (w : Swept) (va : Nat) : Swept :=
  let skip := (pageLines va).foldl (fun w l => w.meet 3 l) w
  match s.walkPage v va with
  | .error _ => skip
  | .ok t =>
    if !s.mayAccess v (s.pageWorld t.ppage) then skip
    else
      let w := { w with lines := w.lines + 32 }
      let w := if retired.contains (va / 4096) then w.meet 1 va else w
      (pageLines va).foldl (fun w l => if s.badAt (t.ppage * 4096 + l % 4096) then w.meet 2 l else w) w

/-- The receipt of a sweep over its 4096 bytes (R453). -/
def receiptOf (x : Sweep) (w : Swept) (corr t1 : Nat) : Mem :=
  let flags := (if w.count = 0 then 1 else 0) + (if 252 < w.count then 2 else 0) + 4
  let head : List Field := [(0, 8, x.va), (8, 8, x.len), (16, 8, x.t0), (24, 8, t1), (32, 4, w.lines), (36, 4, corr),
    (40, 2, min w.count 65535), (42, 1, flags), (43, 4, x.ticket)]
  let exc := (w.kept.reverse.mapIdx fun i e => [(64 + 16 * i, 8, e.1), (72 + 16 * i, 1, e.2)]).flatten
  imageOf (head ++ exc)

/-- The pieces of 4096 bytes at a virtual address within pages, with the offset of each. -/
def receiptPieces (va : Nat) : List (Nat × Nat × Nat) :=
  let a := va % 4096
  if a = 0 then [(va, 0, 4096)] else [(va, 0, 4096 - a), (va + 4096 - a, 4096 - a, a)]

/-- The access of the scrubber to a receipt: the rights of the virtual NPU at S. -/
def receiptAcc (v : VnpuId) (c : CoreId) : Acc := { core := c, vnpu := v, user := false, write := true }

/-- A routine holds a line of a receipt or of a table that its translation reads, or the root controller may close no phase (R232,
R282). -/
def State.receiptBusy (s : State) (v : VnpuId) (c : CoreId) (ps : List (Nat × Nat × Nat)) : Bool :=
  (ps.any fun p => s.walkHeld (receiptAcc v c) (p.1 % 2 ^ 64) p.2.2)
    || (s.imagePlaces (receiptAcc v c) ps).any fun p => (linesOf p.1 p.2).any fun l => !s.rootMay l

/-- A sweep that would end waits: for its receipt, or for a routine that holds a line of a table that a walk of its pages reads (R282,
R398). -/
def State.sweepBusy (s : State) (v : VnpuId) (x : Sweep) : Bool :=
  s.receiptBusy v x.ctx.core (receiptPieces x.receipt)
    || (s.vnpu v).s1root != 0 && (List.range (x.len / 4096)).any fun i =>
      (walk1Lines s v 4 (s.vnpu v).s1root ((x.va + 4096 * i) % 2 ^ 48)).any s.lineHeld

/-- A receipt is written page by page at its virtual address; a page that fails a check is not written. -/
def State.putReceipt (s : State) (v : VnpuId) (c : CoreId) (x : Mem) (ps : List (Nat × Nat × Nat)) : State :=
  ps.foldl (fun s p =>
    let a := receiptAcc v c
    match s.checkPages a (p.1 % 2 ^ 64) p.2.2 with
    | .ok ((_, t) :: _) => s.spliceIn .root a (t.ppage * 4096 + p.1 % 4096) p.2.2 x p.2.1
    | _ => s) s

/-- The page of the intermediate space at a virtual address (R398). -/
def State.ipaPage (s : State) (v : VnpuId) (va : Nat) : Option Nat :=
  if (s.vnpu v).s1root = 0 then some (va % 2 ^ 48 / 4096)
  else match walk1 s v 4 (s.vnpu v).s1root (va % 2 ^ 48) with
    | .ok l => some (l.addr / 4096)
    | .error _ => none

/-- The physical page behind a page of a virtual NPU. -/
def State.behindPage (s : State) (v : VnpuId) (p : Nat) : Option Nat :=
  match s.walkPage v (p * 4096) with
  | .ok t => some t.ppage
  | .error _ => none

/-- A pass of the scrubber ends, in which the lines of some pages showed corrected errors (R449, R452). -/
def State.endPass (s : State) (corr : Nat) (pages : List Nat) : State :=
  let new := (pages.filter fun p => !s.shown.contains (p, s.scrubPass)).eraseDups
  { s with corrected := s.corrected + corr, shown := s.shown ++ new.map fun p => (p, s.scrubPass), scrubPass := s.scrubPass + 1 }

/-- The lines of a physical page have shown corrected errors in two distinct passes (R452). -/
def State.worn (s : State) (page : Nat) : Bool := decide (2 ≤ (s.shown.filter fun e => e.1 == page).length)

/-- The first of some blocks of `n` pages, from page `p` on, that no world and no migration has and that are not worn. -/
def State.freeBlock (s : State) (n : Nat) : Nat → Nat → Option Nat
  | 0, _ => none
  | f + 1, p =>
    let used := s.migrating.any fun g => decide (g.new < p + n) && decide (p < g.new + g.pages)
    if 2 ^ 26 < p + n then none
    else if !used && (List.range n).all (fun i => s.pageWorld (p + i) == 0 && !s.worn (p + i)) then some p
    else s.freeBlock n f (p + n)

/-- The pages a page of the intermediate space is mapped with (R399). -/
def State.mapPages (s : State) (v : VnpuId) (ipage : Nat) : Nat :=
  match s.mapEntry v ipage with
  | some (_, _, size) => 2 ^ (size - 12)
  | none => 1

/-- A retired page starts its migration, with a record of class 10: its mapping goes to the first free block of its size at a multiple of
it, from page `first` on (R299, R452, R456, log 36). -/
def State.retirePage (s : State) (v : VnpuId) (first page : Nat) : State :=
  match s.ipaPage v (page * 4096), s.behindPage v page with
  | some ip, some pa =>
    let s := s.errAt 857 10 false (s.leafOf v).val v.val (s.contract v).world.toNat 0 (pa * 4096) 0
    let n := s.mapPages v ip
    s.migrate v ip ((s.freeBlock n 4096 ((first + n - 1) / n * n)).getD first)
  | _, _ => s

/-- Pages with corrected errors in two passes are retired (R452). -/
def State.retirePages (s : State) (v : VnpuId) (first : Nat) (pages : List Nat) : State :=
  pages.foldl (fun s p => s.retirePage v first p) s

/-- SCRUB_SWEEP: a pass of the scrubber, with the receipt of the oldest sweep that a virtual NPU has asked for. The input names what the
reads found that the machine does not hold, and `m` the first replacement page (R452, R453, log 81). -/
def execScrubSweep (s : State) : Result :=
  let v := s.cur.ev.vnpu
  let f := s.cur.ev.sweep
  let t := s.endPass f.corr (f.shown.filterMap fun p => s.behindPage v p)
  let retired := f.shown.filter fun p => ((s.behindPage v p).map t.worn).getD false
  .next (match (s.vnpu v).sweeps with
    | [] => t.retirePages v s.cur.ev.m retired
    | x :: rest =>
      let ps := receiptPieces x.receipt
      if s.sweepBusy v x then s
      else
        let w := (List.range (x.len / 4096)).foldl (fun w i => s.sweepPage v retired w (x.va + 4096 * i)) {}
        let t := t.modVnpu v fun y => { y with sweeps := rest }
        (t.putReceipt v x.ctx.core (receiptOf x w f.corr s.gtc.toNat) ps).retirePages v s.cur.ev.m retired)

end Sys2Proof.Machine
end

