-- ==== Sys2Proof/Machine/Interface.lean ====
section
/-! DEFINITION. The device interface of a virtual NPU: TDISP and IDE (R413-R415), host completions (R239, R414), page requests (R278,
R308, R454), and configuration requests (R415, R478). -/

namespace Sys2Proof.Machine

/-! ## TDISP (R413, R415) -/

/-- The interface enters a state; where it leaves RUN its host queues stop, and the completions of the reads it has sent are
to count as failed (R415). -/
def State.enterTdisp (s : State) (v : VnpuId) (t : Tdisp) : State :=
  let left := decide ((s.vnpu v).tdisp = .run) && decide (t ≠ .run)
  let s := s.modVnpu v fun x => { x with tdisp := t, leftRun := x.leftRun || left }
  if !left then s
  else
    let s := { s with hostReqs := s.hostReqs.map fun r => if r.vnpu = v then { r with lost := true } else r }
    (List.finRange 8).foldl (fun s q =>
      let r := (s.contract v).queues.get q
      if (s.contract v).enable && !r.inModule && !((s.vnpu v).queue q).qstop then s.stopQueue v q else s) s

/-- The interface enters ERROR, which starts a guest reset (R415, R416). -/
def State.tdispError (s : State) (v : VnpuId) : State := (s.enterTdisp v .error).startReset v

/-- The configuration of the interface is locked: CONFIG_LOCKED or RUN. -/
def Tdisp.isLocked : Tdisp → Bool
  | .locked => true
  | .run => true
  | .unlocked => false
  | .error => false

/-- TSTATE (R390). -/
def Tdisp.code : Tdisp → Nat
  | .unlocked => 0 | .locked => 1 | .run => 2 | .error => 3

/-- LOCK_INTERFACE. -/
def execLockInterface (s : State) : Result :=
  let v := s.cur.ev.vnpu
  .next (if s.ready && decide ((s.vnpu v).tdisp = .unlocked) then s.enterTdisp v .locked else s)

/-- The BAR ranges of a virtual function: the registers of BAR 0, and in BAR 2 the MSI-X table with its pending-bit array (R476). -/
def vfBars : List (Nat × Nat) := [(0, 0x2000), (2, 0x8100)]

/-- GET_DEVICE_INTERFACE_REPORT: the BAR ranges and the contracts in force (R413). -/
def execGetDeviceInterfaceReport (s : State) : Result :=
  let v := s.cur.ev.vnpu
  let l := s.leafOf v
  .next (if !s.ready then s
    else { s with outputs := .report v vfBars (s.contract v) (s.leafContract l) (s.topContract (topOf l)) :: s.outputs })

/-- START_INTERFACE. -/
def execStartInterface (s : State) : Result :=
  let v := s.cur.ev.vnpu
  .next (if s.ready && decide ((s.vnpu v).tdisp = .locked) then s.enterTdisp v .run else s)

/-- STOP_INTERFACE (R415). -/
def execStopInterface (s : State) : Result :=
  .next (if s.ready then s.enterTdisp s.cur.ev.vnpu .unlocked else s)

/-- GET_STATE. -/
def execGetState (s : State) : Result :=
  .next (if s.ready then { s with outputs := .value (s.vnpu s.cur.ev.vnpu).tdisp.code :: s.outputs } else s)

/-- GET_MEASUREMENTS: the digests of the image, with its security version, of the clear routine and of the blob in force, signed
(R480, R481). -/
def execGetMeasurements (s : State) : Result :=
  let log := s.attest ++ [s.contracts.digest]
  .next { s with outputs := .measurements log (Config.attestSignature log) :: s.outputs }

/-- CONFIGURATION_REQUEST: it is answered, with Retry Status from the physical function until READY (R478, R479); with `flag` it
changes the configuration, which moves a locked interface to ERROR (R415). The virtual functions exist once READY is set. -/
def execConfigurationRequest (s : State) : Result :=
  let e := s.cur.ev
  .next (match e.fn with
    | .pf => { s with outputs := .config (!(s.ready || s.recovery)) :: s.outputs }
    | .vf v =>
      if !s.ready then s
      else
        let s := { s with outputs := .config false :: s.outputs }
        if e.flag && (s.vnpu v).tdisp.isLocked then s.tdispError v else s)

/-- FUNCTION_LEVEL_RESET of a virtual function (R416, R478). -/
def execFunctionLevelReset (s : State) : Result := .next (if s.ready then s.startReset s.cur.ev.vnpu else s)

/-! ## Key sets (R414) -/

/-- Some request issued under the key set that is not current is outstanding. -/
def State.oldPending (s : State) (v : VnpuId) : Bool :=
  s.hostReqs.any fun r => r.vnpu = v && r.key != (s.vnpu v).keyGen && r.result.isNone

/-- KEY_SWITCH: the other slot becomes current, and the old slot stays valid for at most 4 ms. -/
def execKeySwitch (s : State) : Result :=
  .next (s.modVnpu s.cur.ev.vnpu fun x =>
    if x.oldKey.isSome then x else { x with kset := !x.kset, keyGen := x.keyGen + 1, oldKey := some (s.gtc.toNat + 4000000) })

/-- KEY_ERASURE: once every request of the old slot has completed, or after 4 ms. -/
def execKeyErasure (s : State) : Result :=
  let v := s.cur.ev.vnpu
  .next (match (s.vnpu v).oldKey with
    | none => s
    | some t => if t ≤ s.gtc.toNat || !s.oldPending v then s.modVnpu v fun x => { x with oldKey := none } else s)

/-! ## HOST_COMPLETION (R239, R414, R415, R417) -/

/-- The key set a request was issued under has been erased: it is neither the one in force nor the one before it, whose slot is
still valid. -/
def State.keyGone (s : State) (r : HostReq) : Bool :=
  let x := s.vnpu r.vnpu
  r.key != x.keyGen && !(r.key + 1 == x.keyGen && x.oldKey.isSome)

/-- The answer of a request is set, if the record that made it still walks. -/
def State.answerHost (s : State) (r : HostReq) (bs : Option (List Byte)) : State :=
  if (s.engine r.eng).head.hostReq = some r.tag then
    { s with hostReqs := s.hostReqs.map fun x => if x.id = r.id then { x with result := some bs } else x }
  else { s with hostReqs := s.hostReqs.filter fun x => x.id ≠ r.id }

/-- HOST_COMPLETION of request `n`; `flag` says that it passed its integrity check, and `m`, where it did not, that TDISP takes the
failure for a transition of the interface to ERROR (R415, log 51). One that arrives after its key's erasure is
dropped and counted; one of an earlier reset generation is discarded; one of an interface that has left RUN since the request, or that fails its check,
is a failed completion. A completion charges host ingress (R385); one that the
regulator holds comes again after a fabric cycle (R386). -/
def execHostCompletion (s : State) : Result :=
  .next (match s.hostReqs.find? fun r => r.id = s.cur.ev.n && r.result.isNone with
    | none => s
    | some r =>
      let v := r.vnpu
      let stale := r.rgen ≠ (s.vnpu v).rgen
      let drop := fun (s : State) => { s with hostReqs := s.hostReqs.filter fun x => x.id ≠ r.id }
      if s.keyGone r then
        let s := s.modVnpu v fun x => { x with ideStale := min 65535 (x.ideStale + 1) }
        if stale then drop s else s.answerHost r none
      else if stale then drop s
      else if r.lost || !s.inRun v then s.answerHost r none
      else if !s.cur.ev.flag then
        let s := s.answerHost r none
        if s.cur.ev.m ≠ 0 && (s.vnpu v).tdisp.isLocked then s.tdispError v else s
      else match s.admitAll v (.host r.id) [(96, 64)] with
        | (false, s) => { s with agenda := s.agenda ++ [.clock, .event .hostCompletion s.cur.ev] }
        | (true, s) => s.answerHost r (some (s.host.read (s.hostAddr v r.addr) 64)))

/-! ## Page requests (R278, R308, R454) -/

/-- The copy steps that wait for the translation of a page fault TRANSLATION_FAULT (R277, R278, R454). -/
def State.refuseSteps (s : State) (v : VnpuId) (page : Nat) : State :=
  (allCores.flatMap fun c => [(⟨c, .ci⟩ : EngId), ⟨c, .co⟩]).foldl (fun s e =>
    match s.hostStep e with
    | some (w, va) =>
      if w = v && va / 4096 = page && (s.unitRead e (s.engine e).head va).isNone then
        s.engFault e 0 { cause := 0x05, eaddr := BitVec.ofNat 64 va, einfo := accInfo (decide (e.eng = .co)) false true }
      else s
    | none => s) s

/-- The walker accesses that wait for it fail: a read of a descriptor rejects the nest; a read or a write of a control block stops the
queue, and the write is not tried again (R308). -/
def State.refuseQueues (s : State) (v : VnpuId) (page : Nat) : State :=
  (List.finRange 8).foldl (fun s q =>
    let r := (s.contract v).queues.get q
    let x := (s.vnpu v).queue q
    if !(s.contract v).enable || r.inModule then s
    else if x.unpublished.isSome && decide (r.qcb / 4096 = page) then
      (s.modQueue v q fun x => { x with unpublished := none }).stopQueue v q
    else if !x.takeable || (s.vnpu v).busy then s
    else if entryAt r x / 4096 = page then s.failTake v q
    else if r.qcb / 4096 = page then s.stopQueue v q
    else s) s

/-- A translation that the host refuses. -/
def State.refusePage (s : State) (v : VnpuId) (page : Nat) : State := (s.refuseSteps v page).refuseQueues v page

/-- PAGE_REQUEST_RESPONSE to index `n` of a function; `flag` says that the host grants the page, whose translation is page `m` of host
memory. A stale response, or one that matches
no index, is counted and changes no translation (R454). -/
def execPageRequestResponse (s : State) : Result :=
  let v := s.cur.ev.vnpu
  let stale := fun (s : State) => s.modVnpu v fun x => { x with stale := min 65535 (x.stale + 1) }
  .next (match s.pageReqs.find? fun p => p.index = s.cur.ev.n && p.vnpu = v with
    | none => stale s
    | some p =>
      let s := { s with pageReqs := s.pageReqs.filter fun x => x.index ≠ p.index }
      if p.rgen ≠ (s.vnpu v).rgen then stale s
      else if s.cur.ev.flag then s.modVnpu v fun x => { x with granted := putKey p.page s.cur.ev.m x.granted }
      else s.refusePage v p.page)

/-- PAGE_REQUEST_TIMEOUT of index `n`, after 100 ms (R454). -/
def execPageRequestTimeout (s : State) : Result :=
  .next (match s.pageReqs.find? fun p => p.index = s.cur.ev.n with
    | none => s
    | some p =>
      if s.gtc.toNat < p.since + 100000000 then s
      else
        let s := { s with pageReqs := s.pageReqs.filter fun x => x.index ≠ p.index }
        if p.rgen ≠ (s.vnpu p.vnpu).rgen then s else s.refusePage p.vnpu p.page)

end Sys2Proof.Machine
end

