-- ==== Sys2Proof/Machine/Errors.lean ====
section
/-! DEFINITION. Memory errors (R298, R407, R449, R450), sensors and their limits (R487, R488), the error log and FAULT_N on the
management interface (R483-R485), and the status frame (R486). -/

namespace Sys2Proof.Machine

/-! ## ECC_ERROR (R449) -/

/-- A line of DRAM or of a slice is poisoned; a newly poisoned line writes a record (R450, R455). -/
def State.poisonLine (s : State) (line : Nat) : State :=
  if s.poison.contains line || 2 ^ 31 ≤ line then s
  else
    let s := s.touch (line / 32)
    State.errAt { s with poison := line :: s.poison } (840 + controllerOf (line * 128)) 3 true 0xFF 0xFF
      (s.pageWorld (line / 32)).toNat 0x14 (line * 128) 0

/-- A unit of a local store is poisoned (R449, R450). -/
def State.poisonUnit (s : State) (c : CoreId) (a : Nat) : State :=
  if (s.core c).poison.contains (a / 64) || !localOk a 1 then s
  else (s.modCore c fun k => { k with poison := a / 64 :: k.poison }).errAt (ctxNum ⟨c, .o⟩) 2 true 0xFF 0xFF 0xFF 0x14 0 a

/-- A record of class 2: an SRAM's uncorrectable error (R455, R456). -/
def State.sramError (s : State) (src : Nat) : State := s.errAt src 2 true 0xFF 0xFF 0xFF 0 0 0

/-- The state of a context is lost: UnitFailure with STATE_LOST (R423, R449). -/
def State.loseCtx (s : State) (i : CtxId) : State := if (s.ctx i).live then (s.modCtx i Ctx.blank).unitFailure i 0x1E else s

/-- The n-th registration of the wait-for table is lost, and its leaf's LOST and LOSTCNT say so (R359, R449). -/
def State.loseWait (s : State) (n : Nat) : State :=
  match s.wft[n]? with
  | none => s
  | some e => (State.wftLost { s with wft := s.wft.eraseIdx n } e.leaf).sramError 857

/-- A bank of the Cupboard is lost: the context parked in it, or the one in slot H whose checkpoint it holds, fails. -/
def State.loseBank (s : State) (c : CoreId) (b : Fin 4) : State :=
  let x := (s.core c).bank b
  let s := s.sramError (ctxNum ⟨c, .h⟩)
  if !x.used then s
  else if x.parked then (s.modCore c fun k => k.setBank b { x with ctx := x.ctx.blank }).failParked c b 0x1E
  else if (s.core c).ctxH.live && (s.core c).ctxH.bank = b then s.loseCtx ⟨c, .h⟩
  else s

/-- The routine of an executor is aborted, with nothing committed, and its invocation faults with sub-cause 1 (R298). -/
def State.abortExec (s : State) (m : SliceId) (x : Fin 4) : State :=
  match ((s.slice m).exec x).inv with
  | none => s
  | some i => (s.modSlice m fun y => y.setExec x {}).answerInv m i (.fault 0x11 (sliceInfo m 1) 1)

/-- A corrected error of DRAM or of a slice is counted; elsewhere a correction changes nothing (R449). -/
def State.corrects (s : State) : EccSite → State
  | .dramLine _ => { s with corrected := s.corrected + 1 }
  | _ => s

/-- ECC_ERROR at a site; `flag` says that it was corrected. A copy or a translation that fails is discarded alone. A line of an encrypted
tensor names a stored line whose check fails from then on (R407). -/
def execEccError (s : State) : Result :=
  .next (if s.cur.ev.flag then s.corrects s.cur.ev.site
    else match s.cur.ev.site with
      | .dramLine line => s.poisonLine line
      | .localUnit c a => s.poisonUnit c a
      | .l1 c line => (s.modCore c fun k => { k with l1 := k.l1.filter fun x => x.line ≠ line }).sramError (ctxNum ⟨c, .o⟩)
      | .icache c line => (s.modCore c fun k => { k with icache := k.icache.filter fun x => x.line ≠ line }).sramError (ctxNum ⟨c, .o⟩)
      | .ctxState i => (s.loseCtx i).sramError (ctxNum i)
      | .cupboard c b => s.loseBank c b
      | .tlb c n => (s.modCore c fun k => { k with tlb := k.tlb.eraseIdx n }).sramError (ctxNum ⟨c, .o⟩)
      | .stripTlb m n => State.sramError { s with strips := s.strips.set m ((s.strips.get m).eraseIdx n) } 857
      | .clearSig c => (s.modCore c fun k => { k with sigBad := true }).sramError (ctxNum ⟨c, .o⟩)
      | .wftEntry n => s.loseWait n
      | .routineImage m slot =>
        (s.modSlice m fun x => { x with badImages := slot :: x.badImages.filter (· ≠ slot) }).sramError (768 + m.val)
      | .executor m x => (s.abortExec m x).sramError (768 + m.val)
      | .tensorLine line => if (getKey line s.lineTags).isSome then { s with badLines := line :: s.badLines.filter (· ≠ line) } else s)

/-! ## Module reset (R478) -/

/-- The module after a reset: what is outside it stays, and the sensors read what they read. -/
def State.afterReset (s : State) : State :=
  { State.reset with
    host := s.host, outputs := s.outputs, temps := s.temps, cur := s.cur, agenda := s.agenda, free := s.free }

/-! ## SENSOR_READ (R487, R488) -/

/-- The limit of a sensor at which FAULT_N asserts: 105 degrees for an LPDDR package, 110 on the die (R487, R488). -/
def sensorLimit (n : Nat) : Int := if 14 ≤ n ∧ n < 30 then 420 else 440

/-- The sensors that stand at or above their limits. -/
def overLimit (temps : List Int) : List Nat := (List.range 46).filter fun n => decide (sensorLimit n ≤ tempAt temps n)

/-- A record of class 8 that asserts FAULT_N, with the sensor as its detail (log 31). -/
def State.thermal (s : State) (n : Nat) : State := s.errAt 857 8 true 0xFF 0xFF 0xFF 0 0 n

/-- SENSOR_READ: the 46 readings in quarters of a degree, and the actions of R488: each sensor that comes to stand at its limit writes a
record, and again at the first reading after a module reset (log 31). In reset 125 degrees alone acts. -/
def execSensorRead (s : State) : Result :=
  let t := s.cur.ev.temps
  let die := hottest (dieTemps t)
  let s := { s with temps := t }
  .next (if 500 ≤ die then { s.afterReset with thermN := true }
    else if s.held then s
    else
      let new := (overLimit t).filter fun n => !s.pastLimit.contains n
      new.foldl State.thermal { s with hot := decide (440 ≤ die) || (s.hot && decide (400 ≤ die)), pastLimit := overLimit t })

/-! ## The error log (R483-R485) -/

/-- A record as 32 bytes (R456). -/
def ErrRec.image (r : ErrRec) : List Byte :=
  leBytes 8 r.stamp ++ leBytes 2 r.src ++ leBytes 1 r.cls ++ leBytes 1 (if r.faultN then 1 else 0) ++ leBytes 1 r.leaf ++ leBytes 1 r.vnpu
    ++ leBytes 1 r.world ++ leBytes 1 r.cause ++ leBytes 8 r.addr ++ leBytes 8 r.detail

/-- ELOG: a read returns and removes the first record; the bytes of a read that finds none are a free value (R483). -/
def execElog (s : State) : Result :=
  .next (match s.errlog.recs with
    | [] => { s with outputs := .bytes (leBytes 32 (Config.emptyLog s.free).toNat) :: s.outputs, free := s.free + 1 }
    | (_, r) :: rest => { s with outputs := .bytes r.image :: s.outputs, errlog := { s.errlog with recs := rest } })

/-- A condition that keeps FAULT_N asserted (R485). -/
def State.faultPersists (s : State) : Bool :=
  !s.railsOut.isEmpty || s.rootBad || decide (440 ≤ hottest (dieTemps s.temps)) || decide (420 ≤ hottest (dramTemps s.temps))

/-- FAULTCLR: a write of `word`. An unread record that asserted FAULT_N keeps it asserted, whether its number is at most that written or
above it (R485). -/
def execFaultclr (s : State) : Result :=
  let n := s.cur.ev.word.toNat
  let unread := s.errlog.recs.any fun r => r.2.faultN
  let above := match s.lastAssert with
    | some m => decide (n < m)
    | none => false
  .next (if unread || above || s.faultPersists then s else { s with faultN := false })

/-! ## STATUS_FRAME (R486) -/

/-- One bit of CRC-32 (IEEE 802.3), least significant bit first. -/
def crcBit (c : BitVec 32) : BitVec 32 := if c.getLsbD 0 then (c >>> 1) ^^^ 0xEDB88320 else c >>> 1

/-- CRC-32 over a byte. -/
def crcByte (c : BitVec 32) (b : Byte) : BitVec 32 :=
  crcBit (crcBit (crcBit (crcBit (crcBit (crcBit (crcBit (crcBit (c ^^^ b.setWidth 32))))))))

/-- CRC-32 of a list of bytes. -/
def crc32 (bs : List Byte) : BitVec 32 := ~~~(bs.foldl crcByte 0xFFFFFFFF)

/-- A bit for each core that is quarantined. -/
def State.quarantineBits (s : State) : Nat := bitsNat (allCores.map fun c => (s.core c).quarantined)

/-- The hottest sensor in degrees, from 0 to 255. -/
def State.hottestByte (s : State) : Nat :=
  match s.temps with
  | [] => 0
  | t => min 255 (Int.fdiv (hottest t) 4).toNat

/-- Bytes 0-27 of the frame. -/
def State.frameBytes (s : State) : List Byte :=
  leBytes 2 0x9600 ++ leBytes 2 s.spiFrame
    ++ leBytes 1 ((if s.faultN then 1 else 0) + (if s.thermN then 2 else 0) + (if s.tsLost then 4 else 0))
    ++ leBytes 1 s.hottestByte ++ leBytes 2 s.errlog.recs.length ++ leBytes 8 s.gtc.toNat ++ leBytes 12 s.quarantineBits

/-- STATUS_FRAME. -/
def execStatusFrame (s : State) : Result :=
  let bs := s.frameBytes
  .next { s with outputs := .bytes (bs ++ leBytes 4 (crc32 bs).toNat) :: s.outputs }

end Sys2Proof.Machine
end

