-- ==== Sys2Proof/Machine/Contracts.lean ====
section
/-! DEFINITION. Contract sets as bytes, and their checks (R380-R383, R437, R476, R482). -/

namespace Sys2Proof.Machine

/-! ## Reading the records -/

/-- `n` bytes from byte `b` of a record. -/
def recField (r : List Byte) (b n : Nat) : Nat := leNat ((r.drop b).take n)

/-- A partition contract (R380). -/
def parsePart (r : List Byte) : PartContract :=
  let f := recField r
  { cores := BitVec.ofNat 96 (f 0 12), lanes := BitVec.ofNat 32 (f 12 4), wftq := f 16 2, rtq := f 18 1, floor := f 19 1, ceil := f 20 1
    suspend := f 21 1 % 2 == 1, regTrap := f 21 1 / 2 % 2 == 1, thresh := f 22 2, budget := f 24 8, rateCore := f 32 4, depthCore := f 36 4
    rateHost := f 40 4, depthHost := f 44 4, rateMc := f 48 4, depthMc := f 52 4, bcap := f 56 2, bstart := f 58 2, brate := f 60 2
    vnpus := BitVec.ofNat 64 (f 64 8) }

/-- A launch queue record (R382). -/
def parseQueue (r : List Byte) : QueueRec :=
  let f := recField r
  { ring := f 0 8, qcb := f 8 8, inModule := f 16 1 % 2 == 1, irq := f 16 1 / 2 % 2 == 1, k := f 17 1 }

/-- A leaf in bits 5:0 of a byte. -/
def leafBits (b : Nat) : LeafId := ⟨b % 64, Nat.mod_lt _ (by decide)⟩

/-- A leaf, or none where bit 7 is set (R383). -/
def leafOrNone (b : Nat) : Option LeafId := if bits b 7 7 = 1 then none else some (leafBits b)

/-- A virtual NPU contract with its queue records (R382). -/
def parseVnpu (r : List Byte) (qs : List (List Byte)) : VnpuContract :=
  let f := recField r
  { enable := bits (f 0 1) 7 7 == 1, leaf := leafBits (f 0 1), world := BitVec.ofNat 8 (f 1 1), shared := f 2 1 % 2 == 1
    harvest := f 2 1 / 2 % 2 == 1, tc := f 2 1 / 4 % 4, weight := f 3 1, msiBase := f 4 2
    queues := Vector.ofFn fun q => parseQueue ((qs[q.val]?).getD []) }

/-- A window entry (R383). -/
def parseWindow (r : List Byte) : Window :=
  let f := recField r
  { offset := f 0 4, owner := leafOrNone (f 4 1), harvest := leafOrNone (f 5 1), lend := BitVec.ofNat 60 (f 8 8) }

/-- G: 20 unless GSET is set (R437). -/
def graceOf (w : Nat) : Nat := if bits w 15 15 = 1 then w % 256 else 20

/-- The contract set a blob holds (R482). -/
def parseBlob (b : Blob) : Contracts :=
  let f := recField b.moduleRec
  { tops := Vector.ofFn fun i => parsePart ((b.tops[i.val]?).getD [])
    leaves := Vector.ofFn fun i => parsePart ((b.leaves[i.val]?).getD [])
    vnpus := Vector.ofFn fun i => parseVnpu ((b.vnpus[i.val]?).getD []) ((b.queues[i.val]?).getD [])
    windows := Vector.ofFn fun i => ((b.windows[i.val]?).getD []).map parseWindow
    frame := f 0 4, baseHigh := BitVec.ofNat 8 (f 4 1), lockstep := BitVec.ofNat 8 (f 5 1)
    boostOwn := Vector.ofFn fun i => leafOrNone (f (8 + i.val) 1)
    grace := graceOf (f 6 2), pool := f 16 4, tsync := f 20 4, digest := b.digest }

/-! ## The fields (R380, R382, R383, R437, R482) -/

/-- Every byte from `b` on is zero. -/
def zeroFrom (r : List Byte) (b : Nat) : Bool := (r.drop b).all (· == 0)

/-- A partition contract that is not all zero is in use. -/
def PartContract.used (p : PartContract) : Bool := decide (p ≠ {})

/-- The fields of a partition contract lie in their ranges (R380, R381). -/
def partFieldsOk (r : List Byte) (top : Bool) : Bool :=
  let f := recField r
  let p := parsePart r
  let rate := fun a d => decide (a ≤ 128000) && decide (d < 2 ^ 24) && (a == 0 || decide (128 ≤ d))
  decide (p.wftq < 2 ^ 14) && decide (p.rtq ≤ 240) && decide (p.floor ≤ p.ceil) && decide (p.ceil ≤ 16) && decide (f 21 1 < 4)
    && (!p.regTrap || p.thresh != 0) && rate p.rateCore p.depthCore && decide (p.rateCore ≤ 102400) && rate p.rateHost p.depthHost
    && rate p.rateMc p.depthMc && decide (p.bcap ≤ 4096) && decide (p.bstart ≤ p.bcap) && decide (p.brate ≤ 4096) && f 62 2 == 0
    && (!top || p.vnpus == 0) && zeroFrom r 72

/-- The fields of a queue record (R382). -/
def queueFieldsOk (r : List Byte) : Bool :=
  let q := parseQueue r
  decide (recField r 16 1 < 4) && decide (q.k ≤ 16) && q.ring % 64 == 0 && q.qcb % 64 == 0 && zeroFrom r 18

/-- The fields of an enabled virtual NPU contract, the worlds of R382, and the vectors of R476, which every contract has. -/
def vnpuFieldsOk (r : List Byte) (qs : List (List Byte)) : Bool :=
  let v := parseVnpu r qs
  decide (v.msiBase + 8 ≤ 2047) && (!v.enable || (bits (recField r 0 1) 6 6 == 0 && v.world != 0 && (v.world != 1 || v.shared) && decide (recField r 2 1 < 16)
    && decide (1 ≤ v.weight) && zeroFrom r 6 && qs.all queueFieldsOk))

/-- Windows from one that begins at `a` last 10 microseconds or more each, to the end of the frame (R319, R383). -/
def lastLong (frame : Nat) : Nat → List Window → Bool
  | a, [] => decide (a + 10000 ≤ frame)
  | a, w :: r => decide (a + 10000 ≤ w.offset) && lastLong frame w.offset r

/-- A window table for a frame in nanoseconds: 1 to 64 windows, the first at offset 0 (R319, R383). -/
def windowsOk (frame : Nat) (rs : List (List Byte)) : Bool :=
  decide (rs.length ≤ 64)
    && (match rs.map parseWindow with | [] => false | w :: r => w.offset == 0 && lastLong frame 0 r)
    && rs.all fun r => bits (recField r 4 1) 6 6 == 0 && bits (recField r 5 1) 6 6 == 0 && recField r 6 2 == 0 && decide (recField r 8 8 < 2 ^ 60)

/-- The module record (R383, R437, R482). -/
def moduleOk (r : List Byte) : Bool :=
  let f := recField r
  let g := f 6 2
  decide (250 ≤ f 0 4) && decide (f 0 4 ≤ 1000000) && decide (((List.range 8).filter fun i => bits (f 4 1) i i == 1).length ≤ 5)
    && bits g 14 8 == 0 && (bits g 15 15 == 0 || decide (g % 256 ≤ 250)) && ((List.range 8).all fun i => bits (f (8 + i) 1) 6 6 == 0)
    && f 16 4 % 64 == 0 && decide (f 20 4 ≤ 1000) && zeroFrom r 24

/-- Every field of a blob's records lies in its range. -/
def blobFieldsOk (b : Blob) : Bool :=
  moduleOk b.moduleRec && (b.tops.all fun r => partFieldsOk r true) && (b.leaves.all fun r => partFieldsOk r false)
    && ((List.range 64).all fun i => vnpuFieldsOk ((b.vnpus[i]?).getD []) ((b.queues[i]?).getD [])) 
    && (List.range 96).all fun i => windowsOk (1000 * (parseBlob b).frame) ((b.windows[i]?).getD [])

/-! ## The checks across records (R381) -/

/-- A child against its parent. -/
def childOk (p c : PartContract) : Bool :=
  c.cores &&& ~~~p.cores == 0 && c.lanes &&& ~~~p.lanes == 0 && decide (c.ceil ≤ p.ceil)
    && (p.budget == 0 || (c.budget != 0 && decide (c.budget ≤ p.budget)))
    && decide (c.depthCore ≤ p.depthCore) && decide (c.depthHost ≤ p.depthHost) && decide (c.depthMc ≤ p.depthMc)

/-- The sum of a field over partitions. -/
def sumOf (l : List PartContract) (f : PartContract → Nat) : Nat := (l.map f).sum

/-- The children of one parent together. -/
def childrenOk (p : PartContract) (cs : List PartContract) : Bool :=
  cs.all (childOk p) && [PartContract.wftq, PartContract.rtq, PartContract.floor, PartContract.rateCore, PartContract.rateHost, PartContract.rateMc].all fun f => decide (sumOf cs f ≤ f p)

/-- The masks of a list are pairwise disjoint. -/
def disjoint {w : Nat} : List (BitVec w) → Bool
  | [] => true
  | x :: r => (r.all fun y => x &&& y == 0) && disjoint r

/-- The leaves of a top-level partition that are in use. -/
def Contracts.children (c : Contracts) (t : TopId) : List PartContract :=
  ((List.finRange 64).filter fun l => topOf l = t).filterMap fun l =>
    let p := c.leaves.get l
    if p.used then some p else none

/-- An enabled virtual NPU of a leaf is of traffic class 0. -/
def Contracts.classZero (c : Contracts) (l : LeafId) : Bool := c.vnpus.toList.any fun v => v.enable && v.leaf = l && v.tc == 0

/-- A leaf owns a window. -/
def Contracts.ownsWindow (c : Contracts) (l : LeafId) : Bool := c.windows.toList.any fun ws => ws.any fun w => w.owner == some l

/-- Sums of RATE.MC and RATE.HOST of some leaves are within a limit. -/
def ratesWithin (l : List PartContract) (n : Nat) : Bool := decide (sumOf l (·.rateMc) ≤ n) && decide (sumOf l (·.rateHost) ≤ n)

/-- Each enabled virtual NPU belongs to the leaf its contract names, and to at most one (R380-R382). -/
def Contracts.membersOk (c : Contracts) : Bool :=
  disjoint (c.leaves.toList.map (·.vnpus))
    && (List.finRange 64).all fun v => !(c.vnpus.get v).enable || ((c.leaves.get (c.vnpus.get v).leaf).vnpus).getLsbD v

/-- The windows name leaves that hold the core, owners with bandwidth, and on the checking core of a pair no leaf (R12). -/
def Contracts.windowsFit (c : Contracts) : Bool :=
  (allCores.all fun n => (c.windows.get n).all fun w =>
    [w.owner, w.harvest].all fun o => match o with
      | some l => (c.leaves.get l).cores.getLsbD n && !(c.lockstep.getLsbD (clusterOf n) && n.val % 2 == 1)
      | none => true)
  && (List.finRange 64).all fun l => !c.ownsWindow l || ((c.leaves.get l).rateCore != 0 && (c.leaves.get l).rateMc != 0)

/-- Every check of R381. -/
def Contracts.fits (c : Contracts) : Bool :=
  let leaves := c.leaves.toList
  let tops := c.tops.toList
  let zero := ((List.finRange 64).filter c.classZero).map fun l => c.leaves.get l
  ((List.finRange 8).all fun t => childrenOk (c.tops.get t) (c.children t))
    && decide (sumOf leaves (·.floor) ≤ 16) && ratesWithin leaves 128000 && decide (sumOf leaves (·.wftq) ≤ 8192) && ratesWithin zero 64000
    && disjoint (tops.map (·.lanes))
    && decide (((List.range 32).filter fun l => tops.any fun t => t.lanes.getLsbD l).length ≤ 16)
    && decide (sumOf tops (·.rtq) ≤ 240) && c.membersOk && c.windowsFit

/-- A blob is accepted as a set (R379-R383). -/
def blobOk (b : Blob) : Bool := blobFieldsOk b && (parseBlob b).fits

/-- A set changes a field that is fixed until module reset (R482). -/
def Contracts.changesFixed (c old : Contracts) : Bool := c.lockstep != old.lockstep || c.pool != old.pool || c.tsync != old.tsync

end Sys2Proof.Machine
end

