-- ==== Sys2Proof/Machine/Device.lean ====
section
/-! DEFINITION. The device as the host and the safety controller see it: doorbells (R304, R476), blobs and images (R379, R480, R482),
boot and module reset (R478, R479, R488), and the registers of R388-R390, R475-R477 and R483. -/

namespace Sys2Proof.Machine

/-! ## DOORBELL (R476) -/

/-- A doorbell of a queue is ignored (R308, R415, R417, R476). -/
def State.doorbellDead (s : State) (v : VnpuId) (q : Fin 8) : Bool :=
  let x := s.vnpu v
  !s.ready || !(s.contract v).enable || ((s.contract v).queues.get q).inModule || decide (x.tdisp = .locked) || decide (x.tdisp = .error)
    || x.leftRun || (x.queue q).qstop || x.busy

/-- DOORBELL: the low 32 bits of `word` are the queue's PROD, unless they exceed CONS by more than N (R304, R476). -/
def execDoorbell (s : State) : Result :=
  let v := s.cur.ev.vnpu
  let q := s.cur.ev.queue
  let p : BitVec 32 := s.cur.ev.word.setWidth 32
  .next (if s.doorbellDead v q then s
    else if 2 ^ ((s.contract v).queues.get q).k < (p - ((s.vnpu v).queue q).cons).toNat then s.modVnpu v fun x => { x with badDb := true }
    else s.modQueue v q fun x => { x with prod := p })

/-! ## BLOB_LOAD (R379, R480, R482) -/

/-- The set whose reset-fixed fields a blob must keep: the one in force, or the one that is to be the first. -/
def State.fixedBy (s : State) : Option Contracts := if s.contracts.frame ≠ 0 then some s.contracts else s.pending

/-- The value of BLOBSTAT for a blob (R480): its signature, its size and the checks of R381, the reset-fixed fields (log 53). -/
def State.blobStatus (s : State) (b : Blob) : Nat :=
  if !b.sigOk then 2
  else if 2 ^ 20 < b.size || !blobOk b then 3
  else match s.fixedBy with
    | some c => if (parseBlob b).changesFixed c then 4 else 0
    | none => 0

/-- A blob is verified and checked: an accepted set waits for the next frame start, in place of one that waits already (R482). -/
def State.loadBlob (s : State) (b : Blob) : State :=
  let n := s.blobStatus b
  let s := { s with blobstat := BitVec.ofNat 64 n }
  if n = 0 then { s with pending := some (parseBlob b) } else s

/-- BLOB_LOAD: BLOBCTL = 1 begins the validation of the blob that the staging window holds, or finds another's in progress; with `flag` a
validation ends (R475, R482, log 53). In recovery the write is ignored (DESIGN CHOICE, log 109). -/
def execBlobLoad (s : State) : Result :=
  .next (if s.held || s.recovery then s
    else match s.validating with
      | some b => if s.cur.ev.flag then State.loadBlob { s with validating := none } b else { s with blobstat := 5 }
      | none => if s.cur.ev.flag then s else { s with validating := some (Config.stagedBlob s.staging) })

/-! ## BOOT and IMAGE_LOAD (R479-R481) -/

/-- An image runs: it is recorded in the attestation log, and the blob is verified and checked. -/
def State.runImage (s : State) (i : FwImage) (b : Blob) : State :=
  State.loadBlob { s with held := false, recovery := false, attest := [i.digest, i.version, i.clearDigest] } b

/-- BOOT: the ROM verifies the image, and the firmware checks the blob, which sets READY as it takes effect; an image that fails leaves the
module in recovery. A module held by THERM_N does not boot (R488). -/
def execBoot (s : State) : Result :=
  let e := s.cur.ev
  .next (if !s.held || s.thermN then s
    else if e.image.sigOk then s.runImage e.image e.blob
    else { s with held := false, recovery := true })

/-- IMAGE_LOAD: BLOBCTL = 2 in recovery mode loads the image that the staging window holds (R475, R480, log 53). -/
def execImageLoad (s : State) : Result :=
  let i := Config.stagedImage s.staging
  .next (if !s.recovery then s else if i.sigOk then s.runImage i (Config.stagedBlob s.staging) else { s with blobstat := 2 })

/-! ## MODULE_RESET (R478, R488) -/

/-- MODULE_RESET: PERST_N, or with `flag` a function-level reset of the physical function. A thermal trip is left only at a PERST_N that
finds every sensor below 100 degrees. -/
def execModuleReset (s : State) : Result :=
  .next { s.afterReset with thermN := s.thermN && (s.cur.ev.flag || decide (400 ≤ hottest s.temps)) }

/-! ## Registers -/

/-- A cluster holds a quarantined core. -/
def State.quarantinedCluster (s : State) (k : ClusterId) : Bool := allCores.any fun c => clusterOf c = k && (s.core c).quarantined

/-- MODSTAT (R475). -/
def State.modstat (s : State) : Nat :=
  (if s.ready then 1 else 0) + (if s.recovery then 2 else 0) + (if s.tsLost then 4 else 0) + (if s.faultN then 8 else 0)
    + 16 * bitsNat ((List.finRange 8).map s.quarantinedCluster)

/-- VFSTAT (R477). -/
def State.vfstat (s : State) (v : VnpuId) : Nat :=
  let x := s.vnpu v
  min x.fails 65535 + x.rgen.toNat * 2 ^ 16 + (if x.busy then 2 ^ 32 else 0) + (if x.badDb then 2 ^ 33 else 0)
    + queueBits x (·.qstop) * 2 ^ 34 + queueBits x (·.dfail) * 2 ^ 42

/-- REGCFG of a point (R389). -/
def State.regcfg (s : State) (l : LeafId) (pt : Nat) : Nat :=
  let p := s.leafContract l
  p.rate pt + p.depth pt * 2 ^ 20 + (if p.regTrap then 2 ^ 44 else 0) + p.thresh * 2 ^ 48

/-- The ways a leaf holds at each slice. -/
def State.waysOf (s : State) (l : LeafId) : List Nat :=
  s.slices.toList.map fun x => (x.holders.toList.filter fun h => h = some l).length

/-- WAYSTAT (R390). -/
def State.waystat (s : State) (l : LeafId) : Nat :=
  let p := s.leafContract l
  let ws := s.waysOf l
  p.floor + p.ceil * 2 ^ 8 + ws.foldl min 16 * 2 ^ 16 + ws.foldl max 0 * 2 ^ 24 + (s.leaf l).adj.toNat * 2 ^ 32

/-- IDESTAT (R390). -/
def State.idestat (s : State) (v : VnpuId) : Nat :=
  let x := s.vnpu v
  min x.ideStale 65535 + (if x.kset then 2 ^ 16 else 0) + x.tdisp.code * 2 ^ 17

/-- What remains to be removed from the GTC, in whole ns, as a signed word (R473); a part of a ns is cut off, toward 0 (DESIGN CHOICE, log
108). -/
def State.slewLeft (s : State) : Nat := (BitVec.ofInt 64 (Int.tdiv s.slew (2 ^ 32))).toNat

/-- A read of BAR 0 of the physical function (R475). -/
def State.readPf (s : State) (off : Nat) : Nat :=
  if off = 0x00 then s.modstat else if off = 0x08 then s.gtc.toNat else if off = 0x10 then s.slewLeft
  else if off = 0x18 then s.tscap.toNat else if off = 0x28 then s.blobstat.toNat else 0

/-- A read of BAR 0 of a virtual function (R388, R476): unused offsets read 0. -/
def State.readVf (s : State) (v : VnpuId) (off : Nat) : Nat :=
  let l := s.leafOf v
  let p := (off - 0x1100) / 16
  if off = 0x0800 then s.vfstat v else if off = 0x1000 then s.partstat v else if off = 0x1008 then s.waystat l
  else if off = 0x1010 then s.idestat v
  else if off < 0x1100 || 112 < p then 0
  else if off % 16 = 0 then s.regcfg l p else if off % 16 = 8 then s.regstat l p else 0

/-- A read of the I3C target, but for ELOG (R483). -/
def State.readI3c (s : State) (a : Nat) : Nat :=
  if a = 0x00 then s.modstat
  else if a = 0x10 then s.errlog.recs.length + s.errlog.dropped % 2 ^ 16 * 2 ^ 16
  else if a = 0x14 then (match s.errlog.recs with | (n, _) :: _ => n | [] => s.errlog.seq) % 2 ^ 32
  else if a = 0x40 then s.pEst
  else if 0x100 ≤ a && a < 0x100 + 92 && a % 2 = 0 then (BitVec.ofInt 16 (tempAt s.temps ((a - 0x100) / 2))).toNat
  else 0

/-- Bytes of an MSI-X table from an offset, held against their reset value: a vector's mask bit is 1 after reset (log 74). -/
def maskReset (off : Nat) (bs : List Byte) : List Byte :=
  bs.mapIdx fun i b => if (off + i) % 16 = 12 && off + i < 0x8000 then b ^^^ 1 else b

/-- A read of 8 bytes of BAR 2: the staging window of the physical function, the MSI-X table and pending bits of a virtual one (R475,
R476). -/
def State.readBar2 (s : State) (fn : BarFn) (off : Nat) : Nat :=
  match fn with
  | .pf => leNat (s.staging.read off 8)
  | .vf v => leNat (maskReset off ((s.vnpu v).msixTable.read off 8))

/-- REGISTER_WRITE: a write to a register with no behaviour of its own changes nothing (R388, R475); with `flag` the write is of `word`
at offset `n` of BAR 2: the staging window, or the MSI-X table of a virtual function (R475, R476, log 74). -/
def execRegisterWrite (s : State) : Result :=
  let e := s.cur.ev
  let bs := leBytes 8 e.word.toNat
  let entry := maskReset e.n bs
  .next (if !e.flag then s
    else match e.fn with
      | .pf => if e.n + 8 ≤ 2 ^ 26 then { s with staging := s.staging.write e.n bs } else s
      | .vf v => if s.ready && decide (e.n + 8 ≤ 0x8000) then s.modVnpu v fun x => { x with msixTable := x.msixTable.write e.n entry } else s)

end Sys2Proof.Machine
end

