-- ==== Sys2Proof/Machine/Integer.lean ====
section
/-! DEFINITION. The integer, immediate, compare and predicate instructions of the control core (R132-R139). -/

namespace Sys2Proof.Machine

/-- An F-R instruction on two g registers with one result (R132). -/
def intR (x : Instr) (p : Pred) (d a b : Reg) (lat : Nat) (f : Word → Word → Word) (s : State) : Result :=
  ctl x p .none [gNum a, gNum b] (fun s c => one s d (f (c.rd a) (c.rd b)) lat) s

/-- An F-R instruction on one g register. -/
def intU (x : Instr) (p : Pred) (d a : Reg) (lat : Nat) (f : Word → Word) (s : State) : Result :=
  ctl x p .none [gNum a] (fun s c => one s d (f (c.rd a)) lat) s

/-- An F-I instruction with a signed 36-bit immediate (R135). -/
def intI (x : Instr) (p : Pred) (d a : Reg) (imm : BitVec 36) (lat : Nat) (f : Word → Word → Word) (s : State) : Result :=
  ctl x p .none [gNum a] (fun s c => one s d (f (c.rd a) (imm.signExtend 64)) lat) s

/-- A predicate result of latency `lat` (R137-R139). -/
def oneK (s : State) (d : KReg) (v : Bool) (fl : Flg) (lat : Nat) : Ans := .done s [⟨kNum d, Word.ofBool v, fl, lat⟩] none 1

/-! ## Values -/

/-- The high half of a product of integers (R132). -/
def highHalf (v : Int) : Word := BitVec.ofInt 64 (v / 2 ^ 64)

/-- Quotient and remainder of DIV and REM (R133). -/
def divS (x y : Word) : Word × Word :=
  let a := x.toInt
  let b := y.toInt
  if b = 0 then (BitVec.ofInt 64 (-1), x)
  else if a = -2 ^ 63 ∧ b = -1 then (x, 0)
  else (BitVec.ofInt 64 (a.tdiv b), BitVec.ofInt 64 (a - a.tdiv b * b))

/-- Quotient and remainder of DIVU and REMU (R133). -/
def divU (x y : Word) : Word × Word :=
  if y = 0 then (BitVec.ofInt 64 (-1), x) else (BitVec.ofNat 64 (x.toNat / y.toNat), BitVec.ofNat 64 (x.toNat % y.toNat))

/-- A shift amount: bits 5:0 (R132). -/
def amount (w : Word) : Nat := w.toNat % 64

/-- Leading zero bits (R132). -/
def clz (w : Word) : Nat := if w = 0 then 64 else 63 - Nat.log2 w.toNat
/-- Trailing zero bits. -/
def ctz (w : Word) : Nat := ((List.range 64).find? fun i => w.getLsbD i).getD 64
/-- Bits set. -/
def popc (w : Word) : Nat := ((List.range 64).filter fun i => w.getLsbD i).length
/-- The bits in reverse order. -/
def brev (w : Word) : Word := (List.range 64).foldl (fun v i => if w.getLsbD i then v ||| ((1 : Word) <<< (63 - i)) else v) 0

/-- SEXT from bit b (R134). -/
def sextAt (w : Word) (b : Nat) : Word := BitVec.sshiftRight (w <<< (63 - b)) (63 - b)
/-- ZEXT from bit b (R134). -/
def zextAt (w : Word) (b : Nat) : Word := (w <<< (63 - b)) >>> (63 - b)

/-! ## Integer register instructions (R132-R134) -/

/-- ADD (R132). -/
def execAdd (p : Pred) (d a b : Reg) (s : State) : Result := intR (.add p d a b) p d a b 0 (fun x y => x + y) s

/-- SUB (R132). -/
def execSub (p : Pred) (d a b : Reg) (s : State) : Result := intR (.sub p d a b) p d a b 0 (fun x y => x - y) s

/-- MUL (R132). -/
def execMul (p : Pred) (d a b : Reg) (s : State) : Result := intR (.mul p d a b) p d a b 2 (fun x y => x * y) s

/-- MULH: the high half of the signed product (R132). -/
def execMulh (p : Pred) (d a b : Reg) (s : State) : Result := intR (.mulh p d a b) p d a b 2 (fun x y => highHalf (x.toInt * y.toInt)) s

/-- MULHU: the high half of the unsigned product (R132). -/
def execMulhu (p : Pred) (d a b : Reg) (s : State) : Result := intR (.mulhu p d a b) p d a b 2 (fun x y => highHalf ((x.toNat : Int) * (y.toNat : Int))) s

/-- DIV (R133). -/
def execDiv (p : Pred) (d a b : Reg) (s : State) : Result := intR (.div p d a b) p d a b 10 (fun x y => (divS x y).1) s

/-- DIVU (R133). -/
def execDivu (p : Pred) (d a b : Reg) (s : State) : Result := intR (.divu p d a b) p d a b 10 (fun x y => (divU x y).1) s

/-- REM (R133). -/
def execRem (p : Pred) (d a b : Reg) (s : State) : Result := intR (.rem p d a b) p d a b 10 (fun x y => (divS x y).2) s

/-- REMU (R133). -/
def execRemu (p : Pred) (d a b : Reg) (s : State) : Result := intR (.remu p d a b) p d a b 10 (fun x y => (divU x y).2) s

/-- AND (R132). -/
def execAnd (p : Pred) (d a b : Reg) (s : State) : Result := intR (.and p d a b) p d a b 0 (fun x y => x &&& y) s

/-- OR (R132). -/
def execOr (p : Pred) (d a b : Reg) (s : State) : Result := intR (.or p d a b) p d a b 0 (fun x y => x ||| y) s

/-- XOR (R132). -/
def execXor (p : Pred) (d a b : Reg) (s : State) : Result := intR (.xor p d a b) p d a b 0 (fun x y => x ^^^ y) s

/-- ANDN (R132). -/
def execAndn (p : Pred) (d a b : Reg) (s : State) : Result := intR (.andn p d a b) p d a b 0 (fun x y => x &&& ~~~y) s

/-- SHL by gB[5:0] (R132). -/
def execShl (p : Pred) (d a b : Reg) (s : State) : Result := intR (.shl p d a b) p d a b 0 (fun x y => x <<< amount y) s

/-- SHR by gB[5:0] (R132). -/
def execShr (p : Pred) (d a b : Reg) (s : State) : Result := intR (.shr p d a b) p d a b 0 (fun x y => x >>> amount y) s

/-- SRA by gB[5:0] (R132). -/
def execSra (p : Pred) (d a b : Reg) (s : State) : Result := intR (.sra p d a b) p d a b 0 (fun x y => x.sshiftRight (amount y)) s

/-- ROL by gB[5:0] (R132). -/
def execRol (p : Pred) (d a b : Reg) (s : State) : Result := intR (.rol p d a b) p d a b 0 (fun x y => x.rotateLeft (amount y)) s

/-- MIN, signed (R132). -/
def execMin (p : Pred) (d a b : Reg) (s : State) : Result := intR (.min p d a b) p d a b 0 (fun x y => if x.slt y then x else y) s

/-- MAX, signed (R132). -/
def execMax (p : Pred) (d a b : Reg) (s : State) : Result := intR (.max p d a b) p d a b 0 (fun x y => if x.slt y then y else x) s

/-- MINU (R132). -/
def execMinu (p : Pred) (d a b : Reg) (s : State) : Result := intR (.minu p d a b) p d a b 0 (fun x y => if x.ult y then x else y) s

/-- MAXU (R132). -/
def execMaxu (p : Pred) (d a b : Reg) (s : State) : Result := intR (.maxu p d a b) p d a b 0 (fun x y => if x.ult y then y else x) s

/-- CLZ (R132). -/
def execClz (p : Pred) (d a : Reg) (s : State) : Result := intU (.clz p d a) p d a 0 (fun x => BitVec.ofNat 64 (clz x)) s

/-- CTZ (R132). -/
def execCtz (p : Pred) (d a : Reg) (s : State) : Result := intU (.ctz p d a) p d a 0 (fun x => BitVec.ofNat 64 (ctz x)) s

/-- POPC (R132). -/
def execPopc (p : Pred) (d a : Reg) (s : State) : Result := intU (.popc p d a) p d a 0 (fun x => BitVec.ofNat 64 (popc x)) s

/-- BREV (R132). -/
def execBrev (p : Pred) (d a : Reg) (s : State) : Result := intU (.brev p d a) p d a 0 (fun x => brev x) s

/-- SEXT from bit gB[5:0] (R134). -/
def execSext (p : Pred) (d a b : Reg) (s : State) : Result := intR (.sext p d a b) p d a b 0 (fun x y => sextAt x (amount y)) s

/-- ZEXT from bit gB[5:0] (R134). -/
def execZext (p : Pred) (d a b : Reg) (s : State) : Result := intR (.zext p d a b) p d a b 0 (fun x y => zextAt x (amount y)) s

/-- SEL: gA if gC is not zero, else gB (R132). -/
def execSel (p : Pred) (d a b c : Reg) (s : State) : Result :=
  ctl (.sel p d a b c) p .none [gNum a, gNum b, gNum c] (fun s x => one s d (if x.rd c ≠ 0 then x.rd a else x.rd b) 0) s

/-- LEA: gA + (gB shifted left by gC[5:0]) (R132). -/
def execLea (p : Pred) (d a b c : Reg) (s : State) : Result :=
  ctl (.lea p d a b c) p .none [gNum a, gNum b, gNum c] (fun s x => one s d (x.rd a + (x.rd b <<< amount (x.rd c))) 0) s

/-! ## Immediate instructions (R135, R136) -/

/-- ADDI (R135). -/
def execAddi (p : Pred) (d a : Reg) (imm : BitVec 36) (s : State) : Result :=
  intI (.addi p d a imm) p d a imm 0 (fun x y => x + y) s

/-- ANDI (R135). -/
def execAndi (p : Pred) (d a : Reg) (imm : BitVec 36) (s : State) : Result :=
  intI (.andi p d a imm) p d a imm 0 (fun x y => x &&& y) s

/-- ORI (R135). -/
def execOri (p : Pred) (d a : Reg) (imm : BitVec 36) (s : State) : Result :=
  intI (.ori p d a imm) p d a imm 0 (fun x y => x ||| y) s

/-- XORI (R135). -/
def execXori (p : Pred) (d a : Reg) (imm : BitVec 36) (s : State) : Result :=
  intI (.xori p d a imm) p d a imm 0 (fun x y => x ^^^ y) s

/-- SHLI (R135). -/
def execShli (p : Pred) (d a : Reg) (n : BitVec 6) (s : State) : Result :=
  intU (.shli p d a n) p d a 0 (fun x => x <<< n.toNat) s

/-- SHRI (R135). -/
def execShri (p : Pred) (d a : Reg) (n : BitVec 6) (s : State) : Result :=
  intU (.shri p d a n) p d a 0 (fun x => x >>> n.toNat) s

/-- SRAI (R135). -/
def execSrai (p : Pred) (d a : Reg) (n : BitVec 6) (s : State) : Result :=
  intU (.srai p d a n) p d a 0 (fun x => x.sshiftRight n.toNat) s

/-- MULI (R135). -/
def execMuli (p : Pred) (d a : Reg) (imm : BitVec 36) (s : State) : Result :=
  intI (.muli p d a imm) p d a imm 2 (fun x y => x * y) s

/-- MOVI: the sign-extended 42-bit immediate (R136). -/
def execMovi (p : Pred) (d : Reg) (imm : BitVec 42) (s : State) : Result :=
  ctl (.movi p d imm) p .none [] (fun s _ => one s d (imm.signExtend 64) 0) s

/-- MOVHI: bits 63:42, keeping bits 41:0 as they are at the landing (R120, R136). -/
def execMovhi (p : Pred) (d : Reg) (imm : BitVec 22) (s : State) : Result :=
  ctl (.movhi p d imm) p .none [] (fun s _ => .done s [⟨128 + gNum d, imm.setWidth 64 <<< 42, 0, 0⟩] none 1) s

/-- KGET (R139). -/
def execKget (p : Pred) (d : Reg) (a : KReg) (s : State) : Result :=
  ctl (.kget p d a) p .none [kNum a] (fun s c => one s d (Word.ofBool (c.rdk a)) 0) s

/-! ## Compare and predicate instructions (R137, R139) -/

/-- CMP (R137). -/
def execCmp (p : Pred) (cc : BitVec 4) (d : KReg) (a b : Reg) (s : State) : Result :=
  ctl (.cmp p cc d a b) p .none [gNum a, gNum b] (fun s c => oneK s d (intCond cc.toNat (c.rd a) (c.rd b)) 0 0) s

/-- CMPI (R137). -/
def execCmpi (p : Pred) (cc : BitVec 4) (d : KReg) (a : Reg) (imm : BitVec 36) (s : State) : Result :=
  ctl (.cmpi p cc d a imm) p .none [gNum a] (fun s c => oneK s d (intCond cc.toNat (c.rd a) (imm.signExtend 64)) 0 0) s

/-- KAND (R139). -/
def execKand (p : Pred) (d a b : KReg) (s : State) : Result :=
  ctl (.kand p d a b) p .none [kNum a, kNum b] (fun s c => oneK s d (c.rdk a && c.rdk b) 0 0) s

/-- KOR (R139). -/
def execKor (p : Pred) (d a b : KReg) (s : State) : Result :=
  ctl (.kor p d a b) p .none [kNum a, kNum b] (fun s c => oneK s d (c.rdk a || c.rdk b) 0 0) s

/-- KXOR (R139). -/
def execKxor (p : Pred) (d a b : KReg) (s : State) : Result :=
  ctl (.kxor p d a b) p .none [kNum a, kNum b] (fun s c => oneK s d (c.rdk a != c.rdk b) 0 0) s

/-- KNOT (R139). -/
def execKnot (p : Pred) (d a : KReg) (s : State) : Result :=
  ctl (.knot p d a) p .none [kNum a] (fun s c => oneK s d (!c.rdk a) 0 0) s

/-- KSET (R139). -/
def execKset (p : Pred) (d : KReg) (a : Reg) (s : State) : Result :=
  ctl (.kset p d a) p .none [gNum a] (fun s c => oneK s d (c.rd a != 0) 0 0) s

end Sys2Proof.Machine
end

