-- ==== Sys2Proof/Machine/Float.lean ====
section
/-! DEFINITION. The scalar F32 and special-function instructions (R138, R140-R145), GTCRD and RNG (R146, R147). -/

namespace Sys2Proof.Machine

/-! ## FCR at issue (R100, R131) -/

def Ctx.daz (c : Ctx) : Bool := tb c.fcr 4
def Ctx.ftz (c : Ctx) : Bool := tb c.fcr 3
def Ctx.sat (c : Ctx) : Bool := tb c.fcr 5
/-- Mode() (R131). -/
def Ctx.mode (c : Ctx) : Rnd := Rnd.ofRM (fld c.fcr 2 0)
/-- The flags FCR enables (R100). -/
def Ctx.enabled (c : Ctx) : Flg := BitVec.ofNat 5 (fld c.fcr 12 8)

/-- Bits [31:0] of a register (R140). -/
def Ctx.f32 (c : Ctx) (r : Reg) : Nat := (c.rd r).toNat % 2 ^ 32
/-- In(F32, g[31:0]) (R131). -/
def Ctx.inF32 (c : Ctx) (r : Reg) : Nat := inDaz c.daz .f32 (c.f32 r)
/-- In(F32, g[31:0]) as a value. -/
def Ctx.numF32 (c : Ctx) (r : Reg) : Num := fmtF32.decode (c.inF32 r)

/-- A floating-point result lands with its flags, or traps ARITH on an enabled one (R102, R122). -/
def fpResult (s : State) (c : Ctx) (reg : Nat) (v : Word) (fl : Flg) (lat : Nat) : Ans :=
  if fl &&& c.enabled ≠ 0 then .trap s { cause := 0x1B, einfo := fl.setWidth 64 }
  else .done s [⟨reg, v, fl, lat⟩] none 1

/-- An F32 result through Out (R131, R141). -/
def fpF32 (s : State) (c : Ctx) (d : Reg) (r : Nat × Flg) (lat : Nat) : Ans :=
  let o := outFtz c.ftz .f32 r
  fpResult s c (gNum d) (BitVec.ofNat 64 o.1) o.2 lat

/-- FADD (R141). -/
def execFadd (p : Pred) (d a b : Reg) (s : State) : Result :=
  ctl (.fadd p d a b) p .none [gNum a, gNum b]
    (fun s c => fpF32 s c d (addFmt fmtF32 c.mode false (c.numF32 a) (c.numF32 b)) 3) s

/-- FSUB (R141). -/
def execFsub (p : Pred) (d a b : Reg) (s : State) : Result :=
  ctl (.fsub p d a b) p .none [gNum a, gNum b]
    (fun s c => fpF32 s c d (addFmt fmtF32 c.mode false (c.numF32 a) (c.numF32 b).negate) 3) s

/-- FMUL (R141). -/
def execFmul (p : Pred) (d a b : Reg) (s : State) : Result :=
  ctl (.fmul p d a b) p .none [gNum a, gNum b]
    (fun s c => fpF32 s c d (mulFmt fmtF32 c.mode false (c.numF32 a) (c.numF32 b)) 3) s

/-- FFMA (R141). -/
def execFfma (p : Pred) (d a b c : Reg) (s : State) : Result :=
  ctl (.ffma p d a b c) p .none [gNum a, gNum b, gNum c]
    (fun s x => fpF32 s x d (fmaFmt fmtF32 x.mode false (x.numF32 a) (x.numF32 b) (x.numF32 c)) 3) s

/-- FMIN (R142). -/
def execFmin (p : Pred) (d a b : Reg) (s : State) : Result :=
  ctl (.fmin p d a b) p .none [gNum a, gNum b] (fun s c => fpF32 s c d (minMax fmtF32 false (c.inF32 a) (c.inF32 b)) 3) s

/-- FMAX (R142). -/
def execFmax (p : Pred) (d a b : Reg) (s : State) : Result :=
  ctl (.fmax p d a b) p .none [gNum a, gNum b] (fun s c => fpF32 s c d (minMax fmtF32 true (c.inF32 a) (c.inF32 b)) 3) s

/-- FABS (R143). -/
def execFabs (p : Pred) (d a : Reg) (s : State) : Result :=
  ctl (.fabs p d a) p .none [gNum a] (fun s c => one s d (BitVec.ofNat 64 (c.f32 a % 2 ^ 31)) 0) s

/-- FNEG (R143). -/
def execFneg (p : Pred) (d a : Reg) (s : State) : Result :=
  ctl (.fneg p d a) p .none [gNum a] (fun s c => one s d (BitVec.ofNat 64 (c.f32 a ^^^ 2 ^ 31)) 0) s

/-- FCMP (R138). -/
def execFcmp (p : Pred) (cc : BitVec 4) (d : KReg) (a b : Reg) (s : State) : Result :=
  ctl (.fcmp p cc d a b) p .none [gNum a, gNum b]
    (fun s c =>
      let r := floatCond cc.toNat (c.numF32 a) (c.numF32 b)
      fpResult s c (kNum d) (Word.ofBool r.1) r.2 3) s

/-- The bits of a converted value as 64 bits: sign-extended for I types (R144). -/
def cvtWord (t : Ty) (x : Nat) : Word :=
  if t.isInt && t.signed then BitVec.ofInt 64 (intDecode t x) else BitVec.ofNat 64 x

/-- FCVT (R144). -/
def execFcvt (p : Pred) (d a : Reg) (ty : BitVec 4) (dir : Bool) (s : State) : Result :=
  ctl (.fcvt p d a ty dir) p .none [gNum a]
    (fun s c => match Ty.ofCode ty.toNat with
      | none => .trap s { cause := 0x02, einfo := (encodeCtl (.fcvt p d a ty dir)).getD 0 }
      | some t =>
        let src := if dir then .f32 else t
        let dst := if dir then t else .f32
        let x := inDaz c.daz src ((c.rd a).toNat % 2 ^ src.width)
        let r := outFtz c.ftz dst (convert src dst c.mode c.sat x)
        fpResult s c (gNum d) (cvtWord dst r.1) r.2 3) s

/-- A special function of one F32 operand (R145). -/
def special (x : Instr) (p : Pred) (d a : Reg) (lat : Nat) (f : Ctx → Nat → Nat × Flg) (s : State) : Result :=
  ctl x p .none [gNum a] (fun s c => fpF32 s c d (f c (c.inF32 a)) lat) s

/-- FEXP2 (R145, R109). -/
def execFexp2 (p : Pred) (d a : Reg) (s : State) : Result := special (.fexp2 p d a) p d a 6 (fun _ x => exp2F32 x) s
/-- FLOG2 (R145, R109). -/
def execFlog2 (p : Pred) (d a : Reg) (s : State) : Result := special (.flog2 p d a) p d a 6 (fun _ x => log2F32 x) s
/-- FRCP (R145, R109). -/
def execFrcp (p : Pred) (d a : Reg) (s : State) : Result := special (.frcp p d a) p d a 6 (fun _ x => rcpF32 x) s
/-- FRSQ (R145, R109). -/
def execFrsq (p : Pred) (d a : Reg) (s : State) : Result := special (.frsq p d a) p d a 6 (fun _ x => rsqF32 x) s
/-- FSQRT (R145). -/
def execFsqrt (p : Pred) (d a : Reg) (s : State) : Result := special (.fsqrt p d a) p d a 10 (fun c x => sqrtF32 c.mode x) s

/-- GTCRD (R146). -/
def execGtcrd (p : Pred) (d : Reg) (s : State) : Result := ctl (.gtcrd p d) p .none [] (fun s _ => one s d s.gtc 0) s

/-- RNG (R147). -/
def execRng (p : Pred) (d a b : Reg) (s : State) : Result :=
  ctl (.rng p d a b) p .none [gNum a, gNum b] (fun s c => one s d (hash (c.rd a) (c.rd b)) 0) s

end Sys2Proof.Machine
end

