-- ==== Sys2Proof/Machine/Lanes.lean ====
section
/-! DEFINITION. The element operations, special functions, conversions and generators of the vector engine (R163-R173). -/

namespace Sys2Proof.Machine

/-! ## Element operations (R163-R167) -/

/-- VADD, VSUB, VMUL and VFMA (R163): exact, then rounded or wrapped once. -/
def arith (rdD : Bool) (fl : Fmt → Rnd → Bool → Num → Num → Num → Nat × Flg) (int : Int → Int → Int → Int)
    (r : EngRec) (s : State) : Result :=
  let o := { sameLanes r with rdD := rdD }
  vxStep (okArith r) r (fun k sl h => laneStep o r (fun e x y z =>
    if isFl r.dtype then
      let f := fmtOf r.dtype
      fl f (laneRnd r h o.w e) (satOf r) (f.decode x) (f.decode y) (f.decode z)
    else
      let t := tyOf r.dtype
      (intFit t (satOf r) (int (intDecode t x) (intDecode t y) (intDecode t z)), 0)) k sl h) s

/-- VADD (R163). -/
def execVadd (r : EngRec) (s : State) : Result :=
  arith false (fun f md sat x y _ => addFmt f md sat x y) (fun x y _ => x + y) r s
/-- VSUB (R163). -/
def execVsub (r : EngRec) (s : State) : Result :=
  arith false (fun f md sat x y _ => addFmt f md sat x y.negate) (fun x y _ => x - y) r s
/-- VMUL (R163). -/
def execVmul (r : EngRec) (s : State) : Result :=
  arith false (fun f md sat x y _ => mulFmt f md sat x y) (fun x y _ => x * y) r s
/-- VFMA (R163). -/
def execVfma (r : EngRec) (s : State) : Result :=
  arith true (fun f md sat x y z => fmaFmt f md sat x y z) (fun x y z => x * y + z) r s

/-- The smaller or larger of two lanes of a type (R164). -/
def pick2 (c : BitVec 4) (isMax : Bool) (x y : Nat) : Nat × Flg :=
  if isFl c then minMax (fmtOf c) isMax x y
  else
    let a := intDecode (tyOf c) x
    let b := intDecode (tyOf c) y
    (if (if isMax then decide (a < b) else decide (b < a)) then y else x, 0)

/-- A lane step on S1 and B(e) with no rounding. -/
def lane2 (ok : Bool) (o : LaneOp) (r : EngRec) (f : Nat → Nat → Nat → Nat × Flg) (s : State) : Result :=
  vxStep ok r (laneStep o r fun _ x y z => f x y z) s

/-- VMIN (R164). -/
def execVmin (r : EngRec) (s : State) : Result :=
  lane2 (okMinMax r) (sameLanes r) r (fun x y _ => pick2 r.dtype false x y) s
/-- VMAX (R164). -/
def execVmax (r : EngRec) (s : State) : Result :=
  lane2 (okMinMax r) (sameLanes r) r (fun x y _ => pick2 r.dtype true x y) s

/-- VABS (R166). -/
def execVabs (r : EngRec) (s : State) : Result :=
  let t := tyOf r.dtype
  lane2 (okAbs r) (oneSource r) r (fun x _ _ =>
    (if isFl r.dtype then x % 2 ^ (t.width - 1) else intFit t (satOf r) ((intDecode t x).natAbs : Int), 0)) s
/-- VNEG (R166). -/
def execVneg (r : EngRec) (s : State) : Result :=
  let t := tyOf r.dtype
  lane2 (okAbs r) (oneSource r) r (fun x _ _ =>
    (if isFl r.dtype then (x + 2 ^ (t.width - 1)) % 2 ^ t.width else intFit t (satOf r) (-(intDecode t x)), 0)) s

/-- VAND (R165). -/
def execVand (r : EngRec) (s : State) : Result := lane2 (okLogic r) (sameLanes r) r (fun x y _ => (x &&& y, 0)) s
/-- VOR (R165). -/
def execVor (r : EngRec) (s : State) : Result := lane2 (okLogic r) (sameLanes r) r (fun x y _ => (x ||| y, 0)) s
/-- VXOR (R165). -/
def execVxor (r : EngRec) (s : State) : Result := lane2 (okLogic r) (sameLanes r) r (fun x y _ => (x ^^^ y, 0)) s

/-- VSHL (R165). -/
def execVshl (r : EngRec) (s : State) : Result :=
  let w := tw r.dtype
  lane2 (okShift r) (sameLanes r) r (fun x n _ => (if n < w then x * 2 ^ n % 2 ^ w else 0, 0)) s
/-- VSHR (R165). -/
def execVshr (r : EngRec) (s : State) : Result :=
  let w := tw r.dtype
  lane2 (okShift r) (sameLanes r) r (fun x n _ => (if n < w then x / 2 ^ n else 0, 0)) s
/-- VSRA (R165): the sign bit is the top bit of the lane. -/
def execVsra (r : EngRec) (s : State) : Result :=
  let w := tw r.dtype
  lane2 (okShift r) (sameLanes r) r (fun x n _ =>
    let v : Int := if 2 ^ (w - 1) ≤ x then (x : Int) - 2 ^ w else x
    ((v / 2 ^ min n w % 2 ^ w).toNat, 0)) s

/-- VSEL (R167): a lane whose mask is zero keeps D. -/
def execVsel (r : EngRec) (s : State) : Result :=
  lane2 (okSel r) { sameLanes r with rdD := true } r (fun x y z => (if y ≠ 0 then x else z, 0)) s

/-- The condition of VCMP on two lanes (R168). -/
def vcond (c : BitVec 4) (cc x y : Nat) : Bool × Flg :=
  if isFl c then floatCond cc ((fmtOf c).decode x) ((fmtOf c).decode y)
  else
    let ext := fun v => BitVec.ofInt 64 (intDecode (tyOf c) v)
    (intCond cc (ext x) (ext y), 0)

/-- The operands of VCMP: D is no operand under NOD. -/
def cmpOpds (r : EngRec) (h : Head) : List Opd :=
  let w := lanesOf r.stype
  (if r.aux.getLsbD 14 then [] else [vecAt r.d (h.addr r.d) (vecBytes w r.dtype) (some r.dtype) false])
    ++ [vecAt r.s1 (h.addr r.s1) (vecBytes w r.stype) (some r.stype) true]
    ++ (if r.s2imm = 1 then [] else [vecAt r.s2 (h.addr r.s2) (vecBytes w r.stype) (some r.stype) true])

/-- One step of VCMP (R168). -/
def cmpStep (r : EngRec) (k : Core) (sl : Slot) (h : Head) : Except Trap VOut :=
  match k.checked sl (cmpOpds r h) with
  | .error t => .error t
  | .ok as =>
    let nod := r.aux.getLsbD 14
    let w := lanesOf r.stype
    let n := vecBytes w r.stype
    let as' := if nod then 0 :: as else as
    let v1 := k.val (as'.getD 1 0) n
    let v2 := k.val (as'.getD 2 0) n
    let cs := (List.range w).map fun e =>
      vcond r.stype (r.aux.toNat % 16) (lane (tw r.stype) v1 e)
        (if r.s2imm = 1 then immOf r.stype r else lane (tw r.stype) v2 e)
    let mask := packLanes (tw r.stype) (cs.map fun c => if c.1 then 2 ^ tw r.stype - 1 else 0)
    .ok {
      writes := if nod then [] else [(as'.getD 0 0, leBytes n mask)]
      flags := cs.foldl (fun f c => f ||| c.2) 0
      push := if r.aux.getLsbD 15 then some (cs.any (·.1)) else none }

/-- VCMP (R168): a pushing step begins only when the condition queue has room (R153). -/
def execVcmp (r : EngRec) (s : State) : Result :=
  let e : EngId := ⟨s.cur.core, .vx⟩
  match (s.engine e).queue with
  | q :: _ =>
    if (s.engine e).head.st = .walking && headerOk .vx r && okCmp r && r.aux.getLsbD 15 && !(s.ctx ⟨e.core, q.slot⟩).cqRoom then
      .next (s.engStall e q (cqObj e.core q.slot))
    else vxStep (okCmp r) r (cmpStep r) s
  | [] => .next s

/-- A bound of VCLAMP as it is read for an In lane (R160, R167). -/
def clampInt (c : BitVec 4) (v : Nat) : Int := if (tyOf c).signed then (BitVec.ofNat 16 v).toInt else (v : Int)

/-- A bound of VCLAMP for an Fl lane: BF16 widened exactly to F32, or the bits of the lane type (R160). -/
def clampFl (c : BitVec 4) (v : Nat) : Nat := if c = 0 then v * 2 ^ 16 else v

/-- VCLAMP (R167): Min(Max(S1.e, lo), hi); a signalling operand gives the canonical NaN (R86). -/
def execVclamp (r : EngRec) (s : State) : Result :=
  let lo := r.s2.base.toNat % 2 ^ 16
  let hi := r.s2.base.toNat / 2 ^ 16
  let c := r.dtype
  lane2 (okClamp r) (sameLanes r) r (fun x _ _ =>
    if isFl c then
      let a := minMax (fmtOf c) true x (clampFl c lo)
      let b := minMax (fmtOf c) false a.1 (clampFl c hi)
      (if a.2 = 0 then b.1 else (fmtOf c).nanCode, a.2 ||| b.2)
    else
      (intBits (tyOf c) (intClamp (tyOf c) (min (max (intDecode (tyOf c) x) (clampInt c lo)) (clampInt c hi))), 0)) s

/-- A power of VSCALE: beyond 4096 either way every lane overflows, or rounds as at -4096. -/
def scalePow (v : Int) : Int := max (-4096) (min 4096 v)

/-- VSCALE (R167): S2 lanes are signed integers of the lane width. -/
def execVscale (r : EngRec) (s : State) : Result :=
  let c : BitVec 4 := if r.stype = 0 then 6 else 7
  let o : LaneOp := { w := lanesOf r.stype, s2 := if r.s2imm = 1 then none else some c }
  vxStep (okScale r) r (fun k sl h => laneStep o r (fun e x y _ =>
    let p : Int := if r.s2imm = 1 then r.s2.base.toInt else intDecode (tyOf c) y
    let f := fmtOf r.dtype
    mulFmt f (laneRnd r h o.w e) (satOf r) (f.decode x) (.fin false 1 (scalePow p))) k sl h) s

/-- VMOV (R166): the lane bits unchanged. -/
def execVmov (r : EngRec) (s : State) : Result := lane2 (okMov r) (oneSource r) r (fun x _ _ => (x, 0)) s

/-- One step of VBCAST (R167). -/
def bcastStep (r : EngRec) (k : Core) (sl : Slot) (h : Head) : Except Trap VOut :=
  let w := lanesOf r.dtype
  let os := vecAt r.d (h.addr r.d) (vecBytes w r.dtype) (some r.dtype) false
    :: (if r.s2imm = 1 then [] else [scalarAt r.s1 (h.addr r.s1) (tw r.stype / 8) (some r.stype) true])
  match k.checked sl os with
  | .error t => .error t
  | .ok as =>
    let v := if r.s2imm = 1 then immOf r.dtype r else k.val (as.getD 1 0) (tw r.stype / 8)
    .ok { writes := [(as.getD 0 0, leBytes (vecBytes w r.dtype) (packLanes (tw r.dtype) (List.replicate w v)))] }

/-- VBCAST (R167). -/
def execVbcast (r : EngRec) (s : State) : Result := vxStep (okBcast r) r (bcastStep r) s

/-! ## Special functions (R169) -/

/-- A special function on each lane: widened to F32, the F32 result, then rounded to a narrower destination. -/
def specialLane (f : Rnd → Nat → Nat × Flg) (r : EngRec) (s : State) : Result :=
  let o := oneSource r
  vxStep (okFun r) r (fun k sl h => laneStep o r (fun e x _ _ =>
    let md := laneRnd r h o.w e
    let wide := convert (tyOf r.stype) .f32 .rne false x
    let y := f md (if (Fmt.decode (fmtOf r.stype) x).isSignalling then 0x7F800001 else wide.1)
    if r.dtype = 0 then y
    else
      let z := roundNum (fmtOf r.dtype) md (satOf r) (fmtF32.decode y.1)
      (z.1, y.2 ||| z.2)) k sl h) s

/-- VEXP2 (R169). -/
def execVexp2 (r : EngRec) (s : State) : Result := specialLane (fun _ x => exp2F32 x) r s
/-- VLOG2 (R169). -/
def execVlog2 (r : EngRec) (s : State) : Result := specialLane (fun _ x => log2F32 x) r s
/-- VRCP (R169). -/
def execVrcp (r : EngRec) (s : State) : Result := specialLane (fun _ x => rcpF32 x) r s
/-- VRSQ (R169). -/
def execVrsq (r : EngRec) (s : State) : Result := specialLane (fun _ x => rsqF32 x) r s
/-- VSQRT (R169): rounds under RND, and once more to a narrower destination. -/
def execVsqrt (r : EngRec) (s : State) : Result := specialLane (fun md x => sqrtF32 md x) r s
/-- VTANH (R169). -/
def execVtanh (r : EngRec) (s : State) : Result := specialLane (fun _ x => tanhF32 x) r s

/-! ## Conversions and generators (R170-R173) -/

/-- VCVT (R170). -/
def execVcvt (r : EngRec) (s : State) : Result :=
  let o := oneSource r
  vxStep (okCvt r) r (fun k sl h => laneStep o r (fun e x _ _ =>
    convert (tyOf r.stype) (tyOf r.dtype) (laneRnd r h o.w e) (satOf r) x) k sl h) s

/-- emax of a block-scaled type (R92). -/
def blockEmax (c : BitVec 4) : Int := if c.toNat = 5 then 2 else if c.toNat = 3 then 8 else 15

/-- The scale code and the elements of a block (R92); `md` gives the rounding of each element of the block. -/
def quantBlock (src dst : BitVec 4) (md : Nat → Rnd) (xs : List Nat) : Nat × List (Nat × Flg) :=
  let ns := xs.map (fmtOf src).decode
  let f := fmtOf dst
  if ns.any fun n => match n with | .fin _ _ _ => false | _ => true then
    (0xFF, ns.map fun _ => (f.nanCode, Flg.iv))
  else
    let top : Option Int := ns.foldl (fun a n => match n with
      | .fin _ m e => if m = 0 then a else
          let l : Int := (Nat.log2 m : Int) + e
          (match a with | some b => some (max b l) | none => some l)
      | _ => a) none
    match top with
    | none => (0, ns.map fun _ => (0, 0))
    | some l =>
      let sc : Int := max 0 (min 254 (l - blockEmax dst + 127))
      (sc.toNat, ns.mapIdx fun i n => match n with
        | .fin neg m e => roundFin f (md i) true neg m (e + (127 - sc))
        | _ => (f.nanCode, Flg.iv))

/-- Consecutive parts of `n` elements of a list. -/
def chunks {α : Type} (n : Nat) : Nat → List α → List (List α)
  | 0, _ => []
  | f + 1, l => l.take n :: chunks n f (l.drop n)

/-- The blocks of a VQUANT step written one after another, each scale byte before its elements of `w` bits (R171). -/
def quantWrites (d s2 w : Nat) (bs : List (Nat × List Nat)) : List (Nat × List Byte) :=
  (bs.mapIdx fun b x => [(s2 + b, leBytes 1 x.1), (d + 4 * w * b, leBytes (4 * w) (packLanes w x.2))]).flatten

/-- One step of VQUANT (R171): the operands are written whole, which ends the poison of units they cover (R450), and so that the bytes
where they overlap are those of the loop's order. -/
def quantStep (r : EngRec) (k : Core) (sl : Slot) (h : Head) : Except Trap VOut :=
  let w := lanesOf r.stype
  let os := [vecAt r.d (h.addr r.d) (vecBytes w r.dtype) (some r.dtype) false,
    vecAt r.s1 (h.addr r.s1) (vecBytes w r.stype) (some r.stype) true,
    vecAt r.s2 (h.addr r.s2) (w / 32) (some 13) false]
  match k.checked sl os with
  | .error t => .error t
  | .ok as =>
    let v1 := k.val (as.getD 1 0) (vecBytes w r.stype)
    let xs := (List.range w).map fun e => lane (tw r.stype) v1 e
    let bs := (chunks 32 (w / 32) xs).mapIdx fun b l => quantBlock r.stype r.dtype (fun i => laneRnd r h w (32 * b + i)) l
    let out := bs.flatMap (·.2)
    .ok {
      writes := (as.getD 0 0, leBytes (vecBytes w r.dtype) (packLanes (tw r.dtype) (codes out)))
        :: quantWrites (as.getD 0 0) (as.getD 2 0) (tw r.dtype) (bs.map fun b => (b.1, codes b.2))
      flags := flagsOf out }

/-- VQUANT (R171). -/
def execVquant (r : EngRec) (s : State) : Result := vxStep (okQuant r) r (quantStep r) s

/-- One step of VDEQ (R171). -/
def deqStep (r : EngRec) (k : Core) (sl : Slot) (h : Head) : Except Trap VOut :=
  let w := lanesOf r.dtype
  let os := [vecAt r.d (h.addr r.d) (vecBytes w r.dtype) (some r.dtype) false,
    vecAt r.s1 (h.addr r.s1) (vecBytes w r.stype) (some r.stype) true,
    vecAt r.s2 (h.addr r.s2) (w / 32) (some 13) true]
  match k.checked sl os with
  | .error t => .error t
  | .ok as =>
    let v1 := k.val (as.getD 1 0) (vecBytes w r.stype)
    let v2 := k.val (as.getD 2 0) (w / 32)
    let out := (List.range w).map fun e =>
      mulFmt (fmtOf r.dtype) (laneRnd r h w e) (satOf r) (ofE8 (lane 8 v2 (e / 32)))
        ((fmtOf r.stype).decode (lane (tw r.stype) v1 e))
    .ok {
      writes := [(as.getD 0 0, leBytes (vecBytes w r.dtype) (packLanes (tw r.dtype) (codes out)))]
      flags := flagsOf out }

/-- VDEQ (R171). -/
def execVdeq (r : EngRec) (s : State) : Result := vxStep (okDeq r) r (deqStep r) s

/-- A step that writes lanes of D from their record-wide index (R162). -/
def genStep (ok : Bool) (r : EngRec) (f : Nat → Nat) (s : State) : Result :=
  let w := lanesOf r.dtype
  vxStep ok r (fun k sl h => laneStep { w := w, hasS1 := false } r (fun e _ _ _ => (f (h.linear r * w + e), 0)) k sl h) s

/-- VRAND (R172). -/
def execVrand (r : EngRec) (s : State) : Result :=
  let key : Word := BitVec.ofNat 64 (r.aux.toNat * 2 ^ 32 + r.s2.base.toNat)
  genStep (okRand r) r (fun ctr =>
    let h := (hash key (BitVec.ofNat 64 ctr)).toNat
    match r.dtype.toNat with
    | 0 => (roundFin fmtF32 .rne false false (bits h 63 40) (-24)).1
    | 1 => (roundFin (fmtOf 1) .rne false false (bits h 63 56) (-8)).1
    | _ => bits h 63 32) s

/-- VIOTA (R173). -/
def execViota (r : EngRec) (s : State) : Result :=
  let inc : Int := (BitVec.ofNat 11 r.aux.toNat).toInt * 2 ^ (r.aux.toNat / 2 ^ 11)
  let w := tw r.dtype
  genStep (okIota r) r (fun ctr => (((immOf r.dtype r : Int) + ctr * inc) % 2 ^ w).toNat) s

/-- VZERO (R173): 512 zero bytes, with no tag check (R151). -/
def execVzero (r : EngRec) (s : State) : Result :=
  vxStep (okZero r) r (fun k sl h =>
    match k.checked sl [vecAt r.d (h.addr r.d) 512 none false] with
    | .error t => .error t
    | .ok as => .ok { writes := [(as.headD 0, List.replicate 512 0)] }) s

end Sys2Proof.Machine
end

