-- ==== Sys2Proof/Machine/Reduce.lean ====
section
/-! DEFINITION. Reductions, scans, counts and lists of the vector engine (R174-R176, R180), and its tile control (R182,
R183). -/

namespace Sys2Proof.Machine

/-- Comb of VREDSUM and of VSCAN with operation 0: RNE on Fl lanes, Int on In lanes (R174, R175). -/
def combSum (c : BitVec 4) (sat : Bool) (x y : Nat) : Nat × Flg :=
  if isFl c then addFmt (fmtOf c) .rne false ((fmtOf c).decode x) ((fmtOf c).decode y)
  else (intFit (tyOf c) sat (intDecode (tyOf c) x + intDecode (tyOf c) y), 0)

/-- Lanes combined pairwise. -/
def combLists (f : Nat → Nat → Nat × Flg) (a b : List Nat) : List Nat × Flg :=
  let l := List.zipWith f a b
  (codes l, flagsOf l)

/-- The tree of R108 over 2^n lanes: lane i with lane i + w/2, level by level. -/
def tree (f : Nat → Nat → Nat × Flg) : Nat → List Nat → Flg → Nat × Flg
  | 0, l, fl => (l.headD 0, fl)
  | n + 1, l, fl =>
    let r := combLists f (l.take (2 ^ n)) (l.drop (2 ^ n))
    tree f n r.1 (fl ||| r.2)

/-- One step of a reduction (R174): D is an operand at the last step of a j0 loop, and read under ACC. -/
def redStep (f : Nat → Nat → Nat × Flg) (r : EngRec) (k : Core) (sl : Slot) (h : Head) : Except Trap VOut :=
  let w := lanesOf r.stype
  let tb := tw r.stype
  let n := vecBytes w r.stype
  let last := h.lastJ0 r
  let acc := r.aux.getLsbD 0
  let os := (if last then [scalarAt r.d (h.addr r.d) (tb / 8) (some r.dtype) acc] else [])
    ++ [vecAt r.s1 (h.addr r.s1) n (some r.stype) true]
  match k.checked sl os with
  | .error t => .error t
  | .ok as =>
    let as := if last then as else 0 :: as
    let v1 := k.val (as.getD 1 0) n
    let xs := (List.range w).map fun e => lane tb v1 e
    let c := if h.j0 = 0 then (xs, (0 : Flg)) else combLists f ((List.range w).map fun e => lane tb h.vcarry.toNat e) xs
    let vc := packLanes tb c.1
    if last then
      let t := tree f (Nat.log2 w) c.1 c.2
      let d := if acc then f (k.val (as.getD 0 0) (tb / 8)) t.1 else (t.1, 0)
      .ok { writes := [(as.getD 0 0, leBytes (tb / 8) d.1)], flags := t.2 ||| d.2, vcarry := some vc }
    else .ok { flags := c.2, vcarry := some vc }

/-- VREDSUM (R174). -/
def execVredsum (r : EngRec) (s : State) : Result := vxStep (okRedSum r) r (redStep (combSum r.stype (satOf r)) r) s
/-- VREDMAX (R174). -/
def execVredmax (r : EngRec) (s : State) : Result := vxStep (okRedMax r) r (redStep (pick2 r.stype true) r) s
/-- VREDMIN (R174). -/
def execVredmin (r : EngRec) (s : State) : Result := vxStep (okRedMax r) r (redStep (pick2 r.stype false) r) s

/-- Id of VSCAN (R175). -/
def scanId (c : BitVec 4) (op : Nat) : Nat :=
  let f := fmtOf c
  match op with
  | 0 => 0
  | 1 => if isFl c then f.sign true f.infCode else intBits (tyOf c) (intLo (tyOf c))
  | _ => if isFl c then f.infCode else intBits (tyOf c) (intHi (tyOf c))

/-- The running combination over a list of lanes: the lanes written, the last value, the flags (R175). -/
def scanLanes (f : Nat → Nat → Nat × Flg) (excl : Bool) : List Nat → Nat → Flg → List Nat × Nat × Flg
  | [], s, fl => ([], s, fl)
  | x :: r, s, fl =>
    let n := f s x
    let t := scanLanes f excl r n.1 (fl ||| n.2)
    ((if excl then s else n.1) :: t.1, t.2)

/-- One step of VSCAN (R175). -/
def scanStep (r : EngRec) (k : Core) (sl : Slot) (h : Head) : Except Trap VOut :=
  let w := lanesOf r.stype
  let tb := tw r.stype
  let n := vecBytes w r.stype
  let op := r.aux.toNat % 4
  let f := match op with
    | 0 => combSum r.stype (satOf r)
    | 1 => pick2 r.stype true
    | _ => pick2 r.stype false
  match k.checked sl [vecAt r.d (h.addr r.d) n (some r.dtype) false, vecAt r.s1 (h.addr r.s1) n (some r.stype) true] with
  | .error t => .error t
  | .ok as =>
    let v1 := k.val (as.getD 1 0) n
    let s0 := if h.j0 = 0 then scanId r.stype op else h.carry.toNat
    let o := scanLanes f (r.aux.getLsbD 2) ((List.range w).map fun e => lane tb v1 e) s0 0
    .ok { writes := [(as.getD 0 0, leBytes n (packLanes tb o.1))], flags := o.2.2, carry := some (BitVec.ofNat 64 o.2.1) }

/-- VSCAN (R175). -/
def execVscan (r : EngRec) (s : State) : Result := vxStep (okScan r) r (scanStep r) s

/-- Which lanes of the S1 vector of a step are not zero; `none` where a check fails. -/
def nonZero (r : EngRec) (v1 : Nat) : List Bool :=
  (List.range (lanesOf r.stype)).map fun e => lane (tw r.stype) v1 e != 0

/-- One step of VANY (R176): the partial bit stands in the carry. -/
def anyStep (r : EngRec) (k : Core) (sl : Slot) (h : Head) : Except Trap VOut :=
  let n := vecBytes (lanesOf r.stype) r.stype
  match k.checked sl [vecAt r.s1 (h.addr r.s1) n (some r.stype) true] with
  | .error t => .error t
  | .ok as =>
    let nz := nonZero r (k.val (as.headD 0) n)
    let all := r.aux.getLsbD 0
    let prev := if h.linear r = 0 then all else h.carry.getLsbD 0
    .ok { carry := some (Word.ofBool (if all then prev && nz.all id else prev || nz.any id)) }

/-- VANY (R176): the push is at retirement. -/
def execVany (r : EngRec) (s : State) : Result := vxStep (okAny r) r (anyStep r) s

/-- One step of VCNT (R176). -/
def cntStep (r : EngRec) (k : Core) (sl : Slot) (h : Head) : Except Trap VOut :=
  let n := vecBytes (lanesOf r.stype) r.stype
  let last := h.lastJ0 r
  let acc := r.aux.getLsbD 0
  let os := (if last then [scalarAt r.d (h.addr r.d) 4 (some r.dtype) acc] else [])
    ++ [vecAt r.s1 (h.addr r.s1) n (some r.stype) true]
  match k.checked sl os with
  | .error t => .error t
  | .ok as =>
    let as := if last then as else 0 :: as
    let c := (if h.j0 = 0 then 0 else h.carry.toNat) + ((nonZero r (k.val (as.getD 1 0) n)).filter id).length
    let d := if acc then k.val (as.getD 0 0) 4 + c else c
    .ok { writes := if last then [(as.getD 0 0, leBytes 4 (d % 2 ^ 32))] else [], carry := some (BitVec.ofNat 64 (c % 2 ^ 32)) }

/-- VCNT (R176). -/
def execVcnt (r : EngRec) (s : State) : Result := vxStep (okCnt r) r (cntStep r) s

/-! ## VPART (R180) -/

/-- The entries of a step in lane order: which list, its place in it, and the lane's index; and the counts after it. -/
def partEntries : List Bool → Nat → Nat → Nat → List (Bool × Nat × Nat) × Nat × Nat
  | [], _, t, f => ([], t, f)
  | b :: r, ctr, t, f =>
    let x := partEntries r (ctr + 1) (if b then t + 1 else t) (if b then f else f + 1)
    ((b, if b then t else f, ctr) :: x.1, x.2)

/-- One step of VPART (R180): the count words are operands of every step, and each entry is checked in lane order (log 11). -/
def partStep (r : EngRec) (k : Core) (sl : Slot) (h : Head) : Except Trap VOut :=
  let w := lanesOf r.stype
  let n := vecBytes w r.stype
  let os := [scalarAt r.d r.d.base.toNat 4 (some 10) false, vecAt r.s1 (h.addr r.s1) n (some r.stype) true,
    scalarAt r.s2 r.s2.base.toNat 4 (some 10) false]
  match k.checked sl os with
  | .error t => .error t
  | .ok as =>
    let start := h.linear r = 0
    let t0 := if start then 0 else bits h.carry.toNat 31 0
    let f0 := if start then 0 else bits h.carry.toNat 63 32
    let x := partEntries (nonZero r (k.val (as.getD 1 0) n)) (h.linear r * w) t0 f0
    let es := x.1.map fun e =>
      let d := if e.1 then r.d else r.s2
      (scalarAt d ((d.base.toNat : Int) + 4 + 4 * e.2.1) 4 (some 10) false, e.2.2)
    match k.opds sl (es.map (·.1)) with
    | .error t => .error t
    | .ok l => .ok {
        writes := List.zipWith (fun a e => (a, leBytes 4 e.2)) l es
        carry := some (BitVec.ofNat 64 (x.2.1 % 2 ^ 32 + x.2.2 % 2 ^ 32 * 2 ^ 32)) }

/-- VPART (R180): the counts and the push come at retirement. -/
def execVpart (r : EngRec) (s : State) : Result := vxStep (okPart r) r (partStep r) s

/-! ## Tile control (R182, R183) -/

/-- A record that makes no step: every step is done. -/
def noStep (ok : Bool) (r : EngRec) (s : State) : Result :=
  walk .vx ok r (fun s e _ h => s.setHead e { h with st := .done }) s

/-- VBUMP (R182): its change comes at retirement. -/
def execVbump (r : EngRec) (s : State) : Result := noStep (okBump r) r s

/-- VTYPE (R183): its change comes at retirement. -/
def execVtype (r : EngRec) (s : State) : Result := noStep (okType r) r s

end Sys2Proof.Machine
end

