-- ==== Sys2Proof/Machine/Moves.lean ====
section
/-! DEFINITION. Data movement of the vector engine: VZIP, VUNZIP, VPERM, VGATHER, VSCATTER, VLDP, VSTP (R177-R179, R181). -/

namespace Sys2Proof.Machine

/-! ## VZIP and VUNZIP (R177) -/

/-- An operand of `k` vectors of 512 bytes from an address, a distance apart (R149). -/
def vectorsAt (k : Nat) (d : Desc) (a step : Int) (tag : BitVec 4) (rd : Bool) : Opd :=
  { vecAt d a 512 (some tag) rd with addrs := (List.range k).map fun i => a + i * step }

/-- The lanes of `k` vectors, one after another. -/
def allLanes (c : Core) (w n : Nat) (as : List Nat) : List Nat :=
  as.flatMap fun a => let v := c.val a 512; (List.range n).map fun e => lane w v e

/-- `k` vectors written. -/
def vectorWrites (w n : Nat) (as : List Nat) (l : List Nat) : List (Nat × List Byte) :=
  List.zipWith (fun a v => (a, leBytes 512 (packLanes w v))) as (chunks n as.length l)

/-- VZIP2, VZIP3 and VZIP4 (R177): element p of the result is element p div k of source p mod k. -/
def zip (k : Nat) (r : EngRec) (s : State) : Result :=
  let n := lanesOf r.dtype
  let w := tw r.dtype
  vxStep (okZip r) r (fun c sl h =>
    match c.checked sl [vectorsAt k r.d (h.addr r.d) 512 r.dtype false,
        vectorsAt k r.s1 (h.addr r.s1) (delta r) r.stype true] with
    | .error t => .error t
    | .ok as =>
      let src := allLanes c w n (as.drop k)
      let out := (List.range (k * n)).map fun p => src.getD (p % k * n + p / k) 0
      .ok { writes := vectorWrites w n (as.take k) out }) s

/-- VUNZIP2, VUNZIP3 and VUNZIP4 (R177): element e of result m is element k*e + m of the sources. -/
def unzip (k : Nat) (r : EngRec) (s : State) : Result :=
  let n := lanesOf r.dtype
  let w := tw r.dtype
  vxStep (okZip r) r (fun c sl h =>
    match c.checked sl [vectorsAt k r.d (h.addr r.d) (delta r) r.dtype false,
        vectorsAt k r.s1 (h.addr r.s1) 512 r.stype true] with
    | .error t => .error t
    | .ok as =>
      let src := allLanes c w n (as.drop k)
      let out := (List.range (k * n)).map fun p => src.getD (k * (p % n) + p / n) 0
      .ok { writes := vectorWrites w n (as.take k) out }) s

/-- VZIP2 (R177). -/
def execVzip2 (r : EngRec) (s : State) : Result := zip 2 r s
/-- VZIP3 (R177). -/
def execVzip3 (r : EngRec) (s : State) : Result := zip 3 r s
/-- VZIP4 (R177). -/
def execVzip4 (r : EngRec) (s : State) : Result := zip 4 r s
/-- VUNZIP2 (R177). -/
def execVunzip2 (r : EngRec) (s : State) : Result := unzip 2 r s
/-- VUNZIP3 (R177). -/
def execVunzip3 (r : EngRec) (s : State) : Result := unzip 3 r s
/-- VUNZIP4 (R177). -/
def execVunzip4 (r : EngRec) (s : State) : Result := unzip 4 r s

/-! ## VPERM (R178) -/

/-- One step of VPERM. -/
def permStep (r : EngRec) (k : Core) (sl : Slot) (h : Head) : Except Trap VOut :=
  let w := lanesOf r.dtype
  let t := tw r.dtype
  match k.checked sl [vecAt r.d (h.addr r.d) 512 (some r.dtype) false, vecAt r.s1 (h.addr r.s1) 512 (some r.stype) true,
      vecAt r.s2 (h.addr r.s2) (2 * w) (some 11) true] with
  | .error x => .error x
  | .ok as =>
    let v1 := k.val (as.getD 1 0) 512
    let v2 := k.val (as.getD 2 0) (2 * w)
    let out := (List.range w).map fun e => let i := lane 16 v2 e; if i < w then lane t v1 i else 0
    .ok { writes := [(as.getD 0 0, leBytes 512 (packLanes t out))] }

/-- VPERM (R178). -/
def execVperm (r : EngRec) (s : State) : Result := vxStep (okPerm r) r (permStep r) s

/-! ## VGATHER and VSCATTER (R179) -/

/-- An operand that must be read to form an address: its three checks, then its poison at once (R155). -/
def Core.readNow (k : Core) (sl : Slot) (o : Opd) : Except Trap Nat :=
  match k.checked sl [o] with
  | .error t => .error t
  | .ok as => .ok (k.val (as.headD 0) o.n)

/-- The entries of a list in order, each read at once. -/
def Core.readAll (k : Core) (sl : Slot) : List Opd → Except Trap (List Nat)
  | [] => .ok []
  | o :: r => match k.readNow sl o with
    | .error t => .error t
    | .ok v => match k.readAll sl r with
      | .error t => .error t
      | .ok l => .ok (v :: l)

/-- The indices of the 128 lanes of a step, none for an inactive lane, and the list length; the count of a list is read at
the first step (log 12). -/
def indices (r : EngRec) (k : Core) (sl : Slot) (h : Head) : Except Trap (List (Option Nat) × Nat) :=
  if !r.aux.getLsbD 0 then
    match k.readNow sl (vecAt r.s2 (h.addr r.s2) 512 (some 10) true) with
    | .error t => .error t
    | .ok v => .ok ((List.range 128).map (fun e => some (lane 32 v e)), 0)
  else
    let base : Int := r.s2.base.toNat
    let count : Except Trap Nat := if h.linear r = 0 then k.readNow sl (scalarAt r.s2 base 4 (some 10) true)
      else .ok (bits h.carry.toNat 31 0)
    match count with
    | .error t => .error t
    | .ok c =>
      let first := h.linear r * 128
      let live := min 128 (c - first)
      match k.readAll sl ((List.range live).map fun e => scalarAt r.s2 (base + 4 + 4 * (first + e : Nat)) 4 (some 10) true) with
      | .error t => .error t
      | .ok l => .ok ((List.range 128).map (fun e => l[e]?), c)

/-- One step of VGATHER (R179): the addresses checked in S1 are those of the active lanes' elements, and not the base by itself (DESIGN
CHOICE, log 104). -/
def gatherStep (r : EngRec) (k : Core) (sl : Slot) (h : Head) : Except Trap VOut :=
  let z := tw r.dtype / 8
  let od := vecAt r.d (h.addr r.d) (128 * z) (some r.dtype) false
  match k.opds sl [od] with
  | .error t => .error t
  | .ok ad => match indices r k sl h with
    | .error t => .error t
    | .ok (ix, c) =>
      let es := (ix.filterMap id).map fun i => scalarAt r.s1 (h.addr r.s1 + i * z) z (some r.stype) true
      match k.checked sl es with
      | .error t => .error t
      | .ok as =>
        let vs := as.map fun a => k.val a z
        .ok { writes := [(ad.headD 0, leBytes (128 * z) (packLanes (8 * z) (vs ++ List.replicate (128 - vs.length) 0)))]
              carry := some (BitVec.ofNat 64 c) }

/-- VGATHER (R179). -/
def execVgather (r : EngRec) (s : State) : Result := vxStep (okGather r) r (gatherStep r) s

/-- One step of VSCATTER (R179): the lanes in ascending order, so the highest wins a repeated index; D's base is not checked by itself
(DESIGN CHOICE, log 104). -/
def scatterStep (r : EngRec) (k : Core) (sl : Slot) (h : Head) : Except Trap VOut :=
  let z := tw r.stype / 8
  let o1 := vecAt r.s1 (h.addr r.s1) (128 * z) (some r.stype) true
  match k.opds sl [o1] with
  | .error t => .error t
  | .ok a1 => match indices r k sl h with
    | .error t => .error t
    | .ok (ix, c) =>
      let es := (ix.filterMap id).map fun i => scalarAt r.d (h.addr r.d + i * z) z (some r.dtype) false
      match k.opds sl es with
      | .error t => .error t
      | .ok as => match k.poisonIn [(a1.headD 0, 128 * z)] with
        | some t => .error t
        | none =>
          let v := k.val (a1.headD 0) (128 * z)
          .ok { writes := as.mapIdx fun e a => (a, leBytes z (lane (8 * z) v e)), carry := some (BitVec.ofNat 64 c) }

/-- VSCATTER (R179). -/
def execVscatter (r : EngRec) (s : State) : Result := vxStep (okGather r) r (scatterStep r) s

/-! ## VLDP and VSTP (R181) -/

/-- VLDP (R181): n bytes from any address, the rest of the vector zero. -/
def execVldp (r : EngRec) (s : State) : Result :=
  let n := r.aux.toNat
  vxStep (okBytes r) r (fun k sl h =>
    match k.checked sl [vecAt r.d (h.addr r.d) 512 none false, ⟨r.s1.space, [h.addr r.s1], n, 1, false, none, true⟩] with
    | .error t => .error t
    | .ok as => .ok { writes := [(as.getD 0 0, k.store.read (as.getD 1 0) n ++ List.replicate (512 - n) 0)] }) s

/-- VSTP (R181): the first n bytes of a vector to any address. -/
def execVstp (r : EngRec) (s : State) : Result :=
  let n := r.aux.toNat
  vxStep (okBytes r) r (fun k sl h =>
    match k.checked sl [⟨r.d.space, [h.addr r.d], n, 1, false, none, false⟩, vecAt r.s1 (h.addr r.s1) 512 none true] with
    | .error t => .error t
    | .ok as => .ok { writes := [(as.getD 0 0, k.store.read (as.getD 1 0) n)] }) s

end Sys2Proof.Machine
end

