-- ==== Sys2Proof/Machine/Dispatch.lean ====
section
/-! DEFINITION. The meaning of every instruction and step: one arm per constructor of Instr. -/

namespace Sys2Proof.Machine

def exec (i : Instr) (s : State) : Host.Outcome State Fault Refusal :=
  match i with
  | .add p d a b => Sys2Proof.Machine.execAdd p d a b s
  | .sub p d a b => Sys2Proof.Machine.execSub p d a b s
  | .mul p d a b => Sys2Proof.Machine.execMul p d a b s
  | .mulh p d a b => Sys2Proof.Machine.execMulh p d a b s
  | .mulhu p d a b => Sys2Proof.Machine.execMulhu p d a b s
  | .div p d a b => Sys2Proof.Machine.execDiv p d a b s
  | .divu p d a b => Sys2Proof.Machine.execDivu p d a b s
  | .rem p d a b => Sys2Proof.Machine.execRem p d a b s
  | .remu p d a b => Sys2Proof.Machine.execRemu p d a b s
  | .and p d a b => Sys2Proof.Machine.execAnd p d a b s
  | .or p d a b => Sys2Proof.Machine.execOr p d a b s
  | .xor p d a b => Sys2Proof.Machine.execXor p d a b s
  | .andn p d a b => Sys2Proof.Machine.execAndn p d a b s
  | .shl p d a b => Sys2Proof.Machine.execShl p d a b s
  | .shr p d a b => Sys2Proof.Machine.execShr p d a b s
  | .sra p d a b => Sys2Proof.Machine.execSra p d a b s
  | .rol p d a b => Sys2Proof.Machine.execRol p d a b s
  | .min p d a b => Sys2Proof.Machine.execMin p d a b s
  | .max p d a b => Sys2Proof.Machine.execMax p d a b s
  | .minu p d a b => Sys2Proof.Machine.execMinu p d a b s
  | .maxu p d a b => Sys2Proof.Machine.execMaxu p d a b s
  | .clz p d a => Sys2Proof.Machine.execClz p d a s
  | .ctz p d a => Sys2Proof.Machine.execCtz p d a s
  | .popc p d a => Sys2Proof.Machine.execPopc p d a s
  | .brev p d a => Sys2Proof.Machine.execBrev p d a s
  | .sext p d a b => Sys2Proof.Machine.execSext p d a b s
  | .zext p d a b => Sys2Proof.Machine.execZext p d a b s
  | .sel p d a b c => Sys2Proof.Machine.execSel p d a b c s
  | .lea p d a b c => Sys2Proof.Machine.execLea p d a b c s
  | .addi p d a imm => Sys2Proof.Machine.execAddi p d a imm s
  | .andi p d a imm => Sys2Proof.Machine.execAndi p d a imm s
  | .ori p d a imm => Sys2Proof.Machine.execOri p d a imm s
  | .xori p d a imm => Sys2Proof.Machine.execXori p d a imm s
  | .shli p d a n => Sys2Proof.Machine.execShli p d a n s
  | .shri p d a n => Sys2Proof.Machine.execShri p d a n s
  | .srai p d a n => Sys2Proof.Machine.execSrai p d a n s
  | .movi p d imm => Sys2Proof.Machine.execMovi p d imm s
  | .movhi p d imm => Sys2Proof.Machine.execMovhi p d imm s
  | .muli p d a imm => Sys2Proof.Machine.execMuli p d a imm s
  | .kget p d a => Sys2Proof.Machine.execKget p d a s
  | .cmp p cc d a b => Sys2Proof.Machine.execCmp p cc d a b s
  | .cmpi p cc d a imm => Sys2Proof.Machine.execCmpi p cc d a imm s
  | .fcmp p cc d a b => Sys2Proof.Machine.execFcmp p cc d a b s
  | .kand p d a b => Sys2Proof.Machine.execKand p d a b s
  | .kor p d a b => Sys2Proof.Machine.execKor p d a b s
  | .kxor p d a b => Sys2Proof.Machine.execKxor p d a b s
  | .knot p d a => Sys2Proof.Machine.execKnot p d a s
  | .kset p d a => Sys2Proof.Machine.execKset p d a s
  | .fadd p d a b => Sys2Proof.Machine.execFadd p d a b s
  | .fsub p d a b => Sys2Proof.Machine.execFsub p d a b s
  | .fmul p d a b => Sys2Proof.Machine.execFmul p d a b s
  | .ffma p d a b c => Sys2Proof.Machine.execFfma p d a b c s
  | .fmin p d a b => Sys2Proof.Machine.execFmin p d a b s
  | .fmax p d a b => Sys2Proof.Machine.execFmax p d a b s
  | .fabs p d a => Sys2Proof.Machine.execFabs p d a s
  | .fneg p d a => Sys2Proof.Machine.execFneg p d a s
  | .fcvt p d a ty dir => Sys2Proof.Machine.execFcvt p d a ty dir s
  | .fexp2 p d a => Sys2Proof.Machine.execFexp2 p d a s
  | .flog2 p d a => Sys2Proof.Machine.execFlog2 p d a s
  | .frcp p d a => Sys2Proof.Machine.execFrcp p d a s
  | .frsq p d a => Sys2Proof.Machine.execFrsq p d a s
  | .fsqrt p d a => Sys2Proof.Machine.execFsqrt p d a s
  | .ld p d m sx => Sys2Proof.Machine.execLd p d m sx s
  | .st p d m => Sys2Proof.Machine.execSt p d m s
  | .ldp p d a mode size sx => Sys2Proof.Machine.execLdp p d a mode size sx s
  | .stp p d a mode size => Sys2Proof.Machine.execStp p d a mode size s
  | .ldAcq p d m sx scope => Sys2Proof.Machine.execLdAcq p d m sx scope s
  | .stRel p d m scope => Sys2Proof.Machine.execStRel p d m scope s
  | .pf p a mode cls => Sys2Proof.Machine.execPf p a mode cls s
  | .fence p mask scope => Sys2Proof.Machine.execFence p mask scope s
  | .slx p cls d a b c vr => Sys2Proof.Machine.execSlx p cls d a b c vr s
  | .slxn p cls a b c vr => Sys2Proof.Machine.execSlxn p cls a b c vr s
  | .rtinst p d a b => Sys2Proof.Machine.execRtinst p d a b s
  | .rtmap p d a b => Sys2Proof.Machine.execRtmap p d a b s
  | .eqpop p d => Sys2Proof.Machine.execEqpop p d s
  | .wfe p => Sys2Proof.Machine.execWfe p s
  | .br p off => Sys2Proof.Machine.execBr p off s
  | .bcq p off => Sys2Proof.Machine.execBcq p off s
  | .jr p a => Sys2Proof.Machine.execJr p a s
  | .call p off => Sys2Proof.Machine.execCall p off s
  | .callr p a => Sys2Proof.Machine.execCallr p a s
  | .ret p => Sys2Proof.Machine.execRet p s
  | .loop p level a off => Sys2Proof.Machine.execLoop p level a off s
  | .nop p n => Sys2Proof.Machine.execNop p n s
  | .trap p e => Sys2Proof.Machine.execTrap p e s
  | .yield p => Sys2Proof.Machine.execYield p s
  | .endUnit p => Sys2Proof.Machine.execEndUnit p s
  | .rbld p a off n => Sys2Proof.Machine.execRbld p a off n s
  | .rbst p a off n => Sys2Proof.Machine.execRbst p a off n s
  | .rbset p n a id => Sys2Proof.Machine.execRbset p n a id s
  | .rbget p d n id => Sys2Proof.Machine.execRbget p d n id s
  | .enq p e n => Sys2Proof.Machine.execEnq p e n s
  | .tkpost p e => Sys2Proof.Machine.execTkpost p e s
  | .tkwait p e => Sys2Proof.Machine.execTkwait p e s
  | .tkpoll p d e => Sys2Proof.Machine.execTkpoll p d e s
  | .seminc p n a => Sys2Proof.Machine.execSeminc p n a s
  | .semwait p n a => Sys2Proof.Machine.execSemwait p n a s
  | .semmap p n a => Sys2Proof.Machine.execSemmap p n a s
  | .qdrain p e => Sys2Proof.Machine.execQdrain p e s
  | .accver p d t => Sys2Proof.Machine.execAccver p d t s
  | .woreg p d a => Sys2Proof.Machine.execWoreg p d a s
  | .wodereg p a => Sys2Proof.Machine.execWodereg p a s
  | .wohold p d a => Sys2Proof.Machine.execWohold p d a s
  | .worel p a => Sys2Proof.Machine.execWorel p a s
  | .wowait p a => Sys2Proof.Machine.execWowait p a s
  | .wopoll p d a => Sys2Proof.Machine.execWopoll p d a s
  | .bar p level => Sys2Proof.Machine.execBar p level s
  | .barxf p level => Sys2Proof.Machine.execBarxf p level s
  | .lease p d e => Sys2Proof.Machine.execLease p d e s
  | .leaserel p e => Sys2Proof.Machine.execLeaserel p e s
  | .lend p a => Sys2Proof.Machine.execLend p a s
  | .recall p => Sys2Proof.Machine.execRecall p s
  | .rsmark p => Sys2Proof.Machine.execRsmark p s
  | .gtcrd p d => Sys2Proof.Machine.execGtcrd p d s
  | .rng p d a b => Sys2Proof.Machine.execRng p d a b s
  | .mfs p d n => Sys2Proof.Machine.execMfs p d n s
  | .mts p n a => Sys2Proof.Machine.execMts p n a s
  | .evecWrite p a => Sys2Proof.Machine.execEvecWrite p a s
  | .ctxsaveWrite p a => Sys2Proof.Machine.execCtxsaveWrite p a s
  | .eret p => Sys2Proof.Machine.execEret p s
  | .opbnd p => Sys2Proof.Machine.execOpbnd p s
  | .defer p => Sys2Proof.Machine.execDefer p s
  | .undefer p => Sys2Proof.Machine.execUndefer p s
  | .clrsig p d => Sys2Proof.Machine.execClrsig p d s
  | .ctxsv p a => Sys2Proof.Machine.execCtxsv p a s
  | .ctxld p a => Sys2Proof.Machine.execCtxld p a s
  | .parkst p d => Sys2Proof.Machine.execParkst p d s
  | .pend p d => Sys2Proof.Machine.execPend p d s
  | .tinst p => Sys2Proof.Machine.execTinst p s
  | .tvbump p => Sys2Proof.Machine.execTvbump p s
  | .tremove p => Sys2Proof.Machine.execTremove p s
  | .tquery p => Sys2Proof.Machine.execTquery p s
  | .s1root p => Sys2Proof.Machine.execS1root p s
  | .tlbinv p => Sys2Proof.Machine.execTlbinv p s
  | .regquery p => Sys2Proof.Machine.execRegquery p s
  | .partquery p => Sys2Proof.Machine.execPartquery p s
  | .greset p => Sys2Proof.Machine.execGreset p s
  | .scrubreq p => Sys2Proof.Machine.execScrubreq p s
  | .recquery p => Sys2Proof.Machine.execRecquery p s
  | .hvc p e => Sys2Proof.Machine.execHvc p e s
  | .vadd r => Sys2Proof.Machine.execVadd r s
  | .vsub r => Sys2Proof.Machine.execVsub r s
  | .vmul r => Sys2Proof.Machine.execVmul r s
  | .vfma r => Sys2Proof.Machine.execVfma r s
  | .vmin r => Sys2Proof.Machine.execVmin r s
  | .vmax r => Sys2Proof.Machine.execVmax r s
  | .vabs r => Sys2Proof.Machine.execVabs r s
  | .vneg r => Sys2Proof.Machine.execVneg r s
  | .vand r => Sys2Proof.Machine.execVand r s
  | .vor r => Sys2Proof.Machine.execVor r s
  | .vxor r => Sys2Proof.Machine.execVxor r s
  | .vshl r => Sys2Proof.Machine.execVshl r s
  | .vshr r => Sys2Proof.Machine.execVshr r s
  | .vsra r => Sys2Proof.Machine.execVsra r s
  | .vsel r => Sys2Proof.Machine.execVsel r s
  | .vcmp r => Sys2Proof.Machine.execVcmp r s
  | .vclamp r => Sys2Proof.Machine.execVclamp r s
  | .vscale r => Sys2Proof.Machine.execVscale r s
  | .vmov r => Sys2Proof.Machine.execVmov r s
  | .vbcast r => Sys2Proof.Machine.execVbcast r s
  | .vexp2 r => Sys2Proof.Machine.execVexp2 r s
  | .vlog2 r => Sys2Proof.Machine.execVlog2 r s
  | .vrcp r => Sys2Proof.Machine.execVrcp r s
  | .vrsq r => Sys2Proof.Machine.execVrsq r s
  | .vsqrt r => Sys2Proof.Machine.execVsqrt r s
  | .vtanh r => Sys2Proof.Machine.execVtanh r s
  | .vcvt r => Sys2Proof.Machine.execVcvt r s
  | .vquant r => Sys2Proof.Machine.execVquant r s
  | .vdeq r => Sys2Proof.Machine.execVdeq r s
  | .vrand r => Sys2Proof.Machine.execVrand r s
  | .vredsum r => Sys2Proof.Machine.execVredsum r s
  | .vredmax r => Sys2Proof.Machine.execVredmax r s
  | .vredmin r => Sys2Proof.Machine.execVredmin r s
  | .vscan r => Sys2Proof.Machine.execVscan r s
  | .vany r => Sys2Proof.Machine.execVany r s
  | .vcnt r => Sys2Proof.Machine.execVcnt r s
  | .vzip2 r => Sys2Proof.Machine.execVzip2 r s
  | .vzip3 r => Sys2Proof.Machine.execVzip3 r s
  | .vzip4 r => Sys2Proof.Machine.execVzip4 r s
  | .vunzip2 r => Sys2Proof.Machine.execVunzip2 r s
  | .vunzip3 r => Sys2Proof.Machine.execVunzip3 r s
  | .vunzip4 r => Sys2Proof.Machine.execVunzip4 r s
  | .vperm r => Sys2Proof.Machine.execVperm r s
  | .vgather r => Sys2Proof.Machine.execVgather r s
  | .vscatter r => Sys2Proof.Machine.execVscatter r s
  | .vpart r => Sys2Proof.Machine.execVpart r s
  | .vldp r => Sys2Proof.Machine.execVldp r s
  | .vstp r => Sys2Proof.Machine.execVstp r s
  | .viota r => Sys2Proof.Machine.execViota r s
  | .vzero r => Sys2Proof.Machine.execVzero r s
  | .vbump r => Sys2Proof.Machine.execVbump r s
  | .vtype r => Sys2Proof.Machine.execVtype r s
  | .mma r => Sys2Proof.Machine.execMma r s
  | .mmaz r => Sys2Proof.Machine.execMmaz r s
  | .mmas r => Sys2Proof.Machine.execMmas r s
  | .mmat r => Sys2Proof.Machine.execMmat r s
  | .mret r => Sys2Proof.Machine.execMret r s
  | .mzero r => Sys2Proof.Machine.execMzero r s
  | .cpin r => Sys2Proof.Machine.execCpin r s
  | .cpina r => Sys2Proof.Machine.execCpina r s
  | .gathin r => Sys2Proof.Machine.execGathin r s
  | .fill r => Sys2Proof.Machine.execFill r s
  | .cploc r => Sys2Proof.Machine.execCploc r s
  | .pfin r => Sys2Proof.Machine.execPfin r s
  | .cpout r => Sys2Proof.Machine.execCpout r s
  | .scatout r => Sys2Proof.Machine.execScatout r s
  | .cpouta r => Sys2Proof.Machine.execCpouta r s
  | .cprem r => Sys2Proof.Machine.execCprem r s
  | .tx r => Sys2Proof.Machine.execTx r s
  | .muxsel r => Sys2Proof.Machine.execMuxsel r s
  | .xhold r => Sys2Proof.Machine.execXhold r s
  | .xend r => Sys2Proof.Machine.execXend r s
  | .ladd d a b => Sys2Proof.Machine.execLadd d a b s
  | .lsub d a b => Sys2Proof.Machine.execLsub d a b s
  | .land d a b => Sys2Proof.Machine.execLand d a b s
  | .lor d a b => Sys2Proof.Machine.execLor d a b s
  | .lxor d a b => Sys2Proof.Machine.execLxor d a b s
  | .lmin d a b => Sys2Proof.Machine.execLmin d a b s
  | .lmax d a b => Sys2Proof.Machine.execLmax d a b s
  | .lminu d a b => Sys2Proof.Machine.execLminu d a b s
  | .lmaxu d a b => Sys2Proof.Machine.execLmaxu d a b s
  | .lshl d a b => Sys2Proof.Machine.execLshl d a b s
  | .lshr d a b => Sys2Proof.Machine.execLshr d a b s
  | .lcmp a b cc => Sys2Proof.Machine.execLcmp a b cc s
  | .lsel d a b => Sys2Proof.Machine.execLsel d a b s
  | .lmov d a => Sys2Proof.Machine.execLmov d a s
  | .lmovi d imm => Sys2Proof.Machine.execLmovi d imm s
  | .laddf d a b => Sys2Proof.Machine.execLaddf d a b s
  | .lins d a pos wm1 => Sys2Proof.Machine.execLins d a pos wm1 s
  | .lext d a pos wm1 => Sys2Proof.Machine.execLext d a pos wm1 s
  | .lret => Sys2Proof.Machine.execLret s
  | .lfail => Sys2Proof.Machine.execLfail s
  | .lnop => Sys2Proof.Machine.execLnop s
  | .landing => Sys2Proof.Machine.execLanding s
  | .recordStart => Sys2Proof.Machine.execRecordStart s
  | .recordRetirement => Sys2Proof.Machine.execRecordRetirement s
  | .phaseMarker => Sys2Proof.Machine.execPhaseMarker s
  | .phaseCompletion => Sys2Proof.Machine.execPhaseCompletion s
  | .sliceInvocation => Sys2Proof.Machine.execSliceInvocation s
  | .slxReply => Sys2Proof.Machine.execSlxReply s
  | .pageMigration => Sys2Proof.Machine.execPageMigration s
  | .waitRegistration => Sys2Proof.Machine.execWaitRegistration s
  | .barrierCompletion => Sys2Proof.Machine.execBarrierCompletion s
  | .transferPhaseStart => Sys2Proof.Machine.execTransferPhaseStart s
  | .transferPhaseClose => Sys2Proof.Machine.execTransferPhaseClose s
  | .trapEntry => Sys2Proof.Machine.execTrapEntry s
  | .walkerTake => Sys2Proof.Machine.execWalkerTake s
  | .prodNotification => Sys2Proof.Machine.execProdNotification s
  | .dispatch => Sys2Proof.Machine.execDispatch s
  | .unitResume => Sys2Proof.Machine.execUnitResume s
  | .harvestDeal => Sys2Proof.Machine.execHarvestDeal s
  | .unpark => Sys2Proof.Machine.execUnpark s
  | .revocation => Sys2Proof.Machine.execRevocation s
  | .leaseTermEnd => Sys2Proof.Machine.execLeaseTermEnd s
  | .yieldHoldEnd => Sys2Proof.Machine.execYieldHoldEnd s
  | .frameStart => Sys2Proof.Machine.execFrameStart s
  | .windowBoundary => Sys2Proof.Machine.execWindowBoundary s
  | .forcedPreemption => Sys2Proof.Machine.execForcedPreemption s
  | .defEnd => Sys2Proof.Machine.execDefEnd s
  | .budgetTime => Sys2Proof.Machine.execBudgetTime s
  | .intervalBoundary => Sys2Proof.Machine.execIntervalBoundary s
  | .railConfirmed => Sys2Proof.Machine.execRailConfirmed s
  | .dividerSwitch => Sys2Proof.Machine.execDividerSwitch s
  | .regulatorRefill => Sys2Proof.Machine.execRegulatorRefill s
  | .regulatorTrip => Sys2Proof.Machine.execRegulatorTrip s
  | .wayReassignment => Sys2Proof.Machine.execWayReassignment s
  | .pageWorldChange => Sys2Proof.Machine.execPageWorldChange s
  | .pendingZeroFill => Sys2Proof.Machine.execPendingZeroFill s
  | .guestReset => Sys2Proof.Machine.execGuestReset s
  | .guestResetDrain => Sys2Proof.Machine.execGuestResetDrain s
  | .scrubSweep => Sys2Proof.Machine.execScrubSweep s
  | .retentionEntry => Sys2Proof.Machine.execRetentionEntry s
  | .retentionExit => Sys2Proof.Machine.execRetentionExit s
  | .lockstepMismatch => Sys2Proof.Machine.execLockstepMismatch s
  | .eccError => Sys2Proof.Machine.execEccError s
  | .sensorRead => Sys2Proof.Machine.execSensorRead s
  | .railExcursion => Sys2Proof.Machine.execRailExcursion s
  | .railHalt => Sys2Proof.Machine.execRailHalt s
  | .watchdog => Sys2Proof.Machine.execWatchdog s
  | .tsync => Sys2Proof.Machine.execTsync s
  | .tsynclost => Sys2Proof.Machine.execTsynclost s
  | .gtcslew => Sys2Proof.Machine.execGtcslew s
  | .doorbell => Sys2Proof.Machine.execDoorbell s
  | .blobLoad => Sys2Proof.Machine.execBlobLoad s
  | .imageLoad => Sys2Proof.Machine.execImageLoad s
  | .registerWrite => Sys2Proof.Machine.execRegisterWrite s
  | .elog => Sys2Proof.Machine.execElog s
  | .faultclr => Sys2Proof.Machine.execFaultclr s
  | .statusFrame => Sys2Proof.Machine.execStatusFrame s
  | .moduleReset => Sys2Proof.Machine.execModuleReset s
  | .boot => Sys2Proof.Machine.execBoot s
  | .functionLevelReset => Sys2Proof.Machine.execFunctionLevelReset s
  | .lockInterface => Sys2Proof.Machine.execLockInterface s
  | .getDeviceInterfaceReport => Sys2Proof.Machine.execGetDeviceInterfaceReport s
  | .startInterface => Sys2Proof.Machine.execStartInterface s
  | .stopInterface => Sys2Proof.Machine.execStopInterface s
  | .getState => Sys2Proof.Machine.execGetState s
  | .getMeasurements => Sys2Proof.Machine.execGetMeasurements s
  | .keyErasure => Sys2Proof.Machine.execKeyErasure s
  | .hostCompletion => Sys2Proof.Machine.execHostCompletion s
  | .pageRequestResponse => Sys2Proof.Machine.execPageRequestResponse s
  | .pageRequestTimeout => Sys2Proof.Machine.execPageRequestTimeout s
  | .accessArrival => Sys2Proof.Machine.execAccessArrival s
  | .rootControllerMismatch => Sys2Proof.Machine.execRootControllerMismatch s
  | .clockMonitor => Sys2Proof.Machine.execClockMonitor s
  | .keySwitch => Sys2Proof.Machine.execKeySwitch s
  | .configurationRequest => Sys2Proof.Machine.execConfigurationRequest s

end Sys2Proof.Machine
end

