-- ==== Sys2Proof/Machine/Schedule.lean ====
section
/-! DEFINITION. What one step of the machine does: instruction fetch (R115, R116, R422), who may issue or walk now (R333, R371, R372,
R401, R412, R427, R442, R451, R472), the passing of a fabric cycle (R16, R19, R322), and the round of acts that a cycle brings.
The agenda of the state says which agent acts next; where it is empty a fabric cycle passes (log 14). -/

namespace Sys2Proof.Machine

/-! ## Fetch (R115, R422) -/

/-- What a fetch answers. -/
inductive Fetched where
  | trap (t : Trap)
  | stall (s : State)
  | word (s : State) (w : Word)

/-- A line enters the instruction cache of 512 lines; where it is full the line filled first leaves (R115; DESIGN CHOICE, log 92). -/
def State.iFill (s : State) (c : CoreId) (line : Nat) : State :=
  let s := s.touch (line / 32)
  let cells := s.dram.part (line * 128) (line * 128 + 128)
  s.modCore c fun k => { k with icache := (⟨line, cells⟩ :: k.icache).take 512 }

/-- The fetch of a context walks, and a routine holds a line of a table that the walk reads (R282). -/
def State.iHeld (s : State) (i : CtxId) : Bool := s.walkHeld (s.fetchAcc i) (s.ctx i).pc.toNat 1

/-- The fetch of the word at the PC of a context: a miss reads the line from its home slice, which a routine may hold and a regulator
delay (R115, R282, R386, R422). -/
def State.fetch (s : State) (i : CtxId) : Fetched :=
  let pc := (s.ctx i).pc
  if (s.iHeld i) then .stall s
  else match s.fetchPage i with
  | .error t => .trap t
  | .ok t =>
    let pa := wordAddr t pc
    let line := pa / 128
    let pages := [(pc.toNat, t)]
    if (s.iCopy i.core line).isSome then .word (s.fillTlbs i.core pages) (s.wordAt i.core pa)
    else if s.badAt pa then .trap (fetchTrap pc 4 false)
    else if s.lineHeld line then .stall s
    else
      let v := (s.ctx i).vnpu
      let l := s.leafOf v
      match s.admitSeq v (s.asker (.ctx i)) (withFill (i.core.val, 128) (s.mcCharges (some l) line true)) with
      | (false, s) => .stall s
      | (true, s) =>
        let s := ((s.fillTlbs i.core pages).sliceAccess (some l) line false true).iFill i.core line
        .word s (s.wordAt i.core pa)

/-- The cause of a word that does not decode (R74). -/
def DecErrCause (e : DecErr) : Nat :=
  match e with
  | .illegalOp => 0x01
  | .reservedField => 0x02

/-! ## Who may act -/

/-- The cores of a core's cluster run, and guests may issue (R412, R451, R472, R478). -/
def State.awake (s : State) (c : CoreId) : Bool :=
  !s.held && !s.halted && !(s.core c).quarantined && !(s.cluster (clusterOf c)).retention

/-- A revocation of slot H has begun and nothing defers it (R331, R362). -/
def State.revoking (s : State) (c : CoreId) : Bool :=
  (s.core c).revoke && ((s.core c).revokeHard || !s.revokeDeferred c)

/-- TICK and PC of slot O, if a unit is there. -/
def Core.ownerMark (k : Core) : Option (Word × Word) := if k.ctxO.live then some (k.ctxO.tick, k.ctxO.pc) else none

/-- The owner context issued in the present core cycle: it has moved since the cycle began, or its unit is gone (R21). -/
def Core.ownerIssued (k : Core) : Bool := k.ownerAt.isSome && k.ownerAt != k.ownerMark

/-- A context may issue: it is present, its core is awake, no NOP, hold, revocation or forced pre-emption keeps it, and slot H leaves
the cycle to an owner that issued in it (R21, R346). -/
def State.canIssue (s : State) (i : CtxId) : Bool :=
  let c := s.ctx i
  c.live && s.awake i.core && c.pause == 0 && c.holdEnd.isNone
    && (match i.slot with
      | .o => !(s.graceOver c && c.canCut) || s.inPhase i
      | .h => (!s.revoking i.core || s.inService i) && !(s.core i.core).ownerIssued)

/-- CI, CO, MX and VX of a core stand still for a transfer phase: from the issue of the owner's BARXF until the phase closes
(R371, R372). -/
def State.xfStops (s : State) (c : CoreId) : Bool :=
  let i : CtxId := ⟨c, .o⟩
  s.inPhase i || (match (s.ctx i).stage with
    | .arrived b => s.barriers.any fun x => x.id = b && x.xf
    | .closed _ => (match s.peek i with | some (.barxf ..) => true | _ => false)
    | _ => false)

/-- A context waits in a CTXSV for its engines and phases. -/
def State.inCtxsv (s : State) (i : CtxId) : Bool :=
  match (s.ctx i).stage with
  | .closed _ => (match s.peek i with | some (.ctxsv ..) => true | _ => false)
  | _ => false

/-- The bank's engines are being stopped at their cut points: a trap of its context is taken, its unit is cut, or it is in a CTXSV
(R427). -/
def State.cutting (s : State) (i : CtxId) : Bool :=
  let c := s.ctx i
  c.live && ((c.trap.isSome && s.trapReady i) || (i.slot = .o && s.graceOver c && c.canCut) || s.inCtxsv i)

/-! ## What an act does -/

/-- A step: an instruction or event is performed, or the state changes without one, or the machine stops. -/
inductive Plan where
  | run (s : State) (i : Instr)
  | idle (s : State)
  | fault (f : Fault)

/-- The acting context. -/
def State.asCtx (s : State) (i : CtxId) : State :=
  { s with cur := { s.cur with core := i.core, slot := i.slot, ev := { core := i.core, slot := i.slot } } }

/-- The acting engine. -/
def State.asEng (s : State) (e : EngId) : State :=
  { s with cur := { s.cur with core := e.core, eng := e.eng, ev := { core := e.core, eng := e.eng } } }

/-- A word issues at a context: it is not fetched again until it completes (R294, R422). -/
def State.issue (s : State) (i : CtxId) (x : Instr) : State := (s.modCtx i fun c => { c with issued := some x }).asCtx i

/-- A trap is taken, once a fetch that a regulator holds has been let through (R387, R421). -/
def planTrap (s : State) (i : CtxId) : Plan :=
  if !s.requestHeld (s.asker (.ctx i)) then .run (s.asCtx i) .trapEntry
  else match s.fetch i with
    | .stall s => .idle s
    | .word s _ => .run (s.asCtx i) .trapEntry
    | .trap _ => .run (s.asCtx i) .trapEntry

/-- A context's turn: a trap that can be taken, the word that has issued and stalls, or the fetch and checks of the word at its PC
(R74, R75, R421). -/
def planCtx (s : State) (i : CtxId) : Plan :=
  let c := s.ctx i
  if !c.live || c.failing.isSome || !s.awake i.core then .idle s
  else if c.trap.isSome && s.trapReady i then planTrap s i
  else if !s.canIssue i then .idle (s.modCtx i fun c => { c with pause := c.pause - 1 })
  else match c.issued with
    | some x => .run (s.asCtx i) x
    | none => match s.fetch i with
      | .trap t => .idle (s.raise i t)
      | .stall s => .idle s
      | .word s w => match decodeCtl w with
        | .ok x => .run (s.issue i x) x
        | .error e => .idle (s.raise i { cause := DecErrCause e, einfo := w })

/-- An engine's turn: its head starts, walks, or retires. The steps of XF are those of the transfer phase (R371, R372). A head that
must stand gives up the request that a regulator holds for it, and what its steps wrote stands (R211, R386). -/
def planEng (s : State) (e : EngId) : Plan :=
  let x := s.engine e
  match x.queue with
  | [] => .idle s
  | q :: _ =>
    if s.held || s.halted || (s.cluster (clusterOf e.core)).retention then .idle s
    else
      let go := s.stepHeld e q.slot
      let cut := s.cutting ⟨e.core, q.slot⟩ && !x.head.orphan && !go
      let still := decide (e.eng ≠ .xf) && s.xfStops e.core && !go
      let stand := (s.settleHead e).unhold (s.leafOf q.vnpu) (s.asker (.eng e)) fun _ => false
      match x.head.st with
      | .done => .run (s.asEng e) .recordRetirement
      | .walking =>
        if e.eng = .xf || still || (cut && !(decide (e.eng = .mx) && mmaFamily q && x.head.j0 != 0)) then .idle stand
        else match decodeRec e.eng q.record with
          | .ok i => .run (s.asEng e) i
          | .error _ => .idle (s.engFault e 0 { cause := 0x01 })
      | .waiting | .faulted _ =>
        if still || cut || (decide (e.eng = .xf) && s.xfStops e.core) then .idle stand else .run (s.asEng e) .recordStart

/-- Record n of a phase program runs its step of the current phase cycle (R376). -/
def planXf (s : State) (c : CoreId) (n : Nat) : Plan :=
  let gone := s.retiredOf ⟨c, .o⟩
  match (if n < gone then none else ((s.engine ⟨c, .xf⟩).bankQueue .o)[n - gone]?) with
  | none => .idle s
  | some q => match decodeRec .xf q.record with
    | .error _ => .idle s
    | .ok i => .run { s with cur := { s.cur with core := c, slot := .o, eng := .xf, xrec := n } } i

/-- An executor runs its next word; a word that does not decode is not installed (R291), and ends nothing. -/
def planSlice (s : State) (m : SliceId) (x : Fin 4) : Plan :=
  match ((s.slice m).exec x).words with
  | [] => .idle s
  | w :: _ => match decodeSl w with
    | .error _ => .idle s
    | .ok i => .run { s with cur := { s.cur with slice := m, exec := x } } i

/-- The constructor names an event: it has no encoding. -/
def isEvent (i : Instr) : Bool := (encodeFields i).isNone && (recordParts i).isNone && (encodeSl i).isNone

/-- The event of an act. -/
def planEvent (s : State) (i : Instr) (a : EvIn) : Plan :=
  if isEvent i then .run { s with cur := { s.cur with ev := a } } i else .idle s

/-! ## A fabric cycle -/

/-- The GTC and its fraction advance by one step, adjusted by at most 200 ppm (R19, R473). -/
def State.gtcStep (s : State) : State :=
  let d : Int := max (-536870) (min 536870 s.slew)
  let sum := s.frac.toNat + (2684354560 - d).toNat
  { s with frac := BitVec.ofNat 32 sum, gtc := s.gtc + BitVec.ofNat 64 (sum / 2 ^ 32), slew := s.slew - d, cycle := s.cycle + 1 }

/-- Core cycles pass: five quarters of one on the high clock, three on the low, none in retention (R16, R451). -/
def Cluster.advance (x : Cluster) : Cluster :=
  { x with quarters := x.quarters + if x.retention then 0 else if x.clockHigh then 5 else 3 }

/-- The present moment lies in a window of a leaf on a core (R319, R322). -/
def State.inWindowOf (s : State) (c : CoreId) (l : LeafId) : Bool :=
  match s.dueWindow c with
  | some (w, _) => w.owner == some l && !s.suspended l
  | none => false

/-- A GTC tick is charged to the leaf and the top-level partition of every unit that holds an owner context in a window of its leaf (R322,
R384). -/
def State.chargeTick (s : State) : State :=
  allCores.foldl (fun s c =>
    let l := s.ctxLeaf ⟨c, .o⟩
    if !(s.core c).ctxO.live || !s.inWindowOf c l then s
    else
      let t := topOf l
      { (s.modLeaf l fun x => { x with used := x.used + 1 }) with topUsed := s.topUsed.set t (s.topUsed.get t + 1) }) s

/-- The MUXSEL writes of earlier phase cycles are performed (R376). -/
def State.beatsBefore (s : State) : State :=
  s.xphases.foldl (fun s x => match x.start with
    | some st => if st < s.cycle then s.performBeats x (s.cycle - st - 1) else s
    | none => s) s

/-- The records of the programs that run retire as their last steps are done (R157, R377). -/
def State.finishRecords (s : State) : State :=
  s.xphases.foldl (fun s x => match x.start with
    | some st => if st < s.cycle then x.members.foldl (fun s i => s.finishRecord x i (s.cycle - st)) s else s
    | none => s) s

/-! ## The round of a cycle -/

/-- The events of time that are due. -/
def State.timed (s : State) : List Act :=
  let now := s.gtc.toNat
  (if s.frameNs ≠ 0 && now % s.frameNs == 0 then [.event .frameStart {}] else [])
  ++ (if now % 125 = 0 && !s.regs.isEmpty then [.event .regulatorRefill {}] else [])
  ++ (if now % 100000 = 0 then (List.finRange 72).map fun m => .event .wayReassignment { slice := m } else [])
  ++ ((s.regs.filter fun r => !r.held.isEmpty && !r.tripped && (s.leafContract r.leaf).regTrap).map fun r =>
      .event .regulatorTrip { leaf := r.leaf, point := Fin.ofNat 113 r.point })
  ++ ((List.finRange 64).filter fun l => (s.leafContract l).budget ≠ 0 && !(s.leaf l).reached
        && decide ((s.leafContract l).budget ≤ (s.leaf l).used)
        || (s.topContract (topOf l)).budget ≠ 0 && !s.topReached.getLsbD (topOf l)
        && decide ((s.topContract (topOf l)).budget ≤ s.topUsed.get (topOf l))).map fun l => .event .budgetTime { leaf := l }

/-- The events of power and clocks that are due (R16, R17, R451, R473). -/
def State.powerRound (s : State) : List Act :=
  (if s.intervalDue then [.event .intervalBoundary { n := Config.powerEstimate s.free }] else [])
  ++ (List.finRange 8).flatMap fun k =>
    let x := s.cluster k
    (match x.moving with
      | some (high, t) => if t + Config.railMoveBound ≤ s.cycle then
          [.event .railConfirmed { cluster := k }] ++ (if high && s.cycle % 4 = 0 then [.event .dividerSwitch { cluster := k }] else [])
        else []
      | none => if s.cycle % 4 = 0 && x.railHigh && !x.clockHigh then [.event .dividerSwitch { cluster := k }] else [])
    ++ (if x.retention then (if s.clusterQuiet k && x.waking.isNone then [] else [.event .retentionExit { cluster := k }])
      else match x.quietAt with
        | some t => if t + 20000 ≤ s.gtc.toNat then [.event .retentionEntry { cluster := k }] else []
        | none => [])

/-- The events of a core that are due. -/
def State.coreRound (s : State) (c : CoreId) : List Act :=
  let k := s.core c
  let e : EvIn := { core := c }
  let boundary := match s.dueWindow c with
    | some (_, t) => decide (k.windowAt ≠ some t)
    | none => false
  (if boundary then (if (s.cluster (clusterOf c)).retention then [.event .retentionExit { cluster := clusterOf c }] else [])
    ++ [.event .windowBoundary e] else [])
  ++ (if k.ctxO.live && s.graceOver k.ctxO then [.event .forcedPreemption e] else [])
  ++ (if k.ctxO.defer then [.event .defEnd e] else [])
  ++ (if k.ctxO.holdEnd.isSome then [.event .yieldHoldEnd e] else [])
  ++ (if k.revoke then [.event .revocation e] else [])
  ++ ([Eng.ci, .co, .mx, .vx].filter fun x => k.leased x).map fun x => .event .leaseTermEnd { e with eng := x }

/-- The records of the programs that run, for the current phase cycle (R376). -/
def State.phaseRound (s : State) : List Act :=
  s.xphases.flatMap fun x => match x.start with
    | none => []
    | some st =>
      if s.cycle < st then []
      else (x.members.flatMap fun i => (List.range ((s.program i).getD []).length).map fun n => .xf i.core (s.retiredOf i + n))
        ++ (if st + x.p + 8 ≤ s.cycle then [.event .transferPhaseClose { n := x.id }] else [])

/-- Barriers that every member has reached. -/
def State.meetRound (s : State) : List Act :=
  (s.barriers.filter Barrier.full).map fun b =>
    if b.xf then .event .transferPhaseStart { n := b.id } else .event .barrierCompletion { n := b.id }

/-- The messages in flight arrive, in the order they were sent, and phases complete. -/
def State.netRound (s : State) : List Act :=
  (s.net.map fun m => match m.body with
    | .marker _ _ => .event .phaseMarker { n := m.id }
    | .reply _ _ => .event .slxReply { n := m.id }
    | .write .. => .event .accessArrival { n := m.id }
    | .hostWrite .. => .event .accessArrival { n := m.id }
    | .invoke _ => .event .accessArrival { n := m.id })
  ++ (if s.phasesQuiet .root then [] else [.event .phaseCompletion { src := .root }])
  ++ allCores.flatMap fun c =>
    (([⟨c, .o⟩, ⟨c, .h⟩] : List CtxId).map Src.ctx ++ engs.map fun e => Src.eng ⟨c, e⟩).filterMap fun r =>
      if s.phasesQuiet r then none else some (.event .phaseCompletion { src := r })

/-- The slices take invocations and run one word of each executor (R280, R281). -/
def State.sliceRound (s : State) : List Act :=
  (List.finRange 72).flatMap fun m =>
    let x := s.slice m
    (if x.queue.isEmpty then [] else [.event .sliceInvocation { slice := m }])
    ++ ((List.finRange 4).filter fun n => ((x.exec n).inv).isSome).map fun n => .slice m n

/-- The agents of a core act, once for each core cycle that passed. -/
def State.agentRound (s before : State) (c : CoreId) : List Act :=
  let k := s.core c
  let one := ([Slot.o, .h].filter fun t => (k.ctx t).live).map (fun t => Act.ctx ⟨c, t⟩)
    ++ (engs.filter fun e => !(k.engine e).queue.isEmpty).map fun e => Act.eng ⟨c, e⟩
  let one := if k.ctxH.live then Act.coreCycle c :: one else one
  (List.replicate (s.coreCycle c - before.coreCycle c) one).flatten

/-- The walker reads, takes, resumes and deals (R305-R314, R323). -/
def State.walkerRound (s : State) : List Act :=
  ((List.finRange 64).flatMap fun v =>
    if !(s.contract v).enable then []
    else (List.finRange 8).flatMap fun q =>
      (if s.prodDue.contains (v, q) || ((s.vnpu v).queue q).unpublished.isSome then [.event .prodNotification { vnpu := v, queue := q }] else [])
      ++ if ((s.vnpu v).queue q).takeable then [.event .walkerTake { vnpu := v, queue := q, flag := true }] else [])
  ++ allCores.flatMap fun c =>
    let k := s.core c
    (if (s.windowOwner c).isSome && !k.ctxO.live then
      (if k.saved.isEmpty then [] else [.event .unitResume { core := c, flag := true }]) ++ [.event .dispatch { core := c }] else [])
    ++ (if (s.harvestFree c).isSome then [.event .unpark { core := c }, .event .harvestDeal { core := c }] else [])

/-- Resets, key slots, the validation of a blob, and page requests that wait for time. -/
def State.deviceRound (s : State) : List Act :=
  ((List.finRange 64).flatMap fun v =>
    (if (s.vnpu v).busy then [.event .guestResetDrain { vnpu := v }] else [])
    ++ (if (s.vnpu v).oldKey.isSome then [.event .keyErasure { vnpu := v }] else []))
  ++ (if s.validating.isSome then [.event .blobLoad { flag := true }] else [])
  ++ (if s.contracts.tsync ≠ 0 && !s.tsLost && decide (s.tsLast + 3 * (s.contracts.tsync * 1000000) ≤ s.gtc.toNat) then
    [.event .tsynclost {}] else [])
  ++ (if s.halted then [] else (s.railsOut.filter fun x => s.longExcursion x.1).map fun x => .event .railHalt { rail := x.1 })
  ++ (if s.spiAt + 100000 ≤ s.gtc.toNat then [.event .watchdog {}] else [])
  ++ (s.pageReqs.filter fun p => p.since + 100000000 ≤ s.gtc.toNat).map fun p => .event .pageRequestTimeout { n := p.index }

/-- The round of a fabric cycle. -/
def State.round (s before : State) : List Act :=
  (if s.gtc = before.gtc then [] else s.timed ++ s.deviceRound)
  ++ s.powerRound ++ allCores.flatMap s.coreRound ++ s.meetRound ++ s.phaseRound ++ s.netRound
  ++ (if s.wftQueue.isEmpty then [] else [.event .waitRegistration {}])
  ++ s.sliceRound ++ allCores.flatMap (s.agentRound before) ++ s.walkerRound

/-- A fabric cycle passes, and brings its round. -/
def State.tick (s : State) : State :=
  let t := s.gtcStep
  let t := { t with clusters := t.clusters.map Cluster.advance }
  let t := if t.gtc = s.gtc then t else t.chargeTick
  let t := allCores.foldl State.endFailures t.noteQuiet.beatsBefore.finishRecords
  { t with agenda := t.agenda ++ t.round s, free := t.free + 1 }

/-! ## Acts -/

/-- The engine that acted last is within an aligned 64-byte unit of its tensor: nothing comes between the steps of a unit (R211). -/
def State.midUnit (s : State) : Bool :=
  let h := (s.engine s.myEng).head
  h.unit.isSome && decide (h.st = .walking) && (match planEng s s.myEng with | .run .. => true | _ => false)

/-- The act that comes next, and the state without it. -/
def State.nextAct (s : State) : Act × State :=
  if s.midUnit then (.eng s.myEng, s)
  else match s.agenda with
    | [] => (.clock, s)
    | a :: r => (a, { s with agenda := r })

/-- A physical range lies in DRAM (R25). -/
def inDram (pa n : Nat) : Bool := decide (pa + n ≤ 2 ^ 38)

/-- A translation no longer is what the tables say: an entry that a change of stage 2 concerns (R401). -/
def State.staleEntry (s : State) (e : TlbEntry) : Bool :=
  match s.walkPage e.vnpu (e.vpage * 4096) with
  | .ok t => t.base ≠ e
  | .error _ => true

/-- Bytes written by the root controller from a physical address on, line by line, each a counted write that fills a way no leaf holds
(R226, R393). From a line on that a routine holds, or that finds three phases open, the rest is tried again after a fabric cycle (R232,
R282). -/
def State.rootLines : Nat → State → Nat → List Byte → State
  | 0, s, _, _ => s
  | n + 1, s, pa, bs =>
    let k := min bs.length (128 - pa % 128)
    if bs.isEmpty then s
    else if !s.rootMay (pa / 128) then { s with agenda := s.agenda ++ [.clock, .rootStore pa bs] }
    else State.rootLines n ((s.dstore pa (bs.take k)).rootWrote (pa / 128)) (pa + k) (bs.drop k)

/-- The root controller writes bytes; translations that they change go (R401). -/
def State.rootStore (s : State) (pa : Nat) (bs : List Byte) : State :=
  let t := State.rootLines (bs.length + 1) s pa bs
  t.dropTlb t.staleEntry

/-- A protected DRAM range is set: its tag area, 1/32 of its size, is of world 0 (R403). -/
def State.setRange (s : State) (page pages tags : Nat) : State :=
  (List.range ((pages + 31) / 32)).foldl (fun s i => s.passPage (tags + i) 0) { s with ranges := s.ranges ++ [(page, pages, tags)] }

/-- A line stands in its slice with writes that DRAM does not have. -/
def State.dirtyLine (s : State) (line : Nat) : Bool := (s.slice (homeSlice line)).resident.any fun r => r.line = line && r.dirty

/-- The key of a world is drawn anew: the versions counted under the old one are forgotten, and the lines stored under it fail their
check, but for those that are yet to be written back (R404, R407, R410). -/
def State.newKey (s : State) (w : BitVec 8) : State :=
  let old := (s.lineTags.map (·.1)).filter fun l => s.pageWorld (l / 32) = w && !s.dirtyLine l && !s.badLines.contains l
  { s with highWater := s.highWater.filter fun e => e.1 ≠ w, badLines := old ++ s.badLines }

/-- What an act does. -/
def prepare (s : State) (a : Act) : Plan :=
  match a with
  | .clock => .idle s.tick
  | .coreCycle c => .idle (s.modCore c fun k => { k with ownerAt := k.ownerMark })
  | .ctx i => planCtx s i
  | .eng e => planEng s e
  | .xf c n => planXf s c n
  | .slice m x => planSlice s m x
  | .event i e => planEvent s i e
  | .rootStore pa bs => if inDram pa bs.length then .idle (s.rootStore pa bs) else .fault (.noSuchAddress pa)
  | .rootOwner page w => if page < 2 ^ 26 then .idle (s.passPage page w) else .fault (.noSuchAddress (page * 4096))
  | .rootStage2 v pa => .idle ((s.modVnpu v fun x => { x with s2root := pa }).dropTlb fun e => e.vnpu = v)
  | .rootRange page pages tags =>
    if page + pages ≤ 2 ^ 26 ∧ tags + (pages + 31) / 32 ≤ 2 ^ 26 then .idle (s.setRange page pages tags) else .fault (.noSuchAddress (page * 4096))
  | .rootKey w => .idle (s.newKey w)
  | .hostStore addr bs => .idle { s with host := s.host.write addr bs }
  | .hostGrant v page dest => .idle (s.modVnpu v fun x => { x with granted := putKey page dest x.granted })

end Sys2Proof.Machine
end

