-- ==== Sys2Proof/Machine/Step.lean ====
section
/-! DEFINITION. One step of the module, and a state in which a given instruction is the next to run. -/

namespace Sys2Proof.Machine

/-- One step: the act that the agenda names next; where it names an instruction or an event, its meaning runs. -/
def step (s : State) : Host.Outcome State Fault Refusal :=
  match prepare s.nextAct.2 s.nextAct.1 with
  | .run t i => exec i t
  | .idle t => .next t
  | .fault f => .fault f

/-! ## An instruction placed to run next (log 13) -/

/-- The PC at which a placed control word stands. -/
def placePc : Nat := 0x10080

/-- The level-0 and level-1 stage-2 tables of the placement. -/
def placeT0 : Nat := 0x100000
def placeT1 : Nat := 0x101000

/-- The leaf contract of the placement: bandwidth enough for one fetch. -/
def placeLeaf : PartContract := { rateCore := 1024, depthCore := 1024, rateMc := 1024, depthMc := 1024, rateHost := 1024, depthHost := 1024 }

/-- Virtual NPU 0 serves world 2 in leaf 0. -/
def State.placeContract (s : State) : State :=
  { s with contracts := { s.contracts with
      leaves := s.contracts.leaves.set 0 placeLeaf
      vnpus := s.contracts.vnpus.set 0 { (s.contracts.vnpus.get 0) with enable := true, leaf := 0, world := 2 } }
           regs := [] }

/-- The page of the PC and the two tables lie in memory: stage 2 maps the first GiB to itself, writable and executable. -/
def State.placeMemory (s : State) (w : Nat) : State :=
  let s := ((s.touch 16).touch 256).touch 257
  let d := s.dram.write placePc (leBytes 8 w)
  let d := d.write placeT0 (leBytes 8 (placeT1 + 1))
  let d := d.write placeT1 (leBytes 8 0xF)
  { (s.modVnpu 0 fun x => { x with s2root := placeT0, s1root := 0 }) with dram := d, owner := putKey 16 2 s.owner }

/-- The context of slot O of core 0 stands at the PC of the placement, with nothing pending. -/
def State.placeCtx (s : State) : State :=
  s.modCore 0 fun k => { k with
    icache := [], tlb := [], quarantined := false, revoke := false
    ctxO := { k.ctxO with
      live := true, pc := BitVec.ofNat 64 placePc, vnpu := 0, leaf := 0, trap := none, stage := .fresh, blocked := none, inWfe := false
      issued := none, holdEnd := none, pause := 0, preq := false, graceEnd := none } }

/-- No unit of 64 bytes is under way at the engine that acted last (R211). -/
def State.placeFree (s : State) : State :=
  State.modEngine { s with cur := {} } ⟨0, .ci⟩ fun x => { x with head := { x.head with unit := none } }

/-- The module runs, and core 0 is awake. -/
def State.placeAwake (s : State) : State :=
  { s with held := false, halted := false, clusters := s.clusters.set 0 { (s.clusters.get 0) with retention := false } }

/-- A slice word is the next of executor 0 of slice 0. -/
def State.placeSlice (s : State) (w : Nat) : State :=
  { (s.placeFree.modSlice 0 fun x => x.setExec 0 { words := [BitVec.ofNat 32 w] }) with agenda := [.slice 0 0] }

/-- A control word is the next of slot O of core 0. -/
def State.placeWord (s : State) (w : Nat) : State :=
  { (((s.placeFree.placeContract.placeMemory w).placeCtx).placeAwake) with agenda := [.ctx ⟨0, .o⟩] }

/-- A record is the head of VX of core 0, at its first step. -/
def State.placeRecord (s : State) (w : Nat) : State :=
  let x : Engine := { queue := [⟨BitVec.ofNat 512 w, .o, 0, 0, true, 0, none, false⟩], head := { st := .walking } }
  { ((s.placeFree.modCore 0 fun k => k.setEngine .vx x).placeCtx.placeAwake) with agenda := [.eng ⟨0, .vx⟩] }

/-- The state in which the instruction of `nbits` bits is the next to run: a slice word of 32 bits, a control word of 64, or a
record. -/
def State.withFetchWord (s : State) (nbits w : Nat) : State :=
  if nbits ≤ 32 then s.placeSlice w else if nbits ≤ 64 then s.placeWord w else s.placeRecord w

end Sys2Proof.Machine
end

