-- ==== Sys2Proof/Safety.lean ====
section
/-! DEFINITION. What counts as a safe state and a safe run: the canonical form of the memories, the alignment of the program
counters, and the reach of the root controller (R25, R112, R342). -/

namespace Sys2Proof.Machine

/-- DRAM and host memory are in their canonical form. -/
def State.memoriesOk (s : State) : Bool := s.dram.wf && s.host.wf

/-- Every local store is in its canonical form. -/
def State.storesOk (s : State) : Bool := s.cores.toList.all fun k => k.store.wf

/-- The PC of a context is the address of a control word (R342). -/
def Ctx.pcAligned (c : Ctx) : Bool := c.pc.toNat % 8 == 0

/-- The agenda holds no act that reaches past DRAM: no step of this state stops with a fault. -/
def Act.inReach : Act → Bool
  | .rootStore pa bs => inDram pa bs.length
  | .rootOwner page _ => decide (page < 2 ^ 26)
  | .clock => true
  | .coreCycle _ => true
  | .ctx _ => true
  | .eng _ => true
  | .xf _ _ => true
  | .slice _ _ => true
  | .event _ _ => true
  | .rootStage2 _ _ => true
  | .rootRange page pages tags => decide (page + pages ≤ 2 ^ 26) && decide (tags + (pages + 31) / 32 ≤ 2 ^ 26)
  | .rootKey _ => true
  | .hostStore _ _ => true
  | .hostGrant _ _ _ => true

/-- The agenda is in reach. -/
def State.agendaOk (s : State) : Bool := s.agenda.all Act.inReach

/-! ## The terms of the claims: an instruction that runs, and what it leaves unchanged -/

/-- A control word takes its effect: its predicate holds, and no register it reads is read early under PENDTRAP (R31, R126). -/
def State.runs (s : State) (p : Pred) (ops : List Nat) : Bool :=
  let c := s.ctx s.me
  (c.early [kNum p.kp]).isNone && c.holds p && (c.early ops).isNone

/-- The predicate, the limit of R73 and the operands in the order of R126 of every control word. -/
def ctlParts : Instr → Option (Pred × Limit × List Nat)
  | .add p _ a b => some (p, .none, [gNum a, gNum b])
  | .sub p _ a b => some (p, .none, [gNum a, gNum b])
  | .mul p _ a b => some (p, .none, [gNum a, gNum b])
  | .mulh p _ a b => some (p, .none, [gNum a, gNum b])
  | .mulhu p _ a b => some (p, .none, [gNum a, gNum b])
  | .div p _ a b => some (p, .none, [gNum a, gNum b])
  | .divu p _ a b => some (p, .none, [gNum a, gNum b])
  | .rem p _ a b => some (p, .none, [gNum a, gNum b])
  | .remu p _ a b => some (p, .none, [gNum a, gNum b])
  | .and p _ a b => some (p, .none, [gNum a, gNum b])
  | .or p _ a b => some (p, .none, [gNum a, gNum b])
  | .xor p _ a b => some (p, .none, [gNum a, gNum b])
  | .andn p _ a b => some (p, .none, [gNum a, gNum b])
  | .shl p _ a b => some (p, .none, [gNum a, gNum b])
  | .shr p _ a b => some (p, .none, [gNum a, gNum b])
  | .sra p _ a b => some (p, .none, [gNum a, gNum b])
  | .rol p _ a b => some (p, .none, [gNum a, gNum b])
  | .min p _ a b => some (p, .none, [gNum a, gNum b])
  | .max p _ a b => some (p, .none, [gNum a, gNum b])
  | .minu p _ a b => some (p, .none, [gNum a, gNum b])
  | .maxu p _ a b => some (p, .none, [gNum a, gNum b])
  | .clz p _ a => some (p, .none, [gNum a])
  | .ctz p _ a => some (p, .none, [gNum a])
  | .popc p _ a => some (p, .none, [gNum a])
  | .brev p _ a => some (p, .none, [gNum a])
  | .sext p _ a b => some (p, .none, [gNum a, gNum b])
  | .zext p _ a b => some (p, .none, [gNum a, gNum b])
  | .sel p _ a b c => some (p, .none, [gNum a, gNum b, gNum c])
  | .lea p _ a b c => some (p, .none, [gNum a, gNum b, gNum c])
  | .addi p _ a _ => some (p, .none, [gNum a])
  | .andi p _ a _ => some (p, .none, [gNum a])
  | .ori p _ a _ => some (p, .none, [gNum a])
  | .xori p _ a _ => some (p, .none, [gNum a])
  | .shli p _ a _ => some (p, .none, [gNum a])
  | .shri p _ a _ => some (p, .none, [gNum a])
  | .srai p _ a _ => some (p, .none, [gNum a])
  | .movi p _ _ => some (p, .none, [])
  | .movhi p _ _ => some (p, .none, [])
  | .muli p _ a _ => some (p, .none, [gNum a])
  | .kget p _ a => some (p, .none, [kNum a])
  | .cmp p _ _ a b => some (p, .none, [gNum a, gNum b])
  | .cmpi p _ _ a _ => some (p, .none, [gNum a])
  | .fcmp p _ _ a b => some (p, .none, [gNum a, gNum b])
  | .kand p _ a b => some (p, .none, [kNum a, kNum b])
  | .kor p _ a b => some (p, .none, [kNum a, kNum b])
  | .kxor p _ a b => some (p, .none, [kNum a, kNum b])
  | .knot p _ a => some (p, .none, [kNum a])
  | .kset p _ a => some (p, .none, [gNum a])
  | .fadd p _ a b => some (p, .none, [gNum a, gNum b])
  | .fsub p _ a b => some (p, .none, [gNum a, gNum b])
  | .fmul p _ a b => some (p, .none, [gNum a, gNum b])
  | .ffma p _ a b c => some (p, .none, [gNum a, gNum b, gNum c])
  | .fmin p _ a b => some (p, .none, [gNum a, gNum b])
  | .fmax p _ a b => some (p, .none, [gNum a, gNum b])
  | .fabs p _ a => some (p, .none, [gNum a])
  | .fneg p _ a => some (p, .none, [gNum a])
  | .fcvt p _ a _ _ => some (p, .none, [gNum a])
  | .fexp2 p _ a => some (p, .none, [gNum a])
  | .flog2 p _ a => some (p, .none, [gNum a])
  | .frcp p _ a => some (p, .none, [gNum a])
  | .frsq p _ a => some (p, .none, [gNum a])
  | .fsqrt p _ a => some (p, .none, [gNum a])
  | .ld p _ m _ => some (p, .none, (addrRegs m.base m.mode))
  | .st p d m => some (p, .none, (addrRegs m.base m.mode ++ [gNum d]))
  | .ldp p _ a mode _ _ => some (p, .none, (addrRegs a mode))
  | .stp p d a mode _ => some (p, .none, (addrRegs a mode ++ [gNum d]))
  | .ldAcq p _ m _ _ => some (p, .none, (addrRegs m.base m.mode))
  | .stRel p d m _ => some (p, .none, (addrRegs m.base m.mode ++ [gNum d]))
  | .pf p a mode _ => some (p, .none, (addrRegs a mode))
  | .fence p _ _ => some (p, .none, [])
  | .slx p _ _ a b x _ => some (p, .none, [gNum a, gNum b, gNum x])
  | .slxn p _ a b x _ => some (p, .none, [gNum a, gNum b, gNum x])
  | .rtinst p _ a b => some (p, .supervisor, [gNum a, gNum b])
  | .rtmap p _ a b => some (p, .supervisor, [gNum a, gNum b])
  | .eqpop p _ => some (p, .none, [])
  | .wfe p => some (p, .none, [])
  | .br p _ => some (p, .none, [])
  | .bcq p _ => some (p, .none, [])
  | .jr p a => some (p, .none, [gNum a])
  | .call p _ => some (p, .none, [])
  | .callr p a => some (p, .none, [gNum a])
  | .ret p => some (p, .none, [63])
  | .loop p _ a _ => some (p, .none, [gNum a])
  | .nop p _ => some (p, .none, [])
  | .trap p _ => some (p, .none, [])
  | .yield p => some (p, .none, [])
  | .endUnit p => some (p, .none, [])
  | .rbld p a _ _ => some (p, .none, [gNum a])
  | .rbst p a _ _ => some (p, .none, [gNum a])
  | .rbset p _ a _ => some (p, .none, [gNum a])
  | .rbget p _ _ _ => some (p, .none, [])
  | .enq p _ _ => some (p, .none, [])
  | .tkpost p _ => some (p, .none, [])
  | .tkwait p _ => some (p, .none, [])
  | .tkpoll p _ _ => some (p, .none, [])
  | .seminc p _ a => some (p, .none, [gNum a])
  | .semwait p _ a => some (p, .none, [gNum a])
  | .semmap p _ a => some (p, .supervisor, [gNum a])
  | .qdrain p _ => some (p, .none, [])
  | .accver p _ _ => some (p, .none, [])
  | .woreg p _ a => some (p, .none, [gNum a])
  | .wodereg p a => some (p, .none, [gNum a])
  | .wohold p _ a => some (p, .none, [gNum a])
  | .worel p a => some (p, .none, [gNum a])
  | .wowait p a => some (p, .none, [gNum a])
  | .wopoll p _ a => some (p, .none, [gNum a])
  | .bar p _ => some (p, .none, [])
  | .barxf p _ => some (p, .none, [])
  | .lease p _ _ => some (p, .slotH, [])
  | .leaserel p _ => some (p, .slotH, [])
  | .lend p a => some (p, .slotO, [gNum a])
  | .recall p => some (p, .slotO, [])
  | .rsmark p => some (p, .none, [])
  | .gtcrd p _ => some (p, .none, [])
  | .rng p _ a b => some (p, .none, [gNum a, gNum b])
  | .mfs p _ n => some (p, (SRegRead n), [])
  | .mts p n a => some (p, (SRegWrite n), [gNum a])
  | .evecWrite p a => some (p, .supervisor, [gNum a])
  | .ctxsaveWrite p a => some (p, .supervisor, [gNum a])
  | .eret p => some (p, .supervisor, [])
  | .opbnd p => some (p, .slotO, [])
  | .defer p => some (p, .supervisor, [])
  | .undefer p => some (p, .supervisor, [])
  | .clrsig p _ => some (p, .supervisor, [])
  | .ctxsv p a => some (p, .supervisor, [gNum a])
  | .ctxld p a => some (p, .supervisor, [gNum a])
  | .parkst p _ => some (p, .supervisor, [])
  | .pend p _ => some (p, .none, [])
  | .tinst p => some (p, .none, [1, 2])
  | .tvbump p => some (p, .none, [1])
  | .tremove p => some (p, .none, [1])
  | .tquery p => some (p, .none, [1])
  | .s1root p => some (p, .none, [1])
  | .tlbinv p => some (p, .none, [1, 2])
  | .regquery p => some (p, .none, [1])
  | .partquery p => some (p, .none, [])
  | .greset p => some (p, .none, [1])
  | .scrubreq p => some (p, .none, [1, 2, 3])
  | .recquery p => some (p, .none, [])
  | .hvc p _ => some (p, .none, [])
  | _ => none

/-- A control word that passes the check of its limit and whose predicate holds runs. -/
def State.issues (s : State) (i : Instr) : Bool :=
  match ctlParts i with
  | some (p, l, ops) => l.ok (s.ctx s.me) s.me.slot && s.runs p ops
  | none => false

/-- A context without the parts that a completing word moves in every case: registers, flags that land, PC, tick, loops, and what it kept
of the word while it stalled. -/
def Ctx.frame (c : Ctx) : Ctx :=
  { c with
    g := Vector.replicate 64 0, k := 0, pc := 0, tick := 0, last := 0, pause := 0, fsr := 0, tickFlags := 0, loop0 := {}, loop1 := {}
    landings := [], stps := [], stage := .fresh, issued := none, released := false, blocked := none, inWfe := false, inWowait := false }

/-- A core without those parts of a context. -/
def Core.frame (k : Core) (sl : Slot) : Core := k.setCtx sl (k.ctx sl).frame

/-- The module without those parts of a context and without the wait-for table. -/
def State.frame (s : State) (i : CtxId) : State := { (s.modCore i.core fun k => k.frame i.slot) with wft := [], wftQueue := [] }

/-- Every landing to come names a register, and none of them register number `n` (R126). -/
def Ctx.noLanding (c : Ctx) (n : Nat) : Prop := ∀ l ∈ c.landings, l.reg < 72 ∧ l.reg ≠ n

/-- What a word that stores nothing leaves unchanged, but for what `f` erases: every register but `dst` and those at which
an earlier result lands, every system register and queue of its context, every byte of the local stores and of memory, and the
rest of the module. -/
def FrameBut (f : State → State) (s t : State) (dst : List Nat) : Prop :=
  (f t).frame s.me = (f s).frame s.me
    ∧ (∀ r : Reg, gNum r ∉ dst → (s.ctx s.me).noLanding (gNum r) → (t.ctx s.me).rd r = (s.ctx s.me).rd r)
    ∧ (∀ r : KReg, kNum r ∉ dst → (s.ctx s.me).noLanding (kNum r) → (t.ctx s.me).rdk r = (s.ctx s.me).rdk r)
    ∧ ((s.ctx s.me).landings = [] → (t.ctx s.me).fsr = (s.ctx s.me).fsr)
    ∧ (∀ c a, (t.core c).store.get a = (s.core c).store.get a)
    ∧ (∀ a, t.dbyte a = s.dbyte a) ∧ (∀ a, t.host.get a = s.host.get a)
    ∧ ((s.ctx s.me).blocked = none → t.wft = s.wft ∧ t.wftQueue = s.wftQueue)

/-- What a word on registers alone leaves unchanged. -/
def RegFrame (s t : State) (dst : List Nat) : Prop := FrameBut id s t dst

/-- A safe run of `n` steps: no step stops, and every state keeps its memories in canonical form. -/
def safeRun : Nat → State → Bool
  | 0, s => s.memoriesOk
  | n + 1, s => s.memoriesOk && match step s with
    | .next t => safeRun n t
    | .fault _ => false
    | .refused _ => false

end Sys2Proof.Machine
end

