-- ==== Sys2Proof/Certificates/Slice0/Obligations.lean ====
section
/-! DEFINITION. The statements for the provers: Obligations.<Name>, with the tables and conditions they are stated in. -/

namespace Sys2Proof.Machine

/-- Destination, value and exposed latency of every instruction whose whole effect is one result on a g register
(R118, R132-R136, R139, R143, R146, R147, R251, R433, R438, R445, R457). -/
def gResult (s : State) : Instr → Option (Reg × Word × Nat)
  | .add _ d a b => some (d, (s.ctx s.me).rd a + (s.ctx s.me).rd b, 0)
  | .sub _ d a b => some (d, (s.ctx s.me).rd a - (s.ctx s.me).rd b, 0)
  | .mul _ d a b => some (d, (s.ctx s.me).rd a * (s.ctx s.me).rd b, 2)
  | .mulh _ d a b => some (d, BitVec.ofInt 64 (((s.ctx s.me).rd a).toInt * ((s.ctx s.me).rd b).toInt / 2 ^ 64), 2)
  | .mulhu _ d a b => some (d, BitVec.ofNat 64 (((s.ctx s.me).rd a).toNat * ((s.ctx s.me).rd b).toNat / 2 ^ 64), 2)
  | .div _ d a b => some (d, if (s.ctx s.me).rd b = 0 then BitVec.allOnes 64 else ((s.ctx s.me).rd a).sdiv ((s.ctx s.me).rd b), 10)
  | .divu _ d a b => some (d, if (s.ctx s.me).rd b = 0 then BitVec.allOnes 64 else (s.ctx s.me).rd a / (s.ctx s.me).rd b, 10)
  | .rem _ d a b => some (d, if (s.ctx s.me).rd b = 0 then (s.ctx s.me).rd a else ((s.ctx s.me).rd a).srem ((s.ctx s.me).rd b), 10)
  | .remu _ d a b => some (d, if (s.ctx s.me).rd b = 0 then (s.ctx s.me).rd a else (s.ctx s.me).rd a % (s.ctx s.me).rd b, 10)
  | .and _ d a b => some (d, (s.ctx s.me).rd a &&& (s.ctx s.me).rd b, 0)
  | .or _ d a b => some (d, (s.ctx s.me).rd a ||| (s.ctx s.me).rd b, 0)
  | .xor _ d a b => some (d, (s.ctx s.me).rd a ^^^ (s.ctx s.me).rd b, 0)
  | .andn _ d a b => some (d, (s.ctx s.me).rd a &&& ~~~(s.ctx s.me).rd b, 0)
  | .shl _ d a b => some (d, (s.ctx s.me).rd a <<< (((s.ctx s.me).rd b).toNat % 64), 0)
  | .shr _ d a b => some (d, (s.ctx s.me).rd a >>> (((s.ctx s.me).rd b).toNat % 64), 0)
  | .sra _ d a b => some (d, ((s.ctx s.me).rd a).sshiftRight (((s.ctx s.me).rd b).toNat % 64), 0)
  | .rol _ d a b => some (d, ((s.ctx s.me).rd a).rotateLeft (((s.ctx s.me).rd b).toNat % 64), 0)
  | .min _ d a b => some (d, BitVec.ofInt 64 (min ((s.ctx s.me).rd a).toInt ((s.ctx s.me).rd b).toInt), 0)
  | .max _ d a b => some (d, BitVec.ofInt 64 (max ((s.ctx s.me).rd a).toInt ((s.ctx s.me).rd b).toInt), 0)
  | .minu _ d a b => some (d, BitVec.ofNat 64 (min ((s.ctx s.me).rd a).toNat ((s.ctx s.me).rd b).toNat), 0)
  | .maxu _ d a b => some (d, BitVec.ofNat 64 (max ((s.ctx s.me).rd a).toNat ((s.ctx s.me).rd b).toNat), 0)
  | .clz _ d a => some (d, BitVec.ofNat 64 (clz ((s.ctx s.me).rd a)), 0)
  | .ctz _ d a => some (d, BitVec.ofNat 64 (ctz ((s.ctx s.me).rd a)), 0)
  | .popc _ d a => some (d, BitVec.ofNat 64 (popc ((s.ctx s.me).rd a)), 0)
  | .brev _ d a => some (d, brev ((s.ctx s.me).rd a), 0)
  | .sext _ d a b => some (d, sextAt ((s.ctx s.me).rd a) (((s.ctx s.me).rd b).toNat % 64), 0)
  | .zext _ d a b => some (d, zextAt ((s.ctx s.me).rd a) (((s.ctx s.me).rd b).toNat % 64), 0)
  | .sel _ d a b c => some (d, if (s.ctx s.me).rd c ≠ 0 then (s.ctx s.me).rd a else (s.ctx s.me).rd b, 0)
  | .lea _ d a b c => some (d, (s.ctx s.me).rd a + ((s.ctx s.me).rd b <<< (((s.ctx s.me).rd c).toNat % 64)), 0)
  | .addi _ d a i => some (d, (s.ctx s.me).rd a + i.signExtend 64, 0)
  | .andi _ d a i => some (d, (s.ctx s.me).rd a &&& i.signExtend 64, 0)
  | .ori _ d a i => some (d, (s.ctx s.me).rd a ||| i.signExtend 64, 0)
  | .xori _ d a i => some (d, (s.ctx s.me).rd a ^^^ i.signExtend 64, 0)
  | .shli _ d a n => some (d, (s.ctx s.me).rd a <<< n.toNat, 0)
  | .shri _ d a n => some (d, (s.ctx s.me).rd a >>> n.toNat, 0)
  | .srai _ d a n => some (d, ((s.ctx s.me).rd a).sshiftRight n.toNat, 0)
  | .movi _ d i => some (d, i.signExtend 64, 0)
  | .muli _ d a i => some (d, (s.ctx s.me).rd a * i.signExtend 64, 2)
  | .kget _ d a => some (d, if (s.ctx s.me).rdk a then 1 else 0, 0)
  | .fabs _ d a => some (d, BitVec.ofNat 64 (((s.ctx s.me).rd a).toNat % 2 ^ 31), 0)
  | .fneg _ d a => some (d, BitVec.ofNat 64 (((s.ctx s.me).rd a).toNat % 2 ^ 32 ^^^ 2 ^ 31), 0)
  | .gtcrd _ d => some (d, s.gtc, 0)
  | .rng _ d a b => some (d, hash ((s.ctx s.me).rd a) ((s.ctx s.me).rd b), 0)
  | .rbget _ d n id => some (d, getField ((s.ctx s.me).buf n) (bufField id), 0)
  | .mfs _ d n => some (d, s.sysRead s.me n, 0)
  | .pend _ d => some (d, s.pendVal s.me, 0)
  | .clrsig _ d => some (d, (s.core s.cur.core).signature, 0)
  | .parkst _ d => some (d, (s.core s.cur.core).parkVal (s.ctx s.me).vnpu, 0)
  | _ => none

/-- Destination and value of every instruction whose whole effect is one predicate register (R137, R139). -/
def kResult (c : Ctx) : Instr → Option (KReg × Bool)
  | .cmp _ cc d a b => some (d, intCond cc.toNat (c.rd a) (c.rd b))
  | .cmpi _ cc d a i => some (d, intCond cc.toNat (c.rd a) (i.signExtend 64))
  | .kand _ d a b => some (d, c.rdk a && c.rdk b)
  | .kor _ d a b => some (d, c.rdk a || c.rdk b)
  | .kxor _ d a b => some (d, xor (c.rdk a) (c.rdk b))
  | .knot _ d a => some (d, !c.rdk a)
  | .kset _ d a => some (d, decide (c.rd a ≠ 0))
  | _ => none

/-- Landing register, value, flags and latency of every floating-point instruction (R118, R138, R141, R142, R144, R145). -/
def fResult (c : Ctx) : Instr → Option (Nat × Word × Flg × Nat)
  | .fadd _ d a b =>
    let o := outFtz c.ftz .f32 (addFmt fmtF32 c.mode false (c.numF32 a) (c.numF32 b)); some (gNum d, BitVec.ofNat 64 o.1, o.2, 3)
  | .fsub _ d a b =>
    let o := outFtz c.ftz .f32 (addFmt fmtF32 c.mode false (c.numF32 a) (c.numF32 b).negate); some (gNum d, BitVec.ofNat 64 o.1, o.2, 3)
  | .fmul _ d a b =>
    let o := outFtz c.ftz .f32 (mulFmt fmtF32 c.mode false (c.numF32 a) (c.numF32 b)); some (gNum d, BitVec.ofNat 64 o.1, o.2, 3)
  | .ffma _ d a b e =>
    let o := outFtz c.ftz .f32 (fmaFmt fmtF32 c.mode false (c.numF32 a) (c.numF32 b) (c.numF32 e))
    some (gNum d, BitVec.ofNat 64 o.1, o.2, 3)
  | .fmin _ d a b => let o := outFtz c.ftz .f32 (minMax fmtF32 false (c.inF32 a) (c.inF32 b)); some (gNum d, BitVec.ofNat 64 o.1, o.2, 3)
  | .fmax _ d a b => let o := outFtz c.ftz .f32 (minMax fmtF32 true (c.inF32 a) (c.inF32 b)); some (gNum d, BitVec.ofNat 64 o.1, o.2, 3)
  | .fcmp _ cc d a b =>
    let o := floatCond cc.toNat (c.numF32 a) (c.numF32 b); some (kNum d, if o.1 then 1 else 0, o.2, 3)
  | .fcvt _ d a ty dir => (Ty.ofCode ty.toNat).map fun t =>
    let src := if dir then .f32 else t
    let dst := if dir then t else .f32
    let o := outFtz c.ftz dst (convert src dst c.mode c.sat (inDaz c.daz src ((c.rd a).toNat % 2 ^ src.width)))
    (gNum d, cvtWord dst o.1, o.2, 3)
  | .fexp2 _ d a => let o := outFtz c.ftz .f32 (exp2F32 (c.inF32 a)); some (gNum d, BitVec.ofNat 64 o.1, o.2, 6)
  | .flog2 _ d a => let o := outFtz c.ftz .f32 (log2F32 (c.inF32 a)); some (gNum d, BitVec.ofNat 64 o.1, o.2, 6)
  | .frcp _ d a => let o := outFtz c.ftz .f32 (rcpF32 (c.inF32 a)); some (gNum d, BitVec.ofNat 64 o.1, o.2, 6)
  | .frsq _ d a => let o := outFtz c.ftz .f32 (rsqF32 (c.inF32 a)); some (gNum d, BitVec.ofNat 64 o.1, o.2, 6)
  | .fsqrt _ d a => let o := outFtz c.ftz .f32 (sqrtF32 c.mode (c.inF32 a)); some (gNum d, BitVec.ofNat 64 o.1, o.2, 10)
  | _ => none

/-- The PC goes on to the next word where no active loop ends at it (R115, R345). -/
def NextWord (s t : State) : Prop :=
  ((s.ctx s.me).loop0.active = true → (s.ctx s.me).loop0.stop ≠ (s.ctx s.me).pc) →
  ((s.ctx s.me).loop1.active = true → (s.ctx s.me).loop1.stop ≠ (s.ctx s.me).pc) →
  (t.ctx s.me).pc = (s.ctx s.me).pc + 8

/-- A word completes: its answer is the state `u` that its effect leaves, with its results and its next PC taken in one tick,
and nothing else of `u` changes but what lands now (R117, R345). -/
def Completes (i : Instr) (s u : State) (w : List Landing) (pc : Option Word) : Prop :=
  exec i s = .next (u.finish w pc 1) ∧ RegFrame u (u.finish w pc 1) (w.map fun l => l.reg % 128)

/-- One result of latency 0. -/
def res (d : Reg) (v : Word) : Landing := ⟨gNum d, v, 0, 0⟩

/-- The acting context, changed. -/
def State.upd (s : State) (f : Ctx → Ctx) : State := s.modCtx s.me f

/-- The state once an implicit wait of the acting context is over (R353). -/
def State.ended (s : State) : State := s.unblockCtx s.me

/-- The state in which the phase of the acting context is closed and every phase closed so far is complete; none while it
waits (R227, R228). -/
def State.quiet (s : State) : Option State :=
  match s.closing .gone with
  | .gone u => some u
  | .done .. => none
  | .stall _ => none
  | .trap .. => none

/-- Loop level 1 or 0 of a context (R344). -/
def Ctx.level (c : Ctx) (one : Bool) : Loop := if one then c.loop1 else c.loop0

/-- The target of a jump and whether it links (R37, R341). -/
def jumpOf (c : Ctx) : Instr → Option (Word × Bool)
  | .br _ off => some (c.pc + 8 * off.signExtend 64, false)
  | .call _ off => some (c.pc + 8 * off.signExtend 64, true)
  | .jr _ a => some (c.rd a, false)
  | .callr _ a => some (c.rd a, true)
  | .ret _ => some (c.rd 63, false)
  | _ => none

/-- A word whose effect is one update of its context, its core or its virtual NPU, and which can take it now: the state its
effect leaves, and its results. -/
def effectOf (s : State) : Instr → Option (State × List Landing)
  | .rbset _ n a id =>
    some (s.upd fun c => c.setBuf n (putField (c.buf n) (bufField id) (c.rd a)), [])
  | .tkwait _ e =>
    if s.noTokens e || (s.ctx s.me).fifo e = 0 then none else some ((s.ended.upd fun c => c.setFifo e (c.fifo e - 1)).ordered, [])
  | .tkpoll _ d e =>
    if s.noTokens e then none
    else if (s.ctx s.me).fifo e = 0 then some (s, [res d 0])
    else some ((s.upd fun c => c.setFifo e (c.fifo e - 1)).acquired, [res d 1])
  | .semwait _ n a =>
    let v : BitVec 32 := ((s.ctx s.me).rd a).setWidth 32
    ((s.ctx s.me).counter n).bind fun x =>
      if v ≤ (s.core s.cur.core).sems.get x then
        some ((s.ended.modCore s.cur.core fun k => { k with sems := k.sems.set x (k.sems.get x - v) }).acquired, [])
      else none
  | .qdrain _ e => if s.engHolds s.cur.core e s.cur.slot then none else some (s.ended.ordered, [])
  | .accver _ d t =>
    if s.cur.slot = .h ∧ (s.core s.cur.core).holdsAddr .h (0x10000000 + 0x10000 * t.toNat) = false then none
    else some (s, [res d (((s.core s.cur.core).ver t.toNat).setWidth 64)])
  | .eqpop _ d => match (s.ctx s.me).events with
    | [] => none
    | e :: r => some ((s.ended.upd fun c => ({ c with events := r }).refillEvents).ordered, [res d e.lo, ⟨gNum d + 1, e.hi, 0, 0⟩])
  | .wfe _ => if (s.ctx s.me).wake then some (s.ended.upd fun c => { c with wake := false }, []) else none
  | .lease _ d e =>
    let k := s.core s.cur.core
    if k.leased e then some (s, [res d 0])
    else if s.engHolds s.cur.core e .o || k.recalled then some (s, [res d 1])
    else some (s.modCore s.cur.core fun k => k.setLease e ⟨true, 0, 0, s.coreCycle s.cur.core⟩, [res d 0])
  | .leaserel _ e =>
    if s.engHolds s.cur.core e .h then none else some (s.modCore s.cur.core fun k => k.setLease e {}, [])
  | .defer _ =>
    some (if s.cur.slot = .h ∨ (s.ctx s.me).preq = true then s
      else s.upd fun c => { c with defer := true, deferEnd := s.gtc.toNat + 20000 }, [])
  | .undefer _ =>
    some (if s.cur.slot = .h then s
      else s.upd fun c => { c with defer := false, graceEnd := if c.defer ∧ c.preq ∧ c.graceEnd = none then some (s.gtc.toNat + 1000 * s.contracts.grace) else c.graceEnd }, [])
  | .opbnd _ => if (s.ctx s.me).preq then none else some (s, [])
  | .rsmark _ =>
    if s.cur.slot = .o then some (s, [])
    else if (s.wft.any fun e => e.holder && decide (e.agent = .ctx s.me) && decide (e.leaf = s.ctxLeaf s.me)) || !s.drained s.me || s.slxnOpen s.me then none
    else some (s.modCore s.cur.core Core.checkpoint, [])
  | .rtmap _ d a b =>
    let f := (s.ctx s.me).rd b
    let n := (s.ctx s.me).rd a
    let bad := decide (32 ≤ n.toNat) || fld f 62 8 != 0 || (!tb f 63 && !s.idKnown (s.ctxLeaf s.me) (f.toNat % 256))
    if bad then some (s, [res d 3])
    else
      let x : Fin 32 := ⟨n.toNat % 32, Nat.mod_lt _ (by decide)⟩
      let id : Fin 256 := ⟨f.toNat % 256, Nat.mod_lt _ (by decide)⟩
      some (s.modVnpu (s.ctx s.me).vnpu fun v => { v with rtMap := v.rtMap.set x (if tb f 63 then none else some id) },
        [res d (match (s.vnpu (s.ctx s.me).vnpu).rtMap.get x with | some o => BitVec.ofNat 64 (o.val * 2 ^ 16) | none => 0x1000000)])
  | _ => none

/-- The objects of which a context holds a WOREG registration, in the order of the table (R363, R366). -/
def State.woregs (s : State) (i : CtxId) : List (BitVec 32) :=
  (s.wft.filter fun e => decide (e.agent = .ctx i) && decide (e.leaf = s.ctxLeaf i) && !e.holder && e.explicit).map (·.obj)

/-- The object on which a word is blocked while it cannot take its effect: WFE on the first object it has registered, or on its event
queue (R153, R264, R353, R366, R369). -/
def blocksOn (s : State) : Instr → Option (BitVec 32)
  | .tkwait _ e => if s.noTokens e = false ∧ (s.ctx s.me).fifo e = 0 then some (fifoObj s.cur.core s.cur.slot e) else none
  | .semwait _ n a => ((s.ctx s.me).counter n).bind fun x =>
      if (s.core s.cur.core).sems.get x < ((s.ctx s.me).rd a).setWidth 32 then some (semObj s.cur.core x.val) else none
  | .qdrain _ e => if s.engHolds s.cur.core e s.cur.slot then some (queueObj s.cur.core s.cur.slot e) else none
  | .eqpop _ _ => if (s.ctx s.me).events = [] then some (evObj s.cur.core s.cur.slot) else none
  | .wfe _ => if (s.ctx s.me).wake = true ∨ (s.ctx s.me).inWfe = true then none
      else some ((s.woregs s.me).headD (evObj s.cur.core s.cur.slot))
  | .endUnit _ => (s.undrained s.me).map (queueObj s.cur.core s.cur.slot)
  | .eret _ => (s.undrained s.me).map (queueObj s.cur.core s.cur.slot)
  | _ => none

/-- A word that keeps its place in a bounded wait for the records of its own context, which is not registered, or in a WFE that is
registered already (R301, R366). -/
def staysFor (s : State) : Instr → Bool
  | .wfe _ => !(s.ctx s.me).wake && (s.ctx s.me).inWfe
  | .leaserel _ e => s.engHolds s.cur.core e .h
  | .lend _ a => decide (fld ((s.ctx s.me).rd a) 63 60 = 0) && !s.drained s.me
  | _ => false

/-- A word that closes the phase of its context and takes its effect in the state `u` in which every phase is complete: the
state the effect leaves, its results, and its target (R227, R228, R247, R256, R260, R294, R363). -/
def orderedEffect (s u : State) : Instr → Option (State × List Landing)
  | .fence _ mask _ =>
    if u.performed (.ctx u.me) mask then some (u.releaseStamp.acquired, []) else none
  | .tkpost _ e =>
    if s.noTokens e || decide (15 ≤ (u.ctx u.me).portCount e 0) then none
    else some ((u.ended.upd fun c => c.setPort e 0 (c.port e 0 + 1)).modCore s.cur.core fun k =>
      k.passStamp (srcSlot (.ctx s.me)) (srcSlot (.eng ⟨s.cur.core, e⟩)), [])
  | .seminc _ n a => ((s.ctx s.me).counter n).map fun x =>
      (u.releaseStamp.modCore s.cur.core fun k =>
        { k with sems := k.sems.set x (k.sems.get x + ((s.ctx s.me).rd a).setWidth 32), ctxO := k.ctxO.wakeFor x, ctxH := k.ctxH.wakeFor x }, [])
  | .worel _ a =>
    some (if u.holdStatus u.me ((s.ctx s.me).rd a) ≠ 0 then u
      else State.releaseStamp { u with wftQueue := u.wftQueue ++ [.worel u.me (u.ctxLeaf u.me) (((s.ctx s.me).rd a).setWidth 32)] }, [])
  | .hvc _ _ => some (u, [res 1 2, res 2 0])
  | .partquery _ => some (u, [res 1 0, res 2 (BitVec.ofNat 64 (u.partstat (s.ctx s.me).vnpu))])
  | .recquery _ =>
    let v := u.vnpu (s.ctx s.me).vnpu
    some (u, [res 1 0, res 2 (BitVec.ofNat 64 (min v.stale 65535 + min v.fails 65535 * 2 ^ 16 + queueBits v (·.qstop) * 2 ^ 32
      + queueBits v (·.dfail) * 2 ^ 40))])
  | .regquery _ =>
    let pt := ((s.ctx s.me).rd 1).toNat
    some (u, if 112 < pt then [res 1 2, res 2 0] else [res 1 0, res 2 (BitVec.ofNat 64 (u.regstat (u.ctxLeaf u.me) pt))])
  | .tquery _ =>
    let slot := ((s.ctx s.me).rd 1).toNat
    let t := u.tensor (u.ctxLeaf u.me) slot
    some (u, if (s.ctx s.me).slots ≤ slot then [res 1 2, res 2 0]
      else [res 1 0, res 2 (BitVec.ofNat 64 (t.wver % 2 ^ 32 + (if t.enc then 2 ^ 32 else 0) + (if t.sealed then 2 ^ 33 else 0)
        + (if t.writer.isSome then 2 ^ 34 else 0)))])
  | _ => none

/-- The words whose request the wait-for table answers: with the reply taken, WOREG, WOHOLD and WOPOLL leave it in gD, WODEREG
and WOWAIT complete, WOWAIT as an acquire. A word that has asked nothing, and whose operand names no valid object of the partition, has
status 2 or 3 as its result, WODEREG and WOWAIT none; WOPOLL, whose status the table samples, asks for every operand that has the width
of an id (R222, R363, R364, log 69). -/
def tableResult (s : State) : Instr → Option (State × List Landing)
  | .woreg _ d a => answered (s.objStatus s.me ((s.ctx s.me).rd a)) (fun v => (s, [res d v]))
  | .wohold _ d a => answered (s.holdStatus s.me ((s.ctx s.me).rd a)) (fun v => (s, [res d v]))
  | .wopoll _ d a => answered (if fld ((s.ctx s.me).rd a) 63 32 = 0 then 0 else 3 * 2 ^ 56) (fun v => (s, [res d v]))
  | .wodereg _ a => answered (s.objStatus s.me ((s.ctx s.me).rd a)) (fun _ => (s, []))
  | .wowait _ a =>
    if (s.ctx s.me).blocked = some (((s.ctx s.me).rd a).setWidth 32) ∧ (s.ctx s.me).inWowait = true then none
    else match (s.ctx s.me).stage with
      | .replied _ => some (s.acquired, [])
      | .asked => none
      | _ => if s.objStatus s.me ((s.ctx s.me).rd a) = 0 then none else some (s, [])
  | _ => none
where
  /-- The word's result from the reply, or from the status of its operand before it asks. -/
  answered (status : Nat) (k : Word → State × List Landing) : Option (State × List Landing) :=
    match (s.ctx s.me).stage with
    | .replied v => some (k v)
    | .asked => none
    | _ => if status = 0 then none else some (k (BitVec.ofNat 64 status))

/-- The request that such a word sends. -/
def tableRequest (s : State) : Instr → Option WftReq
  | .woreg _ _ a => if s.objStatus s.me ((s.ctx s.me).rd a) = 0 then some (.woreg s.me (((s.ctx s.me).rd a).setWidth 32)) else none
  | .wohold _ _ a => if s.holdStatus s.me ((s.ctx s.me).rd a) = 0 then some (.wohold s.me (((s.ctx s.me).rd a).setWidth 32)) else none
  | .wopoll _ _ a => if fld ((s.ctx s.me).rd a) 63 32 = 0 then some (.wopoll s.me (((s.ctx s.me).rd a).setWidth 32)) else none
  | .wodereg _ a => if s.objStatus s.me ((s.ctx s.me).rd a) = 0 then some (.wodereg s.me (((s.ctx s.me).rd a).setWidth 32)) else none
  | .wowait _ a => if s.objStatus s.me ((s.ctx s.me).rd a) = 0 then some (.wowait s.me (((s.ctx s.me).rd a).setWidth 32)) else none
  | _ => none

/-- A word that moves bytes of global memory to or from the module: its space class, its address, how many bytes, and whether
it may be served from the L1 (R23, R235, R244, R250). -/
def loadOf (s : State) : Instr → Option (Nat × Nat × Nat × Bool)
  | .ld _ _ m _ => some (m.cls.toNat, ((s.ctx s.me).ea m.base m.mode).1.toNat, sizeBytes m.size, decide (s.cur.slot = .o))
  | .ldAcq _ _ m _ _ => some (m.cls.toNat, ((s.ctx s.me).ea m.base m.mode).1.toNat, sizeBytes m.size, false)
  | .rbld _ a off _ =>
    if ((s.ctx s.me).rbAddr a off).toNat % 64 = 0 then some (0, ((s.ctx s.me).rbAddr a off).toNat, 64, decide (s.cur.slot = .o)) else none
  | _ => none

/-- What such a word does with the bytes, in the state the read leaves. -/
def loadEffect (s u : State) (bs : List Byte) : Instr → State × List Landing
  | .ld _ d m sx => (u, baseUpdate m.base ((s.ctx s.me).ea m.base m.mode).2 ++ [res d (loadValue (sizeBytes m.size) sx bs)])
  | .ldAcq _ d m sx _ =>
    (u.acquired,
     baseUpdate m.base ((s.ctx s.me).ea m.base m.mode).2 ++ [res d (loadValue (sizeBytes m.size) sx bs)])
  | .rbld _ _ _ n => (u.upd fun c => c.setBuf n (BitVec.ofNat 512 (leNat bs)), [])
  | _ => (u, [])

/-- A word that sends a store: class, address, bytes, and how many phases it is sent after (R227, R244, R250). -/
def storeOf (s : State) : Instr → Option (Nat × Nat × List Byte)
  | .st _ d m => some (m.cls.toNat, ((s.ctx s.me).ea m.base m.mode).1.toNat, leBytes (sizeBytes m.size) ((s.ctx s.me).rd d).toNat)
  | .stRel _ d m _ => some (m.cls.toNat, ((s.ctx s.me).ea m.base m.mode).1.toNat, leBytes (sizeBytes m.size) ((s.ctx s.me).rd d).toNat)
  | .rbst _ a off n =>
    if ((s.ctx s.me).rbAddr a off).toNat % 64 = 0 then some (0, ((s.ctx s.me).rbAddr a off).toNat, leBytes 64 ((s.ctx s.me).buf n).toNat)
    else none
  | _ => none

/-- The base update of such a word. -/
def storeBase (s : State) : Instr → List Landing
  | .st _ _ m => baseUpdate m.base ((s.ctx s.me).ea m.base m.mode).2
  | .stRel _ _ m _ => baseUpdate m.base ((s.ctx s.me).ea m.base m.mode).2
  | _ => []

/-- A system register keeps the writable fields of what MTS gives it: the register written, if its value is accepted. FSR holds exactly
that value with the flags merged in the word's own tick (R101, R105, R121). -/
def sysWritten (s : State) (n : SReg) (w : Word) : Prop :=
  match n with
  | .prio => (s.ctx s.me).prioBase = w.setWidth 3
  | .liveset => (s.ctx s.me).liveset = w
  | .fcr => (s.ctx s.me).fcr = w
  | .fsr => (s.ctx s.me).fsr = w ||| (s.ctx s.me).tickFlags.setWidth 64
  | .debug => (s.ctx s.me).debug = w
  | .pace e => (s.ctx s.me).pace.get (Eng.fin e) = w
  | .boost => (s.ctx s.me).boost = w
  | .evec => (s.vnpu (s.ctx s.me).vnpu).evec = w
  | .epc => (s.ctx s.me).epc = w
  | .efrom => (s.ctx s.me).efrom = w
  | .ecause => (s.ctx s.me).ecause = w
  | .eaddr => (s.ctx s.me).eaddr = w
  | .einfo => (s.ctx s.me).einfo = w
  | .estat => (s.ctx s.me).estat = w &&& ~~~8
  | .sscratch => (s.ctx s.me).sscratch = w
  | .wftstat => (s.leaf (s.ctxLeaf s.me)).wftstat = w
  | .ctxsave => (s.vnpu (s.ctx s.me).vnpu).ctxsave = w
  | .tentab => (s.ctx s.me).tentab = w
  | .tenlim => (s.ctx s.me).tenlim = w
  | .ctxid | .dmr | .boostst | .wftquota | .leasest | .tkcount => True

/-- MTS, with its forms for EVEC and CTXSAVE: the register and the value given. -/
def mtsGives (c : Ctx) : Instr → Option (SReg × Word)
  | .mts _ n a => some (n, c.rd a)
  | .evecWrite _ a => some (.evec, c.rd a)
  | .ctxsaveWrite _ a => some (.ctxsave, c.rd a)
  | _ => none

/-- Words whose operands or slot a rule refuses, with the trap: tokens of XF in slot H, ACCVER of a tile slot H does not hold
(PERM), a barrier above level 0 in slot H, BARXF at level 0, in slot H or without a phase program (DOMAIN), an image or line that
is not a multiple of 64 (ALIGN), LEND of a bit above 59 (RESERVED_FIELD), and RSMARK of a harvest context that holds an object by WOHOLD
(PROGRESS, sub-cause 2, R367). -/
def trapOf (s : State) : Instr → Option Trap
  | .tkpost _ e => if e = .xf ∧ s.cur.slot = .h then some { cause := 0x16 } else none
  | .tkwait _ e => if e = .xf ∧ s.cur.slot = .h then some { cause := 0x16 } else none
  | .tkpoll _ _ e => if e = .xf ∧ s.cur.slot = .h then some { cause := 0x16 } else none
  | .accver _ _ t =>
    if s.cur.slot = .h ∧ (s.core s.cur.core).holdsAddr .h (0x10000000 + 0x10000 * t.toNat) = false then
      some { cause := 0x06, eaddr := BitVec.ofNat 64 (0x10000000 + 0x10000 * t.toNat) }
    else none
  | .bar _ level => if s.cur.slot = .h ∧ level ≠ 0 then some { cause := 0x1F, einfo := 1 } else none
  | .barxf _ level =>
    if level = 0 then some { cause := 0x1F, einfo := 2 } else if s.cur.slot = .h then some { cause := 0x1F, einfo := 1 }
    else if s.program s.me = none ∧ (s.ctx s.me).stage = .fresh then some { cause := 0x1F, einfo := 3 } else none
  | .ctxsv _ a => if ((s.ctx s.me).rd a).toNat % 64 ≠ 0 then some { cause := 0x08 } else none
  | .ctxld _ a => if ((s.ctx s.me).rd a).toNat % 64 ≠ 0 then some { cause := 0x08 } else none
  | .rbld _ a off _ => if ((s.ctx s.me).rbAddr a off).toNat % 64 ≠ 0 then some { cause := 0x08 } else none
  | .rbst _ a off _ => if ((s.ctx s.me).rbAddr a off).toNat % 64 ≠ 0 then some { cause := 0x08 } else none
  | .lend _ a => if fld ((s.ctx s.me).rd a) 63 60 ≠ 0 then some { cause := 0x02, einfo := (s.ctx s.me).rd a } else none
  | .rsmark _ =>
    if s.cur.slot = .h then
      (s.wft.find? fun e => e.holder && decide (e.agent = .ctx s.me) && decide (e.leaf = s.ctxLeaf s.me)).map fun e =>
        { cause := 0x0E, eaddr := e.obj.setWidth 64, einfo := BitVec.ofNat 64 (2 + ctxNum s.me * 2 ^ 16) }
    else none
  | _ => none

/-- Nothing holds a trap entry of a context: it has no transfer phase, no record of its bank, no open phase, a valid handler and save
area, and is in no handler already; no UnitFailure has begun, and no record of an SLXN waits for room (R297, R420, R421, R423, R424). -/
def State.entryFree (s : State) (i : CtxId) : Bool :=
  !s.inPhase i && !tb (s.ctx i).estat 0 && (s.ctx i).failing.isNone && !s.recordWaits (.ctx i) && s.vectored i && engs.all (fun e => !s.engHolds i.core e i.slot)
    && (s.phases (.ctx i)).opens.isEmpty && (s.phases (.ctx i)).counts.isEmpty
    && (s.phases (.ctx i)).completed == (s.phases (.ctx i)).closed

/-- Nothing holds a trap entry of a context, and it has no cause that waits. -/
def State.mayEnter (s : State) (i : CtxId) : Bool := (s.ctx i).trap.isNone && s.entryFree i

/-- What a context keeps of another state of it up to the entry of a trap: its PC, the word issued last, its registers, its status and
privilege, its landings and its tick. -/
def Ctx.standsAs (c d : Ctx) : Prop :=
  c.pc = d.pc ∧ c.last = d.last ∧ c.g = d.g ∧ c.estat = d.estat ∧ c.sup = d.sup ∧ c.landings = d.landings ∧ c.tick = d.tick

/-- A context stands at the handler of a trap `t` that was taken in the context `c`, with the vector `evec` (R420). -/
def Ctx.atHandlerOf (d c : Ctx) (t : Trap) (evec : Word) : Prop :=
  d.epc = c.pc ∧ d.efrom = c.last ∧ d.ecause = BitVec.ofNat 64 t.cause ∧ d.eaddr = t.eaddr ∧ (t.report = [] → d.einfo = t.einfo)
    ∧ tb d.estat 0 = true ∧ tb d.estat 1 = c.sup ∧ tb d.estat 2 = tb c.estat 2 ∧ fld d.estat 6 4 = t.agent % 8
    ∧ d.sup = true ∧ d.pc = evec &&& ~~~7 ∧ d.landings = [] ∧ d.trap = none

/-- The acting context has no phase open, has sent nothing in the current one, and no record of an SLXN waits for room: a phase that it
closes is complete at once (R227, R231, R297). -/
def State.sentNothing (s : State) : Prop :=
  (s.phases (.ctx s.me)).opens = [] ∧ (s.phases (.ctx s.me)).counts = []
    ∧ (s.phases (.ctx s.me)).completed = (s.phases (.ctx s.me)).closed ∧ s.recordWaits (.ctx s.me) = false
    ∧ ∀ n, (s.ctx s.me).stage ≠ .closed n

/-- The image of a trap entry is written, or refused: the state then, and whether it failed (R420, R424, R425). -/
def State.entryImage (s : State) (i : CtxId) (t : Trap) : State × Option Trap :=
  let area := s.saveArea i
  s.putImage i (s.imageNow i (((s.ctx i).settle).except t (BitVec.ofNat 64 (area + 0x1F00))) 0 t.report) (imagePieces area)

/-- The status, value and state of a service that the Strongroom answers in the state `u` (R408-R410, R436). -/
def serviceResult (s u : State) : Instr → Option (State × Nat × Nat)
  | .tinst _ =>
    let slot := ((s.ctx s.me).rd 1).toNat
    let req := ((s.ctx s.me).rd 2).toNat
    let w := u.ctxWorld s.me
    if (s.ctx s.me).sup = false then some (u, 1, 0)
    else if (s.ctx s.me).slots ≤ slot ∨ req % 64 ≠ 0 then some (u, 2, 0)
    else match u.load (.ctx s.me) (u.myAcc false) 0 req 64 u.inSlotO false with
      | .ok v bs =>
        if entWorld (leNat bs) ≠ w.toNat ∨ entSealed (leNat bs) = true then some (v, 2, 0)
        else if (v.tensor (u.ctxLeaf s.me) slot).writer.isSome then some (v, 3, 0)
        else if entEnc (leNat bs) = false then
          some (v.setTensor ⟨u.ctxLeaf s.me, slot, entTid (leNat bs), 0, w, false, false, none, false, none⟩, 0, 0)
        else none
      | _ => none
  | .tvbump _ =>
    let h := ((s.ctx s.me).rd 1).toNat
    let slot := h / 4096
    if (s.ctx s.me).sup = false then some (u, 1, 0)
    else if 2 ^ 32 ≤ h ∨ (s.ctx s.me).slots ≤ slot then some (u, 2, 0)
    else match u.load (.ctx s.me) (u.myAcc false) 0 ((s.ctx s.me).entryAddr slot) 44 u.inSlotO false with
      | .ok v bs =>
        let t := v.tensor (u.ctxLeaf s.me) slot
        if entCurrent (leNat bs) (h % 4096) = false ∨ t.enc = false then some (v, 2, 0)
        else if t.writer.isSome then some (v, 3, 0)
        else if t.wver = 2 ^ 32 - 1 then some (v, 4, 0)
        else some (v.setTensor { t with wver := t.wver + 1, sealed := false }, 0, t.wver + 1)
      | _ => none
  | .tremove _ =>
    let slot := ((s.ctx s.me).rd 1).toNat
    let l := u.ctxLeaf s.me
    if (s.ctx s.me).sup = false then some (u, 1, 0)
    else if (s.ctx s.me).slots ≤ slot then some (u, 2, 0)
    else if (u.tensor l slot).writer.isSome then some (u, 3, 0)
    else some ({ u with tensors := u.tensors.filter fun t => !(t.leaf = l && t.slot = slot) }, 0, 0)
  | .s1root _ =>
    let a := ((s.ctx s.me).rd 1).toNat
    if (s.ctx s.me).sup = false then some (u, 1, 0)
    else if a % 4096 ≠ 0 ∨ 2 ^ 48 ≤ a then some (u, 2, 0)
    else some ((u.modVnpu (s.ctx s.me).vnpu fun x => { x with s1root := a }).dropTlb fun e => e.vnpu = (s.ctx s.me).vnpu, 0, 0)
  | .tlbinv _ =>
    let a := ((s.ctx s.me).rd 1).toNat
    let n := ((s.ctx s.me).rd 2).toNat
    if (s.ctx s.me).sup = false then some (u, 1, 0)
    else some (u.dropTlb fun e => e.vnpu = (s.ctx s.me).vnpu &&
      (n == 0 || overlap (e.vpage * 4096) (2 ^ (e.span - 12) * 4096) a n), 0, 0)
  | .scrubreq _ =>
    let va := ((s.ctx s.me).rd 1).toNat
    let n := ((s.ctx s.me).rd 2).toNat
    let rc := ((s.ctx s.me).rd 3).toNat
    let v := (s.ctx s.me).vnpu
    let k := (Config.sweepTicket u.free).toNat
    if (s.ctx s.me).sup = false then some (u, 1, 0)
    else if va % 4096 ≠ 0 ∨ n % 4096 ≠ 0 ∨ n < 4096 ∨ 2 ^ 30 < n ∨ rc % 64 ≠ 0 then some (u, 2, 0)
    else if 4 ≤ (u.vnpu v).sweeps.length then some (u, 3, 0)
    else some ({ (u.modVnpu v fun x => { x with sweeps := x.sweeps ++ [⟨va, n, rc, k, u.gtc.toNat, s.me⟩] }) with free := u.free + 1 }, 0, k)
  | _ => none

/-- The states and operands in which a service of the Strongroom does what it is called for: an S caller, operands in their range, and
the tensor, the address or the sweeps as R409, R410 and R436 ask. What it reads of memory it reads once the phase is closed. -/
def serviceRuns (s : State) : Instr → Prop
  | .tinst _ =>
    let slot := ((s.ctx s.me).rd 1).toNat
    let req := ((s.ctx s.me).rd 2).toNat
    let u := s.quiet.getD s
    (s.ctx s.me).sup = true ∧ slot < (s.ctx s.me).slots ∧ req % 64 = 0
      ∧ ∃ v bs, u.load (.ctx s.me) (u.myAcc false) 0 req 64 u.inSlotO false = .ok v bs
        ∧ entWorld (leNat bs) = (u.ctxWorld s.me).toNat ∧ entSealed (leNat bs) = false ∧ entEnc (leNat bs) = false
        ∧ (v.tensor (u.ctxLeaf s.me) slot).writer = none
  | .tvbump _ =>
    let h := ((s.ctx s.me).rd 1).toNat
    let u := s.quiet.getD s
    (s.ctx s.me).sup = true ∧ h < 2 ^ 32 ∧ h / 4096 < (s.ctx s.me).slots
      ∧ ∃ v bs, u.load (.ctx s.me) (u.myAcc false) 0 ((s.ctx s.me).entryAddr (h / 4096)) 44 u.inSlotO false = .ok v bs
        ∧ entCurrent (leNat bs) (h % 4096) = true
        ∧ let t := v.tensor (u.ctxLeaf s.me) (h / 4096)
          t.enc = true ∧ t.writer = none ∧ t.wver ≠ 2 ^ 32 - 1
  | .tremove _ =>
    let slot := ((s.ctx s.me).rd 1).toNat
    (s.ctx s.me).sup = true ∧ slot < (s.ctx s.me).slots ∧ (s.tensor (s.ctxLeaf s.me) slot).writer = none
  | .s1root _ => (s.ctx s.me).sup = true ∧ ((s.ctx s.me).rd 1).toNat % 4096 = 0 ∧ ((s.ctx s.me).rd 1).toNat < 2 ^ 48
  | .tlbinv _ => (s.ctx s.me).sup = true
  | .scrubreq _ =>
    let n := ((s.ctx s.me).rd 2).toNat
    (s.ctx s.me).sup = true ∧ ((s.ctx s.me).rd 1).toNat % 4096 = 0 ∧ n % 4096 = 0 ∧ 4096 ≤ n ∧ n ≤ 2 ^ 30
      ∧ ((s.ctx s.me).rd 3).toNat % 64 = 0 ∧ (s.vnpu (s.ctx s.me).vnpu).sweeps.length < 4
  | _ => False

/-- Engine `e` of the acting core stands in the walk of the record `q` at its head. -/
def State.walks (s : State) (e : Eng) (q : QEntry) : Prop :=
  (∃ rest, (s.engine ⟨s.cur.core, e⟩).queue = q :: rest) ∧ (s.engine ⟨s.cur.core, e⟩).head.st = .walking

/-- A record with its own checks and those of its header (R44, R152). -/
def State.walksWell (s : State) (i : Instr) (e : Eng) (q : QEntry) (r : EngRec) : Prop :=
  (∃ opc, recordParts i = some (e, opc, r)) ∧ s.walks e q ∧ headerOk e r = true ∧ recordOk i = true

/-- The head of an engine of the acting core. -/
def State.headOf (s : State) (e : Eng) : Head := (s.engine ⟨s.cur.core, e⟩).head

/-- The writes of a step, in order, in the local stores of the acting core. -/
def State.localWrites (s : State) (ws : List (Nat × List Byte)) : State :=
  s.modCore s.cur.core fun k => ws.foldl (fun k w => k.lstore w.1 w.2) k

/-- The rule of one lane of a record of VX whose steps compute each lane alone: the shape of the step, and the destination lane
with its flags from the lane's number, S1.e, B(e) and D.e (R162-R173). -/
def laneRule : Instr → Option (EngRec × LaneOp × (Head → Nat → Nat → Nat → Nat → Nat × Flg))
  | .vadd r => some (r, sameLanes r, fun h e x y _ => if isFl r.dtype then
      addFmt (fmtOf r.dtype) (laneRnd r h (lanesOf r.stype) e) (satOf r) ((fmtOf r.dtype).decode x) ((fmtOf r.dtype).decode y)
    else (intFit (tyOf r.dtype) (satOf r) (intDecode (tyOf r.dtype) x + intDecode (tyOf r.dtype) y), 0))
  | .vsub r => some (r, sameLanes r, fun h e x y _ => if isFl r.dtype then
      addFmt (fmtOf r.dtype) (laneRnd r h (lanesOf r.stype) e) (satOf r) ((fmtOf r.dtype).decode x) ((fmtOf r.dtype).decode y).negate
    else (intFit (tyOf r.dtype) (satOf r) (intDecode (tyOf r.dtype) x - intDecode (tyOf r.dtype) y), 0))
  | .vmul r => some (r, sameLanes r, fun h e x y _ => if isFl r.dtype then
      mulFmt (fmtOf r.dtype) (laneRnd r h (lanesOf r.stype) e) (satOf r) ((fmtOf r.dtype).decode x) ((fmtOf r.dtype).decode y)
    else (intFit (tyOf r.dtype) (satOf r) (intDecode (tyOf r.dtype) x * intDecode (tyOf r.dtype) y), 0))
  | .vfma r => some (r, { sameLanes r with rdD := true }, fun h e x y z => if isFl r.dtype then
      fmaFmt (fmtOf r.dtype) (laneRnd r h (lanesOf r.stype) e) (satOf r) ((fmtOf r.dtype).decode x) ((fmtOf r.dtype).decode y)
        ((fmtOf r.dtype).decode z)
    else (intFit (tyOf r.dtype) (satOf r)
      (intDecode (tyOf r.dtype) x * intDecode (tyOf r.dtype) y + intDecode (tyOf r.dtype) z), 0))
  | .vmin r => some (r, sameLanes r, fun _ _ x y _ => if isFl r.dtype then minMax (fmtOf r.dtype) false x y
    else (if intDecode (tyOf r.dtype) y < intDecode (tyOf r.dtype) x then y else x, 0))
  | .vmax r => some (r, sameLanes r, fun _ _ x y _ => if isFl r.dtype then minMax (fmtOf r.dtype) true x y
    else (if intDecode (tyOf r.dtype) x < intDecode (tyOf r.dtype) y then y else x, 0))
  | .vabs r => some (r, oneSource r, fun _ _ x _ _ => if isFl r.dtype then (x % 2 ^ (tw r.dtype - 1), 0)
    else (intFit (tyOf r.dtype) (satOf r) ((intDecode (tyOf r.dtype) x).natAbs : Int), 0))
  | .vneg r => some (r, oneSource r, fun _ _ x _ _ => if isFl r.dtype then ((x + 2 ^ (tw r.dtype - 1)) % 2 ^ tw r.dtype, 0)
    else (intFit (tyOf r.dtype) (satOf r) (-(intDecode (tyOf r.dtype) x)), 0))
  | .vand r => some (r, sameLanes r, fun _ _ x y _ => (x &&& y, 0))
  | .vor r => some (r, sameLanes r, fun _ _ x y _ => (x ||| y, 0))
  | .vxor r => some (r, sameLanes r, fun _ _ x y _ => (x ^^^ y, 0))
  | .vshl r => some (r, sameLanes r, fun _ _ x y _ => (if tw r.dtype ≤ y then 0 else x * 2 ^ y % 2 ^ tw r.dtype, 0))
  | .vshr r => some (r, sameLanes r, fun _ _ x y _ => (if tw r.dtype ≤ y then 0 else x / 2 ^ y, 0))
  | .vsra r => some (r, sameLanes r, fun _ _ x y _ =>
    (let v : Int := if x < 2 ^ (tw r.dtype - 1) then x else (x : Int) - 2 ^ tw r.dtype
     (v / 2 ^ min y (tw r.dtype) % 2 ^ tw r.dtype).toNat, 0))
  | .vsel r => some (r, { sameLanes r with rdD := true }, fun _ _ x y z => (if y = 0 then z else x, 0))
  | .vclamp r => some (r, sameLanes r, fun _ _ x _ _ =>
    let lo := r.s2.base.toNat % 2 ^ 16
    let hi := r.s2.base.toNat / 2 ^ 16
    if isFl r.dtype then
      let a := minMax (fmtOf r.dtype) true x (clampFl r.dtype lo)
      let b := minMax (fmtOf r.dtype) false a.1 (clampFl r.dtype hi)
      (if a.2 = 0 then b.1 else (fmtOf r.dtype).nanCode, a.2 ||| b.2)
    else (intBits (tyOf r.dtype) (intClamp (tyOf r.dtype)
      (min (max (intDecode (tyOf r.dtype) x) (clampInt r.dtype lo)) (clampInt r.dtype hi))), 0))
  | .vscale r => some (r, { w := lanesOf r.stype, s2 := if r.s2imm = 1 then none else some (if r.stype = 0 then 6 else 7) },
    fun h e x y _ => mulFmt (fmtOf r.dtype) (laneRnd r h (lanesOf r.stype) e) (satOf r) ((fmtOf r.dtype).decode x)
      (.fin false 1 (scalePow (if r.s2imm = 1 then r.s2.base.toInt else intDecode (tyOf (if r.stype = 0 then 6 else 7)) y))))
  | .vmov r => some (r, oneSource r, fun _ _ x _ _ => (x, 0))
  | .vexp2 r => some (r, oneSource r, specialRule (fun _ x => exp2F32 x) r)
  | .vlog2 r => some (r, oneSource r, specialRule (fun _ x => log2F32 x) r)
  | .vrcp r => some (r, oneSource r, specialRule (fun _ x => rcpF32 x) r)
  | .vrsq r => some (r, oneSource r, specialRule (fun _ x => rsqF32 x) r)
  | .vsqrt r => some (r, oneSource r, specialRule (fun md x => sqrtF32 md x) r)
  | .vtanh r => some (r, oneSource r, specialRule (fun _ x => tanhF32 x) r)
  | .vcvt r => some (r, oneSource r, fun h e x _ _ =>
      convert (tyOf r.stype) (tyOf r.dtype) (laneRnd r h (oneSource r).w e) (satOf r) x)
  | .vrand r => some (r, { w := lanesOf r.dtype, hasS1 := false }, fun h e _ _ _ =>
    (let v := (hash (BitVec.ofNat 64 (r.aux.toNat * 2 ^ 32 + r.s2.base.toNat))
        (BitVec.ofNat 64 (h.linear r * lanesOf r.dtype + e))).toNat
     if r.dtype.toNat = 0 then (roundFin fmtF32 .rne false false (v / 2 ^ 40 % 2 ^ 24) (-24)).1
     else if r.dtype.toNat = 1 then (roundFin (fmtOf 1) .rne false false (v / 2 ^ 56 % 2 ^ 8) (-8)).1
     else v / 2 ^ 32 % 2 ^ 32, 0))
  | .viota r => some (r, { w := lanesOf r.dtype, hasS1 := false }, fun h e _ _ _ =>
    ((((immOf r.dtype r : Int) + (h.linear r * lanesOf r.dtype + e : Nat)
      * ((BitVec.ofNat 11 r.aux.toNat).toInt * 2 ^ (r.aux.toNat / 2 ^ 11))) % 2 ^ tw r.dtype).toNat, 0))
  | _ => none
where
  /-- A special function: the lane widened to F32, its F32 result, rounded to a narrower destination (R169). -/
  specialRule (f : Rnd → Nat → Nat × Flg) (r : EngRec) (h : Head) (e x _y _z : Nat) : Nat × Flg :=
    let md := laneRnd r h (oneSource r).w e
    let y := f md (if (Fmt.decode (fmtOf r.stype) x).isSignalling then 0x7F800001 else (convert (tyOf r.stype) .f32 .rne false x).1)
    if r.dtype = 0 then y
    else
      let z := roundNum (fmtOf r.dtype) md (satOf r) (fmtF32.decode y.1)
      (z.1, y.2 ||| z.2)

/-- The lanes that a lane record writes: lane e of the operands at the step's addresses through its rule. -/
def lanesOut (o : LaneOp) (r : EngRec) (f : Nat → Nat → Nat → Nat → Nat × Flg) (k : Core) (as : List Nat) : List (Nat × Flg) :=
  (List.range o.w).map fun e => f e
    (if o.hasS1 then lane (tw r.stype) (k.val (as.getD 1 0) (vecBytes o.w r.stype)) e else lane (tw r.stype) 0 e)
    (match o.s2 with
      | some c => lane (tw c) (k.val (as.getD (if o.hasS1 then 2 else 1) 0) (vecBytes o.w c)) e
      | none => immOf (if o.hasS1 then r.stype else r.dtype) r)
    (if o.rdD then lane (tw r.dtype) (k.val (as.getD 0 0) (vecBytes o.w r.dtype)) e else lane (tw r.dtype) 0 e)

/-- The operands of the other steps of VX, and what each writes, merges, carries and pushes, at the addresses of its operands: from
the local stores, the slot's head and the record (R167, R168, R171, R173-R178, R181). -/
def stepRule (k : Core) (h : Head) : Instr → Option (EngRec × List Opd × (List Nat → VOut))
  | .vcmp r =>
    let nod := r.aux.getLsbD 14
    let w := lanesOf r.stype
    let n := vecBytes w r.stype
    some (r, cmpOpds r h, fun as =>
      let as := if nod then 0 :: as else as
      let cs := (List.range w).map fun e => vcond r.stype (r.aux.toNat % 16) (lane (tw r.stype) (k.val (as.getD 1 0) n) e)
        (if r.s2imm = 1 then immOf r.stype r else lane (tw r.stype) (k.val (as.getD 2 0) n) e)
      { writes := if nod then [] else
          [(as.getD 0 0, leBytes n (packLanes (tw r.stype) (cs.map fun c => if c.1 then 2 ^ tw r.stype - 1 else 0)))]
        flags := cs.foldl (fun f c => f ||| c.2) 0
        push := if r.aux.getLsbD 15 then some (cs.any (·.1)) else none })
  | .vbcast r =>
    let w := lanesOf r.dtype
    some (r, vecAt r.d (h.addr r.d) (vecBytes w r.dtype) (some r.dtype) false
        :: (if r.s2imm = 1 then [] else [scalarAt r.s1 (h.addr r.s1) (tw r.stype / 8) (some r.stype) true]), fun as =>
      { writes := [(as.getD 0 0, leBytes (vecBytes w r.dtype) (packLanes (tw r.dtype)
          (List.replicate w (if r.s2imm = 1 then immOf r.dtype r else k.val (as.getD 1 0) (tw r.stype / 8)))))] })
  | .vquant r =>
    let w := lanesOf r.stype
    some (r, [vecAt r.d (h.addr r.d) (vecBytes w r.dtype) (some r.dtype) false,
        vecAt r.s1 (h.addr r.s1) (vecBytes w r.stype) (some r.stype) true, vecAt r.s2 (h.addr r.s2) (w / 32) (some 13) false], fun as =>
      let bs := (List.range (w / 32)).map fun b => quantBlock r.stype r.dtype (fun i => laneRnd r h w (32 * b + i))
        ((List.range 32).map fun i => lane (tw r.stype) (k.val (as.getD 1 0) (vecBytes w r.stype)) (32 * b + i))
      { writes := (as.getD 0 0, leBytes (vecBytes w r.dtype) (packLanes (tw r.dtype) (codes (bs.flatMap (·.2)))))
          :: (bs.mapIdx fun b x => [(as.getD 2 0 + b, leBytes 1 x.1),
            (as.getD 0 0 + 4 * tw r.dtype * b, leBytes (4 * tw r.dtype) (packLanes (tw r.dtype) (codes x.2)))]).flatten
        flags := flagsOf (bs.flatMap (·.2)) })
  | .vdeq r =>
    let w := lanesOf r.dtype
    some (r, [vecAt r.d (h.addr r.d) (vecBytes w r.dtype) (some r.dtype) false,
        vecAt r.s1 (h.addr r.s1) (vecBytes w r.stype) (some r.stype) true, vecAt r.s2 (h.addr r.s2) (w / 32) (some 13) true], fun as =>
      let out := (List.range w).map fun e => mulFmt (fmtOf r.dtype) (laneRnd r h w e) (satOf r)
        (ofE8 (lane 8 (k.val (as.getD 2 0) (w / 32)) (e / 32)))
        ((fmtOf r.stype).decode (lane (tw r.stype) (k.val (as.getD 1 0) (vecBytes w r.stype)) e))
      { writes := [(as.getD 0 0, leBytes (vecBytes w r.dtype) (packLanes (tw r.dtype) (codes out)))], flags := flagsOf out })
  | .vzero r => some (r, [vecAt r.d (h.addr r.d) 512 none false], fun as => { writes := [(as.getD 0 0, List.replicate 512 0)] })
  | .vredsum r => reduceRule (combSum r.stype (satOf r)) r
  | .vredmax r => reduceRule (pick2 r.stype true) r
  | .vredmin r => reduceRule (pick2 r.stype false) r
  | .vscan r =>
    let w := lanesOf r.stype
    let n := vecBytes w r.stype
    let op := r.aux.toNat % 4
    let f := if op = 0 then combSum r.stype (satOf r) else pick2 r.stype (decide (op = 1))
    some (r, [vecAt r.d (h.addr r.d) n (some r.dtype) false, vecAt r.s1 (h.addr r.s1) n (some r.stype) true], fun as =>
      let o := scanLanes f (r.aux.getLsbD 2) ((List.range w).map (lane (tw r.stype) (k.val (as.getD 1 0) n)))
        (if h.j0 = 0 then scanId r.stype op else h.carry.toNat) 0
      { writes := [(as.getD 0 0, leBytes n (packLanes (tw r.stype) o.1))], flags := o.2.2, carry := some (BitVec.ofNat 64 o.2.1) })
  | .vany r =>
    let n := vecBytes (lanesOf r.stype) r.stype
    some (r, [vecAt r.s1 (h.addr r.s1) n (some r.stype) true], fun as =>
      let nz := nonZero r (k.val (as.getD 0 0) n)
      { carry := some (Word.ofBool (if r.aux.getLsbD 0 then (decide (h.linear r = 0) || h.carry.getLsbD 0) && nz.all id
          else (decide (h.linear r ≠ 0) && h.carry.getLsbD 0) || nz.any id)) })
  | .vcnt r =>
    let n := vecBytes (lanesOf r.stype) r.stype
    let last := h.lastJ0 r
    some (r, (if last then [scalarAt r.d (h.addr r.d) 4 (some r.dtype) (r.aux.getLsbD 0)] else [])
        ++ [vecAt r.s1 (h.addr r.s1) n (some r.stype) true], fun as =>
      let c := (if h.j0 = 0 then 0 else h.carry.toNat)
        + ((nonZero r (k.val (as.getD (if last then 1 else 0) 0) n)).filter id).length
      { writes := if last then
          [(as.getD 0 0, leBytes 4 ((c + if r.aux.getLsbD 0 then k.val (as.getD 0 0) 4 else 0) % 2 ^ 32))] else []
        carry := some (BitVec.ofNat 64 (c % 2 ^ 32)) })
  | .vzip2 r => zipRule 2 r
  | .vzip3 r => zipRule 3 r
  | .vzip4 r => zipRule 4 r
  | .vunzip2 r => unzipRule 2 r
  | .vunzip3 r => unzipRule 3 r
  | .vunzip4 r => unzipRule 4 r
  | .vperm r =>
    let w := lanesOf r.dtype
    some (r, [vecAt r.d (h.addr r.d) 512 (some r.dtype) false, vecAt r.s1 (h.addr r.s1) 512 (some r.stype) true,
        vecAt r.s2 (h.addr r.s2) (2 * w) (some 11) true], fun as =>
      { writes := [(as.getD 0 0, leBytes 512 (packLanes (tw r.dtype) ((List.range w).map fun e =>
          let i := lane 16 (k.val (as.getD 2 0) (2 * w)) e
          if w ≤ i then 0 else lane (tw r.dtype) (k.val (as.getD 1 0) 512) i)))] })
  | .vldp r => some (r, [vecAt r.d (h.addr r.d) 512 none false, ⟨r.s1.space, [h.addr r.s1], r.aux.toNat, 1, false, none, true⟩], fun as =>
      { writes := [(as.getD 0 0, k.store.read (as.getD 1 0) r.aux.toNat ++ List.replicate (512 - r.aux.toNat) 0)] })
  | .vstp r => some (r, [⟨r.d.space, [h.addr r.d], r.aux.toNat, 1, false, none, false⟩, vecAt r.s1 (h.addr r.s1) 512 none true], fun as =>
      { writes := [(as.getD 0 0, k.store.read (as.getD 1 0) r.aux.toNat)] })
  | _ => none
where
  /-- A reduction: lanes combined with the carry of the loop; at its last step the tree, and D under ACC (R174). -/
  reduceRule (f : Nat → Nat → Nat × Flg) (r : EngRec) : Option (EngRec × List Opd × (List Nat → VOut)) :=
    let w := lanesOf r.stype
    let t := tw r.stype
    let n := vecBytes w r.stype
    let last := h.lastJ0 r
    let acc := r.aux.getLsbD 0
    some (r, (if last then [scalarAt r.d (h.addr r.d) (t / 8) (some r.dtype) acc] else [])
        ++ [vecAt r.s1 (h.addr r.s1) n (some r.stype) true], fun as =>
      let xs := (List.range w).map (lane t (k.val (as.getD (if last then 1 else 0) 0) n))
      let c := if h.j0 = 0 then (xs, (0 : Flg)) else combLists f ((List.range w).map (lane t h.vcarry.toNat)) xs
      let u := tree f (Nat.log2 w) c.1 c.2
      let d := if acc then f (k.val (as.getD 0 0) (t / 8)) u.1 else (u.1, 0)
      if last then { writes := [(as.getD 0 0, leBytes (t / 8) d.1)], flags := u.2 ||| d.2, vcarry := some (packLanes t c.1) }
      else { flags := c.2, vcarry := some (packLanes t c.1) })
  /-- VZIP (R177). -/
  zipRule (n : Nat) (r : EngRec) : Option (EngRec × List Opd × (List Nat → VOut)) :=
    let w := lanesOf r.dtype
    some (r, [vectorsAt n r.d (h.addr r.d) 512 r.dtype false, vectorsAt n r.s1 (h.addr r.s1) (delta r) r.stype true], fun as =>
      { writes := vectorWrites (tw r.dtype) w (as.take n) ((List.range (n * w)).map fun p =>
          (allLanes k (tw r.dtype) w (as.drop n)).getD (p % n * w + p / n) 0) })
  /-- VUNZIP (R177). -/
  unzipRule (n : Nat) (r : EngRec) : Option (EngRec × List Opd × (List Nat → VOut)) :=
    let w := lanesOf r.dtype
    some (r, [vectorsAt n r.d (h.addr r.d) (delta r) r.dtype false, vectorsAt n r.s1 (h.addr r.s1) 512 r.stype true], fun as =>
      { writes := vectorWrites (tw r.dtype) w (as.take n) ((List.range (n * w)).map fun p =>
          (allLanes k (tw r.dtype) w (as.drop n)).getD (n * (p % w) + p / w) 0) })

/-- A step of VX has taken its effect: its writes, its push, and the head moved on with its flags and carries (R150, R153). -/
def State.vxTaken (s : State) (q : QEntry) (r : EngRec) (o : VOut) : State :=
  let e : EngId := ⟨s.cur.core, .vx⟩
  let h := s.headOf .vx
  let t := (s.unblockEng e q.slot).localWrites o.writes
  let t := match o.push with
    | some b => t.modCtx ⟨s.cur.core, q.slot⟩ fun c => c.pushBit b
    | none => t
  t.setHead e (Head.advance { h with
    flags := h.flags ||| o.flags, carry := o.carry.getD h.carry
    vcarry := (o.vcarry.map fun n => BitVec.ofNat 4096 n).getD h.vcarry } r)

/-- The start of the columns, their A and B lanes and scales, for the MMA family: whether ZeroStart holds, whether it is scaled, and
whether S1 lies in the accumulator store (R200, R201). -/
def mmaForm : Instr → Option (EngRec × Bool × Bool × Bool)
  | .mma r => some (r, false, false, false)
  | .mmaz r => some (r, true, false, false)
  | .mmas r => some (r, false, true, false)
  | .mmat r => some (r, r.aux.getLsbD 0, false, true)
  | _ => none

/-- A step of MX has taken its effect: a head from an image has had its tiles checked again (log 34). -/
def State.mxTaken (s : State) (r : EngRec) (ws : List (Nat × List Byte)) (tags : List Nat) (fl : Flg) (acc : BitVec 4096) : State :=
  let h := s.headOf .mx
  ((s.localWrites ws).modCore s.cur.core fun k => tags.foldl (fun k t => k.setTag t r.dtype) k).setHead ⟨s.cur.core, .mx⟩
    (Head.advance { h with flags := h.flags ||| fl, mcarry := acc, resumed := false } r)

/-- A copy record that walks, which its queue entry holds, with no line of an encrypted tensor open. -/
def State.copyWalks (s : State) (i : Instr) (e : Eng) (q : QEntry) (r : EngRec) : Prop :=
  s.walksWell i e q r ∧ q.hdr = r ∧ (s.headOf e).openLine = none

/-- A step of a copy engine has taken its effect on `s`: the head `h` of the state before moved on. The bytes of a local unit are written
in one act when no next step lies in it. Where the next step within the extents lies in the same aligned unit of the tensor, by `u`, the
head stays in that unit, over the clamped steps between too, and nothing comes between; else the unit is done with (R211). -/
def State.copyTaken (s : State) (e : Eng) (r : EngRec) (h : Head) (u : Head → Option Nat) : State :=
  let x := Head.advance h r
  let leaves := match x.put with
    | some w => if x.st = .walking ∧ localUnit r x = w.unit then none else some w
    | none => none
  let s := match leaves with
    | some w => s.modCore s.cur.core fun k => k.writeUnit w
    | none => s
  let x := if leaves.isSome then { x with put := none } else x
  let w := unitFrom r u h
  if x.st = .walking ∧ (h.unit.isSome = true ∨ inExtent r h = true) ∧ w.isSome = true ∧ unitFrom r u x = w then
    s.setHead ⟨s.cur.core, e⟩ { x with unit := some (h.unit.getD (s.msgs - 1)) }
  else (s.dropUnit ⟨s.cur.core, e⟩ h w).setHead ⟨s.cur.core, e⟩ { x with unit := none }

/-- Which copies in take the index of level 1 from a list (R274). -/
def copyInForm : Instr → Option (EngRec × Bool)
  | .cpin r => some (r, false)
  | .cpina r => some (r, false)
  | .gathin r => some (r, true)
  | _ => none

/-- Which copies out take the index of level 1 from a list, and whether their writes allocate in the home slice (R274, R276). -/
def copyOutForm : Instr → Option (EngRec × Bool × Bool)
  | .cpout r => some (r, false, true)
  | .scatout r => some (r, true, true)
  | .cpouta r => some (r, false, true)
  | .cprem r => some (r, false, false)
  | _ => none

/-- The phase program of the acting core acts in phase cycle `c` of the phase `x`: no earlier record of it failed (R371, R374). -/
def State.inPhaseCycle (s : State) (x : XPhase) (c : Nat) : Prop :=
  (s.xphases.find? fun y => y.members.contains ⟨s.cur.core, .o⟩) = some x
    ∧ (∃ st, x.start = some st ∧ st ≤ s.cycle ∧ c = s.cycle - st)
    ∧ (x.faults.any fun y => y.ctx = ⟨s.cur.core, .o⟩ && y.step.isNone && decide (y.record ≤ s.cur.xrec)) = false

/-- The executor after the effect of a word of a routine, but for the words left (R57, R286, R287). -/
def sliceResult (e : Exec) : Instr → Option Exec
  | .ladd d a b => some (e.wr d (e.rd a + e.rd b))
  | .lsub d a b => some (e.wr d (e.rd a - e.rd b))
  | .land d a b => some (e.wr d (e.rd a &&& e.rd b))
  | .lor d a b => some (e.wr d (e.rd a ||| e.rd b))
  | .lxor d a b => some (e.wr d (e.rd a ^^^ e.rd b))
  | .lmin d a b => some (e.wr d (if (e.rd a).toInt ≤ (e.rd b).toInt then e.rd a else e.rd b))
  | .lmax d a b => some (e.wr d (if (e.rd a).toInt ≤ (e.rd b).toInt then e.rd b else e.rd a))
  | .lminu d a b => some (e.wr d (if (e.rd a).toNat ≤ (e.rd b).toNat then e.rd a else e.rd b))
  | .lmaxu d a b => some (e.wr d (if (e.rd a).toNat ≤ (e.rd b).toNat then e.rd b else e.rd a))
  | .lshl d a b => some (e.wr d (BitVec.ofNat 64 ((e.rd a).toNat * 2 ^ ((e.rd b).toNat % 64))))
  | .lshr d a b => some (e.wr d (BitVec.ofNat 64 ((e.rd a).toNat / 2 ^ ((e.rd b).toNat % 64))))
  | .lcmp a b cc => some { e with f := intCond cc.toNat (e.rd a) (e.rd b) }
  | .lsel d a b => some (e.wr d (if e.f then e.rd a else e.rd b))
  | .lmov d a => some (e.wr d (e.rd a))
  | .lmovi d imm => some (e.wr d (BitVec.ofInt 64 imm.toInt))
  | .laddf d a b => some (e.wr d (BitVec.ofNat 64 (halfSum ((e.rd a).toNat % 2 ^ 32) ((e.rd b).toNat % 2 ^ 32)
      + halfSum ((e.rd a).toNat / 2 ^ 32) ((e.rd b).toNat / 2 ^ 32) * 2 ^ 32)))
  | .lins d a pos wm1 =>
    let m : Word := BitVec.ofNat 64 ((2 ^ (wm1.toNat + 1) - 1) * 2 ^ pos.toNat)
    some (e.wr d ((e.rd d &&& ~~~m) ||| ((e.rd a <<< pos.toNat) &&& m)))
  | .lext d a pos wm1 => some (e.wr d (BitVec.ofNat 64 ((e.rd a).toNat / 2 ^ pos.toNat % 2 ^ (wm1.toNat + 1))))
  | .lnop => some e
  | _ => none

/-- The state `t` in which a record that nothing holds has started, its tokens popped or not: where its operation takes a tensor entry it
walks with the copy of it, waits for it, or faults at PHASE 2 with its tokens gone (R152, R271, R426). -/
def State.startsAs (s : State) (e : EngId) (q : QEntry) (pop : Bool) (t : State) : Prop :=
  let u := s.unblockEng e q.slot
  (takesEntry e.eng (recOpc q.record).toNat = false → t = s.begin e q pop 0)
    ∧ (takesEntry e.eng (recOpc q.record).toNat = true →
      (∀ v, s.takeEntry e q = .stall v → t = v)
      ∧ (∀ v copy, s.takeEntry e q = .ok v copy → t = v.begin e q pop copy)
      ∧ (∀ c, s.takeEntry e q = .fault c →
        t = (if pop then u.modCtx ⟨e.core, q.slot⟩ fun c => c.popPorts e.eng q.hdr else u).engFault e 2 c))

/-- The message that an event names. -/
def State.evMsg (s : State) (m : Msg) : Prop := (s.net.find? fun x => x.id = s.cur.ev.n) = some m

end Sys2Proof.Machine

open Sys2Proof Sys2Proof.Machine

/-! ## Encoding -/

/-- The word of every well-formed instruction decodes to it, with every operand at every value (R30-R39, R56, R70-R72, R77,
R78, R80): a control word, a record in the table of its engine, a slice word. -/
def Obligations.EveryInstructionDecodesFromItsWord : Prop :=
  ∀ i : Instr, i.wf = true →
    (∀ w, encodeCtl i = some w → decodeCtl w = .ok i)
      ∧ (∀ e o r, recordParts i = some (e, o, r) → ∃ w, encodeRec i = some w ∧ decodeRec e w = .ok i)
      ∧ (∀ w, encodeSl i = some w → decodeSl w = .ok i)

/-- A word decodes to a well-formed instruction only, and only the word the encoder gives decodes to it: no bit of a control
word, a slice word or a record is ignored (R32, R58, R74). -/
def Obligations.EveryDecodedWordIsTheEncoding : Prop :=
  (∀ w i, decodeCtl w = .ok i → i.wf = true ∧ encodeCtl i = some w)
    ∧ (∀ w i, decodeSl w = .ok i → i.wf = true ∧ encodeSl i = some w)
    ∧ (∀ e w i, decodeRec e w = .ok i → i.wf = true ∧ encodeRec i = some w)

/-- Words written out from the spec's encodings, one of each kind of word (R30-R39, R56, R80, R40-R43): the worked example
(k2) ADD g3, g4, g5; ADDI g1, g0, -1; BR -2; LD g2, [g3 + 8] dword; opcode 0x00, which gives ILLEGAL_OP; ADD with KP = 0 and KN = 1,
which gives RESERVED_FIELD; the slice words LADD y0, la, x0 (registers 18, 24 and 16) and LRET; a VADD record header. -/
def Obligations.KnownWordsDecode : Prop :=
  decodeCtl 0x01200C4140000000 = .ok (.add ⟨0, 2⟩ 3 4 5)
    ∧ decodeCtl 0x2000040FFFFFFFFF = .ok (.addi ⟨0, 0⟩ 1 0 (-1))
    ∧ decodeCtl 0x5800FFFFFFFFFFFE = .ok (.br ⟨0, 0⟩ (-2))
    ∧ decodeCtl 0x480008300C000008 = .ok (.ld ⟨0, 0⟩ 2 ⟨3, .off 8, 0, 3⟩ false)
    ∧ decodeCtl 0x0080000000000000 = .error .illegalOp
    ∧ decodeCtl 0x0180000000000000 = .error .reservedField
    ∧ decodeSl 0x06588000 = .ok (.ladd 18 24 16)
    ∧ decodeSl 0x4C000000 = .ok .lret
    ∧ decodeRec .vx (0x0100000000000000) = .ok (.vadd { (default : EngRec) with dtype := 0 })

/-! ## A step -/

/-- When the agenda names a context that may issue and the word at its PC is fetched and decodes, the step is the meaning of
the decoded instruction, in the state the fetch leaves, with the context as the acting one and the word as the one it has issued; a word
issued that has not completed goes on and is fetched no more; the same for a record that walks, where no cut or phase stops it or its
access is held by a regulator, a word of a routine executor, and an event (R74, R115, R294, R387). Before all of them comes the next step of the record that stands
within an aligned 64-byte unit (R211). -/
def Obligations.AStepRunsTheDecodedInstruction : Prop :=
  (∀ s i rest s' w x, s.midUnit = false → s.agenda = .ctx i :: rest →
      let s0 : State := { s with agenda := rest }
      (s0.ctx i).live = true → (s0.ctx i).failing = none → s0.awake i.core = true →
      ((s0.ctx i).trap.isSome && s0.trapReady i) = false → s0.canIssue i = true → (s0.ctx i).issued = none → s0.fetch i = .word s' w →
      decodeCtl w = .ok x → step s = exec x (s'.issue i x))
  ∧ (∀ s i rest x, s.midUnit = false → s.agenda = .ctx i :: rest →
      let s0 : State := { s with agenda := rest }
      (s0.ctx i).live = true → (s0.ctx i).failing = none → s0.awake i.core = true →
      ((s0.ctx i).trap.isSome && s0.trapReady i) = false → s0.canIssue i = true → (s0.ctx i).issued = some x → step s = exec x (s0.asCtx i))
  ∧ (∀ s e rest q qs x, s.midUnit = false → s.agenda = .eng e :: rest →
      let s0 : State := { s with agenda := rest }
      (s0.engine e).queue = q :: qs → (s0.engine e).head.st = .walking → e.eng ≠ .xf → s0.held = false → s0.halted = false →
      (s0.cluster (clusterOf e.core)).retention = false →
      ((s0.xfStops e.core = false ∧ s0.cutting ⟨e.core, q.slot⟩ = false) ∨ s0.stepHeld e q.slot = true) →
      decodeRec e.eng q.record = .ok x → step s = exec x (s0.asEng e))
  ∧ (∀ s q qs x, s.midUnit = true → (s.engine s.myEng).queue = q :: qs → decodeRec s.cur.eng q.record = .ok x →
      step s = exec x (s.asEng s.myEng))
  ∧ (∀ s m n rest w ws x, s.midUnit = false → s.agenda = .slice m n :: rest → ((s.slice m).exec n).words = w :: ws → decodeSl w = .ok x →
      step s = exec x { s with agenda := rest, cur := { s.cur with slice := m, exec := n } })
  ∧ (∀ s x a rest, s.midUnit = false → s.agenda = .event x a :: rest → isEvent x = true →
      step s = exec x { s with agenda := rest, cur := { s.cur with ev := a } })

/-- A word that fails a check of its decoding traps with its cause and the word in EINFO, and a fetch that fails traps
FETCH_FAULT; neither runs an instruction, nor does a fetch that waits for its line (R74, R75, R282, R422). -/
def Obligations.AWordThatDoesNotDecodeTraps : Prop :=
  ∀ s i rest, s.midUnit = false → s.agenda = .ctx i :: rest →
    let s0 : State := { s with agenda := rest }
    (s0.ctx i).live = true → (s0.ctx i).failing = none → s0.awake i.core = true →
    ((s0.ctx i).trap.isSome && s0.trapReady i) = false → s0.canIssue i = true → (s0.ctx i).issued = none →
      (∀ s' w, s0.fetch i = .word s' w → decodeCtl w = .error .illegalOp → step s = .next (s'.raise i { cause := 0x01, einfo := w }))
      ∧ (∀ s' w, s0.fetch i = .word s' w → decodeCtl w = .error .reservedField →
          step s = .next (s'.raise i { cause := 0x02, einfo := w }))
      ∧ (∀ t, s0.fetch i = .trap t → step s = .next (s0.raise i t) ∧ t.cause = 0x04)
      ∧ (∀ t, s0.fetch i = .stall t → step s = .next t)

/-- No instruction and no event of the table ends in a fault or a refusal: each has a next state from every state. -/
def Obligations.EveryInstructionAnswersANextState : Prop := ∀ i s, ∃ t, exec i s = .next t

/-- A step stops only where the root controller is made to act past DRAM, on its bytes, an owner of a page, or a protected range with
its tag area (R25, R403, log 3); from every state whose agenda is in reach it answers a next state. -/
def Obligations.AStepStopsOnlyPastDram : Prop :=
  (∀ s, s.agendaOk = true → ∃ t, step s = .next t)
    ∧ (∀ s r, step s = .refused r → False)
    ∧ ∀ s f, step s = .fault f → s.midUnit = false ∧ ∃ pa bs w n tags rest, s.agenda = .rootStore pa bs :: rest ∧ 2 ^ 38 < pa + bs.length
        ∨ s.agenda = .rootOwner pa w :: rest ∧ 2 ^ 26 ≤ pa
        ∨ s.agenda = .rootRange pa n tags :: rest ∧ (2 ^ 26 < pa + n ∨ 2 ^ 26 < tags + (n + 31) / 32)

/-! ## The control core: one word -/

/-- An instruction of this table completes: its result is in its register at once, or is a landing of its exposed latency;
g0 stays 0; one tick passes; every other register, every byte of memory and the rest of the module stay. -/
def Obligations.OneRegisterResults : Prop :=
  ∀ s i d v lat, gResult s i = some (d, v, lat) → s.issues i = true →
    ∃ t, exec i s = .next t
      ∧ (if lat = 0 then (t.ctx s.me).rd d = (if d = 0 then 0 else v) else ⟨gNum d, v, 0, lat⟩ ∈ (t.ctx s.me).landings)
      ∧ (t.ctx s.me).tick = (s.ctx s.me).tick + 1 ∧ NextWord s t ∧ RegFrame s t [gNum d]

/-- Such an instruction completes: its predicate register holds the value, and k0 stays 1. -/
def Obligations.OnePredicateResults : Prop :=
  ∀ s i d v, kResult (s.ctx s.me) i = some (d, v) → s.issues i = true →
    ∃ t, exec i s = .next t ∧ (t.ctx s.me).rdk d = (d == 0 || v) ∧ (t.ctx s.me).tick = (s.ctx s.me).tick + 1
      ∧ NextWord s t ∧ RegFrame s t [kNum d]

/-- A floating-point instruction completes with its result and flags as one landing where it raises no flag that FCR enables,
and traps ARITH with its flags, taking no effect, where it raises one (R102, R122). Whatever FEXP2, FLOG2, FRCP and FRSQ give
on an input whose result the spec leaves free (log 5), this holds. That an FCVT that clamps raises invalid alone and no inexact is the
model's choice (log 7). -/
def Obligations.FloatResults : Prop :=
  ∀ s i reg v fl lat, fResult (s.ctx s.me) i = some (reg, v, fl, lat) → s.issues i = true →
    (fl &&& (s.ctx s.me).enabled = 0 → ∃ t, exec i s = .next t ∧ ⟨reg, v, fl, lat⟩ ∈ (t.ctx s.me).landings
        ∧ (t.ctx s.me).tick = (s.ctx s.me).tick + 1 ∧ NextWord s t ∧ RegFrame s t [reg])
      ∧ (fl &&& (s.ctx s.me).enabled ≠ 0 → exec i s = .next (s.raise s.me { cause := 0x1B, einfo := fl.setWidth 64 }))

/-- A landing comes when its ticks have passed and not before: after a NOP of n ticks, the one pending result of a context is
in its register with its flags in FSR if n is at least its remaining ticks, and else the register keeps its old value and
the landing remains (R117, R120, R121, R346). -/
def Obligations.ALandingComesAtItsTick : Prop :=
  ∀ s p (n : BitVec 16) (d : Reg) v fl k, s.issues (.nop p n) = true → (s.ctx s.me).landings = [⟨gNum d, v, fl, k⟩] → 1 ≤ k → k ≤ 10 →
    ∃ t, exec (.nop p n) s = .next t ∧ (t.ctx s.me).tick = (s.ctx s.me).tick + BitVec.ofNat 64 (n.toNat + 1) ∧ NextWord s t
      ∧ (k ≤ n.toNat + 1 → (t.ctx s.me).rd d = (if d = 0 then 0 else v) ∧ (t.ctx s.me).fsr = (s.ctx s.me).fsr ||| fl.setWidth 64
          ∧ (t.ctx s.me).landings = [])
      ∧ (n.toNat + 1 < k → (t.ctx s.me).rd d = (s.ctx s.me).rd d ∧ (t.ctx s.me).fsr = (s.ctx s.me).fsr
          ∧ (t.ctx s.me).landings = [⟨gNum d, v, fl, k - (n.toNat + 1)⟩])

/-- The checks before an effect, in the order of R74, R31 and R126: an instruction above its privilege, in the wrong slot, or on a
register it may not write traps PRIV with the word in EINFO; a false-predicated one advances the tick by exactly one and does
nothing else, NOP n too; under PENDTRAP a read of a register whose landing is still to come traps EARLY_READ, naming the
first such register in the order predicate, A, B, C, D and the ticks to its landing (R73, R75, R76, R117, R123, R124, R126). Where several
landings of a register are to come, that the earliest counts is the model's choice (log 93). -/
def Obligations.TheChecksBeforeAnEffect : Prop :=
  ∀ s i p l ops, ctlParts i = some (p, l, ops) →
    (l.ok (s.ctx s.me) s.me.slot = false → exec i s = .next (s.raise s.me { cause := 0x03, einfo := (encodeCtl i).getD 0 }))
      ∧ (l.ok (s.ctx s.me) s.me.slot = true → (s.ctx s.me).early [kNum p.kp] = none → (s.ctx s.me).holds p = false →
          ∃ t, exec i s = .next t ∧ t = s.finish [] none 1 ∧ (t.ctx s.me).tick = (s.ctx s.me).tick + 1 ∧ NextWord s t ∧ RegFrame s t [])
      ∧ (∀ r n, l.ok (s.ctx s.me) s.me.slot = true → tb (s.ctx s.me).debug 0 = true →
          (s.ctx s.me).pendingOn r = some n → r ≠ 0 → r ≠ 64 →
          (kNum p.kp = r → exec i s = .next (s.raise s.me { cause := 0x0B, einfo := BitVec.ofNat 64 (r + n * 256) }))
            ∧ ((s.ctx s.me).early [kNum p.kp] = none → (s.ctx s.me).holds p = true →
                (∃ pre post, ops = pre ++ r :: post ∧ (s.ctx s.me).early pre = none) →
                exec i s = .next (s.raise s.me { cause := 0x0B, einfo := BitVec.ofNat 64 (r + n * 256) })))

/-- g0 reads 0 and k0 reads 1 whatever is written to them; a write to another register is read back, and no other register
moves (R112, R114). -/
def Obligations.RegistersReadWhatWasWritten : Prop :=
  (∀ (c : Ctx) (d r : Reg) v, (c.wr d v).rd r = if r = d ∧ d ≠ 0 then v else c.rd r) ∧ (∀ (c : Ctx) v, (c.wr 0 v).rd 0 = 0)
    ∧ (∀ (c : Ctx) (d r : KReg) v, (c.wrk d v).rdk r = if r = d ∧ d ≠ 0 then v else c.rdk r) ∧ (∀ (c : Ctx) v, (c.wrk 0 v).rdk 0 = true)

/-! ## The control core: words with an effect beyond one register -/

/-- What a word's completion does: the tick advances by one, EFROM's source is its address, the PC is the target or, outside a
loop's end, the next word; results of latency 0 are in their registers, later ones are landings (R117, R341, R345, R420). -/
def Obligations.AWordCompletesInOneTick : Prop :=
  ∀ (s : State) (d : Reg) v lat (pc : Option Word),
    let t := s.finish [⟨gNum d, v, 0, lat⟩] pc 1
    (t.ctx s.me).tick = (s.ctx s.me).tick + 1 ∧ (t.ctx s.me).last = (s.ctx s.me).pc ∧ (t.ctx s.me).blocked = none
      ∧ (∀ a, pc = some a → (t.ctx s.me).pc = a)
      ∧ (pc = none → (s.ctx s.me).loop0.active = false → (s.ctx s.me).loop1.active = false → (t.ctx s.me).pc = (s.ctx s.me).pc + 8)
      ∧ (lat = 0 → (t.ctx s.me).rd d = if d = 0 then 0 else v)
      ∧ (lat ≠ 0 → ⟨gNum d, v, 0, lat⟩ ∈ (t.ctx s.me).landings)

/-- BR, CALL, JR, CALLR and RET go to their target, and the calls leave the address of the next word in lr, gA being read
first; a target that is not a multiple of 8 traps ALIGN with the target in EADDR and links nothing; a false-predicated one of
these, or BCQ, falls through, links nothing and pops nothing (R341, R342). -/
def Obligations.JumpsGoToTheirTarget : Prop :=
  (∀ s i t l, jumpOf (s.ctx s.me) i = some (t, l) → s.issues i = true → (s.ctx s.me).pcAligned = true →
    (t.toNat % 8 = 0 → Completes i s s (if l then [res 63 ((s.ctx s.me).pc + 8)] else []) (some t))
      ∧ (t.toNat % 8 ≠ 0 → exec i s = .next (s.raise s.me { cause := 0x08, eaddr := t })))
  ∧ (∀ s i p l ops, ((jumpOf (s.ctx s.me) i).isSome = true ∨ ∃ q off, i = .bcq q off) → ctlParts i = some (p, l, ops) →
    (s.ctx s.me).early [kNum p.kp] = none → (s.ctx s.me).holds p = false →
    (s.ctx s.me).loop0.active = false → (s.ctx s.me).loop1.active = false → (s.ctx s.me).noLanding 63 →
    ∃ t, exec i s = .next t ∧ (t.ctx s.me).pc = (s.ctx s.me).pc + 8 ∧ (t.ctx s.me).rd 63 = (s.ctx s.me).rd 63
      ∧ (t.ctx s.me).cq = (s.ctx s.me).cq)

/-- BCQ pops the oldest bit and branches on it; on an empty queue it is blocked on the condition queue of its slot (R341,
R349, R353). That it drops every L1 copy of slot O as an acquire does is the model's choice (log 88), and so is the stamp it takes
(log 87). -/
def Obligations.BcqPopsTheOldestBit : Prop :=
  ∀ s p off, s.issues (.bcq p off) = true →
    (∀ b r, (s.ctx s.me).cq = b :: r →
      Completes (.bcq p off) s (s.ended.upd fun c => { c with cq := r }).ordered []
        (if b then some ((s.ctx s.me).pc + 8 * off.signExtend 64) else none))
      ∧ ((s.ctx s.me).cq = [] → exec (.bcq p off) s = .next (s.blockCtx s.me (cqObj s.cur.core s.cur.slot)))

/-- LOOP starts its level at the next word with the low 32 bits of gA as its count and becomes the later level; a count of 0
skips the body and leaves the loop registers. The word at the last address of a level goes back to its start and counts down while more
than one pass is left, the other level left alone; on the last pass the level ends, and the other level acts if it ends there too, else
the next word follows. Where both end there the level started later acts first. A taken branch moves no level (R344, R345). -/
def Obligations.LoopsStartSkipAndRepeat : Prop :=
  (∀ s p lv a off, s.issues (.loop p lv a off) = true →
    let c := s.ctx s.me
    let stop := c.pc + 8 * off.signExtend 64
    let n : BitVec 32 := (c.rd a).setWidth 32
    (n = 0 → Completes (.loop p lv a off) s s [] (some (stop + 8)))
      ∧ (n ≠ 0 → lv = 0 → Completes (.loop p lv a off) s (s.upd fun c => { c with loop0 := ⟨c.pc + 8, stop, n, true⟩, later1 := false }) [] none)
      ∧ (n ≠ 0 → lv = 1 → Completes (.loop p lv a off) s (s.upd fun c => { c with loop1 := ⟨c.pc + 8, stop, n, true⟩, later1 := true }) [] none))
  ∧ (∀ (s : State) w b, let c := s.ctx s.me
    let t := (s.finish w none 1).ctx s.me
    let x := c.level b
    let y := c.level !b
    x.active = true → x.stop = c.pc → c.later1 = b ∨ y.active = false ∨ y.stop ≠ c.pc →
    (1 < x.count.toNat → t.pc = x.start ∧ t.level b = { x with count := x.count - 1 } ∧ t.level (!b) = y)
      ∧ (x.count.toNat ≤ 1 → (t.level b).active = false
        ∧ (y.active = false ∨ y.stop ≠ c.pc → t.pc = c.pc + 8 ∧ t.level (!b) = y)
        ∧ (y.active = true → y.stop = c.pc →
          (1 < y.count.toNat → t.pc = y.start ∧ t.level (!b) = { y with count := y.count - 1 })
          ∧ (y.count.toNat ≤ 1 → t.pc = c.pc + 8 ∧ (t.level (!b)).active = false))))
  ∧ (∀ (s : State) w a b, ((s.finish w (some a) 1).ctx s.me).level b = (s.ctx s.me).level b)

/-- NOP n advances the tick by n, one more than its field, leaves n - 1 core cycles without an issue, and does nothing else; MOVHI replaces bits 63:42 of its register as
the register stands when the word completes (R120, R136, R346). -/
def Obligations.NopAndMovhi : Prop :=
  (∀ s p n, s.issues (.nop p n) = true →
    ∃ t, exec (.nop p n) s = .next t ∧ (t.ctx s.me).tick = (s.ctx s.me).tick + BitVec.ofNat 64 (n.toNat + 1)
      ∧ (t.ctx s.me).pause = n.toNat ∧ NextWord s t ∧ RegFrame s t [])
  ∧ (∀ s p d (v : BitVec 22), s.issues (.movhi p d v) = true → (s.ctx s.me).noLanding (gNum d) →
    ∃ t, exec (.movhi p d v) s = .next t
      ∧ (t.ctx s.me).rd d = (if d = 0 then 0 else BitVec.ofNat 64 (v.toNat * 2 ^ 42 + ((s.ctx s.me).rd d).toNat % 2 ^ 42))
      ∧ (t.ctx s.me).tick = (s.ctx s.me).tick + 1 ∧ NextWord s t ∧ RegFrame s t [gNum d])

/-- Such a word completes with that effect and those results (R251, R253-R257, R260, R263, R266, R292, R325, R328, R366,
R439, R440). That TKWAIT, a TKPOLL that takes a token, SEMWAIT, QDRAIN and EQPOP drop every L1 copy of slot O is the model's choice
(log 88), and so are the stamps they take (log 87). -/
def Obligations.WordsTakeTheirEffect : Prop :=
  ∀ s i u w, effectOf s i = some (u, w) → s.issues i = true → Completes i s u w none

/-- A word that cannot take its effect yet keeps its place, and its context is blocked on the object it waits for; one in a bounded
wait that is not registered leaves the state as it is; a WFE sleeps, its wait registered on every object it has registered (R301, R353,
R366). -/
def Obligations.WordsWaitOnTheirObject : Prop :=
  (∀ s i, staysFor s i = true → s.issues i = true → exec i s = .next s)
  ∧ ∀ s i o, blocksOn s i = some o → s.issues i = true →
    ∃ t, exec i s = .next t ∧ (t.ctx s.me).blocked = some o ∧ (t.ctx s.me).pc = (s.ctx s.me).pc ∧ (t.ctx s.me).tick = (s.ctx s.me).tick
      ∧ ((s.ctx s.me).blocked ≠ some o → WftReq.block (.ctx s.me) o ∈ t.wftQueue) ∧ (∀ a, t.dbyte a = s.dbyte a)
      ∧ (∀ p, i = .wfe p → (t.ctx s.me).inWfe = true
        ∧ ∀ o ∈ (s.woregs s.me).drop 1, WftReq.block (.ctx s.me) o ∈ t.wftQueue)

/-- Such a word completes with that effect once every phase its context has closed is complete; until then it stays where it
is, and a TKPOST at a full port is blocked on that port (R228, R256). That WOREL of a descriptor that names no valid object completes with nothing changed is the model's choice (log 69), and so are
the stamps that FENCE, TKPOST, SEMINC and WOREL pass on (log 87), and the drop of every L1 copy of slot O at a FENCE of any scope, core
scope included (log 88). -/
def Obligations.WordsThatCloseAPhaseTakeTheirEffect : Prop :=
  (∀ s i u t w, s.quiet = some u → orderedEffect s u i = some (t, w) → s.issues i = true → Completes i s t w none)
    ∧ (∀ s i, orderedEffect s s i ≠ none → s.quiet = none → s.issues i = true →
        ∃ t, exec i s = .next t ∧ (t.ctx s.me).pc = (s.ctx s.me).pc ∧ (t.ctx s.me).tick = (s.ctx s.me).tick
          ∧ (t.ctx s.me).k = (s.ctx s.me).k ∧ (t.ctx s.me).g = (s.ctx s.me).g)
    ∧ (∀ s p e u, s.quiet = some u → s.noTokens e = false → 15 ≤ (u.ctx s.me).portCount e 0 → s.issues (.tkpost p e) = true →
        exec (.tkpost p e) s = .next (u.blockCtx s.me (portObj s.cur.core s.cur.slot e 0)))

/-- A phase of a context that has sent nothing is complete when it is closed, if no earlier phase is open and no record of an SLXN waits
for room: what waits for it runs at once (R227, R231, R297). -/
def Obligations.AnEmptyPhaseIsCompleteAtOnce : Prop :=
  ∀ s : State, (s.phases (.ctx s.me)).opens = [] → (s.phases (.ctx s.me)).counts = [] →
    (s.phases (.ctx s.me)).completed = (s.phases (.ctx s.me)).closed → s.recordWaits (.ctx s.me) = false →
    (∀ n, (s.ctx s.me).stage ≠ .closed n) → ∃ u, s.quiet = some u ∧ (u.phases (.ctx s.me)).closed = (s.phases (.ctx s.me)).closed + 1
      ∧ (u.phases (.ctx s.me)).completed = (s.phases (.ctx s.me)).completed + 1 ∧ u.net = s.net ∧ u.dram = s.dram
      ∧ (u.ctx s.me).g = (s.ctx s.me).g

/-- WOREG, WODEREG, WOHOLD, WOWAIT and WOPOLL send one request and complete with the reply; a WOWAIT that was blocked completes once its
object is released, its wait gone, and in slot O no L1 copy stays for a later load to meet (R222, R363, R365). That WODEREG and WOWAIT of a
descriptor that names no valid object complete with nothing changed is the model's choice (log 69), and so is the drop of every L1 copy at
an acquire (log 88). -/
def Obligations.TableWordsAskAndComplete : Prop :=
  (∀ s i u w, tableResult s i = some (u, w) → s.issues i = true → Completes i s u w none)
    ∧ (∀ s p a, (s.ctx s.me).blocked = some (((s.ctx s.me).rd a).setWidth 32) → (s.ctx s.me).inWowait = true → (s.ctx s.me).released = true →
        s.issues (.wowait p a) = true →
        Completes (.wowait p a) s (s.dropWaits s.me (((s.ctx s.me).rd a).setWidth 32)).acquired [] none)
    ∧ (∀ s : State, s.acquired = if s.cur.slot = .o then (s.acquireStamp s.me).l1Drop s.cur.core else s.acquireStamp s.me)
    ∧ (∀ s p a, (s.ctx s.me).blocked = some (((s.ctx s.me).rd a).setWidth 32) → (s.ctx s.me).inWowait = true → (s.ctx s.me).released = false →
        s.issues (.wowait p a) = true → exec (.wowait p a) s = .next s)
    ∧ (∀ s i q, tableRequest s i = some q → (s.ctx s.me).stage = .fresh → (s.ctx s.me).blocked = none → s.issues i = true →
        exec i s = .next (({ s with wftQueue := s.wftQueue ++ [q] } : State).upd fun c => { c with stage := .asked }))

/-- The table's answer: WOREG takes an entry and answers 0, or 1 where the leaf has no room; a second registration of the same
object takes no entry; WODEREG of a registration sets the wake latch; WOPOLL reports the own bits, the hold bit and the
counts (R351, R363, R364, R366). -/
def Obligations.TheTableAnswers : Prop :=
  ∀ (s : State) i o, (s.ctx i).stage = .asked →
    let l := s.ctxLeaf i
    let mine := fun (e : WftEntry) => decide (e.agent = .ctx i) && decide (e.leaf = l) && decide (e.obj = o) && !e.holder && e.explicit
    (s.wft.any mine = true → s.processReq (.woreg i o) = s.modCtx i fun c => { c with stage := .replied 0 })
      ∧ (s.wft.any mine = false → s.wftRoom l = false → s.processReq (.woreg i o) = s.modCtx i fun c => { c with stage := .replied 1 })
      ∧ (s.wft.any mine = false → s.wftRoom l = true →
          ((s.processReq (.woreg i o)).ctx i).stage = .replied 0 ∧ (⟨o, .ctx i, false, true, l⟩ : WftEntry) ∈ (s.processReq (.woreg i o)).wft)
      ∧ (s.wft.any mine = true → ((s.processReq (.wodereg i o)).ctx i).wake = true ∧ (s.processReq (.wodereg i o)).wft.any mine = false)
      ∧ s.processReq (.wopoll i o) = s.modCtx i fun c => { c with stage := .replied (s.pollWord i o) }

/-! ## Memory -/

/-- LD, LD.ACQ and RBLD complete with the bytes their access reads, in gD or the buffer, with the base updated first; where the
access is refused they trap with its cause and change no register (R36, R244, R245, R250). That LD.ACQ of any scope, core scope
included, drops every L1 copy of slot O is the model's choice (log 88), and so is the stamp it takes (log 87). -/
def Obligations.LoadsTakeTheBytesRead : Prop :=
  ∀ s i cls ea n l1, loadOf s i = some (cls, ea, n, l1) → s.issues i = true →
    (∀ u bs, s.load (.ctx s.me) (s.myAcc false) cls ea n l1 false = .ok u bs →
        Completes i s (loadEffect s u bs i).1 (loadEffect s u bs i).2 none)
      ∧ (∀ t, s.load (.ctx s.me) (s.myAcc false) cls ea n l1 false = .trap t → exec i s = .next (s.raise s.me t))
      ∧ (∀ u, s.load (.ctx s.me) (s.myAcc false) cls ea n l1 false = .stall u → exec i s = .next u)

/-- A read leaves every byte of DRAM and host memory, every context and every message as it was; past the L1 it gives the
bytes of memory at the physical addresses of its pages. A loaded value is the little-endian number of its bytes, and with SX
its two's complement (R4, R234, R244). -/
def Obligations.ALoadReadsAndKeepsMemory : Prop :=
  (∀ (s u : State) r a cls va n l1 bs, s.load r a cls va n l1 false = .ok u bs → s.memoriesOk = true →
    (∀ x, u.dbyte x = s.dbyte x) ∧ u.host = s.host ∧ u.net = s.net ∧ (∀ c, u.ctx c = s.ctx c) ∧ u.memoriesOk = true
      ∧ (∀ pages, s.checkPages a va n = .ok pages → l1 = false → bs = (physPieces pages va n).flatMap fun p => s.dbytes p.2.1 p.2.2))
  ∧ (∀ (z : BitVec 2) sx bs, bs.length = sizeBytes z →
    (sx = false → (loadValue (sizeBytes z) sx bs).toNat = leNat bs)
      ∧ (sx = true → loadValue (sizeBytes z) sx bs = sextAt (BitVec.ofNat 64 (leNat bs)) (8 * sizeBytes z - 1)))

/-- ST and RBST complete in the state in which their messages are sent, with no byte of memory changed yet; ST.REL first
closes the phase, and its messages are sent after every phase closed so far; a refused access traps, and closes no phase; an ST.REL whose
walk meets a line that a routine holds waits (R226, R227, R244, R245, R250, R282). -/
def Obligations.StoresSendTheirBytes : Prop :=
  ∀ s i cls ea bs, storeOf s i = some (cls, ea, bs) → s.issues i = true →
    ((∀ p d m sc, i ≠ .stRel p d m sc) →
      (∀ u, s.storeMsg (.ctx s.me) (s.myAcc true) cls ea bs 0 false true none = .ok u () → Completes i s u (storeBase s i) none)
        ∧ (∀ t, s.storeMsg (.ctx s.me) (s.myAcc true) cls ea bs 0 false true none = .trap t → exec i s = .next (s.raise s.me t)))
    ∧ ((∃ p d m sc, i = .stRel p d m sc) →
      (s.walkHeld (s.myAcc true) ea bs.length = true → exec i s = .next s)
        ∧ (∀ pages u t, s.walkHeld (s.myAcc true) ea bs.length = false → s.checkPages (s.myAcc true) ea bs.length = .ok pages →
          (∀ n, (s.ctx s.me).stage ≠ .closed n) →
          s.closePhase (.ctx s.me) (s.ctx s.me).vnpu = some u →
          (u.upd fun c => { c with stage := .closed (u.phases (.ctx s.me)).closed }).storeMsg (.ctx s.me) (s.myAcc true) cls ea bs
            (u.phases (.ctx s.me)).closed false true none = .ok t () →
          Completes i s t.releaseStamp (storeBase s i) none)
        ∧ (∀ e, s.walkHeld (s.myAcc true) ea bs.length = false → s.checkPages (s.myAcc true) ea bs.length = .error e →
          exec i s = .next (s.raise s.me (accTrap true false e))))

/-- A store sends one message for each line it touches, to the home slice of the line, in its class and its source's current
phase; together, in order, they carry exactly its bytes at the physical addresses of its pages. No byte of memory changes
before one arrives (R25, R226, R244). -/
def Obligations.MessagesCarryTheStoredBytes : Prop :=
  ∀ (s u : State) r a cls va bs after alloc tag pages, s.storeMsg r a cls va bs after false alloc tag = .ok u () →
    s.checkPages a va bs.length = .ok pages → ((physPieces pages va bs.length).map fun p => p.2.2).sum = bs.length →
    srcCore r ≠ none → (∀ t, (getKey t (s.phases r).counts).getD 0 < 65530) →
    (∃ sent, u.net = s.net ++ sent ∧ sent.flatMap (fun m => match m.body with | .write ps _ _ _ => ps.flatMap (·.2) | _ => []) = bs
      ∧ sent.map (fun m => match m.body with | .write [(pa, b)] _ _ _ => (pa, b.length) | _ => (0, 0))
          = (physPieces pages va bs.length).map (fun p => (p.2.1, p.2.2))
      ∧ ∀ m ∈ sent, m.src = r ∧ m.cls = cls ∧ m.phase = (s.phases r).closed
          ∧ ∃ pa b, m.body = .write [(pa, b)] after alloc tag ∧ m.target = (homeSlice (pa / 128)).val)
      ∧ (∀ x, u.dbyte x = s.dbyte x) ∧ u.host = s.host

/-- Bytes stored to DRAM are the bytes read there afterwards, and every other byte reads as before, a page that was pending
zero reading zero (R402). -/
def Obligations.StoredBytesAreReadBack : Prop :=
  ∀ (s : State) pa bs, s.memoriesOk = true → pa % 4096 + bs.length ≤ 4096 →
    (s.dstore pa bs).memoriesOk = true
      ∧ ∀ a, (s.dstore pa bs).dbyte a = if h : pa ≤ a ∧ a < pa + bs.length then bs[a - pa]'(by omega) else s.dbyte a

/-- PF completes where its line may be brought in, and where no access is allowed it completes all the same; it waits where a routine
holds its line or one of a table it walks, or a regulator its bytes, and never traps (R246, R282, R386). -/
def Obligations.PrefetchNeverTraps : Prop :=
  ∀ s p a mode cls, s.issues (.pf p a mode cls) = true →
    (∀ u, s.prefetch ((s.ctx s.me).ea a mode).1.toNat = .ok u () →
        Completes (.pf p a mode cls) s u (baseUpdate a ((s.ctx s.me).ea a mode).2) none)
      ∧ (∀ t, s.prefetch ((s.ctx s.me).ea a mode).1.toNat ≠ .trap t)
      ∧ (∀ u, s.prefetch ((s.ctx s.me).ea a mode).1.toNat = .stall u → exec (.pf p a mode cls) s = .next u)
      ∧ (∀ e, s.checkPages (s.myAcc false) ((s.ctx s.me).ea a mode).1.toNat 1 = .error e →
          s.walkHeld (s.myAcc false) ((s.ctx s.me).ea a mode).1.toNat 1 = false → s.prefetch ((s.ctx s.me).ea a mode).1.toNat = .ok s ())

/-- LDP gives the bytes of the Pantry as a landing of exposed latency 3. The bytes of an STP are in the Pantry when it completes and no
other byte of it moves; an LDP in the next tick still reads the bytes before it, and one in the second tick or later reads its
bytes. Both wait for the earlier accesses of class 0, trap PAGE outside the Pantry or in a region the slot does not hold, and LDP traps
UNCORRECTABLE on a poisoned unit (R118, R208, R213, R248, R449). -/
def Obligations.PantryWords : Prop :=
  (∀ s p d a mode z sx, s.issues (.ldp p d a mode z sx) = true →
      let ea := ((s.ctx s.me).ea a mode).1.toNat
      let n := sizeBytes z
      let k := s.core s.cur.core
      (ea + n ≤ 0x100000 → k.firstNotHeld s.cur.slot ea n = none → k.poisoned ea n = none → s.lateClass (.ctx s.me) 0 = true →
          exec (.ldp p d a mode z sx) s = .next s)
        ∧ (ea + n ≤ 0x100000 → k.firstNotHeld s.cur.slot ea n = none → k.poisoned ea n = none → s.lateClass (.ctx s.me) 0 = false →
          Completes (.ldp p d a mode z sx) s s
            (baseUpdate a ((s.ctx s.me).ea a mode).2 ++ [⟨gNum d, loadValue n sx (s.pantryRead s.me ea n), 0, 3⟩]) none
            ∧ ((s.ctx s.me).stps = [] → s.pantryRead s.me ea n = k.store.read ea n))
        ∧ (0x100000 < ea + n → exec (.ldp p d a mode z sx) s = .next (s.raise s.me { cause := 0x05, eaddr := BitVec.ofNat 64 ea }))
        ∧ (∀ b, ea + n ≤ 0x100000 → k.firstNotHeld s.cur.slot ea n = some b →
            exec (.ldp p d a mode z sx) s = .next (s.raise s.me { cause := 0x05, eaddr := BitVec.ofNat 64 b }))
        ∧ (∀ b, ea + n ≤ 0x100000 → k.firstNotHeld s.cur.slot ea n = none → k.poisoned ea n = some b →
            exec (.ldp p d a mode z sx) s = .next (s.raise s.me { cause := 0x14, eaddr := BitVec.ofNat 64 b })))
    ∧ (∀ s p d a mode z, s.issues (.stp p d a mode z) = true →
      let ea := ((s.ctx s.me).ea a mode).1.toNat
      let n := sizeBytes z
      let k := s.core s.cur.core
      (ea + n ≤ 0x100000 → k.firstNotHeld s.cur.slot ea n = none → s.lateClass (.ctx s.me) 0 = true → exec (.stp p d a mode z) s = .next s)
        ∧ (ea + n ≤ 0x100000 → k.firstNotHeld s.cur.slot ea n = none → s.lateClass (.ctx s.me) 0 = false →
          Completes (.stp p d a mode z) s (s.pantryWrite s.me ea (leBytes n ((s.ctx s.me).rd d).toNat))
            (baseUpdate a ((s.ctx s.me).ea a mode).2) none)
        ∧ (ea + n ≤ 0x100000 → k.firstNotHeld s.cur.slot ea n = none → s.lateClass (.ctx s.me) 0 = false → s.storesOk = true →
            (s.ctx s.me).stps = [] →
            ∃ t, exec (.stp p d a mode z) s = .next t
              ∧ (t.core s.cur.core).store.read ea n = leBytes n ((s.ctx s.me).rd d).toNat
              ∧ (∀ x, (x < ea ∨ ea + n ≤ x) → (t.core s.cur.core).store.get x = k.store.get x)
              ∧ t.pantryRead s.me ea n = k.store.read ea n
              ∧ ∀ w pc j, (t.finish w pc (j + 1)).pantryRead s.me ea n = leBytes n ((s.ctx s.me).rd d).toNat)
        ∧ (0x100000 < ea + n → exec (.stp p d a mode z) s = .next (s.raise s.me { cause := 0x05, eaddr := BitVec.ofNat 64 ea }))
        ∧ (∀ b, ea + n ≤ 0x100000 → k.firstNotHeld s.cur.slot ea n = some b →
            exec (.stp p d a mode z) s = .next (s.raise s.me { cause := 0x05, eaddr := BitVec.ofNat 64 b })))

/-! ## Queues, services and the rest of the control words -/

/-- ENQ puts the buffer at the tail of the engine's queue, its sequence number taken and RND = 7 replaced by FCR.RM, after the
phase is closed; in slot H without a lease, or on XF, it traps LEASE; with the queue full it is blocked on the queue. An owner's ENQ to
an engine that slot H leases, or in which it has a record, asks for the revocation of an occupied slot H, and its record waits for it
(R45, R207, R252, R253, R328, R330). -/
def Obligations.EnqAppendsTheRecord : Prop :=
  ∀ s p e n, s.issues (.enq p e n) = true →
    let k := s.core s.cur.core
    let u0 := if s.cur.slot = .o then s.ownerEnters s.cur.core e else s
    let mayQueue := s.cur.slot = .o ∨ (e ≠ .xf ∧ k.leased e = true)
    (s.cur.slot = .h → (e = .xf ∨ k.leased e = false) → exec (.enq p e n) s = .next (s.raise s.me { cause := 0x1C }))
      ∧ (mayQueue → 8 ≤ (s.engine ⟨s.cur.core, e⟩).queue.length →
          exec (.enq p e n) s = .next (u0.blockCtx s.me (queueObj s.cur.core s.cur.slot e)))
      ∧ (mayQueue → (s.engine ⟨s.cur.core, e⟩).queue.length < 8 → u0.ended.closePhase (.ctx s.me) (s.ctx s.me).vnpu = none →
          exec (.enq p e n) s = .next u0.ended)
      ∧ (∀ u, mayQueue → (s.engine ⟨s.cur.core, e⟩).queue.length < 8 →
          u0.ended.closePhase (.ctx s.me) (s.ctx s.me).vnpu = some u →
          Completes (.enq p e n) s (u.enqueue s.me e ((s.ctx s.me).buf n)) [] none
            ∧ ∃ q, ((u.enqueue s.me e ((s.ctx s.me).buf n)).engine ⟨s.cur.core, e⟩).queue = (s.engine ⟨s.cur.core, e⟩).queue ++ [q]
              ∧ q.record = resolveRnd ((s.ctx s.me).buf n) (s.ctx s.me).fcr ∧ q.slot = s.cur.slot
              ∧ q.seq = (s.ctx s.me).seqs.get (Eng.fin e) ∧ q.sup = (s.ctx s.me).sup ∧ q.vnpu = (s.ctx s.me).vnpu
              ∧ (s.cur.slot = .o → (k.leased e = true ∨ s.harvestIn s.cur.core e = true) → k.ctxH.live = true →
                  q.afterRevoke = true ∧ (u.core s.cur.core).revoke = true)
              ∧ ((s.cur.slot = .h ∨ k.revoke = false ∧ k.leased e = false ∧ s.harvestIn s.cur.core e = false) → q.afterRevoke = false))

/-- MTS completes with the register written where the value has zero in every field the register leaves zero and a legal value
in every other, and traps RESERVED_FIELD with the word in EINFO elsewhere (R76, R433). That EINFO is the word for a value refused at
check 6 is the model's choice (log 41). -/
def Obligations.MtsWritesTheRegister : Prop :=
  ∀ (s : State) i n w, mtsGives (s.ctx s.me) i = some (n, w) → s.issues i = true →
    (sysOk n w = true → Completes i s (s.sysWrite s.me n w) [] none ∧ sysWritten (s.sysWrite s.me n w) n w)
      ∧ (sysOk n w = false → exec i s = .next (s.raise s.me { cause := 0x02, einfo := (encodeCtl i).getD 0 }))

/-- SEMMAP writes the map entry for a counter the slot may use, unmaps it with bit 63, traps RESERVED_FIELD for a nonzero zero
field and PERM for a counter outside its slot's range; SEMINC, SEMWAIT of an unmapped number trap PERM (R259, R260, R262). That EINFO is the
word for a value refused at check 6 is the model's choice (log 41). -/
def Obligations.SemmapWritesTheMap : Prop :=
  (∀ s p n a, s.issues (.semmap p n a) = true →
      let v := (s.ctx s.me).rd a
      (fld v 62 6 = 0 → tb v 63 = true → Completes (.semmap p n a) s (s.upd fun c => { c with semMap := c.semMap.set n.toNat 0x80 n.isLt }) [] none)
        ∧ (fld v 62 6 = 0 → tb v 63 = false → semEntryOk s.cur.slot (fld v 5 0) = true →
            Completes (.semmap p n a) s (s.upd fun c => { c with semMap := c.semMap.set n.toNat (BitVec.ofNat 8 (v.toNat % 64)) n.isLt }) [] none)
        ∧ (fld v 62 6 = 0 → tb v 63 = false → semEntryOk s.cur.slot (fld v 5 0) = false →
            exec (.semmap p n a) s = .next (s.raise s.me { cause := 0x06, eaddr := n.setWidth 64, einfo := BitVec.ofNat 64 (v.toNat % 64) }))
        ∧ (fld v 62 6 ≠ 0 → exec (.semmap p n a) s = .next (s.raise s.me { cause := 0x02, einfo := (encodeCtl (.semmap p n a)).getD 0 })))
    ∧ (∀ s p n a, (s.ctx s.me).counter n = none →
      (s.issues (.seminc p n a) = true → exec (.seminc p n a) s = .next (s.raise s.me { cause := 0x06, eaddr := n.setWidth 64 }))
        ∧ (s.issues (.semwait p n a) = true → exec (.semwait p n a) s = .next (s.raise s.me { cause := 0x06, eaddr := n.setWidth 64 })))

/-- Each traps with its cause and takes no other effect (R250, R256, R263, R326, R370, R434, R447). -/
def Obligations.WordsTrapOnTheirOperands : Prop :=
  ∀ s i t, trapOf s i = some t → s.issues i = true → exec i s = .next (s.raise s.me t)

/-! ## Traps, images and units -/

/-- TRAP completes its tick and traps at the next word; a trap that nothing holds enters at once, for the context as it stands;
and an entry saves the PC in EPC, the last word issued in EFROM, the cause, the address and the detail, keeps the landings for
the image alone, sets PPRIV and ACTIVE, and goes to the handler at S, as soon as the entry may be stamped and no line of its image is
held; a refused image begins the unit's failure (R242, R282, R347, R420, R421, R423). That the writes of the image wait for no regulator
is the model's reading of R468 (log 42), and what may be stamped when is the model's choice (log 87). -/
def Obligations.ATrapEntersTheHandler : Prop :=
  (∀ s p e, s.issues (.trap p e) = true →
    exec (.trap p e) s
      = .next ((s.finish [] (some ((s.ctx s.me).pc + 8)) 1).raise s.me { cause := 0x1A, einfo := e.setWidth 64 }))
  ∧ (∀ (s : State) i t, s.mayEnter i = true → t.gate = none →
    ∃ (w : State) (u : Trap) (b : Bool), b = (s.mayStamp (.ctx i) && !w.imageHeld (w.imageAcc i true) (imagePieces (w.saveArea i)))
      ∧ s.raise i t = (if b then (w.enterNow i u).stamped (.ctx i) else w)
      ∧ (s.mayStamp (.ctx i) = true → (∀ line, s.lineHeld line = false) → b = true)
      ∧ u.cause = t.cause ∧ u.eaddr = t.eaddr ∧ u.einfo = t.einfo ∧ u.report = t.report ∧ u.agent = Slot.num i.slot
      ∧ (w.ctx i).standsAs (s.ctx i) ∧ w.dram = s.dram)
  ∧ (∀ (s : State) i t u, s.entryImage i t = (u, none) →
    ((s.enterNow i t).ctx i).atHandlerOf (s.ctx i) t (u.vnpu (s.ctx i).vnpu).evec
      ∧ ∀ e, (s.enterNow i t).engHolds i.core e i.slot = false)
  ∧ (∀ (s : State) i t u x, s.entryImage i t = (u, some x) → s.enterNow i t = u.unitFailure i t.cause)

/-- ERET reads and checks the image once the records and phases of its context are complete; a valid one is loaded: the
registers, tick, landings and buffers of the image, the privilege of PPRIV, ACTIVE clear, the PC of EPC, and the exception
registers left, with the flags and the STPs of the tick it returns to; an invalid one traps RESERVED_FIELD with its offset, and one that
cannot be read with the fault of its first page (R121, R128, R428, R429). While a line of the image is held it waits (R282). Which flags and STPs
the tick it returns to has is the model's choice, by tick and sequence numbers (log 79). -/
def Obligations.EretReturns : Prop :=
  ∀ s p v b, s.issues (.eret p) = true → s.undrained s.me = none → s.ended.quiet = some v →
    b = !v.imageHeld (v.imageAcc s.me false) (imagePieces (v.saveArea s.me)) →
    (b = false → exec (.eret p) s = .next v)
    ∧ (∀ w m, b = true → v.getImage s.me (imagePieces (v.saveArea s.me)) = (w, m, none) → imageBad s.me.slot m = none →
      ∃ t, exec (.eret p) s = .next t ∧ (t.ctx s.me).pc = (s.ctx s.me).epc ∧ (t.ctx s.me).sup = tb (s.ctx s.me).estat 1
        ∧ (t.ctx s.me).estat = (s.ctx s.me).estat &&& ~~~1 ∧ (t.ctx s.me).tick = m.word 0x38
        ∧ (t.ctx s.me).landings = imageLandings m ∧ (∀ r : Reg, r ≠ 0 → (t.ctx s.me).rd r = m.word (0x100 + 8 * r.toNat))
        ∧ (t.ctx s.me).fcr = m.word 0x340 ∧ (t.ctx s.me).fsr = m.word 0x348 ∧ (t.ctx s.me).tentab = m.word 0x398
        ∧ (t.ctx s.me).epc = (s.ctx s.me).epc ∧ (t.ctx s.me).ecause = (s.ctx s.me).ecause ∧ (t.ctx s.me).einfo = (s.ctx s.me).einfo
        ∧ (let k := (s.ctx s.me).kept.find? fun k => decide (k.tick = m.word 0x38) && decide (k.seqs = (loadCtx m (w.ctx s.me)).seqs)
          (t.ctx s.me).stps = (k.map Kept.stps).getD [] ∧ (t.ctx s.me).tickFlags = (k.map Kept.flags).getD 0)
        ∧ t.dram = w.dram)
    ∧ (∀ w m off, b = true → v.getImage s.me (imagePieces (v.saveArea s.me)) = (w, m, none) → imageBad s.me.slot m = some off →
      exec (.eret p) s = .next (v.raise s.me { cause := 0x02, einfo := BitVec.ofNat 64 off }))
    ∧ (∀ w m x, b = true → v.getImage s.me (imagePieces (v.saveArea s.me)) = (w, m, some x) → exec (.eret p) s = .next (v.raise s.me x))

/-- CTXSV takes the cut of its bank and copies the save area to its operand with the current exception registers; CTXLD copies its
operand to the save area and loads the exception registers, keeping ACTIVE and DEF; each after the phases of its context, CTXSV after
those of its engines too, as the regulators let its lines through. A page that fails traps: in CTXSV with the pages before it copied, in CTXLD with the save area and the
registers as they were; registers that R429 refuses trap RESERVED_FIELD (R233, R385, R427, R434). What the context keeps for a return to
an earlier image stays through CTXLD, which is the model's choice (log 79). -/
def Obligations.ImagesAreCopied : Prop :=
  (∀ s p a u w, s.issues (.ctxsv p a) = true → ((s.ctx s.me).rd a).toNat % 64 = 0 → s.quiet = some u →
    let x := u.cutStep s.me
    x.atCut s.me = true → x.engPhasesQuiet s.me = true →
    (∀ v, x.copyGate (imagePieces (x.saveArea s.me) ++ imagePieces ((s.ctx s.me).rd a).toNat) = (false, v) → exec (.ctxsv p a) s = .next v)
    ∧ (x.copyGate (imagePieces (x.saveArea s.me) ++ imagePieces ((s.ctx s.me).rd a).toNat) = (true, w) →
    (∀ v, w.copyImage s.me ((s.ctx s.me).rd a).toNat (imagePieces (x.saveArea s.me)) = (v, none) → Completes (.ctxsv p a) s v [] none)
      ∧ (∀ v t, w.copyImage s.me ((s.ctx s.me).rd a).toNat (imagePieces (x.saveArea s.me)) = (v, some t) →
          exec (.ctxsv p a) s = .next (v.raise s.me t))))
  ∧ (∀ s p a u g h y, s.issues (.ctxld p a) = true → ((s.ctx s.me).rd a).toNat % 64 = 0 → s.quiet = some u →
    u.copyGate (imagePieces ((s.ctx s.me).rd a).toNat ++ imagePieces (u.saveArea s.me)) = (true, g) →
    g.getImage s.me [(((s.ctx s.me).rd a).toNat, 0, 64)] = (y, h, none) →
    (∀ off, excBad h = some off → exec (.ctxld p a) s = .next (y.raise s.me { cause := 0x02, einfo := BitVec.ofNat 64 off }))
    ∧ (∀ x m t, excBad h = none → y.getImage s.me (imagePieces ((s.ctx s.me).rd a).toNat) = (x, m, some t) →
        exec (.ctxld p a) s = .next (x.raise s.me t))
    ∧ (∀ x m v t, excBad h = none → y.getImage s.me (imagePieces ((s.ctx s.me).rd a).toNat) = (x, m, none) →
        x.putImage s.me m (imagePieces (u.saveArea s.me)) = (v, some t) → exec (.ctxld p a) s = .next (x.raise s.me t))
    ∧ (∀ x m v, excBad h = none → y.getImage s.me (imagePieces ((s.ctx s.me).rd a).toNat) = (x, m, none) →
        x.putImage s.me m (imagePieces (u.saveArea s.me)) = (v, none) →
        Completes (.ctxld p a) s (v.upd fun c => { c with
      epc := m.word 0x8, efrom := m.word 0x10, ecause := m.word 0x18, eaddr := m.word 0x20, einfo := m.word 0x28
      estat := (m.word 0x30 &&& ~~~9) ||| (c.estat &&& 1) }) [] none))

/-- END retires its unit or harvest context, OPBND with a request pending saves its unit at the next word, and YIELD holds slot O
for 256 core cycles or parks the harvest context at the next word, checkpointed (R333, R348, R440, R443). -/
def Obligations.WordsThatLeaveTheSlot : Prop :=
  (∀ s p u, s.issues (.endUnit p) = true → s.undrained s.me = none → s.ended.quiet = some u →
    exec (.endUnit p) s = .next (u.endUnit s.me) ∧ ((u.endUnit s.me).ctx s.me).live = false)
  ∧ (∀ s p u, s.issues (.opbnd p) = true → (s.ctx s.me).preq = true → s.undrained s.me = none → s.ended.quiet = some u →
    ∃ t, exec (.opbnd p) s = .next t ∧ (t.ctx s.me).live = false
      ∧ ∃ x ∈ (t.core s.cur.core).saved, x.ctx.pc = (s.ctx s.me).pc + 8 ∧ x.ctx.g = ((u.finish [] (some ((s.ctx s.me).pc + 8)) 1).ctx s.me).g
          ∧ x.live = 0 ∧ x.lost = false)
  ∧ (∀ s p, s.issues (.yield p) = true → s.cur.slot = .o →
    exec (.yield p) s = .next ((s.finish [] none 1).upd fun c => { c with holdEnd := some (s.coreCycle s.cur.core + 256) }))
  ∧ (∀ s p, s.issues (.yield p) = true → s.cur.slot = .h → (∀ e ∈ s.wft, e.holder = false) → s.drained s.me = true →
    s.slxnOpen s.me = false →
    ∃ t, exec (.yield p) s = .next t ∧ (t.ctx s.me).live = false
      ∧ let b := (t.core s.cur.core).bank (s.ctx s.me).bank
        b.used = true ∧ b.parked = true ∧ b.yielded = true ∧ b.ctx.pc = (s.ctx s.me).pc + 8)

/-- LEND of a mask, once its records have retired, makes it the lent set, zero-filling each region that changes holder, after the
harvest context is revoked where it holds a region that returns; RECALL revokes it at once, or once its service is complete (R326, R330,
R332, R435). -/
def Obligations.LendAndRecall : Prop :=
  (∀ s p a, s.issues (.lend p a) = true → fld ((s.ctx s.me).rd a) 63 60 = 0 → s.drained s.me = true →
    let mask : BitVec 60 := ((s.ctx s.me).rd a).setWidth 60
    let back := (s.core s.cur.core).lent &&& ~~~mask
    let r := (s.askRevoke s.cur.core false).revokeNow s.cur.core
    ((back = 0 ∨ (s.core s.cur.core).ctxH.live = false) → Completes (.lend p a) s (s.modCore s.cur.core fun k => k.lend mask) [] none)
      ∧ (back ≠ 0 → (s.core s.cur.core).ctxH.live = true → (r.core s.cur.core).ctxH.live = false →
          Completes (.lend p a) s (r.modCore s.cur.core fun k => k.lend mask) [] none)
      ∧ (back ≠ 0 → (s.core s.cur.core).ctxH.live = true → (r.core s.cur.core).ctxH.live = true → exec (.lend p a) s = .next r))
  ∧ (∀ s p, s.issues (.recall p) = true →
    let u := ((s.askRevoke s.cur.core true).revokeNow s.cur.core).modCore s.cur.core fun k => { k with recalled := true }
    ((u.core s.cur.core).ctxH.live = false → Completes (.recall p) s u [] none)
      ∧ ((u.core s.cur.core).ctxH.live = true → exec (.recall p) s = .next u)
      ∧ (s.slotHStays s.cur.core = false → (u.core s.cur.core).ctxH.live = false))
  ∧ (∀ (k : Core) m, (k.lend m).lent = m ∧ (k.lend m).recalled = false)

/-- BAR 0 completes once the phases and records of its context are complete. BAR and BARXF of a level 1 to 3 arrive, and complete
once their meeting is over, BARXF from the start of its phase on, with the L1 copies of slot O discarded; a BARXF arrives with the
tokens of its program taken, and waits at the first port that lacks one, for a revocation that a record of the program awaits and while a
regulator holds an access of its engines; a second kind at one meeting traps DOMAIN, and one that is no
member of the open meeting waits for the next (R235, R253, R368-R371). -/
def Obligations.BarriersMeet : Prop :=
  (∀ s p u, s.issues (.bar p 0) = true → (∀ b, (s.ctx s.me).stage ≠ .arrived b) → s.quiet = some u → u.undrained s.me = none →
    Completes (.bar p 0) s u.ended [] none)
  ∧ (∀ s p lv b, s.issues (.bar p lv) = true → (s.cur.slot = .o ∨ lv = 0) → (s.ctx s.me).stage = .arrived b →
    (s.barriers.any fun x => x.id = b) = false → Completes (.bar p lv) s (s.l1Drop s.cur.core) [] none)
  ∧ (∀ s p lv u v, s.issues (.bar p lv) = true → s.cur.slot = .o → lv ≠ 0 → (∀ b, (s.ctx s.me).stage ≠ .arrived b) → s.quiet = some u →
    u.arrive s.me lv.toNat false = some (.ok v) →
    exec (.bar p lv) s = .next (v.blockCtx s.me (s.barrierObj s.me lv.toNat)) ∧ ∃ b, (v.ctx s.me).stage = .arrived b)
  ∧ (∀ s p lv u t, s.issues (.bar p lv) = true → s.cur.slot = .o → lv ≠ 0 → (∀ b, (s.ctx s.me).stage ≠ .arrived b) → s.quiet = some u →
    u.arrive s.me lv.toNat false = some (.error t) → exec (.bar p lv) s = .next (u.raise s.me t) ∧ t.cause = 0x1F ∧ t.einfo = 4)
  ∧ (∀ s p lv u, s.issues (.bar p lv) = true → s.cur.slot = .o → lv ≠ 0 → (∀ b, (s.ctx s.me).stage ≠ .arrived b) → s.quiet = some u →
    u.arrive s.me lv.toNat false = none → exec (.bar p lv) s = .next (u.blockCtx s.me (s.barrierObj s.me lv.toNat)))
  ∧ (∀ s p lv u prog, s.issues (.barxf p lv) = true → s.cur.slot = .o → lv ≠ 0 → (∀ b, (s.ctx s.me).stage ≠ .arrived b) →
    s.program s.me = some prog → s.quiet = some u →
    let o := s.barrierObj s.me lv.toNat
    let later := prog.any (u.awaitsRevocation ⟨s.cur.core, .xf⟩) || u.stepsHeld s.cur.core
    (later = true → exec (.barxf p lv) s = .next u)
    ∧ (∀ n, later = false → popAll (u.ctx s.me) (u.popping s.me prog) = .error n →
        exec (.barxf p lv) s = .next (u.blockCtx s.me (portObj s.cur.core .o .xf n.val)))
    ∧ (∀ x, later = false → popAll (u.ctx s.me) (u.popping s.me prog) = .ok x →
        (∀ v, u.arrive s.me lv.toNat true = some (.ok v) →
          exec (.barxf p lv) s = .next (((v.unblockCtx s.me).setCtx s.me { x with stage := (v.ctx s.me).stage, blocked := none }).blockCtx s.me o)
            ∧ ∃ b, (v.ctx s.me).stage = .arrived b)
        ∧ (∀ t, u.arrive s.me lv.toNat true = some (.error t) → exec (.barxf p lv) s = .next (u.raise s.me t) ∧ t.cause = 0x1F ∧ t.einfo = 4)
        ∧ (u.arrive s.me lv.toNat true = none → exec (.barxf p lv) s = .next (u.blockCtx s.me o))))
  ∧ (∀ s p lv b x n, s.issues (.barxf p lv) = true → lv ≠ 0 → s.cur.slot = .o → (s.ctx s.me).stage = .arrived b →
    s.xphases.find? (fun x => x.id = b) = some x → x.start = some n →
    (n ≤ s.cycle → Completes (.barxf p lv) s (s.l1Drop s.cur.core) [] none) ∧ (s.cycle < n → exec (.barxf p lv) s = .next s))
  ∧ (∀ s p lv b, s.issues (.barxf p lv) = true → lv ≠ 0 → s.cur.slot = .o → (s.ctx s.me).stage = .arrived b →
    (s.barriers.any fun x => x.id = b) = false →
    (∀ x ∈ s.xphases, x.id = b → ∃ n, x.start = some n ∧ n ≤ s.cycle) →
    Completes (.barxf p lv) s (s.l1Drop s.cur.core) [] none)

/-- A service returns its status in g1 and its value, zero with a status that is not zero, in g2, once every phase of the caller is
complete; a U caller of an S service receives status 1. TINST of an encrypted tensor takes an identifier above the world's
highest. The ticket of SCRUBREQ is a free value (log 5). GRESET starts the reset of a virtual NPU of the caller's partition and
returns when it is complete (R408-R410, R417, R435, R436). Where a context has sent nothing that is unacknowledged, an S caller with
operands in range is answered at once: TINST, TVBUMP, TREMOVE, S1ROOT, TLBINV and SCRUBREQ complete with status 0. -/
def Obligations.ServicesAnswer : Prop :=
  (∀ s u i r st v, s.quiet = some u → serviceResult s u i = some (r, st, v) → s.issues i = true →
    Completes i s r [res 1 (BitVec.ofNat 64 st), res 2 (if st = 0 then BitVec.ofNat 64 v else 0)] none)
  ∧ (∀ s i, s.sentNothing → serviceRuns s i → s.issues i = true →
    ∃ u r v, s.quiet = some u ∧ serviceResult s u i = some (r, 0, v) ∧ Completes i s r [res 1 0, res 2 (BitVec.ofNat 64 v)] none)
  ∧ (∀ s p, s.sentNothing → s.issues (.greset p) = true → (s.ctx s.me).stage = .fresh →
    let n := ((s.ctx s.me).rd 1).toNat
    ∃ u, s.quiet = some u
      ∧ ((s.ctx s.me).sup = false → Completes (.greset p) s u [res 1 1, res 2 0] none)
      ∧ ((s.ctx s.me).sup = true → (64 ≤ n ∨ n = (s.ctx s.me).vnpu.val) → Completes (.greset p) s u [res 1 2, res 2 0] none)
      ∧ (∀ v : VnpuId, (s.ctx s.me).sup = true → v.val = n → v ≠ (s.ctx s.me).vnpu →
          ((s.contract v).enable = false ∨ topOf (s.leafOf v) ≠ s.ctxTop s.me) → Completes (.greset p) s u [res 1 5, res 2 0] none))
  ∧ (∀ s u v w p bs es, s.quiet = some u → s.issues (.tinst p) = true → (s.ctx s.me).sup = true →
    ((s.ctx s.me).rd 1).toNat < (s.ctx s.me).slots → ((s.ctx s.me).rd 2).toNat % 64 = 0 →
    u.load (.ctx s.me) (u.myAcc false) 0 ((s.ctx s.me).rd 2).toNat 64 u.inSlotO false = .ok v bs →
    entWorld (leNat bs) = (u.ctxWorld s.me).toNat → entSealed (leNat bs) = false → entEnc (leNat bs) = true →
    (v.tensor (u.ctxLeaf s.me) ((s.ctx s.me).rd 1).toNat).writer = none → v.ctx s.me = u.ctx s.me → v.cur = s.cur → u.ctx s.me = { s.ctx s.me with stage := (u.ctx s.me).stage } →
    v.load (.ctx s.me) (u.myAcc false) 0 ((s.ctx s.me).entryAddr ((s.ctx s.me).rd 1).toNat) 44 u.inSlotO false = .ok w es →
    let fits := 2 ≤ (u.ctxWorld s.me).toNat ∧ entHost (leNat es) = false
      ∧ (getKey (u.ctxWorld s.me) w.highWater).getD 0 < entTid (leNat bs)
    (fits → Completes (.tinst p) s
        (({ w with highWater := putKey (u.ctxWorld s.me) (entTid (leNat bs)) w.highWater } : State).setTensor
          ⟨u.ctxLeaf s.me, ((s.ctx s.me).rd 1).toNat, entTid (leNat bs), 0, u.ctxWorld s.me, true, false, none, false, none⟩) [res 1 0, res 2 0] none)
      ∧ (¬ fits → Completes (.tinst p) s w [res 1 5, res 2 0] none))
  ∧ (∀ s u p (n : VnpuId), s.quiet = some u → s.issues (.greset p) = true → (s.ctx s.me).stage ≠ .revoking → (s.ctx s.me).rd 1 = BitVec.ofNat 64 n.val →
    (s.ctx s.me).sup = true → n ≠ (s.ctx s.me).vnpu → (u.contract n).enable = true → topOf (u.leafOf n) = u.ctxTop u.me →
    exec (.greset p) s = .next ((u.startReset n).modCtx (u.startReset n).me fun c => { c with stage := .revoking }))
  ∧ (∀ s p (n : VnpuId), s.issues (.greset p) = true → (s.ctx s.me).stage = .revoking → (s.ctx s.me).rd 1 = BitVec.ofNat 64 n.val →
    (s.vnpu n).busy = false → Completes (.greset p) s s [res 1 0, res 2 0] none)

/-- SLX sends its invocation and lands q of the reply; SLXN counts its invocation and goes on; an unaligned or unmapped target or a
refused access traps at SLX, and is a routine-fault record of SLXN, which completes once it may be stamped; while a line of the walk to the
target is held both wait (R242, R282, R293-R296, R298). What
may be stamped when is the model's choice (log 87), and so is a number whose id is not installed taken as unmapped (log 96). -/
def Obligations.InvocationsAreSent : Prop :=
  (∀ s p cls d a b x vr q, s.issues (.slx p cls d a b x vr) = true → (s.ctx s.me).stage = .replied q →
    Completes (.slx p cls d a b x vr) s s [res d q] none)
  ∧ (∀ s p cls d a b x vr n pa pages u, s.issues (.slx p cls d a b x vr) = true → (s.ctx s.me).stage = .fresh →
    s.invHeld (s.myAcc true) ((s.ctx s.me).rd a) (s.mapped s.me (vrIx vr)) = false → s.mapped s.me (vrIx vr) = some n → s.invAddr (s.myAcc true) ((s.ctx s.me).rd a) vr (some n) = .ok (pa, pages) →
    s.sendInv (s.newInv (s.ctx s.me) true pa ((s.ctx s.me).rd a) n vr ((s.ctx s.me).rd b) ((s.ctx s.me).rd x) cls.toNat) pages = .ok u () →
    exec (.slx p cls d a b x vr) s = .next (u.modCtx u.me fun c => { c with stage := .sent s.msgs }))
  ∧ (∀ s p cls d a b x vr, s.invHeld (s.myAcc true) ((s.ctx s.me).rd a) (s.mapped s.me (vrIx vr)) = true →
    (s.issues (.slx p cls d a b x vr) = true → (s.ctx s.me).stage = .fresh → exec (.slx p cls d a b x vr) s = .next s)
    ∧ (s.issues (.slxn p cls a b x vr) = true → exec (.slxn p cls a b x vr) s = .next s))
  ∧ (∀ s p cls d a b x vr t, s.issues (.slx p cls d a b x vr) = true → (s.ctx s.me).stage = .fresh →
    s.invHeld (s.myAcc true) ((s.ctx s.me).rd a) (s.mapped s.me (vrIx vr)) = false → s.invAddr (s.myAcc true) ((s.ctx s.me).rd a) vr (s.mapped s.me (vrIx vr)) = .error t →
    exec (.slx p cls d a b x vr) s = .next (s.raise s.me t))
  ∧ (∀ s p cls a b x vr n pa pages u, s.issues (.slxn p cls a b x vr) = true →
    s.invHeld (s.myAcc true) ((s.ctx s.me).rd a) (s.mapped s.me (vrIx vr)) = false → s.mapped s.me (vrIx vr) = some n → s.invAddr (s.myAcc true) ((s.ctx s.me).rd a) vr (some n) = .ok (pa, pages) →
    s.sendInv (s.newInv (s.ctx s.me) false pa ((s.ctx s.me).rd a) n vr ((s.ctx s.me).rd b) ((s.ctx s.me).rd x) cls.toNat) pages = .ok u () →
    Completes (.slxn p cls a b x vr) s (u.upd fun c => { c with slxn := c.slxn + 1 }) [] none)
  ∧ (∀ s p cls a b x vr t, s.issues (.slxn p cls a b x vr) = true →
    s.invHeld (s.myAcc true) ((s.ctx s.me).rd a) (s.mapped s.me (vrIx vr)) = false → s.invAddr (s.myAcc true) ((s.ctx s.me).rd a) vr (s.mapped s.me (vrIx vr)) = .error t →
    let e := faultRecord (s.newInv (s.ctx s.me) false 0 ((s.ctx s.me).rd a) 0 vr 0 0 cls.toNat) t.cause 0 s.gtc
    (s.mayStamp (.ctx s.me) = false → exec (.slxn p cls a b x vr) s = .next s)
      ∧ (s.mayStamp (.ctx s.me) = true →
        Completes (.slxn p cls a b x vr) s ((s.upd fun c => ({ c with slxn := c.slxn + 1 }).pushEvent e).stamped (.ctx s.me)) [] none)
      ∧ (t.cause < 256 → fld e.lo 3 0 = 2 ∧ fld e.lo 7 4 = cls.toNat ∧ fld e.lo 15 8 = t.cause
          ∧ fld e.lo 31 16 = (s.ctx s.me).slxn.toNat % 65536 ∧ fld e.lo 36 32 = vr.toNat ∧ fld e.lo 63 48 = s.cur.core.val * 8 + 7)
      ∧ e.hi = s.gtc
      ∧ (s.mayStamp (.ctx s.me) = true → (s.ctx s.me).events.length < 64 → (s.ctx s.me).eventsHeld = [] →
          ∃ v, exec (.slxn p cls a b x vr) s = .next v ∧ e ∈ (v.ctx s.me).events ∧ v.net = s.net))
  ∧ (∀ (s : State) a (ea : Word) vr id, ea.toNat % 8 ≠ 0 → s.invAddr a ea vr id = .error { cause := 0x08, eaddr := ea })
  ∧ (∀ (s : State) a (ea : Word) vr, ea.toNat % 8 = 0 → s.invAddr a ea vr none = .error { cause := 0x12, eaddr := ea, einfo := vr.setWidth 64 })

/-- RTINST installs an image of 1 to 16 legal words under the least free id and answers it, refuses an image with the index of its
first illegal word, or answers that no id is free; with bit 63 it frees an id that no invocation uses (R291). -/
def Obligations.RtinstInstallsAndFrees : Prop :=
  (∀ s p d a b u bs, s.issues (.rtinst p d a b) = true → ((s.ctx s.me).rd b).toNat / 2 ^ 5 = 0 →
    let k := ((s.ctx s.me).rd b).toNat
    let ws := imageWords k (leNat bs)
    1 ≤ k → k ≤ 16 → ((s.ctx s.me).rd a).toNat % 64 = 0 →
    s.load (.ctx s.me) (s.myAcc false) 0 ((s.ctx s.me).rd a).toNat (4 * k) s.inSlotO false = .ok u bs →
      (∀ n, firstBad ws = some n → Completes (.rtinst p d a b) s u [res d (rtWord 1 n 0 false)] none)
        ∧ (firstBad ws = none → u.freeId (s.ctxLeaf s.me) = none → Completes (.rtinst p d a b) s u [res d (rtWord 2 0 0 false)] none)
        ∧ (∀ id ph, firstBad ws = none → u.freeId (s.ctxLeaf s.me) = some (id, ph) →
            Completes (.rtinst p d a b) s (u.installRoutine ⟨s.ctxLeaf s.me, id, ph, ws⟩) [res d (rtWord 0 0 id false)] none))
  ∧ (∀ s p d a b, s.issues (.rtinst p d a b) = true → fld ((s.ctx s.me).rd b) 62 8 = 0 → tb ((s.ctx s.me).rd b) 63 = true →
    let id := ((s.ctx s.me).rd b).toNat % 256
    let l := s.ctxLeaf s.me
    (id < 16 → Completes (.rtinst p d a b) s s [res d (rtWord 4 0 0 false)] none)
      ∧ (16 ≤ id → s.idKnown l id = true → (s.ctx s.me).stage = .revoking → s.idInUse l id = false →
          Completes (.rtinst p d a b) s { s with routines := s.routines.filter fun r => !(r.leaf = l && r.rid = id) }
            [res d (rtWord 0 0 0 false)] none))

/-! ## Engine records -/

/-- A step of a record of VX whose lanes stand alone, with its operands checked, writes each destination lane by its rule, merges the
flags, moves the walk on and changes nothing else: the lanes read back are the results, and every other byte of the local
stores is as before (R148, R150, R162-R173). Choices of the model: a clamped conversion raises invalid alone (log 7), an infinity narrowed
under SAT stays an infinity (log 83), immediates of F8 and E8 lanes (log 85), the power of VSCALE (log 49), a restored record with RND = 7
(log 82) and the values of the special functions inside their bounds (log 5). -/
def Obligations.LaneRecordsWriteEveryLane : Prop :=
  ∀ s i q r o f as, laneRule i = some (r, o, f) → s.walksWell i .vx q r →
    let h := s.headOf .vx
    let k := s.core s.cur.core
    let e : EngId := ⟨s.cur.core, .vx⟩
    let out := lanesOut o r (f h) k as
    let n := vecBytes o.w r.dtype
    k.checked q.slot (o.opds r h) = .ok as →
    ∃ t, exec i s = .next t
      ∧ t = ((s.unblockEng e q.slot).localWrites [(as.getD 0 0, leBytes n (packLanes (tw r.dtype) (codes out)))]).setHead e
          (Head.advance { h with flags := h.flags ||| flagsOf out } r)
      ∧ (k.store.wf = true →
          (∀ j, j < o.w → lane (tw r.dtype) ((t.core s.cur.core).val (as.getD 0 0) n) j = (out.getD j (0, 0)).1 % 2 ^ tw r.dtype)
          ∧ ∀ a, (a < as.getD 0 0 ∨ as.getD 0 0 + n ≤ a) → (t.core s.cur.core).store.get a = k.store.get a)
      ∧ (t.core s.cur.core).sems = k.sems ∧ (t.core s.cur.core).vers = k.vers ∧ t.dram = s.dram ∧ t.net = s.net

/-- A step of the other records of VX, its operands checked, takes exactly the effect of its rule; a VCMP that pushes needs room in the
condition queue and is registered on it otherwise; VBUMP and VTYPE make no step; VGATHER reads its indices, then the elements of the
active lanes, and zeros the rest; VSCATTER writes its lanes in ascending order; VPART appends each lane's index to one of two
lists and carries the counts (R153, R167, R168, R171-R183). Choices of the model: VPART's count (log 11) and the indices of LIST (log 12),
the immediates of F8 and E8 lanes in VBCAST and VCMP (log 85), VDEQ of an infinite F8E5 element under SAT (log 83), a restored record with
RND = 7 (log 82), and that the base of VGATHER's S1 and VSCATTER's D is not itself checked (log 104). -/
def Obligations.VectorRecordsTakeTheirStep : Prop :=
  (∀ s i q r os f as, stepRule (s.core s.cur.core) (s.headOf .vx) i = some (r, os, f) → s.walksWell i .vx q r →
    (∀ x, i = .vcmp x → x.aux.getLsbD 15 = true → (s.ctx ⟨s.cur.core, q.slot⟩).cqRoom = true) →
    (s.core s.cur.core).checked q.slot os = .ok as → exec i s = .next (s.vxTaken q r (f as)))
  ∧ (∀ s q r, s.walksWell (.vcmp r) .vx q r → r.aux.getLsbD 15 = true → (s.ctx ⟨s.cur.core, q.slot⟩).cqRoom = false →
    exec (.vcmp r) s = .next (s.blockEng ⟨s.cur.core, .vx⟩ q.slot (cqObj s.cur.core q.slot)))
  ∧ (∀ s i q r, (i = .vbump r ∨ i = .vtype r) → s.walksWell i .vx q r →
    exec i s = .next (s.setHead ⟨s.cur.core, .vx⟩ { s.headOf .vx with st := .done }))
  ∧ (∀ s q r ad ix c as, s.walksWell (.vgather r) .vx q r →
    let h := s.headOf .vx
    let k := s.core s.cur.core
    let z := tw r.dtype / 8
    k.opds q.slot [vecAt r.d (h.addr r.d) (128 * z) (some r.dtype) false] = .ok [ad] → indices r k q.slot h = .ok (ix, c) →
    k.checked q.slot ((ix.filterMap id).map fun i => scalarAt r.s1 (h.addr r.s1 + i * z) z (some r.stype) true) = .ok as →
    exec (.vgather r) s = .next (s.vxTaken q r
      { writes := [(ad, leBytes (128 * z) (packLanes (8 * z) (as.map (k.val · z) ++ List.replicate (128 - as.length) 0)))]
        carry := some (BitVec.ofNat 64 c) }))
  ∧ (∀ s q r a1 ix c as, s.walksWell (.vscatter r) .vx q r →
    let h := s.headOf .vx
    let k := s.core s.cur.core
    let z := tw r.stype / 8
    k.opds q.slot [vecAt r.s1 (h.addr r.s1) (128 * z) (some r.stype) true] = .ok [a1] → indices r k q.slot h = .ok (ix, c) →
    k.opds q.slot ((ix.filterMap id).map fun i => scalarAt r.d (h.addr r.d + i * z) z (some r.dtype) false) = .ok as →
    k.poisonIn [(a1, 128 * z)] = none →
    exec (.vscatter r) s = .next (s.vxTaken q r
      { writes := as.mapIdx fun e a => (a, leBytes z (lane (8 * z) (k.val a1 (128 * z)) e)), carry := some (BitVec.ofNat 64 c) }))
  ∧ (∀ s q r aD a1 a2 as, s.walksWell (.vpart r) .vx q r →
    let h := s.headOf .vx
    let k := s.core s.cur.core
    let w := lanesOf r.stype
    let n := vecBytes w r.stype
    let first := h.linear r = 0
    let x := partEntries (nonZero r (k.val a1 n)) (h.linear r * w) (if first then 0 else h.carry.toNat % 2 ^ 32)
      (if first then 0 else h.carry.toNat / 2 ^ 32)
    let es := x.1.map fun e => (scalarAt (if e.1 then r.d else r.s2) (((if e.1 then r.d else r.s2).base.toNat : Int) + 4 + 4 * e.2.1)
      4 (some 10) false, e.2.2)
    k.checked q.slot [scalarAt r.d r.d.base.toNat 4 (some 10) false, vecAt r.s1 (h.addr r.s1) n (some r.stype) true,
      scalarAt r.s2 r.s2.base.toNat 4 (some 10) false] = .ok [aD, a1, a2] →
    k.opds q.slot (es.map (·.1)) = .ok as →
    exec (.vpart r) s = .next (s.vxTaken q r
      { writes := List.zipWith (fun a e => (a, leBytes 4 e.2)) as es
        carry := some (BitVec.ofNat 64 (x.2.1 % 2 ^ 32 + x.2.2 % 2 ^ 32 * 2 ^ 32)) }))

/-- A step of the MMA family adds eight group products to each of 128 columns, from D, from zero, or from the columns of the step
before, and writes and tags D at the last step of a j0 loop only; MRET converts 128 accumulator lanes; MZERO writes zeros and
tags its tile (R191, R200-R203). Choices of the model: an MRET that clamps raises invalid alone (log 7), infinities under SAT (log 83), a
restored record with RND = 7 rounds to nearest even (log 82), and the tiles of a record from an image are checked once more at its next
step (log 34). -/
def Obligations.MatrixStepsTakeTheirEffect : Prop :=
  (∀ s i q r zero scaled accS1 as, mmaForm i = some (r, zero, scaled, accS1) → s.walksWell i .mx q r →
    let h := s.headOf .mx
    let k := s.core s.cur.core
    let n := 256 / blockQ r.stype
    let one : Machine.Num := .fin false 1 0
    let old := if h.j0 = 0 then (if zero then 0 else k.val (as.getD 0 0) 512) else h.mcarry.toNat
    let out := (List.range 128).map fun c => columnStep r.stype (k.val (as.getD 1 0) 256) (k.val (as.getD 2 0 + 256 * c) 256)
      (fun j => if scaled then ofE8 (lane 8 (k.val (as.getD 3 0) n) (j / 32)) else one)
      (fun j => if scaled then ofE8 (lane 8 (k.val (as.getD 4 0) (128 * n)) (c * n + j / 32)) else one) (lane 32 old c)
    let new := packLanes 32 (codes out)
    (h.resumed = true → k.tileCheck q.slot (recOpc q.record).toNat r = none) → k.checked q.slot (mmaOpds zero scaled accS1 r h) = .ok as →
    exec i s = .next (s.mxTaken r (if h.lastJ0 r then [(as.getD 0 0, leBytes 512 new)] else [])
      (if h.lastJ0 r && zero then [tileOf (as.getD 0 0)] else []) (flagsOf out) (BitVec.ofNat 4096 new)))
  ∧ (∀ s q r aD a1, s.walksWell (.mret r) .mx q r →
    let h := s.headOf .mx
    let k := s.core s.cur.core
    let n := 128 * tw r.dtype / 8
    let out := (List.range 128).map fun e =>
      convert (tyOf r.stype) (tyOf r.dtype) (laneRnd r h 128 e) (satOf r) (lane 32 (k.val a1 512) e)
    (h.resumed = true → k.tileCheck q.slot (recOpc q.record).toNat r = none) →
    k.checked q.slot [⟨r.d.space, [h.addr r.d], n, min 64 n, true, none, false⟩, ⟨1, [h.addr r.s1], 512, 512, true, some r.stype, true⟩]
      = .ok [aD, a1] →
    exec (.mret r) s = .next (s.mxTaken r [(aD, leBytes n (packLanes (tw r.dtype) (codes out)))]
      (if aD / 2 ^ 28 = 1 then [tileOf aD] else []) (flagsOf out) h.mcarry))
  ∧ (∀ s q r aD, s.walksWell (.mzero r) .mx q r →
    let h := s.headOf .mx
    (h.resumed = true → (s.core s.cur.core).tileCheck q.slot (recOpc q.record).toNat r = none) →
    (s.core s.cur.core).checked q.slot [⟨1, [h.addr r.d], 512, 512, true, none, false⟩] = .ok [aD] →
    exec (.mzero r) s = .next (s.mxTaken r [(aD, List.replicate 512 0)] [tileOf aD] 0 h.mcarry))

/-- A head that walks and breaks the checks of R44 or its operation's own faults with cause 0x02 at its own micro-PC; a step of VX or MX whose
operands fail faults with PHASE 0, the step's own cause, and no write but those of the steps before it; and a head that does not walk
takes no step (R44, R150, R155, R199, R211, R421). That the checks of R44 are made again at every step, and the
tiles of a record from an image at its next step, is the model's reading of R430 (log 34). -/
def Obligations.RecordsFaultWithNoEffect : Prop :=
  (∀ s i e opc q r, recordParts i = some (e, opc, r) → e ≠ .xf → s.walks e q → (headerOk e r && recordOk i) = false →
    exec i s = .next (s.engFault ⟨s.cur.core, e⟩ 0 { cause := 0x02 }))
  ∧ (∀ s i q r o f t, laneRule i = some (r, o, f) → s.walksWell i .vx q r →
    (s.core s.cur.core).checked q.slot (o.opds r (s.headOf .vx)) = .error t → exec i s = .next (s.engFault ⟨s.cur.core, .vx⟩ 0 t))
  ∧ (∀ s i q r zero scaled accS1 t, mmaForm i = some (r, zero, scaled, accS1) → s.walksWell i .mx q r →
    ((s.headOf .mx).resumed = true → (s.core s.cur.core).tileCheck q.slot (recOpc q.record).toNat r = none) →
    (s.core s.cur.core).checked q.slot (mmaOpds zero scaled accS1 r (s.headOf .mx)) = .error t →
    exec i s = .next (s.engFault ⟨s.cur.core, .mx⟩ 0 t))
  ∧ (∀ s i q r os f t, stepRule (s.core s.cur.core) (s.headOf .vx) i = some (r, os, f) → s.walksWell i .vx q r →
    (∀ x, i = .vcmp x → x.aux.getLsbD 15 = true → (s.ctx ⟨s.cur.core, q.slot⟩).cqRoom = true) →
    (s.core s.cur.core).checked q.slot os = .error t → exec i s = .next (s.engFault ⟨s.cur.core, .vx⟩ 0 t))
  ∧ (∀ s i q r t, ((∃ zero scaled accS1, mmaForm i = some (r, zero, scaled, accS1)) ∨ i = .mret r ∨ i = .mzero r) → s.walksWell i .mx q r →
    (s.headOf .mx).resumed = true → (s.core s.cur.core).tileCheck q.slot (recOpc q.record).toNat r = some t → exec i s = .next (s.engFault ⟨s.cur.core, .mx⟩ 0 t))
  ∧ (∀ s i e opc r, recordParts i = some (e, opc, r) → e ≠ .xf → (s.engine ⟨s.cur.core, e⟩).queue ≠ [] → (s.headOf e).st ≠ .walking →
    exec i s = .next s)
  ∧ (∀ (s : State) e q p t, (∃ rest, (s.engine e).queue = q :: rest) → (s.engine e).head.orphan = false →
    let u := s.engFault e p t
    (u.engine e).head.st = .faulted p ∧ (u.engine e).queue = (s.engine e).queue ∧ (u.ctx ⟨e.core, q.slot⟩).trap.isSome = true
      ∧ ((s.engine e).head.put = none → ∀ c, (u.core c).store = (s.core c).store)
      ∧ (∀ w, (s.engine e).head.put = some w → (u.engine e).head.put = none ∧ ((s.core e.core).firstNotHeld q.slot (64 * w.unit) 64 = none →
        (u.core e.core).store = ((s.core e.core).writeUnit w).store)) ∧ u.dram = s.dram
      ∧ ((u.engine e).head.fault.map fun x => (x.cause, x.eaddr, x.einfo, x.agent)) = some (t.cause, t.eaddr, t.einfo, 2 + (Eng.fin e.eng).val))

/-- A step of CPIN, CPINA and GATHIN writes the element it read to the local side, or zeros out of the extents; FILL writes its
immediate and CPLOC the local element it read first; PFIN counts a step out of the extents and asks for the line of any other, which is
not kept where it fails its check. The bytes that the steps write in one aligned 64-byte unit of the local stores are written in one act,
which ends the poison of a whole unit. The steps of one aligned 64-byte unit of the tensor go together, and of a host tensor they take their bytes of one answer, or zeros with cause 0x13
where the read failed or the interface is out of RUN; an encrypted line that fails its check gives zeros with cause 0x13 and is not kept
in its slice, and a poisoned one zeros with cause 0x14 (R211, R274-R278, R407, R415, R450). Which steps the model joins in one act is log
80, and that a read out of RUN, before the first RUN too, gives zeros with cause 0x13 is the model's choice (log 50). -/
def Obligations.CopiesInWriteLocalElements : Prop :=
  (∀ s i q r list loc, copyInForm i = some (r, list) → s.copyWalks i .ci q r →
    let k := (s.headOf .ci).view (s.core s.cur.core)
    let unit := tensorUnit list k q.slot r
    k.checked q.slot [localSide r (s.headOf .ci) false] = .ok [loc] →
    (inExtent r (s.headOf .ci) = false →
      exec i s = .next (s.copyTaken .ci r
        ({ s.headOf .ci with out := (s.headOf .ci).out + 1 }.putLocal loc (List.replicate (elemSize r.dtype) 0)) unit))
    ∧ (∀ va u bs h, inExtent r (s.headOf .ci) = true → tensorAddr list k q.slot r (s.headOf .ci) = .ok va →
      s.readElem ⟨s.cur.core, .ci⟩ q (s.headOf .ci) va (elemSize r.dtype) (if list then fun _ => none else unit) = .ok (u, some (bs, h)) →
      u.cur = s.cur → h.openLine = none → exec i s = .next (u.copyTaken .ci r (h.putLocal loc bs) unit))
    ∧ (∀ t, inExtent r (s.headOf .ci) = true → tensorAddr list k q.slot r (s.headOf .ci) = .error t →
      exec i s = .next (s.engFault ⟨s.cur.core, .ci⟩ 0 t)))
  ∧ (∀ (s : State) e q (h : Head) va n w, entHost h.copy.toNat = true →
    (∀ x bs, s.unitRead e h va = some x → x.result = some (some bs) →
      s.readElem e q h va n w = .ok (s, some ((bs.drop (va % 64)).take n, h)))
    ∧ (∀ x, s.unitRead e h va = some x → x.result = some none → s.readElem e q h va n w = .ok (s, some (List.replicate n 0, h.note 0x13)))
    ∧ (s.unitRead e h va = none → s.hostPage q.vnpu va = .closed → s.readElem e q h va n w = .ok (s, some (List.replicate n 0, h.note 0x13))))
  ∧ (∀ (s : State) e q (h : Head) va n w, entHost h.copy.toNat = false → entEnc h.copy.toNat = false →
    s.readElem e q h va n w = match s.loadPart (.eng e) (engAcc e q false false) q.hdr.cls.toNat va n false true h.unit.isSome with
      | .trap t => if t.cause = 0x14 then .ok (s, some (List.replicate n 0, h.note 0x14)) else .error t
      | .stall u => .ok (u, none)
      | .ok u bs => .ok (u, some (bs, h)))
  ∧ (∀ (s : State) e q (h : Head) va n w, entHost h.copy.toNat = false → entEnc h.copy.toNat = true →
    let line := (s.physLine (engAcc e q false true) va).getD 0
    let hit := s.resident line
    s.readElem e q h va n w = match s.loadPart (.eng e) (engAcc e q false true) q.hdr.cls.toNat va n false true h.unit.isSome with
      | .trap t => if t.cause = 0x14 then .ok (s, some (List.replicate n 0, h.note 0x14)) else .error t
      | .stall u => .ok (u, none)
      | .ok u bs => if u.lineGood h va line hit then .ok (u, some (bs, h))
        else .ok (if hit then u else u.expel line, some (List.replicate n 0, h.note 0x13)))
  ∧ (∀ (h : Head) a bs, a % 64 + bs.length ≤ 64 →
    let o := (h.put.filter fun w => w.unit = a / 64).getD ⟨a / 64, 0, 0⟩
    ∃ w, (h.putLocal a bs).put = some w ∧ w.unit = a / 64 ∧ ∀ i, i < 64 →
      let mine := decide (a % 64 ≤ i) && decide (i < a % 64 + bs.length)
      w.mask.getLsbD i = (o.mask.getLsbD i || mine)
        ∧ (leBytes 64 w.data.toNat).getD i 0 = if mine then bs.getD (i - a % 64) 0 else (leBytes 64 o.data.toNat).getD i 0)
  ∧ (∀ (k : Core) w, k.store.wf = true →
    (∀ i, i < 64 → (k.writeUnit w).store.get (64 * w.unit + i) =
      if w.mask.getLsbD i then (leBytes 64 w.data.toNat).getD i 0 else k.store.get (64 * w.unit + i))
    ∧ (∀ a, (a < 64 * w.unit ∨ 64 * w.unit + 64 ≤ a) → (k.writeUnit w).store.get a = k.store.get a)
    ∧ (w.mask = BitVec.allOnes 64 → ∀ n, n ∈ (k.writeUnit w).poison ↔ n ∈ k.poison ∧ n ≠ w.unit))
  ∧ (∀ s q r loc, s.copyWalks (.fill r) .ci q r →
    (s.core s.cur.core).checked q.slot [localSide r (s.headOf .ci) false] = .ok [loc] →
    exec (.fill r) s = .next (s.copyTaken .ci r ((s.headOf .ci).putLocal loc (leBytes (elemSize r.dtype)
      (if tw r.dtype = 4 then immOf r.dtype r * 17 else immOf r.dtype r))) fun _ => none))
  ∧ (∀ s q r dst src, s.copyWalks (.cploc r) .ci q r →
    let k := (s.headOf .ci).view (s.core s.cur.core)
    k.checked q.slot [localSide r (s.headOf .ci) false,
      ⟨r.s1.space, [(s.headOf .ci).addr r.s1], elemSize r.dtype, elemSize r.dtype, false, some r.stype, true⟩] = .ok [dst, src] →
    let x := (s.headOf .ci).readLocal k src (elemSize r.dtype)
    exec (.cploc r) s = .next (s.copyTaken .ci r (x.2.putLocal dst x.1) fun _ => none))
  ∧ (∀ (h : Head) (k : Core) a n, a % 64 + n ≤ 64 →
    (h.readLocal k a n).2 = { h with seen := (h.readLocal k a n).2.seen }
    ∧ ((∀ x, h.seen = some x → x.1 ≠ a / 64) → (h.readLocal k a n).1 = (h.view k).store.read a n)
    ∧ (∀ d, h.seen = some (a / 64, d) → (h.readLocal k a n).1 = ((leBytes 64 d.toNat).drop (a % 64)).take n ∧ (h.readLocal k a n).2.seen = h.seen))
  ∧ (∀ s q r, s.copyWalks (.pfin r) .ci q r → inExtent r (s.headOf .ci) = false →
    exec (.pfin r) s = .next (s.copyTaken .ci r { s.headOf .ci with out := (s.headOf .ci).out + 1 } fun _ => none))
  ∧ (∀ s q r va pages u, s.copyWalks (.pfin r) .ci q r → inExtent r (s.headOf .ci) = true →
    tensorAddr false (s.core s.cur.core) q.slot r (s.headOf .ci) = .ok va → entHost (s.headOf .ci).copy.toNat = false →
    s.checkPages (engAcc ⟨s.cur.core, .ci⟩ q false (entEnc (s.headOf .ci).copy.toNat)) va 1 = .ok pages →
    let pa := ((physPieces pages va 1).headD (0, 0, 0)).2.1
    let l := s.leafOf q.vnpu
    s.walkHeld (engAcc ⟨s.cur.core, .ci⟩ q false (entEnc (s.headOf .ci).copy.toNat)) va 1 = false → s.badAt pa = false →
    s.lineHeld (pa / 128) = false → s.admitSeq q.vnpu (s.asker (.eng ⟨s.cur.core, .ci⟩)) (s.mcCharges (some l) (pa / 128) true) = (true, u) →
    let v := ((u.fillTlbs s.cur.core pages).touch (pa / 128 / 32)).sliceAccess (some l) (pa / 128) false true
    let kept := !entEnc (s.headOf .ci).copy.toNat || s.resident (pa / 128) || s.lineGood (s.headOf .ci) va (pa / 128) false
    exec (.pfin r) s = .next ((if kept then v else v.expel (pa / 128)).copyTaken .ci r (s.headOf .ci) fun _ => none))

/-- A step of a copy out writes the local element, from the aligned unit of the local stores that its steps read once, to the tensor's
address, as a message of the engine, and nothing out of the extents; a later step of the same aligned 64-byte unit adds its bytes to the unit's message. The write of a host tensor goes to the host
port, and out of RUN carries no byte and notes cause 0x13; that of an encrypted tensor joins the open line, and one to a line not above
the last line sent faults with cause 0x17 (R211, R274, R276, R278, R405, R415). Which steps the model joins in one access is log 80, and
that a host write out of RUN, before the first RUN too, carries no byte and notes cause 0x13 is the model's choice (log 50). -/
def Obligations.CopiesOutSendTheirElement : Prop :=
  ∀ s i q r list alloc loc, copyOutForm i = some (r, list, alloc) → s.copyWalks i .co q r →
    let h := s.headOf .co
    let n := elemSize r.dtype
    let unit := tensorUnit list (s.core s.cur.core) q.slot r
    let x := h.readLocal (s.core s.cur.core) loc n
    let bs := x.1
    let h1 := x.2
    (s.core s.cur.core).opds q.slot [localSide r h true] = .ok [loc] →
    (inExtent r h = false → exec i s = .next (s.copyTaken .co r { h with out := h.out + 1 } unit))
    ∧ (∀ va u, inExtent r h = true → tensorAddr list (s.core s.cur.core) q.slot r h = .ok va →
      (s.core s.cur.core).poisonIn [(loc, n)] = none → entHost h.copy.toNat = false → entEnc h.copy.toNat = false → h.unit = none →
      s.storeMsg (.eng ⟨s.cur.core, .co⟩) (engAcc ⟨s.cur.core, .co⟩ q true false) q.hdr.cls.toNat va bs 0 true alloc none = .ok u () →
      u.cur = s.cur → exec i s = .next (u.copyTaken .co r h1 unit))
    ∧ (∀ va id pages, inExtent r h = true → tensorAddr list (s.core s.cur.core) q.slot r h = .ok va →
      (s.core s.cur.core).poisonIn [(loc, n)] = none → entHost h.copy.toNat = false → entEnc h.copy.toNat = false → h.unit = some id →
      s.checkPages (engAcc ⟨s.cur.core, .co⟩ q true false) va bs.length = .ok pages →
      exec i s = .next (((s.charge (s.leafOf q.vnpu) (s.asker (.eng ⟨s.cur.core, .co⟩)) [(s.cur.core.val, bs.length)]).appendPart id
        ((physPieces pages va bs.length).headD (0, 0, 0)).2.1 bs).copyTaken .co r h1 unit))
    ∧ (∀ va t, inExtent r h = true → tensorAddr list (s.core s.cur.core) q.slot r h = .ok va →
      (s.core s.cur.core).poisonIn [(loc, n)] = some t → exec i s = .next (s.engFault ⟨s.cur.core, .co⟩ 0 t))
    ∧ (∀ va u v, inExtent r h = true → tensorAddr list (s.core s.cur.core) q.slot r h = .ok va →
      (s.core s.cur.core).poisonIn [(loc, n)] = none → entHost h.copy.toNat = true → h.unit = none →
      let e : EngId := ⟨s.cur.core, .co⟩
      s.admitAll q.vnpu (s.asker (.eng e)) [(s.cur.core.val, bs.length)] = (true, u) → v.cur = s.cur →
      (s.hostPage q.vnpu va = .ready →
        u.sendCounted (.eng e) q.hdr.cls.toNat hostPort q.vnpu (fun _ => .hostWrite q.vnpu [(s.hostAddr q.vnpu va, bs)]) = some v →
        exec i s = .next (v.copyTaken .co r h1 unit))
      ∧ (s.hostPage q.vnpu va = .closed →
        u.sendCounted (.eng e) q.hdr.cls.toNat hostPort q.vnpu (fun _ => .hostWrite q.vnpu []) = some v →
        exec i s = .next (v.copyTaken .co r (h1.note 0x13) fun _ => none)))
    ∧ (∀ va pages, inExtent r h = true → tensorAddr list (s.core s.cur.core) q.slot r h = .ok va →
      (s.core s.cur.core).poisonIn [(loc, n)] = none → entHost h.copy.toNat = false → entEnc h.copy.toNat = true →
      s.walkHeld (engAcc ⟨s.cur.core, .co⟩ q true true) va bs.length = false →
      s.checkPages (engAcc ⟨s.cur.core, .co⟩ q true true) va bs.length = .ok pages →
      let y : Head := { h1 with openLine := some ⟨lineVa va, mergeLine 0 (va % 128) bs⟩ }
      ((∀ l, h.lastLine = some l → l < lineVa va) → (Head.advance y r).st = .walking → exec i s = .next (s.copyTaken .co r y fun _ => none))
      ∧ (∀ l, h.lastLine = some l → lineVa va ≤ l → exec i s = .next (s.engFault ⟨s.cur.core, .co⟩ 0 { cause := 0x17 })))

/-- In the phase cycle of one of its steps TX injects the 32 bytes at its address on its lane, MUXSEL takes the beat present on its lane
for a write two cycles later, and XHOLD injects the beat it captured one cycle later on its other lane; in every other cycle they
take no effect; XEND gives the program's end, which P exceeds (R375-R377). -/
def Obligations.TransferRecordsMoveBeats : Prop :=
  (∀ s r x c, s.inPhaseCycle x c → startOf r ≤ c → c - startOf r < stepsOf r →
    let n := c - startOf r
    let k := s.core s.cur.core
    let a := (addrAt r r.s1 n).toNat
    let beat := fun (v : BitVec 256) => (⟨stopOf s.cur.core, r.aux.toNat % 32, r.aux.getLsbD 5, c, s.cur.core.val, s.cur.xrec, v⟩ : Beat)
    (k.poisoned a 32 = none → exec (.tx r) s = .next (s.modPhase x.id fun y => { y with
        beats := y.beats ++ [beat (BitVec.ofNat 256 (k.val a 32))], faults := x.faults }))
    ∧ (∀ u, k.poisoned a 32 = some u → (∀ y ∈ x.faults, y.ctx ≠ ⟨s.cur.core, .o⟩) → ∃ t, exec (.tx r) s = .next t ∧
        t = s.modPhase x.id fun y => { y with
          beats := y.beats ++ [beat 0], faults := ⟨⟨s.cur.core, .o⟩, s.cur.xrec, some n, stepTrap 0x14 u⟩ :: x.faults })
    ∧ exec (.muxsel r) s = .next (s.modPhase x.id fun y => { y with
        writes := y.writes ++ [⟨s.cur.core, (addrAt r r.d n).toNat, c + 2, x.present (stopOf s.cur.core) (r.aux.toNat % 32) (r.aux.getLsbD 5) c⟩] })
    ∧ exec (.xhold r) s = .next (s.modPhase x.id fun y => { y with
        beats := y.beats ++ [⟨stopOf s.cur.core, r.aux.toNat / 64 % 32, r.aux.getLsbD 11, c + 1, s.cur.core.val, s.cur.xrec,
          x.present (stopOf s.cur.core) (r.aux.toNat % 32) (r.aux.getLsbD 5) c⟩] }))
  ∧ (∀ s r x c, s.inPhaseCycle x c → (c < startOf r ∨ stepsOf r ≤ c - startOf r) →
    exec (.tx r) s = .next s ∧ exec (.muxsel r) s = .next s ∧ exec (.xhold r) s = .next s)
  ∧ (∀ s r x, (s.xphases.find? fun y => y.members.contains ⟨s.cur.core, .o⟩) = some x →
    (x.faults.any fun y => y.ctx = ⟨s.cur.core, .o⟩ && y.step.isNone && y.record = s.cur.xrec) = false →
    exec (.xend r) s = .next (s.modPhase x.id fun y => { y with p := max y.p (startOf r + 1) }))

/-! ## Slice routines -/

/-- A slice word has its effect on its executor alone while words remain; after the last word, and at LRET, the routine ends with its
written lanes stored to the held line and nothing else stored; at LFAIL, or where its page has passed to another world, nothing is stored; either way the executor is free and
the reply carries q (R283-R287, R402). That nothing is stored where the page has passed to another world is the model's choice (log 19). -/
def Obligations.SliceWordsRunAtTheLine : Prop :=
  (∀ s i e', sliceResult ((s.slice s.cur.slice).exec s.cur.exec) i = some e' →
    let left := ((s.slice s.cur.slice).exec s.cur.exec).words.drop 1
    (left ≠ [] → exec i s = .next (s.modSlice s.cur.slice fun x => x.setExec s.cur.exec { e' with words := left }))
      ∧ (left = [] → exec i s = .next (s.endRoutine { e' with words := [] } true)))
  ∧ (∀ s, exec .lret s = .next (s.endRoutine ((s.slice s.cur.slice).exec s.cur.exec) true)
      ∧ exec .lfail s = .next (s.endRoutine ((s.slice s.cur.slice).exec s.cur.exec) false))
  ∧ (∀ (s : State) e v commit, e.inv = some v → s.memoriesOk = true →
    let t := s.endRoutine e commit
    (∀ a, t.dbyte a = if commit = true ∧ s.mayAccess v.vnpu (s.pageWorld (v.pa / 4096)) = true ∧ a / 128 = v.pa / 128 ∧ e.written.getLsbD (a % 128 / 8) = true
        then ((leBytes 8 (e.lanes.toList.getD (a % 128 / 8) 0).toNat).getD (a % 8) 0) else s.dbyte a)
      ∧ ((t.slice s.cur.slice).exec s.cur.exec).inv = none
      ∧ ∃ m ∈ t.net, m.body = .reply v (.done e.q) ∧ m.src = .ctx v.src)

/-! ## Events -/

/-- A write waits for its phase, for what it is ordered after, for a routine that holds its line and for its regulator, is performed once,
all its bytes together, and counted, and is refused where its page has passed to another world; a host write reaches host memory in the
order of its source, and is dropped out of RUN; an invocation is queued at its slice, or NACKed on a marked page, and granted past
those that a regulator holds; markers are acknowledged with their count, retries beyond it being kept, and phases complete in order, those
of an SLXN once its record is in the queue; replies land in an SLX, trap at it, write a record of an SLXN once it may be stamped, or have
the invocation checked and sent again after a NACK, once its page is marked no more and its walk meets no held line; the table processes its oldest request, once what it
may notify may be stamped; barriers and transfer phases meet and close, the start of a phase
fixed by the last arrival (R211, R213, R214, R229-R231, R238, R242, R280-R282, R293-R300, R351, R369-R377, R386, R396, R415). Clauses that
are the model's choices: arrivals beyond a marker's count are kept (log 17), a completion waits for records and replies (log 18), a write
is refused once its page has passed to another world (log 19), page migration waits until nothing of the mapping is in flight and gives the
old pages to world 0 (log 36), an invocation whose request the controller holds is passed over (log 42), a host write out of RUN is
dropped (log 50), and what a reply or the table may stamp when (log 87). -/
def Obligations.MessagesArriveAndMeet : Prop :=
  (∀ s m parts after alloc tag, s.evMsg m → m.body = .write parts after alloc tag →
    let line := (parts.headD (0, [])).1 / 128
    ((parts = [] ∨ s.mayAccess m.vnpu (s.pageWorld (line / 32)) = false) →
      exec .accessArrival s = .next ((s.unpost m).countArrival m.target m.src m.phase))
    ∧ (parts ≠ [] → s.mayAccess m.vnpu (s.pageWorld (line / 32)) = true →
      (s.phaseDone m.src after = false ∨ (∃ p ∈ parts, s.behind m.turn m.key false p.1 p.2.length = true) ∨ s.lineHeld line = true) →
      exec .accessArrival s = .next s)
    ∧ (∀ u b, parts ≠ [] → s.mayAccess m.vnpu (s.pageWorld (line / 32)) = true → s.phaseDone m.src after = true →
      (∀ p ∈ parts, s.behind m.turn m.key false p.1 p.2.length = false) → s.lineHeld line = false →
      s.admitSeq m.vnpu (.msg m.id) (s.mcCharges (some (s.leafOf m.vnpu)) line alloc) = (b, u) →
      (b = false → exec .accessArrival s = .next u)
      ∧ (b = true → ∃ t, exec .accessArrival s = .next t ∧ t.dram = (parts.foldl (fun x p => x.dstore p.1 p.2) u).dram
          ∧ (∀ x ∈ t.net, x.id ≠ m.id) ∧ t.arrived m.target m.src m.phase = s.arrived m.target m.src m.phase + 1)))
  ∧ (∀ s m v parts, s.evMsg m → m.body = .hostWrite v parts →
    ((∃ p ∈ parts, s.behind m.turn m.key true p.1 p.2.length = true) → exec .accessArrival s = .next s)
    ∧ ((∀ p ∈ parts, s.behind m.turn m.key true p.1 p.2.length = false) →
      (s.inRun v = true → exec .accessArrival s = .next
        ((State.unpost { s with host := parts.foldl (fun h p => h.write p.1 p.2) s.host } m).countArrival hostPort m.src m.phase))
      ∧ (s.inRun v = false → ∃ t, exec .accessArrival s = .next t ∧ t.host = s.host ∧ (∀ x ∈ t.net, x.id ≠ m.id)
          ∧ t.arrived hostPort m.src m.phase = s.arrived hostPort m.src m.phase + 1)))
  ∧ (∀ s m i, s.evMsg m → m.body = .invoke i →
    let late := s.net.any fun x => decide (x.key < m.key) && x.blocks m.turn false (i.pa / 128 * 128) 128
    (late = true → exec .accessArrival s = .next s)
    ∧ (late = false → s.marked (i.pa / 4096) = true →
      exec .accessArrival s = .next ((s.unpost m).answerInv (homeSlice (i.pa / 128)) i .nack))
    ∧ (late = false → s.marked (i.pa / 4096) = false →
      exec .accessArrival s = .next ((s.unpost m).modSlice (homeSlice (i.pa / 128)) fun x => { x with queue := x.queue ++ [i] })))
  ∧ (∀ s m num count, s.evMsg m → m.body = .marker num count →
    (s.arrived m.target m.src num < count → exec .phaseMarker s = .next s)
    ∧ (s.arrived m.target m.src num = count → exec .phaseMarker s =
        .next (((s.unpost m).clearArrival m.target m.src num).setPhases m.src ((s.phases m.src).ack num m.target)))
    ∧ (count < s.arrived m.target m.src num → let u := (s.unpost m).clearArrival m.target m.src num
      exec .phaseMarker s = .next (State.setPhases
        { u with arrivals := ⟨m.target, m.src, num % 4, s.arrived m.target m.src num - count⟩ :: u.arrivals } m.src
        ((s.phases m.src).ack num m.target))))
  ∧ (∀ s, s.recordWaits s.cur.ev.src = true → exec .phaseCompletion s = .next s)
  ∧ (∀ s k, s.recordWaits s.cur.ev.src = false → s.replyPhase s.cur.ev.src = some k → k ≤ (s.phases s.cur.ev.src).completed →
    exec .phaseCompletion s = .next (s.setPhases s.cur.ev.src (s.phases s.cur.ev.src)))
  ∧ (∀ s o rest, s.recordWaits s.cur.ev.src = false → s.replyPhase s.cur.ev.src = none → (s.phases s.cur.ev.src).opens = o :: rest →
    (o.targets ≠ [] → exec .phaseCompletion s = .next (s.setPhases s.cur.ev.src (s.phases s.cur.ev.src)))
    ∧ (o.targets = [] → (∀ y ∈ rest, y.targets ≠ []) → exec .phaseCompletion s = .next (s.setPhases s.cur.ev.src
        { s.phases s.cur.ev.src with opens := rest, completed := (s.phases s.cur.ev.src).completed + 1 })))
  ∧ (∀ s x t i rest u b, ((List.finRange 4).find? fun x => (((s.slice s.cur.ev.slice).exec x).inv).isNone) = some x →
    s.grantable s.cur.ev.slice = (t, i) :: rest → s.invFault s.cur.ev.slice i = none →
    s.admitSeq i.vnpu (.inv i.id) (s.mcCharges (some (s.invLeaf i)) (i.pa / 128) true) = (b, u) →
    (b = false → exec .sliceInvocation s = .next (u.grantFirst s.cur.ev.slice x rest))
    ∧ (b = true → ∃ v, exec .sliceInvocation s = .next v ∧ ((v.slice s.cur.ev.slice).exec x).inv = some i
      ∧ ((v.slice s.cur.ev.slice).exec x).x0 = i.x0 ∧ ((v.slice s.cur.ev.slice).exec x).x1 = i.x1
      ∧ ((v.slice s.cur.ev.slice).exec x).n.val = i.lane % 16 ∧ ((v.slice s.cur.ev.slice).exec x).q = 0
      ∧ ((v.slice s.cur.ev.slice).exec x).written = 0 ∧ (v.slice s.cur.ev.slice).rr = t.val))
  ∧ (∀ s m i r, s.evMsg m → m.body = .reply i r →
    (i.rgen ≠ (s.vnpu i.vnpu).rgen → exec .slxReply s = .next (s.unpost m))
    ∧ (∀ q, i.rgen = (s.vnpu i.vnpu).rgen → i.wait = true → s.awaitsReply i = true → r = .done q →
      exec .slxReply s = .next ((s.unpost m).modCtx i.src fun c => { c with stage := .replied q }))
    ∧ (∀ cause info sub, i.rgen = (s.vnpu i.vnpu).rgen → i.wait = true → s.awaitsReply i = true → r = .fault cause info sub →
      exec .slxReply s = .next ((s.unpost m).raiseBy i.src 7 { cause := cause, eaddr := BitVec.ofNat 64 i.va, einfo := BitVec.ofNat 64 info }))
    ∧ (i.rgen = (s.vnpu i.vnpu).rgen → i.wait = true → s.awaitsReply i = false → exec .slxReply s = .next (s.unpost m))
    ∧ (i.rgen = (s.vnpu i.vnpu).rgen → i.wait = false → s.owedRecord i = true → s.mayStamp (.ctx i.src) = false → exec .slxReply s = .next s)
    ∧ (∀ cause info sub, i.rgen = (s.vnpu i.vnpu).rgen → i.wait = false → r = .fault cause info sub →
      (s.owedRecord i = true → s.mayStamp (.ctx i.src) = true → exec .slxReply s
        = .next (((s.unpost m).modCtx i.src fun c => c.pushEvent (faultRecord i cause sub s.gtc)).stamped (.ctx i.src)))
      ∧ (s.owedRecord i = false → exec .slxReply s = .next (s.unpost m)))
    ∧ (∀ q, i.rgen = (s.vnpu i.vnpu).rgen → i.wait = false → (s.owedRecord i = true → s.mayStamp (.ctx i.src) = true) → r = .done q →
      exec .slxReply s = .next (s.unpost m))
    ∧ (i.rgen = (s.vnpu i.vnpu).rgen → (i.wait = true → s.awaitsReply i = true) →
      (i.wait = false → s.owedRecord i = true → s.mayStamp (.ctx i.src) = true) → r = .nack →
      let fresh := s.modCore i.src.core fun k => { k with tlb := k.tlb.filter fun e => !(e.vnpu = i.vnpu && e.covers i.va) }
      let at_ := fresh.invAddr { core := i.src.core, vnpu := i.vnpu, user := i.user, write := true } (BitVec.ofNat 64 i.va)
        (BitVec.ofNat 5 i.vr) (some ⟨i.rid % 256, Nat.mod_lt _ (by decide)⟩)
      let held := fresh.invHeld { core := i.src.core, vnpu := i.vnpu, user := i.user, write := true } (BitVec.ofNat 64 i.va)
        (some ⟨i.rid % 256, Nat.mod_lt _ (by decide)⟩)
      (held = true → exec .slxReply s = .next s)
      ∧ (∀ t, held = false → at_ = .error t → i.wait = true → exec .slxReply s = .next ((fresh.unpost m).raise i.src t))
      ∧ (∀ pa pages, held = false → at_ = .ok (pa, pages) → s.marked (pa / 4096) = true → exec .slxReply s = .next s)
      ∧ (∀ pa pages u b, held = false → at_ = .ok (pa, pages) → s.marked (pa / 4096) = false → fresh.admitAll i.vnpu (.msg m.id) [(i.src.core.val, 24)] = (b, u) →
        let home := (homeSlice (pa / 128)).val
        (b = false → exec .slxReply s = .next u)
        ∧ (∀ v, b = true → ((u.unpost m).fillTlbs i.src.core pages).countRetry i home = some v →
          exec .slxReply s = .next (v.post (v.againMsg { i with pa := pa } home))))))
  ∧ (∀ s g at_ x size, (s.migrating.find? fun g => g.vnpu = s.cur.ev.vnpu && decide (g.ipage ≤ s.cur.ev.n)
      && decide (s.cur.ev.n < g.ipage + g.pages)) = some g →
    let u := s.nackMarked
    ((u.pagesBusy g.old g.pages = true ∨ u.phasesQuiet .root = false ∨ ∃ a x z, u.mapEntry g.vnpu g.ipage = some (a, x, z)
      ∧ u.lineHeld (a / 128) = true) → exec .pageMigration s = .next u)
    ∧ (s.memoriesOk = true → u.pagesBusy g.old g.pages = false → u.phasesQuiet .root = true → u.lineHeld (at_ / 128) = false → (g.old + g.pages ≤ g.new ∨ g.new + g.pages ≤ g.old) →
      u.mapEntry g.vnpu g.ipage = some (at_, x, size) → (at_ / 4096 < g.new ∨ g.new + g.pages ≤ at_ / 4096) → at_ % 8 = 0 →
      ∃ t, exec .pageMigration s = .next t ∧ ∀ j, j < g.pages →
        t.pageWorld (g.new + j) = s.pageWorld (g.old + j) ∧ t.pageWorld (g.old + j) = 0
        ∧ (∀ k, k < 4096 → t.dbyte ((g.new + j) * 4096 + k) = s.dbyte ((g.old + j) * 4096 + k))))
  ∧ (∀ s, (s.wftQueue = [] → exec .waitRegistration s = .next s)
    ∧ (∀ q r, s.wftQueue = q :: r → (s.walkers q).any (fun i => !s.mayStamp (.ctx i)) = true → exec .waitRegistration s = .next s)
    ∧ ∀ q r, s.wftQueue = q :: r → (s.walkers q).any (fun i => !s.mayStamp (.ctx i)) = false → exec .waitRegistration s = .next (State.processReq { s with wftQueue := r } q))
  ∧ (∀ s b, (s.barriers.find? fun b => b.id = s.cur.ev.n) = some b →
    (b.xf = false → b.full = true → ∃ t, exec .barrierCompletion s = .next t ∧ ∀ y ∈ t.barriers, y.id ≠ b.id)
    ∧ ((b.xf = true ∨ b.full = false) → exec .barrierCompletion s = .next s)
    ∧ (b.xf = true → b.full = true → ∃ t x n, exec .transferPhaseStart s = .next t ∧ x ∈ t.xphases ∧ x.id = b.id ∧ x.members = s.runners b
        ∧ x.start = some n ∧ n % 8 = 0 ∧ b.lastAt + 32 ≤ n ∧ n < b.lastAt + 40 ∧ x.beats = [] ∧ x.writes = [])
    ∧ ((b.xf = false ∨ b.full = false) → exec .transferPhaseStart s = .next s))
  ∧ (∀ s x n, (s.xphases.find? fun x => x.id = s.cur.ev.n) = some x → x.start = some n →
    (s.cycle < n + x.p + 8 → exec .transferPhaseClose s = .next s)
    ∧ (n + x.p + 8 ≤ s.cycle → ∃ t, exec .transferPhaseClose s = .next t ∧ ∀ y ∈ t.xphases, y.id ≠ x.id))

/-- Landings whose tick has come are written; a record starts once its phase, owner, version, ports and pace allow, resumes where it
faulted, one of XF that no program runs is checked at the head of its queue, and retires once its phase is complete with all its effects in one event, an event record no earlier than its stamp may be;
a trap that nothing holds enters its handler; a unit that has failed ends with its FATAL image, whose EADDR and EINFO are zero for a lost
state or a mismatch, once that can be written; revocations, which a service in slot H delays, lease terms, holds and DEF end when due; and
at the end of grace a unit that stands at its cut closes its phase and is saved with its live regions, the others reading zero (R79, R81, R117,
R152, R227, R242, R282, R328, R331, R333, R419, R420, R423, R430, R435, R439, R442). Clauses that are the model's choices: what may be
stamped when (log 87), the check of an XF record at the head of its queue outside a program (log 101), the stages of forced pre-emption
(log 38) and a unit that keeps no region always fitting the pool (log 39). -/
def Obligations.ContextEventsTakeEffect : Prop :=
  (∀ s, exec .landing s = .next (s.modCtx s.evCtx Ctx.settle))
  ∧ (∀ (c : Ctx), (∀ l ∈ c.landings, l.rem ≠ 0) → c.settle = c)
  ∧ (∀ s q, s.cur.ev.eng ≠ .xf → (∃ rest, (s.engine ⟨s.cur.ev.core, s.cur.ev.eng⟩).queue = q :: rest) →
    let e : EngId := ⟨s.cur.ev.core, s.cur.ev.eng⟩
    ((s.engine e).head.st = .waiting ∨ ((s.engine e).head.st = .faulted 1 ∧ (s.ctx ⟨s.cur.ev.core, q.slot⟩).trap = none)) →
    (∀ t, headTrap (s.core s.cur.ev.core) s.cur.ev.eng q = some t → exec .recordStart s = .next (s.engFault e 1 t))
    ∧ (headTrap (s.core s.cur.ev.core) s.cur.ev.eng q = none →
      (s.phaseDone (.ctx ⟨s.cur.ev.core, q.slot⟩) q.gate = false → exec .recordStart s = .next s)
      ∧ (s.phaseDone (.ctx ⟨s.cur.ev.core, q.slot⟩) q.gate = true → s.awaitsRevocation e q = true → exec .recordStart s = .next s)
      ∧ (s.phaseDone (.ctx ⟨s.cur.ev.core, q.slot⟩) q.gate = true → s.awaitsRevocation e q = false →
        (∀ o, s.startHold e q = some o → exec .recordStart s = .next (s.blockEng e q.slot o))
        ∧ (s.startHold e q = none → s.paced e q.slot = false → exec .recordStart s = .next s)
        ∧ (s.startHold e q = none → s.paced e q.slot = true → ∃ t, exec .recordStart s = .next t ∧ s.startsAs e q true t))))
  ∧ (∀ s q p, s.cur.ev.eng ≠ .xf → (∃ rest, (s.engine ⟨s.cur.ev.core, s.cur.ev.eng⟩).queue = q :: rest) →
    let e : EngId := ⟨s.cur.ev.core, s.cur.ev.eng⟩
    let trapped := (s.ctx ⟨s.cur.ev.core, q.slot⟩).trap.isSome
    (s.engine e).head.st = .faulted p →
    (trapped = true → exec .recordStart s = .next s)
    ∧ (∀ t, trapped = false → headTrap (s.core s.cur.ev.core) s.cur.ev.eng q = some t → exec .recordStart s = .next (s.engFault e p t))
    ∧ (trapped = false → headTrap (s.core s.cur.ev.core) s.cur.ev.eng q = none → p ≠ 1 →
      (p = 2 → ∃ t, exec .recordStart s = .next t ∧ s.startsAs e q false t)
      ∧ (p ≠ 2 → exec .recordStart s = .next (s.modEngine e fun x => { x with head := { x.head with st := .walking, fault := none, resumed := false } }))))
  ∧ (∀ s q, s.cur.ev.eng = .xf → (∃ rest, (s.engine ⟨s.cur.ev.core, .xf⟩).queue = q :: rest) →
    let e : EngId := ⟨s.cur.ev.core, .xf⟩
    let bad := headTrap (s.core s.cur.ev.core) .xf q
    ((s.engine e).head.st = .waiting →
      (∀ t, bad = some t → exec .recordStart s = .next (s.engFault e 1 t)) ∧ (bad = none → exec .recordStart s = .next s))
    ∧ (∀ p, (s.engine e).head.st = .faulted p →
      ((s.ctx ⟨s.cur.ev.core, q.slot⟩).trap.isSome = true → exec .recordStart s = .next s)
      ∧ ((s.ctx ⟨s.cur.ev.core, q.slot⟩).trap = none →
        (∀ t, bad = some t → exec .recordStart s = .next (s.engFault e p t))
        ∧ (bad = none → p = 1 → exec .recordStart s = .next (s.modEngine e fun x => { x with head := {} })))))
  ∧ (∀ s q n, (∃ rest, (s.engine ⟨s.cur.ev.core, s.cur.ev.eng⟩).queue = q :: rest) →
    let e : EngId := ⟨s.cur.ev.core, s.cur.ev.eng⟩
    (s.engine e).head.st = .done → (s.engine e).head.retire = some n → (s.engine e).head.orphan = false →
    (s.phaseDone (.eng e) n = false → exec .recordRetirement s = .next s)
    ∧ (s.phaseDone (.eng e) n = true →
      (∀ o, s.retireHold e q (s.engine e).head = some o → exec .recordRetirement s = .next (s.blockEng e q.slot o))
      ∧ (s.retireHold e q (s.engine e).head = none →
        let early := wantsEvent q (s.engine e).head && !s.mayStamp (.eng e)
        (early = true → exec .recordRetirement s = .next s)
        ∧ (early = false → exec .recordRetirement s = .next ((s.retireEffects e q (s.engine e).head).dropHead e)))))
  ∧ (∀ s, ((s.ctx s.evCtx).trap = none → exec .trapEntry s = .next s)
    ∧ ∀ t, (s.ctx s.evCtx).trap = some t → (s.ctx s.evCtx).canTrap = true → (s.ctx s.evCtx).failing = none → s.inPhase s.evCtx = false →
      (tb (s.ctx s.evCtx).estat 0 = true ∨ s.vectored s.evCtx = false) → exec .trapEntry s = .next (s.unitFailure s.evCtx t.cause))
  ∧ (∀ s t, let i := s.evCtx
    (s.ctx i).trap = some t → t.gate = none → (s.ctx i).stage = .fresh → s.entryFree i = true → (∀ line, s.lineHeld line = false) →
    s.mayStamp (.ctx i) = true →
    ∃ w : State, exec .trapEntry s = .next ((w.enterNow i t).stamped (.ctx i)) ∧ (w.ctx i).standsAs (s.ctx i) ∧ w.dram = s.dram
      ∧ ((w.entryImage i t).2 = none → ((w.enterNow i t).ctx i).atHandlerOf (s.ctx i) t (s.vnpu (s.ctx i).vnpu).evec))
  ∧ (∀ (s : State) i cause, (s.ctx i).failing = some cause →
    let v := (s.ctx i).vnpu
    ((s.fatalFree i v = false ∨ s.mayStamp (.ctx i) = false) → s.endFailure i = s)
    ∧ (s.fatalFree i v = true → s.mayStamp (.ctx i) = true → tb (s.vnpu v).ctxsave 0 = true →
      s.endFailure i = (((s.putImage i (s.imageNow i ((s.ctx i).fatal cause) 1 []) (imagePieces (s.saveArea i))).1.endUnit i).reportLoss
        (s.unitOf i) v cause).stamped (.ctx i))
    ∧ (s.mayStamp (.ctx i) = true → tb (s.vnpu v).ctxsave 0 = false →
      s.endFailure i = ((s.endUnit i).reportLoss (s.unitOf i) v cause).stamped (.ctx i)))
  ∧ (∀ (c : Ctx) n, (c.fatal n).ecause = BitVec.ofNat 64 n
    ∧ ((n = 0x15 ∨ n = 0x1E) → (c.fatal n).eaddr = 0 ∧ (c.fatal n).einfo = 0)
    ∧ ((n ≠ 0x15 ∧ n ≠ 0x1E) → (c.fatal n).eaddr = c.eaddr ∧ (c.fatal n).einfo = c.einfo))
  ∧ (∀ s, ((s.core s.cur.ev.core).revoke = false → exec .revocation s = .next s)
    ∧ ((s.core s.cur.ev.core).revoke = true → s.slotHStays s.cur.ev.core = true → exec .revocation s = .next s)
    ∧ ((s.core s.cur.ev.core).revoke = true → (s.core s.cur.ev.core).ctxH.live = true → (s.core s.cur.ev.core).revokeHard = true →
      s.slotHStays s.cur.ev.core = false → exec .revocation s = .next (s.park s.cur.ev.core true))
    ∧ ((s.core s.cur.ev.core).revoke = true → (s.core s.cur.ev.core).ctxH.live = true → (s.core s.cur.ev.core).revokeHard = false →
      s.slotHStays s.cur.ev.core = false →
      (s.revokeDeferred s.cur.ev.core = true → exec .revocation s = .next s)
      ∧ (s.revokeDeferred s.cur.ev.core = false → exec .revocation s = .next (s.park s.cur.ev.core true))))
  ∧ (∀ s (h : (Eng.fin s.cur.ev.eng).val < 4), let c := s.cur.ev.core
    let l := (s.core c).leases[(Eng.fin s.cur.ev.eng).val]
    l.held = true →
    (l.ret < 4 → s.coreCycle c < l.start + 8192 → exec .leaseTermEnd s = .next s)
    ∧ ((4 ≤ l.ret ∨ l.start + 8192 ≤ s.coreCycle c) → s.engHolds c s.cur.ev.eng .o = true →
      exec .leaseTermEnd s = .next (s.askRevoke c false))
    ∧ ((4 ≤ l.ret ∨ l.start + 8192 ≤ s.coreCycle c) → s.engHolds c s.cur.ev.eng .o = false →
      exec .leaseTermEnd s = .next (s.modCore c fun k =>
        k.setLease s.cur.ev.eng { l with ret := 0, renew := (l.renew + 1) % 16, start := s.coreCycle c })))
  ∧ (∀ s n, let i : CtxId := ⟨s.cur.ev.core, .o⟩
    (s.ctx i).holdEnd = some n →
    (n ≤ s.coreCycle i.core → exec .yieldHoldEnd s = .next (s.modCtx i fun c => { c with holdEnd := none }))
    ∧ (s.coreCycle i.core < n → exec .yieldHoldEnd s = .next s))
  ∧ (∀ s, let i : CtxId := ⟨s.cur.ev.core, .o⟩
    ((s.ctx i).defer = false → exec .defEnd s = .next s)
    ∧ ((s.ctx i).defer = true → s.gtc.toNat < (s.ctx i).deferEnd → exec .defEnd s = .next s)
    ∧ ((s.ctx i).defer = true → (s.ctx i).deferEnd ≤ s.gtc.toNat → ∃ t, exec .defEnd s = .next t ∧ (t.ctx i).defer = false
        ∧ ((s.ctx i).preq = true → (s.ctx i).graceEnd = none → (t.ctx i).graceEnd = some (s.gtc.toNat + 1000 * s.contracts.grace))))
  ∧ (∀ s g, let i : CtxId := ⟨s.cur.ev.core, .o⟩
    (s.ctx i).graceEnd = some g →
    (s.gtc.toNat < g → exec .forcedPreemption s = .next s)
    ∧ (g ≤ s.gtc.toNat → (s.ctx i).live = true → (s.ctx i).preq = true → (s.ctx i).defer = false → s.inPhase i = false →
      (s.ctx i).stage = .fresh → (s.ctx i).failing = none → let u := s.cutStep i
      u.atCut i = true → (u.ctx i).cutGate = none →
      (u.closePhase (.ctx i) (s.ctx i).vnpu = none → exec .forcedPreemption s = .next u)
      ∧ ∀ v, u.closePhase (.ctx i) (s.ctx i).vnpu = some v →
        exec .forcedPreemption s = .next (v.modCtx i fun c => { c with cutGate := some (v.phases (.ctx i)).closed }))
    ∧ (∀ m, g ≤ s.gtc.toNat → (s.ctx i).live = true → (s.ctx i).preq = true → (s.ctx i).defer = false → s.inPhase i = false →
      (s.ctx i).stage = .fresh → (s.ctx i).failing = none → let u := s.cutStep i
      u.atCut i = true → (u.ctx i).cutGate = some m → u.phaseDone (.ctx i) m = true → u.phasesQuiet (.ctx i) = true →
      u.engPhasesQuiet i = true → ∃ t, exec .forcedPreemption s = .next t ∧ (t.ctx i).live = false
        ∧ ∃ x ∈ (t.core s.cur.ev.core).saved, x.ctx.pc = (u.ctx i).pc ∧ x.ctx.g = (u.ctx i).g
          ∧ let k := u.core i.core
            let keep : BitVec 60 := ((u.ctx i).liveset.setWidth 60) &&& ~~~k.lent
            let fits := maskSize keep = 0 ∨ u.poolUsed + 8192 + 65536 * maskSize keep ≤ u.contracts.pool * 2 ^ 20
            (fits → x.live = keep ∧ x.lost = false ∧ x.tags = k.tileTags keep ∧ x.vers = k.tileVers keep
              ∧ (∀ a, keep.getLsbD (regionOf a) = true → x.cells.get a = k.store.get a)
              ∧ (∀ n, n ∈ x.poison ↔ n ∈ k.poison ∧ keep.getLsbD (regionOf (n * 64)) = true))
            ∧ (¬ fits → x.live = 0 ∧ x.lost = true)
            ∧ ∀ a, localOk a 1 = true → keep.getLsbD (regionOf a) = false → k.lent.getLsbD (regionOf a) = false →
                (t.core i.core).store.get a = 0))

/-- The walker reads PROD, takes a nest once its descriptor passes R307, and deals its iterations with the registers of R113 and R312,
every tag F32 and every version 0; saved units and parked contexts resume, a unit whose
state is lost fails and a marked context traps REVOKED; doorbells, frames, windows, budgets, regulators and ways act
when due, a boundary waits for a service in slot H and ends the fusion of its cluster, and a set brings READY with new virtual NPUs that
have no vectors and the routine map of a new one (R24, R151, R190, R282, R290, R304, R305, R307, R312, R319-R324, R386, R387, R394, R424,
R435, R443, R446, R475, R476). Clauses that are the model's choices: the order in which harvest contexts are dealt (log 27), the pages of a
queue (log 28), that a boundary at which the tenure of a leaf ends is what ends the fusion of its cluster (log 26), and that READY is set
with the frame at which a set takes effect (log 54). -/
def Obligations.LaunchEventsTakeEffect : Prop :=
  (∀ s, let v := s.cur.ev.vnpu
    let q := s.cur.ev.queue
    let r := (s.contract v).queues.get q
    (s.contract v).enable = true → r.inModule = true → s.evQueue.qstop = false → (s.vnpu v).busy = false →
    s.evQueue.unpublished = none →
    (s.qBusy v r r.qcb = true → exec .prodNotification s = .next s)
    ∧ (s.qBusy v r r.qcb = false → s.qRead v r r.qcb 4 = none → exec .prodNotification s = .next ((s.heard v q).stopQueue v q))
    ∧ (∀ u bs, s.qBusy v r r.qcb = false → s.qRead v r r.qcb 4 = some (u, bs) →
      exec .prodNotification s = .next ((u.heard v q).modQueue v q fun x => { x with prod := BitVec.ofNat 32 (leNat bs) })))
  ∧ (∀ s, s.evQueue.unpublished.isSome = true →
    exec .prodNotification s = .next ((s.publish s.cur.ev.vnpu s.cur.ev.queue false).readProd s.cur.ev.vnpu s.cur.ev.queue))
  ∧ (∀ s u, let v := s.cur.ev.vnpu
    let q := s.cur.ev.queue
    let r := (s.contract v).queues.get q
    (s.contract v).enable = true → (s.vnpu v).busy = false → s.evQueue.takeable = true →
    s.qBusy v r (entryAt r s.evQueue) = false → s.queuePages v r s.evQueue = .ready →
    s.admitAll v (.walker v q) (State.fetchCharge r) = (true, u) →
    (s.cur.ev.flag = false → exec .walkerTake s = .next (u.failTake v q))
    ∧ (s.cur.ev.flag = true → u.qRead v r (entryAt r s.evQueue) 64 = none → exec .walkerTake s = .next (u.failTake v q))
    ∧ (∀ w bs, s.cur.ev.flag = true → u.qRead v r (entryAt r s.evQueue) 64 = some (w, bs) →
      exec .walkerTake s = .next (w.takeNest v q
        { nestOf w.nestUid s.evQueue.cons.toNat (leNat bs) with rejected := !nestOk (w.contract v) (leNat bs) })))
  ∧ (∀ s l v q n, let c := s.cur.ev.core
    s.windowOwner c = some l → s.qualifies c l = true →
    s.pickNest l (fun n => !n.harvest && (s.targets l n).contains c) = some (v, q, n) → s.targets l n = [c] →
    (s.core c).world = (s.contract v).world → (s.core c).quarantined = false → ((s.vnpu v).queue q).headNest = some n →
    ∃ t, exec .dispatch s = .next t ∧ (t.ctx ⟨c, .o⟩).live = true ∧ (t.ctx ⟨c, .o⟩).pc = n.entry ∧ (t.ctx ⟨c, .o⟩).vnpu = v
      ∧ (t.ctx ⟨c, .o⟩).rd 55 = n.args ∧ (t.ctx ⟨c, .o⟩).rd 56 = (n.indices n.next)[0]
      ∧ (t.ctx ⟨c, .o⟩).rd 57 = (n.indices n.next)[1] ∧ (t.ctx ⟨c, .o⟩).rd 58 = (n.indices n.next)[2] ∧ (t.ctx ⟨c, .o⟩).rd 59 = (n.indices n.next)[3]
      ∧ (∀ r : Reg, (r.toNat < 55 ∨ 59 < r.toNat) → (t.ctx ⟨c, .o⟩).rd r = 0)
      ∧ (t.ctx ⟨c, .o⟩).sup = true ∧ (t.ctx ⟨c, .o⟩).prioBase = BitVec.ofNat 3 q.val ∧ (t.ctx ⟨c, .o⟩).landings = []
      ∧ (t.ctx ⟨c, .o⟩).leaf = s.leafOf v ∧ ∀ i, (t.core c).tag i = 0 ∧ (t.core c).ver i = 0)
  ∧ (∀ s l x, let c := s.cur.ev.core
    s.windowOwner c = some l → (s.core c).ctxO.live = false → (s.core c).clearDue = none →
    ((s.core c).saved.find? fun x => x.ctx.leaf = l && x.ctx.failing.isNone) = some x → (s.core c).world = (s.contract x.ctx.vnpu).world →
    (s.core c).quarantined = false → x.lost = false → s.cur.ev.flag = true → x.ctx.excOk = true →
    ∃ t, exec .unitResume s = .next t ∧ (t.ctx ⟨c, .o⟩).live = true ∧ (t.ctx ⟨c, .o⟩).pc = x.ctx.pc ∧ (t.ctx ⟨c, .o⟩).g = x.ctx.g
      ∧ (t.ctx ⟨c, .o⟩).tick = x.ctx.tick ∧ (t.ctx ⟨c, .o⟩).landings = x.ctx.landings)
  ∧ (∀ s l x, let c := s.cur.ev.core
    s.windowOwner c = some l → (s.core c).ctxO.live = false → (s.core c).clearDue = none →
    ((s.core c).saved.find? fun x => x.ctx.leaf = l && x.ctx.failing.isNone) = some x → (s.core c).world = (s.contract x.ctx.vnpu).world →
    (x.lost = true ∨ s.cur.ev.flag = false ∨ x.ctx.excOk = false) →
    ∃ t, exec .unitResume s = .next t ∧ (t.ctx ⟨c, .o⟩).live = false ∧ (∀ y ∈ (t.core c).saved, y.ctx.leaf = l → y.ctx.failing = some 0x1E)
      ∧ (s.fatalFree ⟨c, .o⟩ x.ctx.vnpu = true → ∀ y ∈ (t.core c).saved, y.ctx.leaf ≠ l))
  ∧ (∀ s l v q n b, let c := s.cur.ev.core
    s.harvestFree c = some l → (allCores.find? fun d => s.harvestQualifies d l) = some c →
    s.pickNest l (fun n => n.harvest) = some (v, q, n) → ((List.finRange 4).find? fun b => !((s.core c).bank b).used) = some b →
    ∃ t, exec .harvestDeal s = .next t ∧ (t.ctx ⟨c, .h⟩).live = true ∧ (t.ctx ⟨c, .h⟩).pc = n.entry ∧ (t.ctx ⟨c, .h⟩).bank = b
      ∧ (t.ctx ⟨c, .h⟩).rd 55 = n.args ∧ (t.ctx ⟨c, .h⟩).rd 56 = (n.indices n.next)[0] ∧ (t.ctx ⟨c, .h⟩).rd 57 = (n.indices n.next)[1]
      ∧ (t.ctx ⟨c, .h⟩).rd 58 = (n.indices n.next)[2] ∧ (t.ctx ⟨c, .h⟩).rd 59 = (n.indices n.next)[3]
      ∧ ∀ r : Reg, (r.toNat < 55 ∨ 59 < r.toNat) → (t.ctx ⟨c, .h⟩).rd r = 0)
  ∧ (∀ s l b, let c := s.cur.ev.core
    s.harvestFree c = some l → s.unparkChoice c l = some b → ((s.core c).bank b).marked = false →
    ∃ t, exec .unpark s = .next t ∧ t.ctx ⟨c, .h⟩ = { ((s.core c).bank b).ctx with live := true, bank := b, issued := none }
      ∧ ((t.core c).bank b).parked = false)
  ∧ (∀ s l b, let c := s.cur.ev.core
    s.harvestFree c = some l → s.unparkChoice c l = some b → ((s.core c).bank b).marked = true →
    ∃ u : State, exec .unpark s = .next (u.raise ⟨c, .h⟩ { cause := 0x18, einfo := 64 })
      ∧ u.ctx ⟨c, .h⟩ = { ((s.core c).bank b).ctx with live := true, bank := b, issued := none } ∧ ((u.core c).bank b).parked = false)
  ∧ (∀ s, let v := s.cur.ev.vnpu
    let q := s.cur.ev.queue
    let p : BitVec 32 := s.cur.ev.word.setWidth 32
    (s.doorbellDead v q = true → exec .doorbell s = .next s)
    ∧ (s.doorbellDead v q = false → 2 ^ ((s.contract v).queues.get q).k < (p - ((s.vnpu v).queue q).cons).toNat →
      exec .doorbell s = .next (s.modVnpu v fun x => { x with badDb := true }))
    ∧ (s.doorbellDead v q = false → (p - ((s.vnpu v).queue q).cons).toNat ≤ 2 ^ ((s.contract v).queues.get q).k →
      exec .doorbell s = .next (s.modQueue v q fun x => { x with prod := p })))
  ∧ (∀ s, (s.gtc.toNat % s.frameNs ≠ 0 → exec .frameStart s = .next s)
    ∧ (s.frameNs ≠ 0 → s.gtc.toNat % s.frameNs = 0 → ∃ t, exec .frameStart s = .next t ∧ t.frameStartAt = s.gtc.toNat
      ∧ (∀ l, (t.leaf l).used = 0 ∧ (t.leaf l).reached = false) ∧ (∀ r ∈ t.regs, r.tripped = false)
      ∧ (s.pending = none → t.contracts = s.contracts) ∧ (∀ c, s.pending = some c → t.contracts = c ∧ t.pending = none ∧ t.ready = true
        ∧ ∀ v, (s.contract v).enable = false → (c.vnpus.get v).enable = true →
          (t.vnpu v).evec = 0 ∧ (t.vnpu v).ctxsave = 0 ∧ (t.vnpu v).rtMap = rtMap0)))
  ∧ (∀ s w n, let c := s.cur.ev.core
    s.dueWindow c = some (w, n) → s.contracts.frame ≠ 0 → (s.core c).windowAt ≠ some n →
    let same := (s.core c).windowAt.isSome && (s.windowOwner c).isSome && s.windowOwner c == w.owner.filter fun l => !s.suspended l
    (same = false → (s.core c).ctxO.live = true → s.inPhase ⟨c, .o⟩ = false → exec .windowBoundary s = .next (s.askPreempt c))
    ∧ (∀ moves, (same = true ∨ (s.core c).ctxO.live = false) →
      moves = (!same || decide ((s.core c).window.harvest ≠ w.harvest) || decide ((s.core c).window.lend ≠ w.lend)) →
      let r := if moves then (s.askRevoke c true).revokeNow c else s
      (moves = true → (r.core c).ctxH.live = true → exec .windowBoundary s = .next r)
      ∧ ((moves = false ∨ (r.core c).ctxH.live = false) → ∃ t, exec .windowBoundary s = .next t ∧ (t.core c).window = w
        ∧ (t.core c).windowAt = some n ∧ (t.core c).recalled = false
        ∧ (same = false → ∀ d, clusterOf d = clusterOf c → (t.core d).fused = false))))
  ∧ (∀ s, let l := s.cur.ev.leaf
    let p := s.leafContract l
    (s.topContract (topOf l)).budget = 0 →
    (p.budget = 0 ∨ (s.leaf l).used < p.budget ∨ (s.leaf l).reached = true → exec .budgetTime s = .next s)
    ∧ (p.budget ≠ 0 → p.budget ≤ (s.leaf l).used → (s.leaf l).reached = false →
      exec .budgetTime s = .next ((s.modLeaf l fun x => { x with reached := true }).applyBudget l p.suspend p.budget)))
  ∧ (∀ s, (s.gtc.toNat % 125 ≠ 0 → exec .regulatorRefill s = .next s)
    ∧ (s.gtc.toNat % 125 = 0 → exec .regulatorRefill s = .next { s with regs := s.regs.map fun r =>
        { r with lvl := min (8 * ((s.leafContract r.leaf).depth r.point) : Int) (r.lvl + (s.leafContract r.leaf).rate r.point) } }))
  ∧ (∀ s, let l := s.cur.ev.leaf
    let r := s.reg l s.cur.ev.point.val
    let held := s.heldAt l s.cur.ev.point.val
    ((s.leafContract l).regTrap = false ∨ r.tripped = true ∨ (∀ h ∈ held, s.gtc.toNat < h.since + 1000 * (s.leafContract l).thresh) →
      exec .regulatorTrip s = .next s)
    ∧ ((s.leafContract l).regTrap = true → r.tripped = false → (∃ h ∈ held, h.since + 1000 * (s.leafContract l).thresh ≤ s.gtc.toNat) →
      exec .regulatorTrip s = .next ((s.tripped l s.cur.ev.point.val).foldl
        (fun s i => s.causeAt i { cause := 0x10, einfo := BitVec.ofNat 64 s.cur.ev.point.val }) (s.setReg { r with tripped := true }))))
  ∧ (∀ s, (s.gtc.toNat % 100000 ≠ 0 → exec .wayReassignment s = .next s)
    ∧ (s.gtc.toNat % 100000 = 0 → ∃ t, exec .wayReassignment s = .next t
      ∧ t.slice s.cur.ev.slice = s.reassign (s.slice s.cur.ev.slice)))

/-- Power, worlds and errors: an interval ends at an epoch alone, the first one settles nothing, and a boundary leaves every clock low where
all clusters are held low; rails and dividers move as R17 says; a page passes to a world, loses its poison and reads zero; resets, sweeps,
retention at an epoch, mismatches, errors, sensors each at its own limit, rails and monitors act as their rules say (R16, R17, R282, R336-R340,
R402, R417, R449-R455, R472, R473, R486-R488). Clauses that are the model's choices: retention begins and ends at epochs (log 100), when a
cluster is quiet (log 30), a record for each sensor that comes to stand at its limit (log 31), the flag that ends a rail's excursion and
the time from which its 100 microseconds count (log 32), the receipt and the walk of a scrub sweep (log 57), the scrub pass and the pages
it shows (log 81), and TSYNC under P = 0, which captures the time and slews nothing, with a tie between two multiples taken to the lower
(log 108). -/
def Obligations.ModuleEventsTakeEffect : Prop :=
  (∀ s, ((s.cycle % 4 ≠ 0 ∨ s.gtc.toNat / 10000 ≤ s.spiAt / 10000) → exec .intervalBoundary s = .next s)
    ∧ (s.cycle % 4 = 0 → s.spiAt / 10000 < s.gtc.toNat / 10000 →
      ∃ t, exec .intervalBoundary s = .next t ∧ t.accountsFresh = false ∧ t.spiFrame = (s.spiFrame + 1) % 2 ^ 16
        ∧ t.spiAt = s.gtc.toNat ∧ t.pEst = s.cur.ev.n ∧ t.settled = true
        ∧ (s.settled = true → t.ePermits ≤ 16384) ∧ (s.settled = false → t.ePermits = s.ePermits ∧ t.qRem = s.qRem)
        ∧ (s.allLow = true → ∀ k, (t.cluster k).clockHigh = false)))
  ∧ (∀ s, let x := s.cluster s.cur.ev.cluster
    (x.moving = none → exec .railConfirmed s = .next (s.modCluster s.cur.ev.cluster fun x => x))
    ∧ (∀ h n, x.moving = some (h, n) →
      exec .railConfirmed s = .next (s.modCluster s.cur.ev.cluster fun x => { x with railHigh := h, moving := none }))
    ∧ (s.cycle % 4 ≠ 0 → exec .dividerSwitch s = .next s)
    ∧ (s.cycle % 4 = 0 → x.railHigh = true → x.moving = none →
      exec .dividerSwitch s = .next (s.modCluster s.cur.ev.cluster fun x => { x with clockHigh := true })))
  ∧ (∀ s, let e := s.cur.ev
    (s.pageWorld e.n = e.word.setWidth 8 → exec .pageWorldChange s = .next s)
    ∧ (s.pageWorld e.n ≠ e.word.setWidth 8 → e.n < 2 ^ 26 → s.entryMay e.vnpu e.m = false →
      exec .pageWorldChange s = .next { s with agenda := s.agenda ++ [.clock, .event .pageWorldChange e] })
    ∧ (s.pageWorld e.n ≠ e.word.setWidth 8 → e.n < 2 ^ 26 → s.entryMay e.vnpu e.m = true → ∃ t, exec .pageWorldChange s = .next t
      ∧ t.pageWorld e.n = e.word.setWidth 8 ∧ (∀ a, a / 4096 = e.n → t.dbyte a = 0) ∧ ∀ l ∈ t.poison, l / 32 ≠ e.n)
    ∧ (s.memoriesOk = true → ∃ t, exec .pendingZeroFill s = .next t ∧ (∀ a, t.dbyte a = s.dbyte a) ∧ (e.n < 2 ^ 26 → t.filled e.n = true)))
  ∧ (∀ s, ∃ t, exec .guestReset s = .next t ∧ (t.vnpu s.cur.ev.vnpu).busy = true
    ∧ (t.vnpu s.cur.ev.vnpu).rgen = (s.vnpu s.cur.ev.vnpu).rgen + 1 ∧ (t.vnpu s.cur.ev.vnpu).sweeps = [])
  ∧ (∀ s, let v := s.cur.ev.vnpu
    let u := s.resetStops v
    ((u.vnpu v).busy = false ∨ u.drainCount v ≠ 0 ∨ u.anyLive v = true → exec .guestResetDrain s = .next u)
    ∧ ((u.vnpu v).busy = true → u.drainCount v = 0 → u.anyLive v = false →
      ∃ t, exec .guestResetDrain s = .next t ∧ (t.vnpu v).busy = false ∧ (t.vnpu v).badDb = false))
  ∧ (∀ s, let v := s.cur.ev.vnpu
    let f := s.cur.ev.sweep
    (∀ x rest, (s.vnpu v).sweeps = x :: rest → s.sweepBusy v x = true → exec .scrubSweep s = .next s)
    ∧ ((s.vnpu v).sweeps = [] → ∃ t, exec .scrubSweep s = .next t ∧ t.scrubPass = s.scrubPass + 1 ∧ t.corrected = s.corrected + f.corr
      ∧ ∀ p, (p, s.scrubPass) ∈ t.shown ↔ (p, s.scrubPass) ∈ s.shown ∨ ∃ q ∈ f.shown, s.behindPage v q = some p)
    ∧ (∀ x rest, (s.vnpu v).sweeps = x :: rest → s.sweepBusy v x = false →
      ∃ t, exec .scrubSweep s = .next t ∧ (t.vnpu v).sweeps = rest ∧ t.scrubPass = s.scrubPass + 1))
  ∧ (∀ s t, let k := s.cur.ev.cluster
    (s.cycle % 4 ≠ 0 → ((s.cluster k).retention = true → exec .retentionExit s
        = .next (s.modCluster k fun x => { x with waking := some (s.cur.ev.flag || (s.cluster k).waking == some true) }))
      ∧ ((s.cluster k).quietAt = some t → exec .retentionEntry s = .next s))
    ∧ (s.cycle % 4 = 0 → (s.cluster k).quietAt = some t → t + 20000 ≤ s.gtc.toNat → s.clusterQuiet k = true →
      s.clusterMarks k = (s.cluster k).marks → s.holdsClass0 k = false →
      exec .retentionEntry s = .next (s.modCluster k fun x => { x with retention := true }))
    ∧ ((s.cluster k).quietAt = none → exec .retentionEntry s = .next s)
    ∧ (s.cycle % 4 = 0 → (s.cluster k).retention = true → s.cur.ev.flag = false → (s.cluster k).waking ≠ some true →
      exec .retentionExit s = .next (s.modCluster k fun x => { x with retention := false, quietAt := none, waking := none }))
    ∧ (s.clusterMarks k ≠ (s.cluster k).marks → exec .retentionEntry s = .next s)
    ∧ ((s.cluster k).retention = false → exec .retentionExit s = .next s))
  ∧ (∀ s, (s.lockstep s.cur.ev.core = false → exec .lockstepMismatch s = .next s)
    ∧ (s.lockstep s.cur.ev.core = true → ∃ t, exec .lockstepMismatch s = .next t
      ∧ (∀ d, d.val / 2 = s.cur.ev.core.val / 2 → (t.core d).quarantined = true) ∧ t.faultN = true))
  ∧ (∀ s, (∀ line, s.cur.ev.flag = true → s.cur.ev.site = .dramLine line → exec .eccError s = .next { s with corrected := s.corrected + 1 })
    ∧ (s.cur.ev.flag = true → (∀ line, s.cur.ev.site ≠ .dramLine line) → exec .eccError s = .next s)
    ∧ (∀ line, s.cur.ev.flag = false → s.cur.ev.site = .dramLine line → line < 2 ^ 31 → s.poison.contains line = false →
      ∃ t, exec .eccError s = .next t ∧ t.poison.contains line = true ∧ t.faultN = true)
    ∧ (∀ c a, s.cur.ev.flag = false → s.cur.ev.site = .localUnit c a → localOk a 1 = true →
      ∃ t, exec .eccError s = .next t ∧ (t.core c).poison.contains (a / 64) = true)
    ∧ (∀ c line, s.cur.ev.flag = false → s.cur.ev.site = .l1 c line → ∃ t, exec .eccError s = .next t ∧ t.faultN = true
      ∧ ∀ x, x ∈ (t.core c).l1 ↔ x ∈ (s.core c).l1 ∧ x.line ≠ line)
    ∧ (∀ c n, s.cur.ev.flag = false → s.cur.ev.site = .tlb c n → ∃ t, exec .eccError s = .next t ∧ t.faultN = true
      ∧ (t.core c).tlb = (s.core c).tlb.eraseIdx n)
    ∧ (∀ c, s.cur.ev.flag = false → s.cur.ev.site = .clearSig c → ∃ t, exec .eccError s = .next t ∧ t.faultN = true
      ∧ (t.core c).sigBad = true)
    ∧ (∀ m n, s.cur.ev.flag = false → s.cur.ev.site = .routineImage m n → ∃ t, exec .eccError s = .next t ∧ t.faultN = true
      ∧ n ∈ (t.slice m).badImages)
    ∧ (∀ m x i, s.cur.ev.flag = false → s.cur.ev.site = .executor m x → ((s.slice m).exec x).inv = some i →
      ∃ t, exec .eccError s = .next t ∧ ((t.slice m).exec x).inv = none ∧ t.dram = s.dram ∧ t.faultN = true
        ∧ ∃ y ∈ t.net, ∃ info, y.body = .reply i (.fault 0x11 info 1)))
  ∧ (∀ s, let die := hottest (dieTemps s.cur.ev.temps)
    let past := (List.range 46).filter fun n => decide ((if 14 ≤ n ∧ n < 30 then 420 else 440 : Int) ≤ tempAt s.cur.ev.temps n)
    (500 ≤ die → ∃ t, exec .sensorRead s = .next t ∧ t.thermN = true ∧ t.held = true ∧ t.host = s.host ∧ t.temps = s.cur.ev.temps)
    ∧ (die < 500 → s.held = true → exec .sensorRead s = .next { s with temps := s.cur.ev.temps })
    ∧ (die < 500 → s.held = false → ∃ t, exec .sensorRead s = .next t ∧ t.temps = s.cur.ev.temps
      ∧ (440 ≤ die → t.hot = true) ∧ (die < 400 → t.hot = false) ∧ (400 ≤ die → die < 440 → t.hot = s.hot)
      ∧ t.pastLimit = past ∧ ((∃ n ∈ past, n ∉ s.pastLimit) → t.faultN = true)
      ∧ ((∀ n ∈ past, n ∈ s.pastLimit) → t.faultN = s.faultN ∧ t.errlog = s.errlog)))
  ∧ (∀ s, let r := s.cur.ev.rail
    (s.cur.ev.flag = true → exec .railExcursion s = .next { s with railsOut := s.railsOut.filter fun x => x.1 ≠ r })
    ∧ (s.cur.ev.flag = false → (∀ x ∈ s.railsOut, x.1 ≠ r) →
      ∃ t, exec .railExcursion s = .next t ∧ t.railsOut = (r, s.gtc.toNat - 1000) :: s.railsOut ∧ t.faultN = true)
    ∧ (∀ x ∈ s.railsOut, x.1 = r → x.2 + 100000 ≤ s.gtc.toNat → exec .railHalt s = .next { s with halted := true })
    ∧ ((∀ x ∈ s.railsOut, x.1 = r → s.gtc.toNat < x.2 + 100000) → exec .railHalt s = .next s)
    ∧ (s.spiAt + 100000 ≤ s.gtc.toNat → exec .watchdog s = .next { s with faultN := true })
    ∧ (s.gtc.toNat < s.spiAt + 100000 → exec .watchdog s = .next s)
    ∧ (∃ t, exec .clockMonitor s = .next t ∧ t.faultN = true)
    ∧ (∃ t, exec .rootControllerMismatch s = .next t ∧ t.faultN = true ∧ t.halted = true ∧ t.rootBad = true))
  ∧ (∀ s, (s.contracts.tsync = 0 → exec .tsync s = .next { s with tscap := s.gtc }
      ∧ exec .tsynclost s = .next s
      ∧ exec .gtcslew s = .next { s with slew := s.cur.ev.word.toInt * 2 ^ 32 })
    ∧ (s.contracts.tsync ≠ 0 → (∃ t, exec .tsync s = .next t ∧ t.tscap = s.gtc ∧ t.tsLost = false ∧ t.tsLast = s.gtc.toNat
        ∧ t.slew = nearestError s.gtc.toNat (s.contracts.tsync * 1000000) * 2 ^ 32)
      ∧ exec .gtcslew s = .next s
      ∧ (s.tsLost = false → s.tsLast + 3 * (s.contracts.tsync * 1000000) ≤ s.gtc.toNat →
        ∃ t, exec .tsynclost s = .next t ∧ t.tsLost = true ∧ t.slew = 0 ∧ t.gtc = s.gtc)))

/-- The host interface: blobs and images of the staging window are judged, and a load during a validation is Busy; boot, module reset and function-level
reset act, the error log and FAULT_N are read and cleared, a write to a register without a behaviour changes nothing and BAR 2 holds
what is written, TDISP moves as R413 and R415 say, keys and page requests end, and host reads are answered, a completion that host
ingress holds being offered again after a fabric cycle (R379, R386, R413-R415, R454, R475-R486). Clauses that are the model's choices: the
signature of the measurements is a free value (log 5), what a held completion does (log 42), host accesses out of RUN (log 50), a key switch
while the old key is valid has no effect (log 51), a TDISP request in the wrong state changes nothing (log 52), a blob is an opaque function
of the window and how long its validation lasts is an input (log 53), a blob load in recovery is ignored (log 109), boot (log 54), module reset keeps host memory (log 60), the CRC-32 of
the frame (log 63), and what the MSI-X table of BAR 2 steers is left out (log 74). -/
def Obligations.InterfaceEventsTakeEffect : Prop :=
  (∀ s, (s.held = true ∨ s.recovery = true → exec .blobLoad s = .next s)
    ∧ (s.held = false → s.recovery = false →
      (s.validating = none → s.cur.ev.flag = false → exec .blobLoad s = .next { s with validating := some (Config.stagedBlob s.staging) })
      ∧ (s.validating = none → s.cur.ev.flag = true → exec .blobLoad s = .next s)
      ∧ (s.validating.isSome = true → s.cur.ev.flag = false → exec .blobLoad s = .next { s with blobstat := 5 })
      ∧ (∀ b, s.validating = some b → s.cur.ev.flag = true → ∃ t, exec .blobLoad s = .next t ∧ t.validating = none
        ∧ t.blobstat = BitVec.ofNat 64 (s.blobStatus b) ∧ t.contracts = s.contracts ∧ t.ready = s.ready
        ∧ (b.sigOk = false → t.blobstat = 2) ∧ (b.sigOk = true → 2 ^ 20 < b.size → t.blobstat = 3)
        ∧ (s.blobStatus b = 0 → t.pending = some (parseBlob b)) ∧ (s.blobStatus b ≠ 0 → t.pending = s.pending))))
  ∧ (∀ s, (s.recovery = false → exec .imageLoad s = .next s)
    ∧ (s.recovery = true → (Config.stagedImage s.staging).sigOk = false → exec .imageLoad s = .next { s with blobstat := 2 })
    ∧ (s.recovery = true → (Config.stagedImage s.staging).sigOk = true → ∃ t, exec .imageLoad s = .next t ∧ t.recovery = false ∧ t.held = false)
    ∧ (s.held = false ∨ s.thermN = true → exec .boot s = .next s)
    ∧ (s.held = true → s.thermN = false → ∃ t, exec .boot s = .next t ∧ t.held = false
      ∧ t.recovery = !s.cur.ev.image.sigOk))
  ∧ (∀ s, (s.cur.ev.flag = false → exec .registerWrite s = .next s)
    ∧ (s.cur.ev.flag = true → s.cur.ev.fn = .pf → s.staging.wf = true → s.cur.ev.n + 8 ≤ 2 ^ 26 →
      ∃ t, exec .registerWrite s = .next t ∧ t.readBar2 .pf s.cur.ev.n = s.cur.ev.word.toNat ∧ t.dram = s.dram ∧ t.host = s.host)
    ∧ (∀ v, s.cur.ev.flag = true → s.cur.ev.fn = .vf v → s.ready = true → (s.vnpu v).msixTable.wf = true → s.cur.ev.n + 8 ≤ 0x8000 →
      ∃ t, exec .registerWrite s = .next t ∧ t.readBar2 (.vf v) s.cur.ev.n = s.cur.ev.word.toNat ∧ t.dram = s.dram ∧ t.host = s.host))
  ∧ (∀ s n r rest, s.errlog.recs = (n, r) :: rest →
    exec .elog s = .next { s with outputs := .bytes r.image :: s.outputs, errlog := { s.errlog with recs := rest } })
  ∧ (∀ s, s.errlog.recs = [] → ∃ t, exec .elog s = .next t ∧ t.errlog = s.errlog ∧ t.dram = s.dram)
  ∧ (∀ s, (s.faultPersists = true → exec .faultclr s = .next s)
    ∧ (∀ m, s.lastAssert = some m → s.cur.ev.word.toNat < m → exec .faultclr s = .next s)
    ∧ ((∃ r ∈ s.errlog.recs, r.2.faultN = true) → exec .faultclr s = .next s)
    ∧ (s.faultPersists = false → (∀ r ∈ s.errlog.recs, r.2.faultN = false) → (∀ m, s.lastAssert = some m → m ≤ s.cur.ev.word.toNat) →
      exec .faultclr s = .next { s with faultN := false }))
  ∧ (∀ s, exec .statusFrame s = .next { s with outputs := .bytes (s.frameBytes ++ leBytes 4 (crc32 s.frameBytes).toNat) :: s.outputs }
    ∧ s.frameBytes.length = 28
    ∧ leNat (s.frameBytes.take 2) = 0x9600 ∧ leNat ((s.frameBytes.drop 2).take 2) = s.spiFrame % 2 ^ 16
    ∧ leNat ((s.frameBytes.drop 4).take 1) = (if s.faultN then 1 else 0) + (if s.thermN then 2 else 0) + (if s.tsLost then 4 else 0)
    ∧ leNat ((s.frameBytes.drop 5).take 1) = s.hottestByte % 256
    ∧ leNat ((s.frameBytes.drop 6).take 2) = s.errlog.recs.length % 2 ^ 16 ∧ leNat ((s.frameBytes.drop 8).take 8) = s.gtc.toNat
    ∧ leNat ((s.frameBytes.drop 16).take 12) = s.quarantineBits % 2 ^ 96)
  ∧ (∀ s, ∃ t, exec .moduleReset s = .next t ∧ t.held = State.reset.held ∧ t.dram = State.reset.dram ∧ t.contracts = State.reset.contracts
    ∧ t.cores = State.reset.cores ∧ t.host = s.host ∧ (s.thermN = false → t.thermN = false)
    ∧ (s.thermN = true → s.cur.ev.flag = false → (t.thermN = true ↔ 400 ≤ hottest s.temps))
    ∧ (s.thermN = true → s.cur.ev.flag = true → t.thermN = true))
  ∧ (∀ s, let v := s.cur.ev.vnpu
    (s.ready = false → exec .functionLevelReset s = .next s ∧ exec .lockInterface s = .next s ∧ exec .startInterface s = .next s
      ∧ exec .stopInterface s = .next s ∧ exec .getState s = .next s ∧ exec .getDeviceInterfaceReport s = .next s)
    ∧ (s.ready = true → exec .functionLevelReset s = .next (s.startReset v)
      ∧ exec .getState s = .next { s with outputs := .value (s.vnpu v).tdisp.code :: s.outputs }
      ∧ exec .getDeviceInterfaceReport s = .next { s with
          outputs := .report v [(0, 0x2000), (2, 0x8100)] (s.contract v) (s.leafContract (s.leafOf v)) (s.topContract (topOf (s.leafOf v))) :: s.outputs }
      ∧ ((s.vnpu v).tdisp = .unlocked → exec .lockInterface s = .next (s.modVnpu v fun x => { x with tdisp := .locked, leftRun := x.leftRun || false }))
      ∧ ((s.vnpu v).tdisp = .locked → exec .startInterface s = .next (s.modVnpu v fun x => { x with tdisp := .run, leftRun := x.leftRun || false }))
      ∧ ((s.vnpu v).tdisp ≠ .unlocked → exec .lockInterface s = .next s) ∧ ((s.vnpu v).tdisp ≠ .locked → exec .startInterface s = .next s)
      ∧ (∃ t, exec .stopInterface s = .next t ∧ (t.vnpu v).tdisp = .unlocked
        ∧ ((s.vnpu v).tdisp = .run → (t.vnpu v).leftRun = true ∧ ∀ x ∈ t.hostReqs, x.vnpu = v → x.lost = true))))
  ∧ (∀ s, ∃ o, exec .getMeasurements s = .next { s with outputs := .measurements (s.attest ++ [s.contracts.digest]) o :: s.outputs })
  ∧ (∀ s, (s.cur.ev.fn = .pf → exec .configurationRequest s = .next { s with outputs := .config (!(s.ready || s.recovery)) :: s.outputs })
    ∧ (∀ v, s.cur.ev.fn = .vf v → s.ready = true → s.cur.ev.flag = false →
      exec .configurationRequest s = .next { s with outputs := .config false :: s.outputs })
    ∧ (∀ v, s.cur.ev.fn = .vf v → s.ready = true → s.cur.ev.flag = true → (s.vnpu v).tdisp.isLocked = true →
      ∃ t, exec .configurationRequest s = .next t ∧ (t.vnpu v).tdisp = .error ∧ (t.vnpu v).busy = true))
  ∧ (∀ s, let v := s.cur.ev.vnpu
    ((s.vnpu v).oldKey = none → exec .keySwitch s
        = .next (s.modVnpu v fun x =>
          { x with kset := !x.kset, keyGen := x.keyGen + 1, oldKey := some (s.gtc.toNat + 4000000) }) ∧ exec .keyErasure s = .next s)
    ∧ (∀ t, (s.vnpu v).oldKey = some t → exec .keySwitch s = .next s
      ∧ ((t ≤ s.gtc.toNat ∨ s.oldPending v = false) → exec .keyErasure s = .next (s.modVnpu v fun x => { x with oldKey := none }))
      ∧ (s.gtc.toNat < t → s.oldPending v = true → exec .keyErasure s = .next s)))
  ∧ (∀ s r, (s.hostReqs.find? fun r => r.id = s.cur.ev.n && r.result.isNone) = some r →
    r.rgen = (s.vnpu r.vnpu).rgen →
    (s.keyGone r = true → ∃ t, exec .hostCompletion s = .next t
      ∧ (t.vnpu r.vnpu).ideStale = min 65535 ((s.vnpu r.vnpu).ideStale + 1) ∧ t.dram = s.dram ∧ t.host = s.host)
    ∧ (s.keyGone r = false → (r.lost = true ∨ s.inRun r.vnpu = false) → exec .hostCompletion s = .next (s.answerHost r none))
    ∧ (s.keyGone r = false → r.lost = false → s.inRun r.vnpu = true → s.cur.ev.flag = false → s.cur.ev.m = 0 →
      exec .hostCompletion s = .next (s.answerHost r none))
    ∧ (∀ u : State, s.keyGone r = false → r.lost = false → s.inRun r.vnpu = true → s.cur.ev.flag = true →
      s.admitAll r.vnpu (.host r.id) [(96, 64)] = (true, u) →
      exec .hostCompletion s = .next (u.answerHost r (some (u.host.read (u.hostAddr r.vnpu r.addr) 64))))
    ∧ (∀ u : State, s.keyGone r = false → r.lost = false → s.inRun r.vnpu = true → s.cur.ev.flag = true →
      s.admitAll r.vnpu (.host r.id) [(96, 64)] = (false, u) →
      exec .hostCompletion s = .next { u with agenda := u.agenda ++ [.clock, .event .hostCompletion u.cur.ev] }))
  ∧ (∀ s p, let v := s.cur.ev.vnpu
    (s.pageReqs.find? fun p => p.index = s.cur.ev.n && p.vnpu = v) = some p → p.rgen = (s.vnpu v).rgen → s.cur.ev.flag = true →
    ∃ t, exec .pageRequestResponse s = .next t ∧ getKey p.page (t.vnpu v).granted = some s.cur.ev.m ∧ ∀ x ∈ t.pageReqs, x.index ≠ p.index)
  ∧ (∀ s p, (s.pageReqs.find? fun p => p.index = s.cur.ev.n) = some p →
    (s.gtc.toNat < p.since + 100000000 → exec .pageRequestTimeout s = .next s)
    ∧ (p.since + 100000000 ≤ s.gtc.toNat → p.rgen ≠ (s.vnpu p.vnpu).rgen →
      exec .pageRequestTimeout s = .next { s with pageReqs := s.pageReqs.filter fun x => x.index ≠ p.index })
    ∧ (p.since + 100000000 ≤ s.gtc.toNat → p.rgen = (s.vnpu p.vnpu).rgen → exec .pageRequestTimeout s =
        .next (State.refusePage { s with pageReqs := s.pageReqs.filter fun x => x.index ≠ p.index } p.vnpu p.page)))

/-! ## Invariants and reset -/

/-- DRAM and host memory stay in canonical form: from every state in which they are, a step that answers a next state leaves them so
(the model's own invariant; log 2 and 4 say what an unlisted byte reads). -/
def Obligations.EveryStepKeepsTheMemories : Prop := ∀ s t, s.memoriesOk = true → step s = .next t → t.memoriesOk = true

/-- After reset the memories are in canonical form, and so is every local store. -/
def Obligations.ResetHasCanonicalMemories : Prop := State.reset.memoriesOk = true ∧ State.reset.storesOk = true

/-- Module reset leaves no unit and no quarantine, every page of DRAM in world 0 with its pending-zero bit set, so that every byte reads
zero, no contract, and a full energy bucket (R336, R402, R478). That the module waits in reset until it boots is the model's own reading
(log 13). -/
def Obligations.ResetLeavesTheModuleEmpty : Prop :=
  (∀ i, (State.reset.ctx i).live = false) ∧ (∀ c, (State.reset.core c).quarantined = false ∧ (State.reset.core c).saved = [])
    ∧ (∀ p, State.reset.pageWorld p = 0 ∧ State.reset.filled p = false) ∧ (∀ a, State.reset.dbyte a = 0)
    ∧ (∀ c e, (State.reset.engine ⟨c, e⟩).queue = []) ∧ State.reset.net = [] ∧ State.reset.wft = [] ∧ State.reset.held = true
    ∧ State.reset.contracts = {} ∧ State.reset.pending = none ∧ (∀ v, (State.reset.contract v).enable = false)
    ∧ State.reset.ePermits = 16384 ∧ State.reset.qRem = 0 ∧ State.reset.faultN = false ∧ State.reset.ready = false
end

