-- ==== Sys2Proof/Laws/State.lean ====
section
/-! SUPPORT. One lemma per field per update of the state, so that no proof unfolds a record update; and what is read where
it was written. -/

namespace Sys2Proof.Machine

/-! ## Vectors -/

theorem getSetSelf {α : Type} {n : Nat} (v : Vector α n) (i : Fin n) (x : α) : (v.set i.val x i.isLt).get i = x := by
  show (v.set i.val x i.isLt)[i.val] = x
  simp

theorem getSetOther {α : Type} {n : Nat} (v : Vector α n) (i j : Fin n) (x : α) (h : j ≠ i) :
    (v.set i.val x i.isLt).get j = v.get j := by
  show (v.set i.val x i.isLt)[j.val] = v[j.val]
  have : i.val ≠ j.val := fun e => h (Fin.ext e.symm)
  simp [this]

/-! ## Contexts in a core -/

@[simp] theorem Core.ctx_setCtx (k : Core) (sl : Slot) (c : Ctx) : (k.setCtx sl c).ctx sl = c := by cases sl <;> rfl
theorem Core.ctx_setCtx_other (k : Core) (a b : Slot) (c : Ctx) (h : b ≠ a) : (k.setCtx a c).ctx b = k.ctx b := by
  cases a <;> cases b <;> first | rfl | exact absurd rfl h
@[simp] theorem Core.setCtx_setCtx (k : Core) (sl : Slot) (c d : Ctx) : (k.setCtx sl c).setCtx sl d = k.setCtx sl d := by
  cases sl <;> rfl
@[simp] theorem Core.setCtx_ctx (k : Core) (sl : Slot) : k.setCtx sl (k.ctx sl) = k := by cases sl <;> rfl
@[simp] theorem Core.engine_setCtx (k : Core) (sl : Slot) (c : Ctx) (e : Eng) : (k.setCtx sl c).engine e = k.engine e := by
  cases sl <;> rfl
@[simp] theorem Core.engine_setEngine (k : Core) (e : Eng) (x : Engine) : (k.setEngine e x).engine e = x := by
  exact getSetSelf _ _ _
@[simp] theorem Core.ctx_setEngine (k : Core) (e : Eng) (x : Engine) (sl : Slot) : (k.setEngine e x).ctx sl = k.ctx sl := by
  cases sl <;> rfl
@[simp] theorem Core.setCtx_eng (k : Core) (sl : Slot) (c : Ctx) : (k.setCtx sl c).eng = k.eng := by cases sl <;> rfl
@[simp] theorem Core.setCtx_phases (k : Core) (sl : Slot) (c : Ctx) : (k.setCtx sl c).phases = k.phases := by cases sl <;> rfl
@[simp] theorem Core.setCtx_store (k : Core) (sl : Slot) (c : Ctx) : (k.setCtx sl c).store = k.store := by cases sl <;> rfl
@[simp] theorem Core.setCtx_poison (k : Core) (sl : Slot) (c : Ctx) : (k.setCtx sl c).poison = k.poison := by cases sl <;> rfl
@[simp] theorem Core.setCtx_tags (k : Core) (sl : Slot) (c : Ctx) : (k.setCtx sl c).tags = k.tags := by cases sl <;> rfl
@[simp] theorem Core.setCtx_vers (k : Core) (sl : Slot) (c : Ctx) : (k.setCtx sl c).vers = k.vers := by cases sl <;> rfl
@[simp] theorem Core.setCtx_lent (k : Core) (sl : Slot) (c : Ctx) : (k.setCtx sl c).lent = k.lent := by cases sl <;> rfl
@[simp] theorem Core.setCtx_sems (k : Core) (sl : Slot) (c : Ctx) : (k.setCtx sl c).sems = k.sems := by cases sl <;> rfl
@[simp] theorem Core.setCtx_semsOf (k : Core) (sl : Slot) (c : Ctx) : (k.setCtx sl c).semsOf = k.semsOf := by cases sl <;> rfl
@[simp] theorem Core.setCtx_l1 (k : Core) (sl : Slot) (c : Ctx) : (k.setCtx sl c).l1 = k.l1 := by cases sl <;> rfl
@[simp] theorem Core.setCtx_icache (k : Core) (sl : Slot) (c : Ctx) : (k.setCtx sl c).icache = k.icache := by cases sl <;> rfl
@[simp] theorem Core.setCtx_tlb (k : Core) (sl : Slot) (c : Ctx) : (k.setCtx sl c).tlb = k.tlb := by cases sl <;> rfl
@[simp] theorem Core.setCtx_cupboard (k : Core) (sl : Slot) (c : Ctx) : (k.setCtx sl c).cupboard = k.cupboard := by cases sl <;> rfl
@[simp] theorem Core.setCtx_leases (k : Core) (sl : Slot) (c : Ctx) : (k.setCtx sl c).leases = k.leases := by cases sl <;> rfl
@[simp] theorem Core.setCtx_recalled (k : Core) (sl : Slot) (c : Ctx) : (k.setCtx sl c).recalled = k.recalled := by cases sl <;> rfl
@[simp] theorem Core.setCtx_lender (k : Core) (sl : Slot) (c : Ctx) : (k.setCtx sl c).lender = k.lender := by cases sl <;> rfl
@[simp] theorem Core.setCtx_revoke (k : Core) (sl : Slot) (c : Ctx) : (k.setCtx sl c).revoke = k.revoke := by cases sl <;> rfl
@[simp] theorem Core.setCtx_revokeHard (k : Core) (sl : Slot) (c : Ctx) : (k.setCtx sl c).revokeHard = k.revokeHard := by cases sl <;> rfl
@[simp] theorem Core.setCtx_window (k : Core) (sl : Slot) (c : Ctx) : (k.setCtx sl c).window = k.window := by cases sl <;> rfl
@[simp] theorem Core.setCtx_windowAt (k : Core) (sl : Slot) (c : Ctx) : (k.setCtx sl c).windowAt = k.windowAt := by cases sl <;> rfl
@[simp] theorem Core.setCtx_dark (k : Core) (sl : Slot) (c : Ctx) : (k.setCtx sl c).dark = k.dark := by cases sl <;> rfl
@[simp] theorem Core.setCtx_ownerAt (k : Core) (sl : Slot) (c : Ctx) : (k.setCtx sl c).ownerAt = k.ownerAt := by cases sl <;> rfl
@[simp] theorem Core.setCtx_saved (k : Core) (sl : Slot) (c : Ctx) : (k.setCtx sl c).saved = k.saved := by cases sl <;> rfl
@[simp] theorem Core.setCtx_quarantined (k : Core) (sl : Slot) (c : Ctx) : (k.setCtx sl c).quarantined = k.quarantined := by cases sl <;> rfl
@[simp] theorem Core.setCtx_world (k : Core) (sl : Slot) (c : Ctx) : (k.setCtx sl c).world = k.world := by cases sl <;> rfl
@[simp] theorem Core.setCtx_lastNest (k : Core) (sl : Slot) (c : Ctx) : (k.setCtx sl c).lastNest = k.lastNest := by cases sl <;> rfl
@[simp] theorem Core.setCtx_fused (k : Core) (sl : Slot) (c : Ctx) : (k.setCtx sl c).fused = k.fused := by cases sl <;> rfl
@[simp] theorem Core.setCtx_clearDue (k : Core) (sl : Slot) (c : Ctx) : (k.setCtx sl c).clearDue = k.clearDue := by cases sl <;> rfl
@[simp] theorem Core.setCtx_served (k : Core) (sl : Slot) (c : Ctx) : (k.setCtx sl c).served = k.served := by cases sl <;> rfl
@[simp] theorem Core.setCtx_sigBad (k : Core) (sl : Slot) (c : Ctx) : (k.setCtx sl c).sigBad = k.sigBad := by cases sl <;> rfl
@[simp] theorem Core.setCtx_stamps (k : Core) (sl : Slot) (c : Ctx) : (k.setCtx sl c).stamps = k.stamps := by cases sl <;> rfl
@[simp] theorem Core.setEngine_ctxO (k : Core) (e : Eng) (x : Engine) : (k.setEngine e x).ctxO = k.ctxO := rfl
@[simp] theorem Core.setEngine_ctxH (k : Core) (e : Eng) (x : Engine) : (k.setEngine e x).ctxH = k.ctxH := rfl
@[simp] theorem Core.setEngine_phases (k : Core) (e : Eng) (x : Engine) : (k.setEngine e x).phases = k.phases := rfl
@[simp] theorem Core.setEngine_store (k : Core) (e : Eng) (x : Engine) : (k.setEngine e x).store = k.store := rfl
@[simp] theorem Core.setEngine_poison (k : Core) (e : Eng) (x : Engine) : (k.setEngine e x).poison = k.poison := rfl
@[simp] theorem Core.setEngine_tags (k : Core) (e : Eng) (x : Engine) : (k.setEngine e x).tags = k.tags := rfl
@[simp] theorem Core.setEngine_vers (k : Core) (e : Eng) (x : Engine) : (k.setEngine e x).vers = k.vers := rfl
@[simp] theorem Core.setEngine_lent (k : Core) (e : Eng) (x : Engine) : (k.setEngine e x).lent = k.lent := rfl
@[simp] theorem Core.setEngine_sems (k : Core) (e : Eng) (x : Engine) : (k.setEngine e x).sems = k.sems := rfl
@[simp] theorem Core.setEngine_semsOf (k : Core) (e : Eng) (x : Engine) : (k.setEngine e x).semsOf = k.semsOf := rfl
@[simp] theorem Core.setEngine_l1 (k : Core) (e : Eng) (x : Engine) : (k.setEngine e x).l1 = k.l1 := rfl
@[simp] theorem Core.setEngine_icache (k : Core) (e : Eng) (x : Engine) : (k.setEngine e x).icache = k.icache := rfl
@[simp] theorem Core.setEngine_tlb (k : Core) (e : Eng) (x : Engine) : (k.setEngine e x).tlb = k.tlb := rfl
@[simp] theorem Core.setEngine_cupboard (k : Core) (e : Eng) (x : Engine) : (k.setEngine e x).cupboard = k.cupboard := rfl
@[simp] theorem Core.setEngine_leases (k : Core) (e : Eng) (x : Engine) : (k.setEngine e x).leases = k.leases := rfl
@[simp] theorem Core.setEngine_recalled (k : Core) (e : Eng) (x : Engine) : (k.setEngine e x).recalled = k.recalled := rfl
@[simp] theorem Core.setEngine_lender (k : Core) (e : Eng) (x : Engine) : (k.setEngine e x).lender = k.lender := rfl
@[simp] theorem Core.setEngine_revoke (k : Core) (e : Eng) (x : Engine) : (k.setEngine e x).revoke = k.revoke := rfl
@[simp] theorem Core.setEngine_revokeHard (k : Core) (e : Eng) (x : Engine) : (k.setEngine e x).revokeHard = k.revokeHard := rfl
@[simp] theorem Core.setEngine_window (k : Core) (e : Eng) (x : Engine) : (k.setEngine e x).window = k.window := rfl
@[simp] theorem Core.setEngine_windowAt (k : Core) (e : Eng) (x : Engine) : (k.setEngine e x).windowAt = k.windowAt := rfl
@[simp] theorem Core.setEngine_dark (k : Core) (e : Eng) (x : Engine) : (k.setEngine e x).dark = k.dark := rfl
@[simp] theorem Core.setEngine_ownerAt (k : Core) (e : Eng) (x : Engine) : (k.setEngine e x).ownerAt = k.ownerAt := rfl
@[simp] theorem Core.setEngine_saved (k : Core) (e : Eng) (x : Engine) : (k.setEngine e x).saved = k.saved := rfl
@[simp] theorem Core.setEngine_quarantined (k : Core) (e : Eng) (x : Engine) : (k.setEngine e x).quarantined = k.quarantined := rfl
@[simp] theorem Core.setEngine_world (k : Core) (e : Eng) (x : Engine) : (k.setEngine e x).world = k.world := rfl
@[simp] theorem Core.setEngine_lastNest (k : Core) (e : Eng) (x : Engine) : (k.setEngine e x).lastNest = k.lastNest := rfl
@[simp] theorem Core.setEngine_fused (k : Core) (e : Eng) (x : Engine) : (k.setEngine e x).fused = k.fused := rfl
@[simp] theorem Core.setEngine_clearDue (k : Core) (e : Eng) (x : Engine) : (k.setEngine e x).clearDue = k.clearDue := rfl
@[simp] theorem Core.setEngine_served (k : Core) (e : Eng) (x : Engine) : (k.setEngine e x).served = k.served := rfl
@[simp] theorem Core.setEngine_sigBad (k : Core) (e : Eng) (x : Engine) : (k.setEngine e x).sigBad = k.sigBad := rfl
@[simp] theorem Core.setEngine_stamps (k : Core) (e : Eng) (x : Engine) : (k.setEngine e x).stamps = k.stamps := rfl

/-! ## Cores in the state -/

@[simp] theorem State.core_setCore (s : State) (c : CoreId) (k : Core) : (s.setCore c k).core c = k := by
  exact getSetSelf _ _ _
theorem State.core_setCore_other (s : State) (c d : CoreId) (k : Core) (h : d ≠ c) : (s.setCore c k).core d = s.core d := by
  exact getSetOther _ _ _ _ h
@[simp] theorem State.setCore_setCore (s : State) (c : CoreId) (k l : Core) : (s.setCore c k).setCore c l = s.setCore c l := by
  simp [State.setCore]
@[simp] theorem State.core_modCore (s : State) (c : CoreId) (f : Core → Core) : (s.modCore c f).core c = f (s.core c) := by
  simp [State.modCore]
theorem State.core_modCore_other (s : State) (c d : CoreId) (f : Core → Core) (h : d ≠ c) : (s.modCore c f).core d = s.core d := by
  simp [State.modCore, State.core_setCore_other _ _ _ _ h]
@[simp] theorem State.ctx_setCtx (s : State) (i : CtxId) (c : Ctx) : (s.setCtx i c).ctx i = c := by simp [State.ctx, State.setCtx]
theorem State.ctx_setCtx_other (s : State) (i j : CtxId) (c : Ctx) (h : j ≠ i) : (s.setCtx i c).ctx j = s.ctx j := by
  obtain ⟨ic, sl⟩ := i; obtain ⟨jc, tl⟩ := j
  by_cases e : jc = ic
  · subst e
    have : tl ≠ sl := fun e => h (by rw [e])
    simp [State.ctx, State.setCtx, Core.ctx_setCtx_other _ _ _ _ this]
  · simp [State.ctx, State.setCtx, State.core_modCore_other _ _ _ _ e]
@[simp] theorem State.ctx_modCtx (s : State) (i : CtxId) (f : Ctx → Ctx) : (s.modCtx i f).ctx i = f (s.ctx i) := by
  simp [State.modCtx]
theorem State.ctx_modCtx_other (s : State) (i j : CtxId) (f : Ctx → Ctx) (h : j ≠ i) : (s.modCtx i f).ctx j = s.ctx j := by
  simp [State.modCtx, State.ctx_setCtx_other _ _ _ _ h]
theorem State.core_setCtx_other (s : State) (i : CtxId) (d : CoreId) (c : Ctx) (h : d ≠ i.core) : (s.setCtx i c).core d = s.core d := by
  simp [State.setCtx, State.core_modCore_other _ _ _ _ h]
theorem State.core_setCtx (s : State) (i : CtxId) (c : Ctx) : (s.setCtx i c).core i.core = (s.core i.core).setCtx i.slot c := by
  simp [State.setCtx]
@[simp] theorem State.engine_setCtx (s : State) (i : CtxId) (c : Ctx) (e : EngId) : (s.setCtx i c).engine e = s.engine e := by
  unfold State.engine
  by_cases h : e.core = i.core
  · rw [h, State.core_setCtx]; simp
  · rw [State.core_setCtx_other _ _ _ _ h]
@[simp] theorem State.engine_modCtx (s : State) (i : CtxId) (f : Ctx → Ctx) (e : EngId) : (s.modCtx i f).engine e = s.engine e := by
  simp [State.modCtx]
@[simp] theorem State.engine_setEngine (s : State) (e : EngId) (x : Engine) : (s.setEngine e x).engine e = x := by
  simp [State.engine, State.setEngine]
@[simp] theorem State.engine_modEngine (s : State) (e : EngId) (f : Engine → Engine) : (s.modEngine e f).engine e = f (s.engine e) := by
  simp [State.modEngine]
@[simp] theorem State.ctx_setEngine (s : State) (e : EngId) (x : Engine) (i : CtxId) : (s.setEngine e x).ctx i = s.ctx i := by
  unfold State.ctx State.setEngine
  by_cases h : i.core = e.core
  · rw [h, State.core_modCore]; simp
  · rw [State.core_modCore_other _ _ _ _ h]
@[simp] theorem State.ctx_modEngine (s : State) (e : EngId) (f : Engine → Engine) (i : CtxId) : (s.modEngine e f).ctx i = s.ctx i := by
  simp [State.modEngine]
@[simp] theorem State.vnpu_modVnpu (s : State) (v : VnpuId) (f : Vnpu → Vnpu) : (s.modVnpu v f).vnpu v = f (s.vnpu v) := by
  exact getSetSelf _ _ _
@[simp] theorem State.leaf_modLeaf (s : State) (l : LeafId) (f : LeafState → LeafState) : (s.modLeaf l f).leaf l = f (s.leaf l) := by
  exact getSetSelf _ _ _
@[simp] theorem State.slice_modSlice (s : State) (m : SliceId) (f : Slice → Slice) : (s.modSlice m f).slice m = f (s.slice m) := by
  exact getSetSelf _ _ _
@[simp] theorem State.cluster_modCluster (s : State) (k : ClusterId) (f : Cluster → Cluster) :
    (s.modCluster k f).cluster k = f (s.cluster k) := by exact getSetSelf _ _ _
@[simp] theorem Slice.exec_setExec (x : Slice) (i : Fin 4) (e : Exec) : (x.setExec i e).exec i = e := by
  exact getSetSelf _ _ _

/-! ## The other fields -/

@[simp] theorem State.setCore_slices (s : State) (c : CoreId) (k : Core) : (s.setCore c k).slices = s.slices := rfl
@[simp] theorem State.setCore_vnpus (s : State) (c : CoreId) (k : Core) : (s.setCore c k).vnpus = s.vnpus := rfl
@[simp] theorem State.setCore_leaves (s : State) (c : CoreId) (k : Core) : (s.setCore c k).leaves = s.leaves := rfl
@[simp] theorem State.setCore_topUsed (s : State) (c : CoreId) (k : Core) : (s.setCore c k).topUsed = s.topUsed := rfl
@[simp] theorem State.setCore_topReached (s : State) (c : CoreId) (k : Core) : (s.setCore c k).topReached = s.topReached := rfl
@[simp] theorem State.setCore_clusters (s : State) (c : CoreId) (k : Core) : (s.setCore c k).clusters = s.clusters := rfl
@[simp] theorem State.setCore_dram (s : State) (c : CoreId) (k : Core) : (s.setCore c k).dram = s.dram := rfl
@[simp] theorem State.setCore_host (s : State) (c : CoreId) (k : Core) : (s.setCore c k).host = s.host := rfl
@[simp] theorem State.setCore_owner (s : State) (c : CoreId) (k : Core) : (s.setCore c k).owner = s.owner := rfl
@[simp] theorem State.setCore_zeroed (s : State) (c : CoreId) (k : Core) : (s.setCore c k).zeroed = s.zeroed := rfl
@[simp] theorem State.setCore_poison (s : State) (c : CoreId) (k : Core) : (s.setCore c k).poison = s.poison := rfl
@[simp] theorem State.setCore_lineTags (s : State) (c : CoreId) (k : Core) : (s.setCore c k).lineTags = s.lineTags := rfl
@[simp] theorem State.setCore_badLines (s : State) (c : CoreId) (k : Core) : (s.setCore c k).badLines = s.badLines := rfl
@[simp] theorem State.setCore_ranges (s : State) (c : CoreId) (k : Core) : (s.setCore c k).ranges = s.ranges := rfl
@[simp] theorem State.setCore_corrected (s : State) (c : CoreId) (k : Core) : (s.setCore c k).corrected = s.corrected := rfl
@[simp] theorem State.setCore_shown (s : State) (c : CoreId) (k : Core) : (s.setCore c k).shown = s.shown := rfl
@[simp] theorem State.setCore_scrubPass (s : State) (c : CoreId) (k : Core) : (s.setCore c k).scrubPass = s.scrubPass := rfl
@[simp] theorem State.setCore_strips (s : State) (c : CoreId) (k : Core) : (s.setCore c k).strips = s.strips := rfl
@[simp] theorem State.setCore_net (s : State) (c : CoreId) (k : Core) : (s.setCore c k).net = s.net := rfl
@[simp] theorem State.setCore_msgs (s : State) (c : CoreId) (k : Core) : (s.setCore c k).msgs = s.msgs := rfl
@[simp] theorem State.setCore_arrivals (s : State) (c : CoreId) (k : Core) : (s.setCore c k).arrivals = s.arrivals := rfl
@[simp] theorem State.setCore_rootPhases (s : State) (c : CoreId) (k : Core) : (s.setCore c k).rootPhases = s.rootPhases := rfl
@[simp] theorem State.setCore_relStamp (s : State) (c : CoreId) (k : Core) : (s.setCore c k).relStamp = s.relStamp := rfl
@[simp] theorem State.setCore_lastStamp (s : State) (c : CoreId) (k : Core) : (s.setCore c k).lastStamp = s.lastStamp := rfl
@[simp] theorem State.setCore_hostReqs (s : State) (c : CoreId) (k : Core) : (s.setCore c k).hostReqs = s.hostReqs := rfl
@[simp] theorem State.setCore_pageReqs (s : State) (c : CoreId) (k : Core) : (s.setCore c k).pageReqs = s.pageReqs := rfl
@[simp] theorem State.setCore_contracts (s : State) (c : CoreId) (k : Core) : (s.setCore c k).contracts = s.contracts := rfl
@[simp] theorem State.setCore_pending (s : State) (c : CoreId) (k : Core) : (s.setCore c k).pending = s.pending := rfl
@[simp] theorem State.setCore_routines (s : State) (c : CoreId) (k : Core) : (s.setCore c k).routines = s.routines := rfl
@[simp] theorem State.setCore_tensors (s : State) (c : CoreId) (k : Core) : (s.setCore c k).tensors = s.tensors := rfl
@[simp] theorem State.setCore_highWater (s : State) (c : CoreId) (k : Core) : (s.setCore c k).highWater = s.highWater := rfl
@[simp] theorem State.setCore_migrating (s : State) (c : CoreId) (k : Core) : (s.setCore c k).migrating = s.migrating := rfl
@[simp] theorem State.setCore_regs (s : State) (c : CoreId) (k : Core) : (s.setCore c k).regs = s.regs := rfl
@[simp] theorem State.setCore_prodAt (s : State) (c : CoreId) (k : Core) : (s.setCore c k).prodAt = s.prodAt := rfl
@[simp] theorem State.setCore_prodDue (s : State) (c : CoreId) (k : Core) : (s.setCore c k).prodDue = s.prodDue := rfl
@[simp] theorem State.setCore_nestUid (s : State) (c : CoreId) (k : Core) : (s.setCore c k).nestUid = s.nestUid := rfl
@[simp] theorem State.setCore_domains (s : State) (c : CoreId) (k : Core) : (s.setCore c k).domains = s.domains := rfl
@[simp] theorem State.setCore_parkOrder (s : State) (c : CoreId) (k : Core) : (s.setCore c k).parkOrder = s.parkOrder := rfl
@[simp] theorem State.setCore_wft (s : State) (c : CoreId) (k : Core) : (s.setCore c k).wft = s.wft := rfl
@[simp] theorem State.setCore_wftQueue (s : State) (c : CoreId) (k : Core) : (s.setCore c k).wftQueue = s.wftQueue := rfl
@[simp] theorem State.setCore_barriers (s : State) (c : CoreId) (k : Core) : (s.setCore c k).barriers = s.barriers := rfl
@[simp] theorem State.setCore_barrierIds (s : State) (c : CoreId) (k : Core) : (s.setCore c k).barrierIds = s.barrierIds := rfl
@[simp] theorem State.setCore_xphases (s : State) (c : CoreId) (k : Core) : (s.setCore c k).xphases = s.xphases := rfl
@[simp] theorem State.setCore_cycle (s : State) (c : CoreId) (k : Core) : (s.setCore c k).cycle = s.cycle := rfl
@[simp] theorem State.setCore_gtc (s : State) (c : CoreId) (k : Core) : (s.setCore c k).gtc = s.gtc := rfl
@[simp] theorem State.setCore_frac (s : State) (c : CoreId) (k : Core) : (s.setCore c k).frac = s.frac := rfl
@[simp] theorem State.setCore_slew (s : State) (c : CoreId) (k : Core) : (s.setCore c k).slew = s.slew := rfl
@[simp] theorem State.setCore_tscap (s : State) (c : CoreId) (k : Core) : (s.setCore c k).tscap = s.tscap := rfl
@[simp] theorem State.setCore_tsLast (s : State) (c : CoreId) (k : Core) : (s.setCore c k).tsLast = s.tsLast := rfl
@[simp] theorem State.setCore_tsLost (s : State) (c : CoreId) (k : Core) : (s.setCore c k).tsLost = s.tsLost := rfl
@[simp] theorem State.setCore_frameStartAt (s : State) (c : CoreId) (k : Core) : (s.setCore c k).frameStartAt = s.frameStartAt := rfl
@[simp] theorem State.setCore_ePermits (s : State) (c : CoreId) (k : Core) : (s.setCore c k).ePermits = s.ePermits := rfl
@[simp] theorem State.setCore_qRem (s : State) (c : CoreId) (k : Core) : (s.setCore c k).qRem = s.qRem := rfl
@[simp] theorem State.setCore_settled (s : State) (c : CoreId) (k : Core) : (s.setCore c k).settled = s.settled := rfl
@[simp] theorem State.setCore_accountsFresh (s : State) (c : CoreId) (k : Core) : (s.setCore c k).accountsFresh = s.accountsFresh := rfl
@[simp] theorem State.setCore_temps (s : State) (c : CoreId) (k : Core) : (s.setCore c k).temps = s.temps := rfl
@[simp] theorem State.setCore_pastLimit (s : State) (c : CoreId) (k : Core) : (s.setCore c k).pastLimit = s.pastLimit := rfl
@[simp] theorem State.setCore_held (s : State) (c : CoreId) (k : Core) : (s.setCore c k).held = s.held := rfl
@[simp] theorem State.setCore_ready (s : State) (c : CoreId) (k : Core) : (s.setCore c k).ready = s.ready := rfl
@[simp] theorem State.setCore_recovery (s : State) (c : CoreId) (k : Core) : (s.setCore c k).recovery = s.recovery := rfl
@[simp] theorem State.setCore_halted (s : State) (c : CoreId) (k : Core) : (s.setCore c k).halted = s.halted := rfl
@[simp] theorem State.setCore_faultN (s : State) (c : CoreId) (k : Core) : (s.setCore c k).faultN = s.faultN := rfl
@[simp] theorem State.setCore_lastAssert (s : State) (c : CoreId) (k : Core) : (s.setCore c k).lastAssert = s.lastAssert := rfl
@[simp] theorem State.setCore_railsOut (s : State) (c : CoreId) (k : Core) : (s.setCore c k).railsOut = s.railsOut := rfl
@[simp] theorem State.setCore_rootBad (s : State) (c : CoreId) (k : Core) : (s.setCore c k).rootBad = s.rootBad := rfl
@[simp] theorem State.setCore_hot (s : State) (c : CoreId) (k : Core) : (s.setCore c k).hot = s.hot := rfl
@[simp] theorem State.setCore_pEst (s : State) (c : CoreId) (k : Core) : (s.setCore c k).pEst = s.pEst := rfl
@[simp] theorem State.setCore_thermN (s : State) (c : CoreId) (k : Core) : (s.setCore c k).thermN = s.thermN := rfl
@[simp] theorem State.setCore_errlog (s : State) (c : CoreId) (k : Core) : (s.setCore c k).errlog = s.errlog := rfl
@[simp] theorem State.setCore_blobstat (s : State) (c : CoreId) (k : Core) : (s.setCore c k).blobstat = s.blobstat := rfl
@[simp] theorem State.setCore_validating (s : State) (c : CoreId) (k : Core) : (s.setCore c k).validating = s.validating := rfl
@[simp] theorem State.setCore_staging (s : State) (c : CoreId) (k : Core) : (s.setCore c k).staging = s.staging := rfl
@[simp] theorem State.setCore_spiFrame (s : State) (c : CoreId) (k : Core) : (s.setCore c k).spiFrame = s.spiFrame := rfl
@[simp] theorem State.setCore_spiAt (s : State) (c : CoreId) (k : Core) : (s.setCore c k).spiAt = s.spiAt := rfl
@[simp] theorem State.setCore_attest (s : State) (c : CoreId) (k : Core) : (s.setCore c k).attest = s.attest := rfl
@[simp] theorem State.setCore_outputs (s : State) (c : CoreId) (k : Core) : (s.setCore c k).outputs = s.outputs := rfl
@[simp] theorem State.setCore_cur (s : State) (c : CoreId) (k : Core) : (s.setCore c k).cur = s.cur := rfl
@[simp] theorem State.setCore_agenda (s : State) (c : CoreId) (k : Core) : (s.setCore c k).agenda = s.agenda := rfl
@[simp] theorem State.setCore_free (s : State) (c : CoreId) (k : Core) : (s.setCore c k).free = s.free := rfl

@[simp] theorem State.modCore_slices (s : State) (c : CoreId) (f : Core → Core) : (s.modCore c f).slices = s.slices := rfl
@[simp] theorem State.modCore_vnpus (s : State) (c : CoreId) (f : Core → Core) : (s.modCore c f).vnpus = s.vnpus := rfl
@[simp] theorem State.modCore_leaves (s : State) (c : CoreId) (f : Core → Core) : (s.modCore c f).leaves = s.leaves := rfl
@[simp] theorem State.modCore_topUsed (s : State) (c : CoreId) (f : Core → Core) : (s.modCore c f).topUsed = s.topUsed := rfl
@[simp] theorem State.modCore_topReached (s : State) (c : CoreId) (f : Core → Core) : (s.modCore c f).topReached = s.topReached := rfl
@[simp] theorem State.modCore_clusters (s : State) (c : CoreId) (f : Core → Core) : (s.modCore c f).clusters = s.clusters := rfl
@[simp] theorem State.modCore_dram (s : State) (c : CoreId) (f : Core → Core) : (s.modCore c f).dram = s.dram := rfl
@[simp] theorem State.modCore_host (s : State) (c : CoreId) (f : Core → Core) : (s.modCore c f).host = s.host := rfl
@[simp] theorem State.modCore_owner (s : State) (c : CoreId) (f : Core → Core) : (s.modCore c f).owner = s.owner := rfl
@[simp] theorem State.modCore_zeroed (s : State) (c : CoreId) (f : Core → Core) : (s.modCore c f).zeroed = s.zeroed := rfl
@[simp] theorem State.modCore_poison (s : State) (c : CoreId) (f : Core → Core) : (s.modCore c f).poison = s.poison := rfl
@[simp] theorem State.modCore_lineTags (s : State) (c : CoreId) (f : Core → Core) : (s.modCore c f).lineTags = s.lineTags := rfl
@[simp] theorem State.modCore_badLines (s : State) (c : CoreId) (f : Core → Core) : (s.modCore c f).badLines = s.badLines := rfl
@[simp] theorem State.modCore_ranges (s : State) (c : CoreId) (f : Core → Core) : (s.modCore c f).ranges = s.ranges := rfl
@[simp] theorem State.modCore_corrected (s : State) (c : CoreId) (f : Core → Core) : (s.modCore c f).corrected = s.corrected := rfl
@[simp] theorem State.modCore_shown (s : State) (c : CoreId) (f : Core → Core) : (s.modCore c f).shown = s.shown := rfl
@[simp] theorem State.modCore_scrubPass (s : State) (c : CoreId) (f : Core → Core) : (s.modCore c f).scrubPass = s.scrubPass := rfl
@[simp] theorem State.modCore_strips (s : State) (c : CoreId) (f : Core → Core) : (s.modCore c f).strips = s.strips := rfl
@[simp] theorem State.modCore_net (s : State) (c : CoreId) (f : Core → Core) : (s.modCore c f).net = s.net := rfl
@[simp] theorem State.modCore_msgs (s : State) (c : CoreId) (f : Core → Core) : (s.modCore c f).msgs = s.msgs := rfl
@[simp] theorem State.modCore_arrivals (s : State) (c : CoreId) (f : Core → Core) : (s.modCore c f).arrivals = s.arrivals := rfl
@[simp] theorem State.modCore_rootPhases (s : State) (c : CoreId) (f : Core → Core) : (s.modCore c f).rootPhases = s.rootPhases := rfl
@[simp] theorem State.modCore_relStamp (s : State) (c : CoreId) (f : Core → Core) : (s.modCore c f).relStamp = s.relStamp := rfl
@[simp] theorem State.modCore_lastStamp (s : State) (c : CoreId) (f : Core → Core) : (s.modCore c f).lastStamp = s.lastStamp := rfl
@[simp] theorem State.modCore_hostReqs (s : State) (c : CoreId) (f : Core → Core) : (s.modCore c f).hostReqs = s.hostReqs := rfl
@[simp] theorem State.modCore_pageReqs (s : State) (c : CoreId) (f : Core → Core) : (s.modCore c f).pageReqs = s.pageReqs := rfl
@[simp] theorem State.modCore_contracts (s : State) (c : CoreId) (f : Core → Core) : (s.modCore c f).contracts = s.contracts := rfl
@[simp] theorem State.modCore_pending (s : State) (c : CoreId) (f : Core → Core) : (s.modCore c f).pending = s.pending := rfl
@[simp] theorem State.modCore_routines (s : State) (c : CoreId) (f : Core → Core) : (s.modCore c f).routines = s.routines := rfl
@[simp] theorem State.modCore_tensors (s : State) (c : CoreId) (f : Core → Core) : (s.modCore c f).tensors = s.tensors := rfl
@[simp] theorem State.modCore_highWater (s : State) (c : CoreId) (f : Core → Core) : (s.modCore c f).highWater = s.highWater := rfl
@[simp] theorem State.modCore_migrating (s : State) (c : CoreId) (f : Core → Core) : (s.modCore c f).migrating = s.migrating := rfl
@[simp] theorem State.modCore_regs (s : State) (c : CoreId) (f : Core → Core) : (s.modCore c f).regs = s.regs := rfl
@[simp] theorem State.modCore_prodAt (s : State) (c : CoreId) (f : Core → Core) : (s.modCore c f).prodAt = s.prodAt := rfl
@[simp] theorem State.modCore_prodDue (s : State) (c : CoreId) (f : Core → Core) : (s.modCore c f).prodDue = s.prodDue := rfl
@[simp] theorem State.modCore_nestUid (s : State) (c : CoreId) (f : Core → Core) : (s.modCore c f).nestUid = s.nestUid := rfl
@[simp] theorem State.modCore_domains (s : State) (c : CoreId) (f : Core → Core) : (s.modCore c f).domains = s.domains := rfl
@[simp] theorem State.modCore_parkOrder (s : State) (c : CoreId) (f : Core → Core) : (s.modCore c f).parkOrder = s.parkOrder := rfl
@[simp] theorem State.modCore_wft (s : State) (c : CoreId) (f : Core → Core) : (s.modCore c f).wft = s.wft := rfl
@[simp] theorem State.modCore_wftQueue (s : State) (c : CoreId) (f : Core → Core) : (s.modCore c f).wftQueue = s.wftQueue := rfl
@[simp] theorem State.modCore_barriers (s : State) (c : CoreId) (f : Core → Core) : (s.modCore c f).barriers = s.barriers := rfl
@[simp] theorem State.modCore_barrierIds (s : State) (c : CoreId) (f : Core → Core) : (s.modCore c f).barrierIds = s.barrierIds := rfl
@[simp] theorem State.modCore_xphases (s : State) (c : CoreId) (f : Core → Core) : (s.modCore c f).xphases = s.xphases := rfl
@[simp] theorem State.modCore_cycle (s : State) (c : CoreId) (f : Core → Core) : (s.modCore c f).cycle = s.cycle := rfl
@[simp] theorem State.modCore_gtc (s : State) (c : CoreId) (f : Core → Core) : (s.modCore c f).gtc = s.gtc := rfl
@[simp] theorem State.modCore_frac (s : State) (c : CoreId) (f : Core → Core) : (s.modCore c f).frac = s.frac := rfl
@[simp] theorem State.modCore_slew (s : State) (c : CoreId) (f : Core → Core) : (s.modCore c f).slew = s.slew := rfl
@[simp] theorem State.modCore_tscap (s : State) (c : CoreId) (f : Core → Core) : (s.modCore c f).tscap = s.tscap := rfl
@[simp] theorem State.modCore_tsLast (s : State) (c : CoreId) (f : Core → Core) : (s.modCore c f).tsLast = s.tsLast := rfl
@[simp] theorem State.modCore_tsLost (s : State) (c : CoreId) (f : Core → Core) : (s.modCore c f).tsLost = s.tsLost := rfl
@[simp] theorem State.modCore_frameStartAt (s : State) (c : CoreId) (f : Core → Core) : (s.modCore c f).frameStartAt = s.frameStartAt := rfl
@[simp] theorem State.modCore_ePermits (s : State) (c : CoreId) (f : Core → Core) : (s.modCore c f).ePermits = s.ePermits := rfl
@[simp] theorem State.modCore_qRem (s : State) (c : CoreId) (f : Core → Core) : (s.modCore c f).qRem = s.qRem := rfl
@[simp] theorem State.modCore_settled (s : State) (c : CoreId) (f : Core → Core) : (s.modCore c f).settled = s.settled := rfl
@[simp] theorem State.modCore_accountsFresh (s : State) (c : CoreId) (f : Core → Core) : (s.modCore c f).accountsFresh = s.accountsFresh := rfl
@[simp] theorem State.modCore_temps (s : State) (c : CoreId) (f : Core → Core) : (s.modCore c f).temps = s.temps := rfl
@[simp] theorem State.modCore_pastLimit (s : State) (c : CoreId) (f : Core → Core) : (s.modCore c f).pastLimit = s.pastLimit := rfl
@[simp] theorem State.modCore_held (s : State) (c : CoreId) (f : Core → Core) : (s.modCore c f).held = s.held := rfl
@[simp] theorem State.modCore_ready (s : State) (c : CoreId) (f : Core → Core) : (s.modCore c f).ready = s.ready := rfl
@[simp] theorem State.modCore_recovery (s : State) (c : CoreId) (f : Core → Core) : (s.modCore c f).recovery = s.recovery := rfl
@[simp] theorem State.modCore_halted (s : State) (c : CoreId) (f : Core → Core) : (s.modCore c f).halted = s.halted := rfl
@[simp] theorem State.modCore_faultN (s : State) (c : CoreId) (f : Core → Core) : (s.modCore c f).faultN = s.faultN := rfl
@[simp] theorem State.modCore_lastAssert (s : State) (c : CoreId) (f : Core → Core) : (s.modCore c f).lastAssert = s.lastAssert := rfl
@[simp] theorem State.modCore_railsOut (s : State) (c : CoreId) (f : Core → Core) : (s.modCore c f).railsOut = s.railsOut := rfl
@[simp] theorem State.modCore_rootBad (s : State) (c : CoreId) (f : Core → Core) : (s.modCore c f).rootBad = s.rootBad := rfl
@[simp] theorem State.modCore_hot (s : State) (c : CoreId) (f : Core → Core) : (s.modCore c f).hot = s.hot := rfl
@[simp] theorem State.modCore_pEst (s : State) (c : CoreId) (f : Core → Core) : (s.modCore c f).pEst = s.pEst := rfl
@[simp] theorem State.modCore_thermN (s : State) (c : CoreId) (f : Core → Core) : (s.modCore c f).thermN = s.thermN := rfl
@[simp] theorem State.modCore_errlog (s : State) (c : CoreId) (f : Core → Core) : (s.modCore c f).errlog = s.errlog := rfl
@[simp] theorem State.modCore_blobstat (s : State) (c : CoreId) (f : Core → Core) : (s.modCore c f).blobstat = s.blobstat := rfl
@[simp] theorem State.modCore_validating (s : State) (c : CoreId) (f : Core → Core) : (s.modCore c f).validating = s.validating := rfl
@[simp] theorem State.modCore_staging (s : State) (c : CoreId) (f : Core → Core) : (s.modCore c f).staging = s.staging := rfl
@[simp] theorem State.modCore_spiFrame (s : State) (c : CoreId) (f : Core → Core) : (s.modCore c f).spiFrame = s.spiFrame := rfl
@[simp] theorem State.modCore_spiAt (s : State) (c : CoreId) (f : Core → Core) : (s.modCore c f).spiAt = s.spiAt := rfl
@[simp] theorem State.modCore_attest (s : State) (c : CoreId) (f : Core → Core) : (s.modCore c f).attest = s.attest := rfl
@[simp] theorem State.modCore_outputs (s : State) (c : CoreId) (f : Core → Core) : (s.modCore c f).outputs = s.outputs := rfl
@[simp] theorem State.modCore_cur (s : State) (c : CoreId) (f : Core → Core) : (s.modCore c f).cur = s.cur := rfl
@[simp] theorem State.modCore_agenda (s : State) (c : CoreId) (f : Core → Core) : (s.modCore c f).agenda = s.agenda := rfl
@[simp] theorem State.modCore_free (s : State) (c : CoreId) (f : Core → Core) : (s.modCore c f).free = s.free := rfl

@[simp] theorem State.setCtx_slices (s : State) (i : CtxId) (c : Ctx) : (s.setCtx i c).slices = s.slices := rfl
@[simp] theorem State.setCtx_vnpus (s : State) (i : CtxId) (c : Ctx) : (s.setCtx i c).vnpus = s.vnpus := rfl
@[simp] theorem State.setCtx_leaves (s : State) (i : CtxId) (c : Ctx) : (s.setCtx i c).leaves = s.leaves := rfl
@[simp] theorem State.setCtx_topUsed (s : State) (i : CtxId) (c : Ctx) : (s.setCtx i c).topUsed = s.topUsed := rfl
@[simp] theorem State.setCtx_topReached (s : State) (i : CtxId) (c : Ctx) : (s.setCtx i c).topReached = s.topReached := rfl
@[simp] theorem State.setCtx_clusters (s : State) (i : CtxId) (c : Ctx) : (s.setCtx i c).clusters = s.clusters := rfl
@[simp] theorem State.setCtx_dram (s : State) (i : CtxId) (c : Ctx) : (s.setCtx i c).dram = s.dram := rfl
@[simp] theorem State.setCtx_host (s : State) (i : CtxId) (c : Ctx) : (s.setCtx i c).host = s.host := rfl
@[simp] theorem State.setCtx_owner (s : State) (i : CtxId) (c : Ctx) : (s.setCtx i c).owner = s.owner := rfl
@[simp] theorem State.setCtx_zeroed (s : State) (i : CtxId) (c : Ctx) : (s.setCtx i c).zeroed = s.zeroed := rfl
@[simp] theorem State.setCtx_poison (s : State) (i : CtxId) (c : Ctx) : (s.setCtx i c).poison = s.poison := rfl
@[simp] theorem State.setCtx_lineTags (s : State) (i : CtxId) (c : Ctx) : (s.setCtx i c).lineTags = s.lineTags := rfl
@[simp] theorem State.setCtx_badLines (s : State) (i : CtxId) (c : Ctx) : (s.setCtx i c).badLines = s.badLines := rfl
@[simp] theorem State.setCtx_ranges (s : State) (i : CtxId) (c : Ctx) : (s.setCtx i c).ranges = s.ranges := rfl
@[simp] theorem State.setCtx_corrected (s : State) (i : CtxId) (c : Ctx) : (s.setCtx i c).corrected = s.corrected := rfl
@[simp] theorem State.setCtx_shown (s : State) (i : CtxId) (c : Ctx) : (s.setCtx i c).shown = s.shown := rfl
@[simp] theorem State.setCtx_scrubPass (s : State) (i : CtxId) (c : Ctx) : (s.setCtx i c).scrubPass = s.scrubPass := rfl
@[simp] theorem State.setCtx_strips (s : State) (i : CtxId) (c : Ctx) : (s.setCtx i c).strips = s.strips := rfl
@[simp] theorem State.setCtx_net (s : State) (i : CtxId) (c : Ctx) : (s.setCtx i c).net = s.net := rfl
@[simp] theorem State.setCtx_msgs (s : State) (i : CtxId) (c : Ctx) : (s.setCtx i c).msgs = s.msgs := rfl
@[simp] theorem State.setCtx_arrivals (s : State) (i : CtxId) (c : Ctx) : (s.setCtx i c).arrivals = s.arrivals := rfl
@[simp] theorem State.setCtx_rootPhases (s : State) (i : CtxId) (c : Ctx) : (s.setCtx i c).rootPhases = s.rootPhases := rfl
@[simp] theorem State.setCtx_relStamp (s : State) (i : CtxId) (c : Ctx) : (s.setCtx i c).relStamp = s.relStamp := rfl
@[simp] theorem State.setCtx_lastStamp (s : State) (i : CtxId) (c : Ctx) : (s.setCtx i c).lastStamp = s.lastStamp := rfl
@[simp] theorem State.setCtx_hostReqs (s : State) (i : CtxId) (c : Ctx) : (s.setCtx i c).hostReqs = s.hostReqs := rfl
@[simp] theorem State.setCtx_pageReqs (s : State) (i : CtxId) (c : Ctx) : (s.setCtx i c).pageReqs = s.pageReqs := rfl
@[simp] theorem State.setCtx_contracts (s : State) (i : CtxId) (c : Ctx) : (s.setCtx i c).contracts = s.contracts := rfl
@[simp] theorem State.setCtx_pending (s : State) (i : CtxId) (c : Ctx) : (s.setCtx i c).pending = s.pending := rfl
@[simp] theorem State.setCtx_routines (s : State) (i : CtxId) (c : Ctx) : (s.setCtx i c).routines = s.routines := rfl
@[simp] theorem State.setCtx_tensors (s : State) (i : CtxId) (c : Ctx) : (s.setCtx i c).tensors = s.tensors := rfl
@[simp] theorem State.setCtx_highWater (s : State) (i : CtxId) (c : Ctx) : (s.setCtx i c).highWater = s.highWater := rfl
@[simp] theorem State.setCtx_migrating (s : State) (i : CtxId) (c : Ctx) : (s.setCtx i c).migrating = s.migrating := rfl
@[simp] theorem State.setCtx_regs (s : State) (i : CtxId) (c : Ctx) : (s.setCtx i c).regs = s.regs := rfl
@[simp] theorem State.setCtx_prodAt (s : State) (i : CtxId) (c : Ctx) : (s.setCtx i c).prodAt = s.prodAt := rfl
@[simp] theorem State.setCtx_prodDue (s : State) (i : CtxId) (c : Ctx) : (s.setCtx i c).prodDue = s.prodDue := rfl
@[simp] theorem State.setCtx_nestUid (s : State) (i : CtxId) (c : Ctx) : (s.setCtx i c).nestUid = s.nestUid := rfl
@[simp] theorem State.setCtx_domains (s : State) (i : CtxId) (c : Ctx) : (s.setCtx i c).domains = s.domains := rfl
@[simp] theorem State.setCtx_parkOrder (s : State) (i : CtxId) (c : Ctx) : (s.setCtx i c).parkOrder = s.parkOrder := rfl
@[simp] theorem State.setCtx_wft (s : State) (i : CtxId) (c : Ctx) : (s.setCtx i c).wft = s.wft := rfl
@[simp] theorem State.setCtx_wftQueue (s : State) (i : CtxId) (c : Ctx) : (s.setCtx i c).wftQueue = s.wftQueue := rfl
@[simp] theorem State.setCtx_barriers (s : State) (i : CtxId) (c : Ctx) : (s.setCtx i c).barriers = s.barriers := rfl
@[simp] theorem State.setCtx_barrierIds (s : State) (i : CtxId) (c : Ctx) : (s.setCtx i c).barrierIds = s.barrierIds := rfl
@[simp] theorem State.setCtx_xphases (s : State) (i : CtxId) (c : Ctx) : (s.setCtx i c).xphases = s.xphases := rfl
@[simp] theorem State.setCtx_cycle (s : State) (i : CtxId) (c : Ctx) : (s.setCtx i c).cycle = s.cycle := rfl
@[simp] theorem State.setCtx_gtc (s : State) (i : CtxId) (c : Ctx) : (s.setCtx i c).gtc = s.gtc := rfl
@[simp] theorem State.setCtx_frac (s : State) (i : CtxId) (c : Ctx) : (s.setCtx i c).frac = s.frac := rfl
@[simp] theorem State.setCtx_slew (s : State) (i : CtxId) (c : Ctx) : (s.setCtx i c).slew = s.slew := rfl
@[simp] theorem State.setCtx_tscap (s : State) (i : CtxId) (c : Ctx) : (s.setCtx i c).tscap = s.tscap := rfl
@[simp] theorem State.setCtx_tsLast (s : State) (i : CtxId) (c : Ctx) : (s.setCtx i c).tsLast = s.tsLast := rfl
@[simp] theorem State.setCtx_tsLost (s : State) (i : CtxId) (c : Ctx) : (s.setCtx i c).tsLost = s.tsLost := rfl
@[simp] theorem State.setCtx_frameStartAt (s : State) (i : CtxId) (c : Ctx) : (s.setCtx i c).frameStartAt = s.frameStartAt := rfl
@[simp] theorem State.setCtx_ePermits (s : State) (i : CtxId) (c : Ctx) : (s.setCtx i c).ePermits = s.ePermits := rfl
@[simp] theorem State.setCtx_qRem (s : State) (i : CtxId) (c : Ctx) : (s.setCtx i c).qRem = s.qRem := rfl
@[simp] theorem State.setCtx_settled (s : State) (i : CtxId) (c : Ctx) : (s.setCtx i c).settled = s.settled := rfl
@[simp] theorem State.setCtx_accountsFresh (s : State) (i : CtxId) (c : Ctx) : (s.setCtx i c).accountsFresh = s.accountsFresh := rfl
@[simp] theorem State.setCtx_temps (s : State) (i : CtxId) (c : Ctx) : (s.setCtx i c).temps = s.temps := rfl
@[simp] theorem State.setCtx_pastLimit (s : State) (i : CtxId) (c : Ctx) : (s.setCtx i c).pastLimit = s.pastLimit := rfl
@[simp] theorem State.setCtx_held (s : State) (i : CtxId) (c : Ctx) : (s.setCtx i c).held = s.held := rfl
@[simp] theorem State.setCtx_ready (s : State) (i : CtxId) (c : Ctx) : (s.setCtx i c).ready = s.ready := rfl
@[simp] theorem State.setCtx_recovery (s : State) (i : CtxId) (c : Ctx) : (s.setCtx i c).recovery = s.recovery := rfl
@[simp] theorem State.setCtx_halted (s : State) (i : CtxId) (c : Ctx) : (s.setCtx i c).halted = s.halted := rfl
@[simp] theorem State.setCtx_faultN (s : State) (i : CtxId) (c : Ctx) : (s.setCtx i c).faultN = s.faultN := rfl
@[simp] theorem State.setCtx_lastAssert (s : State) (i : CtxId) (c : Ctx) : (s.setCtx i c).lastAssert = s.lastAssert := rfl
@[simp] theorem State.setCtx_railsOut (s : State) (i : CtxId) (c : Ctx) : (s.setCtx i c).railsOut = s.railsOut := rfl
@[simp] theorem State.setCtx_rootBad (s : State) (i : CtxId) (c : Ctx) : (s.setCtx i c).rootBad = s.rootBad := rfl
@[simp] theorem State.setCtx_hot (s : State) (i : CtxId) (c : Ctx) : (s.setCtx i c).hot = s.hot := rfl
@[simp] theorem State.setCtx_pEst (s : State) (i : CtxId) (c : Ctx) : (s.setCtx i c).pEst = s.pEst := rfl
@[simp] theorem State.setCtx_thermN (s : State) (i : CtxId) (c : Ctx) : (s.setCtx i c).thermN = s.thermN := rfl
@[simp] theorem State.setCtx_errlog (s : State) (i : CtxId) (c : Ctx) : (s.setCtx i c).errlog = s.errlog := rfl
@[simp] theorem State.setCtx_blobstat (s : State) (i : CtxId) (c : Ctx) : (s.setCtx i c).blobstat = s.blobstat := rfl
@[simp] theorem State.setCtx_validating (s : State) (i : CtxId) (c : Ctx) : (s.setCtx i c).validating = s.validating := rfl
@[simp] theorem State.setCtx_staging (s : State) (i : CtxId) (c : Ctx) : (s.setCtx i c).staging = s.staging := rfl
@[simp] theorem State.setCtx_spiFrame (s : State) (i : CtxId) (c : Ctx) : (s.setCtx i c).spiFrame = s.spiFrame := rfl
@[simp] theorem State.setCtx_spiAt (s : State) (i : CtxId) (c : Ctx) : (s.setCtx i c).spiAt = s.spiAt := rfl
@[simp] theorem State.setCtx_attest (s : State) (i : CtxId) (c : Ctx) : (s.setCtx i c).attest = s.attest := rfl
@[simp] theorem State.setCtx_outputs (s : State) (i : CtxId) (c : Ctx) : (s.setCtx i c).outputs = s.outputs := rfl
@[simp] theorem State.setCtx_cur (s : State) (i : CtxId) (c : Ctx) : (s.setCtx i c).cur = s.cur := rfl
@[simp] theorem State.setCtx_agenda (s : State) (i : CtxId) (c : Ctx) : (s.setCtx i c).agenda = s.agenda := rfl
@[simp] theorem State.setCtx_free (s : State) (i : CtxId) (c : Ctx) : (s.setCtx i c).free = s.free := rfl

@[simp] theorem State.modCtx_slices (s : State) (i : CtxId) (f : Ctx → Ctx) : (s.modCtx i f).slices = s.slices := rfl
@[simp] theorem State.modCtx_vnpus (s : State) (i : CtxId) (f : Ctx → Ctx) : (s.modCtx i f).vnpus = s.vnpus := rfl
@[simp] theorem State.modCtx_leaves (s : State) (i : CtxId) (f : Ctx → Ctx) : (s.modCtx i f).leaves = s.leaves := rfl
@[simp] theorem State.modCtx_topUsed (s : State) (i : CtxId) (f : Ctx → Ctx) : (s.modCtx i f).topUsed = s.topUsed := rfl
@[simp] theorem State.modCtx_topReached (s : State) (i : CtxId) (f : Ctx → Ctx) : (s.modCtx i f).topReached = s.topReached := rfl
@[simp] theorem State.modCtx_clusters (s : State) (i : CtxId) (f : Ctx → Ctx) : (s.modCtx i f).clusters = s.clusters := rfl
@[simp] theorem State.modCtx_dram (s : State) (i : CtxId) (f : Ctx → Ctx) : (s.modCtx i f).dram = s.dram := rfl
@[simp] theorem State.modCtx_host (s : State) (i : CtxId) (f : Ctx → Ctx) : (s.modCtx i f).host = s.host := rfl
@[simp] theorem State.modCtx_owner (s : State) (i : CtxId) (f : Ctx → Ctx) : (s.modCtx i f).owner = s.owner := rfl
@[simp] theorem State.modCtx_zeroed (s : State) (i : CtxId) (f : Ctx → Ctx) : (s.modCtx i f).zeroed = s.zeroed := rfl
@[simp] theorem State.modCtx_poison (s : State) (i : CtxId) (f : Ctx → Ctx) : (s.modCtx i f).poison = s.poison := rfl
@[simp] theorem State.modCtx_lineTags (s : State) (i : CtxId) (f : Ctx → Ctx) : (s.modCtx i f).lineTags = s.lineTags := rfl
@[simp] theorem State.modCtx_badLines (s : State) (i : CtxId) (f : Ctx → Ctx) : (s.modCtx i f).badLines = s.badLines := rfl
@[simp] theorem State.modCtx_ranges (s : State) (i : CtxId) (f : Ctx → Ctx) : (s.modCtx i f).ranges = s.ranges := rfl
@[simp] theorem State.modCtx_corrected (s : State) (i : CtxId) (f : Ctx → Ctx) : (s.modCtx i f).corrected = s.corrected := rfl
@[simp] theorem State.modCtx_shown (s : State) (i : CtxId) (f : Ctx → Ctx) : (s.modCtx i f).shown = s.shown := rfl
@[simp] theorem State.modCtx_scrubPass (s : State) (i : CtxId) (f : Ctx → Ctx) : (s.modCtx i f).scrubPass = s.scrubPass := rfl
@[simp] theorem State.modCtx_strips (s : State) (i : CtxId) (f : Ctx → Ctx) : (s.modCtx i f).strips = s.strips := rfl
@[simp] theorem State.modCtx_net (s : State) (i : CtxId) (f : Ctx → Ctx) : (s.modCtx i f).net = s.net := rfl
@[simp] theorem State.modCtx_msgs (s : State) (i : CtxId) (f : Ctx → Ctx) : (s.modCtx i f).msgs = s.msgs := rfl
@[simp] theorem State.modCtx_arrivals (s : State) (i : CtxId) (f : Ctx → Ctx) : (s.modCtx i f).arrivals = s.arrivals := rfl
@[simp] theorem State.modCtx_rootPhases (s : State) (i : CtxId) (f : Ctx → Ctx) : (s.modCtx i f).rootPhases = s.rootPhases := rfl
@[simp] theorem State.modCtx_relStamp (s : State) (i : CtxId) (f : Ctx → Ctx) : (s.modCtx i f).relStamp = s.relStamp := rfl
@[simp] theorem State.modCtx_lastStamp (s : State) (i : CtxId) (f : Ctx → Ctx) : (s.modCtx i f).lastStamp = s.lastStamp := rfl
@[simp] theorem State.modCtx_hostReqs (s : State) (i : CtxId) (f : Ctx → Ctx) : (s.modCtx i f).hostReqs = s.hostReqs := rfl
@[simp] theorem State.modCtx_pageReqs (s : State) (i : CtxId) (f : Ctx → Ctx) : (s.modCtx i f).pageReqs = s.pageReqs := rfl
@[simp] theorem State.modCtx_contracts (s : State) (i : CtxId) (f : Ctx → Ctx) : (s.modCtx i f).contracts = s.contracts := rfl
@[simp] theorem State.modCtx_pending (s : State) (i : CtxId) (f : Ctx → Ctx) : (s.modCtx i f).pending = s.pending := rfl
@[simp] theorem State.modCtx_routines (s : State) (i : CtxId) (f : Ctx → Ctx) : (s.modCtx i f).routines = s.routines := rfl
@[simp] theorem State.modCtx_tensors (s : State) (i : CtxId) (f : Ctx → Ctx) : (s.modCtx i f).tensors = s.tensors := rfl
@[simp] theorem State.modCtx_highWater (s : State) (i : CtxId) (f : Ctx → Ctx) : (s.modCtx i f).highWater = s.highWater := rfl
@[simp] theorem State.modCtx_migrating (s : State) (i : CtxId) (f : Ctx → Ctx) : (s.modCtx i f).migrating = s.migrating := rfl
@[simp] theorem State.modCtx_regs (s : State) (i : CtxId) (f : Ctx → Ctx) : (s.modCtx i f).regs = s.regs := rfl
@[simp] theorem State.modCtx_prodAt (s : State) (i : CtxId) (f : Ctx → Ctx) : (s.modCtx i f).prodAt = s.prodAt := rfl
@[simp] theorem State.modCtx_prodDue (s : State) (i : CtxId) (f : Ctx → Ctx) : (s.modCtx i f).prodDue = s.prodDue := rfl
@[simp] theorem State.modCtx_nestUid (s : State) (i : CtxId) (f : Ctx → Ctx) : (s.modCtx i f).nestUid = s.nestUid := rfl
@[simp] theorem State.modCtx_domains (s : State) (i : CtxId) (f : Ctx → Ctx) : (s.modCtx i f).domains = s.domains := rfl
@[simp] theorem State.modCtx_parkOrder (s : State) (i : CtxId) (f : Ctx → Ctx) : (s.modCtx i f).parkOrder = s.parkOrder := rfl
@[simp] theorem State.modCtx_wft (s : State) (i : CtxId) (f : Ctx → Ctx) : (s.modCtx i f).wft = s.wft := rfl
@[simp] theorem State.modCtx_wftQueue (s : State) (i : CtxId) (f : Ctx → Ctx) : (s.modCtx i f).wftQueue = s.wftQueue := rfl
@[simp] theorem State.modCtx_barriers (s : State) (i : CtxId) (f : Ctx → Ctx) : (s.modCtx i f).barriers = s.barriers := rfl
@[simp] theorem State.modCtx_barrierIds (s : State) (i : CtxId) (f : Ctx → Ctx) : (s.modCtx i f).barrierIds = s.barrierIds := rfl
@[simp] theorem State.modCtx_xphases (s : State) (i : CtxId) (f : Ctx → Ctx) : (s.modCtx i f).xphases = s.xphases := rfl
@[simp] theorem State.modCtx_cycle (s : State) (i : CtxId) (f : Ctx → Ctx) : (s.modCtx i f).cycle = s.cycle := rfl
@[simp] theorem State.modCtx_gtc (s : State) (i : CtxId) (f : Ctx → Ctx) : (s.modCtx i f).gtc = s.gtc := rfl
@[simp] theorem State.modCtx_frac (s : State) (i : CtxId) (f : Ctx → Ctx) : (s.modCtx i f).frac = s.frac := rfl
@[simp] theorem State.modCtx_slew (s : State) (i : CtxId) (f : Ctx → Ctx) : (s.modCtx i f).slew = s.slew := rfl
@[simp] theorem State.modCtx_tscap (s : State) (i : CtxId) (f : Ctx → Ctx) : (s.modCtx i f).tscap = s.tscap := rfl
@[simp] theorem State.modCtx_tsLast (s : State) (i : CtxId) (f : Ctx → Ctx) : (s.modCtx i f).tsLast = s.tsLast := rfl
@[simp] theorem State.modCtx_tsLost (s : State) (i : CtxId) (f : Ctx → Ctx) : (s.modCtx i f).tsLost = s.tsLost := rfl
@[simp] theorem State.modCtx_frameStartAt (s : State) (i : CtxId) (f : Ctx → Ctx) : (s.modCtx i f).frameStartAt = s.frameStartAt := rfl
@[simp] theorem State.modCtx_ePermits (s : State) (i : CtxId) (f : Ctx → Ctx) : (s.modCtx i f).ePermits = s.ePermits := rfl
@[simp] theorem State.modCtx_qRem (s : State) (i : CtxId) (f : Ctx → Ctx) : (s.modCtx i f).qRem = s.qRem := rfl
@[simp] theorem State.modCtx_settled (s : State) (i : CtxId) (f : Ctx → Ctx) : (s.modCtx i f).settled = s.settled := rfl
@[simp] theorem State.modCtx_accountsFresh (s : State) (i : CtxId) (f : Ctx → Ctx) : (s.modCtx i f).accountsFresh = s.accountsFresh := rfl
@[simp] theorem State.modCtx_temps (s : State) (i : CtxId) (f : Ctx → Ctx) : (s.modCtx i f).temps = s.temps := rfl
@[simp] theorem State.modCtx_pastLimit (s : State) (i : CtxId) (f : Ctx → Ctx) : (s.modCtx i f).pastLimit = s.pastLimit := rfl
@[simp] theorem State.modCtx_held (s : State) (i : CtxId) (f : Ctx → Ctx) : (s.modCtx i f).held = s.held := rfl
@[simp] theorem State.modCtx_ready (s : State) (i : CtxId) (f : Ctx → Ctx) : (s.modCtx i f).ready = s.ready := rfl
@[simp] theorem State.modCtx_recovery (s : State) (i : CtxId) (f : Ctx → Ctx) : (s.modCtx i f).recovery = s.recovery := rfl
@[simp] theorem State.modCtx_halted (s : State) (i : CtxId) (f : Ctx → Ctx) : (s.modCtx i f).halted = s.halted := rfl
@[simp] theorem State.modCtx_faultN (s : State) (i : CtxId) (f : Ctx → Ctx) : (s.modCtx i f).faultN = s.faultN := rfl
@[simp] theorem State.modCtx_lastAssert (s : State) (i : CtxId) (f : Ctx → Ctx) : (s.modCtx i f).lastAssert = s.lastAssert := rfl
@[simp] theorem State.modCtx_railsOut (s : State) (i : CtxId) (f : Ctx → Ctx) : (s.modCtx i f).railsOut = s.railsOut := rfl
@[simp] theorem State.modCtx_rootBad (s : State) (i : CtxId) (f : Ctx → Ctx) : (s.modCtx i f).rootBad = s.rootBad := rfl
@[simp] theorem State.modCtx_hot (s : State) (i : CtxId) (f : Ctx → Ctx) : (s.modCtx i f).hot = s.hot := rfl
@[simp] theorem State.modCtx_pEst (s : State) (i : CtxId) (f : Ctx → Ctx) : (s.modCtx i f).pEst = s.pEst := rfl
@[simp] theorem State.modCtx_thermN (s : State) (i : CtxId) (f : Ctx → Ctx) : (s.modCtx i f).thermN = s.thermN := rfl
@[simp] theorem State.modCtx_errlog (s : State) (i : CtxId) (f : Ctx → Ctx) : (s.modCtx i f).errlog = s.errlog := rfl
@[simp] theorem State.modCtx_blobstat (s : State) (i : CtxId) (f : Ctx → Ctx) : (s.modCtx i f).blobstat = s.blobstat := rfl
@[simp] theorem State.modCtx_validating (s : State) (i : CtxId) (f : Ctx → Ctx) : (s.modCtx i f).validating = s.validating := rfl
@[simp] theorem State.modCtx_staging (s : State) (i : CtxId) (f : Ctx → Ctx) : (s.modCtx i f).staging = s.staging := rfl
@[simp] theorem State.modCtx_spiFrame (s : State) (i : CtxId) (f : Ctx → Ctx) : (s.modCtx i f).spiFrame = s.spiFrame := rfl
@[simp] theorem State.modCtx_spiAt (s : State) (i : CtxId) (f : Ctx → Ctx) : (s.modCtx i f).spiAt = s.spiAt := rfl
@[simp] theorem State.modCtx_attest (s : State) (i : CtxId) (f : Ctx → Ctx) : (s.modCtx i f).attest = s.attest := rfl
@[simp] theorem State.modCtx_outputs (s : State) (i : CtxId) (f : Ctx → Ctx) : (s.modCtx i f).outputs = s.outputs := rfl
@[simp] theorem State.modCtx_cur (s : State) (i : CtxId) (f : Ctx → Ctx) : (s.modCtx i f).cur = s.cur := rfl
@[simp] theorem State.modCtx_agenda (s : State) (i : CtxId) (f : Ctx → Ctx) : (s.modCtx i f).agenda = s.agenda := rfl
@[simp] theorem State.modCtx_free (s : State) (i : CtxId) (f : Ctx → Ctx) : (s.modCtx i f).free = s.free := rfl

@[simp] theorem State.setEngine_slices (s : State) (e : EngId) (x : Engine) : (s.setEngine e x).slices = s.slices := rfl
@[simp] theorem State.setEngine_vnpus (s : State) (e : EngId) (x : Engine) : (s.setEngine e x).vnpus = s.vnpus := rfl
@[simp] theorem State.setEngine_leaves (s : State) (e : EngId) (x : Engine) : (s.setEngine e x).leaves = s.leaves := rfl
@[simp] theorem State.setEngine_topUsed (s : State) (e : EngId) (x : Engine) : (s.setEngine e x).topUsed = s.topUsed := rfl
@[simp] theorem State.setEngine_topReached (s : State) (e : EngId) (x : Engine) : (s.setEngine e x).topReached = s.topReached := rfl
@[simp] theorem State.setEngine_clusters (s : State) (e : EngId) (x : Engine) : (s.setEngine e x).clusters = s.clusters := rfl
@[simp] theorem State.setEngine_dram (s : State) (e : EngId) (x : Engine) : (s.setEngine e x).dram = s.dram := rfl
@[simp] theorem State.setEngine_host (s : State) (e : EngId) (x : Engine) : (s.setEngine e x).host = s.host := rfl
@[simp] theorem State.setEngine_owner (s : State) (e : EngId) (x : Engine) : (s.setEngine e x).owner = s.owner := rfl
@[simp] theorem State.setEngine_zeroed (s : State) (e : EngId) (x : Engine) : (s.setEngine e x).zeroed = s.zeroed := rfl
@[simp] theorem State.setEngine_poison (s : State) (e : EngId) (x : Engine) : (s.setEngine e x).poison = s.poison := rfl
@[simp] theorem State.setEngine_lineTags (s : State) (e : EngId) (x : Engine) : (s.setEngine e x).lineTags = s.lineTags := rfl
@[simp] theorem State.setEngine_badLines (s : State) (e : EngId) (x : Engine) : (s.setEngine e x).badLines = s.badLines := rfl
@[simp] theorem State.setEngine_ranges (s : State) (e : EngId) (x : Engine) : (s.setEngine e x).ranges = s.ranges := rfl
@[simp] theorem State.setEngine_corrected (s : State) (e : EngId) (x : Engine) : (s.setEngine e x).corrected = s.corrected := rfl
@[simp] theorem State.setEngine_shown (s : State) (e : EngId) (x : Engine) : (s.setEngine e x).shown = s.shown := rfl
@[simp] theorem State.setEngine_scrubPass (s : State) (e : EngId) (x : Engine) : (s.setEngine e x).scrubPass = s.scrubPass := rfl
@[simp] theorem State.setEngine_strips (s : State) (e : EngId) (x : Engine) : (s.setEngine e x).strips = s.strips := rfl
@[simp] theorem State.setEngine_net (s : State) (e : EngId) (x : Engine) : (s.setEngine e x).net = s.net := rfl
@[simp] theorem State.setEngine_msgs (s : State) (e : EngId) (x : Engine) : (s.setEngine e x).msgs = s.msgs := rfl
@[simp] theorem State.setEngine_arrivals (s : State) (e : EngId) (x : Engine) : (s.setEngine e x).arrivals = s.arrivals := rfl
@[simp] theorem State.setEngine_rootPhases (s : State) (e : EngId) (x : Engine) : (s.setEngine e x).rootPhases = s.rootPhases := rfl
@[simp] theorem State.setEngine_relStamp (s : State) (e : EngId) (x : Engine) : (s.setEngine e x).relStamp = s.relStamp := rfl
@[simp] theorem State.setEngine_lastStamp (s : State) (e : EngId) (x : Engine) : (s.setEngine e x).lastStamp = s.lastStamp := rfl
@[simp] theorem State.setEngine_hostReqs (s : State) (e : EngId) (x : Engine) : (s.setEngine e x).hostReqs = s.hostReqs := rfl
@[simp] theorem State.setEngine_pageReqs (s : State) (e : EngId) (x : Engine) : (s.setEngine e x).pageReqs = s.pageReqs := rfl
@[simp] theorem State.setEngine_contracts (s : State) (e : EngId) (x : Engine) : (s.setEngine e x).contracts = s.contracts := rfl
@[simp] theorem State.setEngine_pending (s : State) (e : EngId) (x : Engine) : (s.setEngine e x).pending = s.pending := rfl
@[simp] theorem State.setEngine_routines (s : State) (e : EngId) (x : Engine) : (s.setEngine e x).routines = s.routines := rfl
@[simp] theorem State.setEngine_tensors (s : State) (e : EngId) (x : Engine) : (s.setEngine e x).tensors = s.tensors := rfl
@[simp] theorem State.setEngine_highWater (s : State) (e : EngId) (x : Engine) : (s.setEngine e x).highWater = s.highWater := rfl
@[simp] theorem State.setEngine_migrating (s : State) (e : EngId) (x : Engine) : (s.setEngine e x).migrating = s.migrating := rfl
@[simp] theorem State.setEngine_regs (s : State) (e : EngId) (x : Engine) : (s.setEngine e x).regs = s.regs := rfl
@[simp] theorem State.setEngine_prodAt (s : State) (e : EngId) (x : Engine) : (s.setEngine e x).prodAt = s.prodAt := rfl
@[simp] theorem State.setEngine_prodDue (s : State) (e : EngId) (x : Engine) : (s.setEngine e x).prodDue = s.prodDue := rfl
@[simp] theorem State.setEngine_nestUid (s : State) (e : EngId) (x : Engine) : (s.setEngine e x).nestUid = s.nestUid := rfl
@[simp] theorem State.setEngine_domains (s : State) (e : EngId) (x : Engine) : (s.setEngine e x).domains = s.domains := rfl
@[simp] theorem State.setEngine_parkOrder (s : State) (e : EngId) (x : Engine) : (s.setEngine e x).parkOrder = s.parkOrder := rfl
@[simp] theorem State.setEngine_wft (s : State) (e : EngId) (x : Engine) : (s.setEngine e x).wft = s.wft := rfl
@[simp] theorem State.setEngine_wftQueue (s : State) (e : EngId) (x : Engine) : (s.setEngine e x).wftQueue = s.wftQueue := rfl
@[simp] theorem State.setEngine_barriers (s : State) (e : EngId) (x : Engine) : (s.setEngine e x).barriers = s.barriers := rfl
@[simp] theorem State.setEngine_barrierIds (s : State) (e : EngId) (x : Engine) : (s.setEngine e x).barrierIds = s.barrierIds := rfl
@[simp] theorem State.setEngine_xphases (s : State) (e : EngId) (x : Engine) : (s.setEngine e x).xphases = s.xphases := rfl
@[simp] theorem State.setEngine_cycle (s : State) (e : EngId) (x : Engine) : (s.setEngine e x).cycle = s.cycle := rfl
@[simp] theorem State.setEngine_gtc (s : State) (e : EngId) (x : Engine) : (s.setEngine e x).gtc = s.gtc := rfl
@[simp] theorem State.setEngine_frac (s : State) (e : EngId) (x : Engine) : (s.setEngine e x).frac = s.frac := rfl
@[simp] theorem State.setEngine_slew (s : State) (e : EngId) (x : Engine) : (s.setEngine e x).slew = s.slew := rfl
@[simp] theorem State.setEngine_tscap (s : State) (e : EngId) (x : Engine) : (s.setEngine e x).tscap = s.tscap := rfl
@[simp] theorem State.setEngine_tsLast (s : State) (e : EngId) (x : Engine) : (s.setEngine e x).tsLast = s.tsLast := rfl
@[simp] theorem State.setEngine_tsLost (s : State) (e : EngId) (x : Engine) : (s.setEngine e x).tsLost = s.tsLost := rfl
@[simp] theorem State.setEngine_frameStartAt (s : State) (e : EngId) (x : Engine) : (s.setEngine e x).frameStartAt = s.frameStartAt := rfl
@[simp] theorem State.setEngine_ePermits (s : State) (e : EngId) (x : Engine) : (s.setEngine e x).ePermits = s.ePermits := rfl
@[simp] theorem State.setEngine_qRem (s : State) (e : EngId) (x : Engine) : (s.setEngine e x).qRem = s.qRem := rfl
@[simp] theorem State.setEngine_settled (s : State) (e : EngId) (x : Engine) : (s.setEngine e x).settled = s.settled := rfl
@[simp] theorem State.setEngine_accountsFresh (s : State) (e : EngId) (x : Engine) : (s.setEngine e x).accountsFresh = s.accountsFresh := rfl
@[simp] theorem State.setEngine_temps (s : State) (e : EngId) (x : Engine) : (s.setEngine e x).temps = s.temps := rfl
@[simp] theorem State.setEngine_pastLimit (s : State) (e : EngId) (x : Engine) : (s.setEngine e x).pastLimit = s.pastLimit := rfl
@[simp] theorem State.setEngine_held (s : State) (e : EngId) (x : Engine) : (s.setEngine e x).held = s.held := rfl
@[simp] theorem State.setEngine_ready (s : State) (e : EngId) (x : Engine) : (s.setEngine e x).ready = s.ready := rfl
@[simp] theorem State.setEngine_recovery (s : State) (e : EngId) (x : Engine) : (s.setEngine e x).recovery = s.recovery := rfl
@[simp] theorem State.setEngine_halted (s : State) (e : EngId) (x : Engine) : (s.setEngine e x).halted = s.halted := rfl
@[simp] theorem State.setEngine_faultN (s : State) (e : EngId) (x : Engine) : (s.setEngine e x).faultN = s.faultN := rfl
@[simp] theorem State.setEngine_lastAssert (s : State) (e : EngId) (x : Engine) : (s.setEngine e x).lastAssert = s.lastAssert := rfl
@[simp] theorem State.setEngine_railsOut (s : State) (e : EngId) (x : Engine) : (s.setEngine e x).railsOut = s.railsOut := rfl
@[simp] theorem State.setEngine_rootBad (s : State) (e : EngId) (x : Engine) : (s.setEngine e x).rootBad = s.rootBad := rfl
@[simp] theorem State.setEngine_hot (s : State) (e : EngId) (x : Engine) : (s.setEngine e x).hot = s.hot := rfl
@[simp] theorem State.setEngine_pEst (s : State) (e : EngId) (x : Engine) : (s.setEngine e x).pEst = s.pEst := rfl
@[simp] theorem State.setEngine_thermN (s : State) (e : EngId) (x : Engine) : (s.setEngine e x).thermN = s.thermN := rfl
@[simp] theorem State.setEngine_errlog (s : State) (e : EngId) (x : Engine) : (s.setEngine e x).errlog = s.errlog := rfl
@[simp] theorem State.setEngine_blobstat (s : State) (e : EngId) (x : Engine) : (s.setEngine e x).blobstat = s.blobstat := rfl
@[simp] theorem State.setEngine_validating (s : State) (e : EngId) (x : Engine) : (s.setEngine e x).validating = s.validating := rfl
@[simp] theorem State.setEngine_staging (s : State) (e : EngId) (x : Engine) : (s.setEngine e x).staging = s.staging := rfl
@[simp] theorem State.setEngine_spiFrame (s : State) (e : EngId) (x : Engine) : (s.setEngine e x).spiFrame = s.spiFrame := rfl
@[simp] theorem State.setEngine_spiAt (s : State) (e : EngId) (x : Engine) : (s.setEngine e x).spiAt = s.spiAt := rfl
@[simp] theorem State.setEngine_attest (s : State) (e : EngId) (x : Engine) : (s.setEngine e x).attest = s.attest := rfl
@[simp] theorem State.setEngine_outputs (s : State) (e : EngId) (x : Engine) : (s.setEngine e x).outputs = s.outputs := rfl
@[simp] theorem State.setEngine_cur (s : State) (e : EngId) (x : Engine) : (s.setEngine e x).cur = s.cur := rfl
@[simp] theorem State.setEngine_agenda (s : State) (e : EngId) (x : Engine) : (s.setEngine e x).agenda = s.agenda := rfl
@[simp] theorem State.setEngine_free (s : State) (e : EngId) (x : Engine) : (s.setEngine e x).free = s.free := rfl

@[simp] theorem State.modEngine_slices (s : State) (e : EngId) (f : Engine → Engine) : (s.modEngine e f).slices = s.slices := rfl
@[simp] theorem State.modEngine_vnpus (s : State) (e : EngId) (f : Engine → Engine) : (s.modEngine e f).vnpus = s.vnpus := rfl
@[simp] theorem State.modEngine_leaves (s : State) (e : EngId) (f : Engine → Engine) : (s.modEngine e f).leaves = s.leaves := rfl
@[simp] theorem State.modEngine_topUsed (s : State) (e : EngId) (f : Engine → Engine) : (s.modEngine e f).topUsed = s.topUsed := rfl
@[simp] theorem State.modEngine_topReached (s : State) (e : EngId) (f : Engine → Engine) : (s.modEngine e f).topReached = s.topReached := rfl
@[simp] theorem State.modEngine_clusters (s : State) (e : EngId) (f : Engine → Engine) : (s.modEngine e f).clusters = s.clusters := rfl
@[simp] theorem State.modEngine_dram (s : State) (e : EngId) (f : Engine → Engine) : (s.modEngine e f).dram = s.dram := rfl
@[simp] theorem State.modEngine_host (s : State) (e : EngId) (f : Engine → Engine) : (s.modEngine e f).host = s.host := rfl
@[simp] theorem State.modEngine_owner (s : State) (e : EngId) (f : Engine → Engine) : (s.modEngine e f).owner = s.owner := rfl
@[simp] theorem State.modEngine_zeroed (s : State) (e : EngId) (f : Engine → Engine) : (s.modEngine e f).zeroed = s.zeroed := rfl
@[simp] theorem State.modEngine_poison (s : State) (e : EngId) (f : Engine → Engine) : (s.modEngine e f).poison = s.poison := rfl
@[simp] theorem State.modEngine_lineTags (s : State) (e : EngId) (f : Engine → Engine) : (s.modEngine e f).lineTags = s.lineTags := rfl
@[simp] theorem State.modEngine_badLines (s : State) (e : EngId) (f : Engine → Engine) : (s.modEngine e f).badLines = s.badLines := rfl
@[simp] theorem State.modEngine_ranges (s : State) (e : EngId) (f : Engine → Engine) : (s.modEngine e f).ranges = s.ranges := rfl
@[simp] theorem State.modEngine_corrected (s : State) (e : EngId) (f : Engine → Engine) : (s.modEngine e f).corrected = s.corrected := rfl
@[simp] theorem State.modEngine_shown (s : State) (e : EngId) (f : Engine → Engine) : (s.modEngine e f).shown = s.shown := rfl
@[simp] theorem State.modEngine_scrubPass (s : State) (e : EngId) (f : Engine → Engine) : (s.modEngine e f).scrubPass = s.scrubPass := rfl
@[simp] theorem State.modEngine_strips (s : State) (e : EngId) (f : Engine → Engine) : (s.modEngine e f).strips = s.strips := rfl
@[simp] theorem State.modEngine_net (s : State) (e : EngId) (f : Engine → Engine) : (s.modEngine e f).net = s.net := rfl
@[simp] theorem State.modEngine_msgs (s : State) (e : EngId) (f : Engine → Engine) : (s.modEngine e f).msgs = s.msgs := rfl
@[simp] theorem State.modEngine_arrivals (s : State) (e : EngId) (f : Engine → Engine) : (s.modEngine e f).arrivals = s.arrivals := rfl
@[simp] theorem State.modEngine_rootPhases (s : State) (e : EngId) (f : Engine → Engine) : (s.modEngine e f).rootPhases = s.rootPhases := rfl
@[simp] theorem State.modEngine_relStamp (s : State) (e : EngId) (f : Engine → Engine) : (s.modEngine e f).relStamp = s.relStamp := rfl
@[simp] theorem State.modEngine_lastStamp (s : State) (e : EngId) (f : Engine → Engine) : (s.modEngine e f).lastStamp = s.lastStamp := rfl
@[simp] theorem State.modEngine_hostReqs (s : State) (e : EngId) (f : Engine → Engine) : (s.modEngine e f).hostReqs = s.hostReqs := rfl
@[simp] theorem State.modEngine_pageReqs (s : State) (e : EngId) (f : Engine → Engine) : (s.modEngine e f).pageReqs = s.pageReqs := rfl
@[simp] theorem State.modEngine_contracts (s : State) (e : EngId) (f : Engine → Engine) : (s.modEngine e f).contracts = s.contracts := rfl
@[simp] theorem State.modEngine_pending (s : State) (e : EngId) (f : Engine → Engine) : (s.modEngine e f).pending = s.pending := rfl
@[simp] theorem State.modEngine_routines (s : State) (e : EngId) (f : Engine → Engine) : (s.modEngine e f).routines = s.routines := rfl
@[simp] theorem State.modEngine_tensors (s : State) (e : EngId) (f : Engine → Engine) : (s.modEngine e f).tensors = s.tensors := rfl
@[simp] theorem State.modEngine_highWater (s : State) (e : EngId) (f : Engine → Engine) : (s.modEngine e f).highWater = s.highWater := rfl
@[simp] theorem State.modEngine_migrating (s : State) (e : EngId) (f : Engine → Engine) : (s.modEngine e f).migrating = s.migrating := rfl
@[simp] theorem State.modEngine_regs (s : State) (e : EngId) (f : Engine → Engine) : (s.modEngine e f).regs = s.regs := rfl
@[simp] theorem State.modEngine_prodAt (s : State) (e : EngId) (f : Engine → Engine) : (s.modEngine e f).prodAt = s.prodAt := rfl
@[simp] theorem State.modEngine_prodDue (s : State) (e : EngId) (f : Engine → Engine) : (s.modEngine e f).prodDue = s.prodDue := rfl
@[simp] theorem State.modEngine_nestUid (s : State) (e : EngId) (f : Engine → Engine) : (s.modEngine e f).nestUid = s.nestUid := rfl
@[simp] theorem State.modEngine_domains (s : State) (e : EngId) (f : Engine → Engine) : (s.modEngine e f).domains = s.domains := rfl
@[simp] theorem State.modEngine_parkOrder (s : State) (e : EngId) (f : Engine → Engine) : (s.modEngine e f).parkOrder = s.parkOrder := rfl
@[simp] theorem State.modEngine_wft (s : State) (e : EngId) (f : Engine → Engine) : (s.modEngine e f).wft = s.wft := rfl
@[simp] theorem State.modEngine_wftQueue (s : State) (e : EngId) (f : Engine → Engine) : (s.modEngine e f).wftQueue = s.wftQueue := rfl
@[simp] theorem State.modEngine_barriers (s : State) (e : EngId) (f : Engine → Engine) : (s.modEngine e f).barriers = s.barriers := rfl
@[simp] theorem State.modEngine_barrierIds (s : State) (e : EngId) (f : Engine → Engine) : (s.modEngine e f).barrierIds = s.barrierIds := rfl
@[simp] theorem State.modEngine_xphases (s : State) (e : EngId) (f : Engine → Engine) : (s.modEngine e f).xphases = s.xphases := rfl
@[simp] theorem State.modEngine_cycle (s : State) (e : EngId) (f : Engine → Engine) : (s.modEngine e f).cycle = s.cycle := rfl
@[simp] theorem State.modEngine_gtc (s : State) (e : EngId) (f : Engine → Engine) : (s.modEngine e f).gtc = s.gtc := rfl
@[simp] theorem State.modEngine_frac (s : State) (e : EngId) (f : Engine → Engine) : (s.modEngine e f).frac = s.frac := rfl
@[simp] theorem State.modEngine_slew (s : State) (e : EngId) (f : Engine → Engine) : (s.modEngine e f).slew = s.slew := rfl
@[simp] theorem State.modEngine_tscap (s : State) (e : EngId) (f : Engine → Engine) : (s.modEngine e f).tscap = s.tscap := rfl
@[simp] theorem State.modEngine_tsLast (s : State) (e : EngId) (f : Engine → Engine) : (s.modEngine e f).tsLast = s.tsLast := rfl
@[simp] theorem State.modEngine_tsLost (s : State) (e : EngId) (f : Engine → Engine) : (s.modEngine e f).tsLost = s.tsLost := rfl
@[simp] theorem State.modEngine_frameStartAt (s : State) (e : EngId) (f : Engine → Engine) : (s.modEngine e f).frameStartAt = s.frameStartAt := rfl
@[simp] theorem State.modEngine_ePermits (s : State) (e : EngId) (f : Engine → Engine) : (s.modEngine e f).ePermits = s.ePermits := rfl
@[simp] theorem State.modEngine_qRem (s : State) (e : EngId) (f : Engine → Engine) : (s.modEngine e f).qRem = s.qRem := rfl
@[simp] theorem State.modEngine_settled (s : State) (e : EngId) (f : Engine → Engine) : (s.modEngine e f).settled = s.settled := rfl
@[simp] theorem State.modEngine_accountsFresh (s : State) (e : EngId) (f : Engine → Engine) : (s.modEngine e f).accountsFresh = s.accountsFresh := rfl
@[simp] theorem State.modEngine_temps (s : State) (e : EngId) (f : Engine → Engine) : (s.modEngine e f).temps = s.temps := rfl
@[simp] theorem State.modEngine_pastLimit (s : State) (e : EngId) (f : Engine → Engine) : (s.modEngine e f).pastLimit = s.pastLimit := rfl
@[simp] theorem State.modEngine_held (s : State) (e : EngId) (f : Engine → Engine) : (s.modEngine e f).held = s.held := rfl
@[simp] theorem State.modEngine_ready (s : State) (e : EngId) (f : Engine → Engine) : (s.modEngine e f).ready = s.ready := rfl
@[simp] theorem State.modEngine_recovery (s : State) (e : EngId) (f : Engine → Engine) : (s.modEngine e f).recovery = s.recovery := rfl
@[simp] theorem State.modEngine_halted (s : State) (e : EngId) (f : Engine → Engine) : (s.modEngine e f).halted = s.halted := rfl
@[simp] theorem State.modEngine_faultN (s : State) (e : EngId) (f : Engine → Engine) : (s.modEngine e f).faultN = s.faultN := rfl
@[simp] theorem State.modEngine_lastAssert (s : State) (e : EngId) (f : Engine → Engine) : (s.modEngine e f).lastAssert = s.lastAssert := rfl
@[simp] theorem State.modEngine_railsOut (s : State) (e : EngId) (f : Engine → Engine) : (s.modEngine e f).railsOut = s.railsOut := rfl
@[simp] theorem State.modEngine_rootBad (s : State) (e : EngId) (f : Engine → Engine) : (s.modEngine e f).rootBad = s.rootBad := rfl
@[simp] theorem State.modEngine_hot (s : State) (e : EngId) (f : Engine → Engine) : (s.modEngine e f).hot = s.hot := rfl
@[simp] theorem State.modEngine_pEst (s : State) (e : EngId) (f : Engine → Engine) : (s.modEngine e f).pEst = s.pEst := rfl
@[simp] theorem State.modEngine_thermN (s : State) (e : EngId) (f : Engine → Engine) : (s.modEngine e f).thermN = s.thermN := rfl
@[simp] theorem State.modEngine_errlog (s : State) (e : EngId) (f : Engine → Engine) : (s.modEngine e f).errlog = s.errlog := rfl
@[simp] theorem State.modEngine_blobstat (s : State) (e : EngId) (f : Engine → Engine) : (s.modEngine e f).blobstat = s.blobstat := rfl
@[simp] theorem State.modEngine_validating (s : State) (e : EngId) (f : Engine → Engine) : (s.modEngine e f).validating = s.validating := rfl
@[simp] theorem State.modEngine_staging (s : State) (e : EngId) (f : Engine → Engine) : (s.modEngine e f).staging = s.staging := rfl
@[simp] theorem State.modEngine_spiFrame (s : State) (e : EngId) (f : Engine → Engine) : (s.modEngine e f).spiFrame = s.spiFrame := rfl
@[simp] theorem State.modEngine_spiAt (s : State) (e : EngId) (f : Engine → Engine) : (s.modEngine e f).spiAt = s.spiAt := rfl
@[simp] theorem State.modEngine_attest (s : State) (e : EngId) (f : Engine → Engine) : (s.modEngine e f).attest = s.attest := rfl
@[simp] theorem State.modEngine_outputs (s : State) (e : EngId) (f : Engine → Engine) : (s.modEngine e f).outputs = s.outputs := rfl
@[simp] theorem State.modEngine_cur (s : State) (e : EngId) (f : Engine → Engine) : (s.modEngine e f).cur = s.cur := rfl
@[simp] theorem State.modEngine_agenda (s : State) (e : EngId) (f : Engine → Engine) : (s.modEngine e f).agenda = s.agenda := rfl
@[simp] theorem State.modEngine_free (s : State) (e : EngId) (f : Engine → Engine) : (s.modEngine e f).free = s.free := rfl

@[simp] theorem State.modVnpu_cores (s : State) (v : VnpuId) (f : Vnpu → Vnpu) : (s.modVnpu v f).cores = s.cores := rfl
@[simp] theorem State.modVnpu_slices (s : State) (v : VnpuId) (f : Vnpu → Vnpu) : (s.modVnpu v f).slices = s.slices := rfl
@[simp] theorem State.modVnpu_leaves (s : State) (v : VnpuId) (f : Vnpu → Vnpu) : (s.modVnpu v f).leaves = s.leaves := rfl
@[simp] theorem State.modVnpu_topUsed (s : State) (v : VnpuId) (f : Vnpu → Vnpu) : (s.modVnpu v f).topUsed = s.topUsed := rfl
@[simp] theorem State.modVnpu_topReached (s : State) (v : VnpuId) (f : Vnpu → Vnpu) : (s.modVnpu v f).topReached = s.topReached := rfl
@[simp] theorem State.modVnpu_clusters (s : State) (v : VnpuId) (f : Vnpu → Vnpu) : (s.modVnpu v f).clusters = s.clusters := rfl
@[simp] theorem State.modVnpu_dram (s : State) (v : VnpuId) (f : Vnpu → Vnpu) : (s.modVnpu v f).dram = s.dram := rfl
@[simp] theorem State.modVnpu_host (s : State) (v : VnpuId) (f : Vnpu → Vnpu) : (s.modVnpu v f).host = s.host := rfl
@[simp] theorem State.modVnpu_owner (s : State) (v : VnpuId) (f : Vnpu → Vnpu) : (s.modVnpu v f).owner = s.owner := rfl
@[simp] theorem State.modVnpu_zeroed (s : State) (v : VnpuId) (f : Vnpu → Vnpu) : (s.modVnpu v f).zeroed = s.zeroed := rfl
@[simp] theorem State.modVnpu_poison (s : State) (v : VnpuId) (f : Vnpu → Vnpu) : (s.modVnpu v f).poison = s.poison := rfl
@[simp] theorem State.modVnpu_lineTags (s : State) (v : VnpuId) (f : Vnpu → Vnpu) : (s.modVnpu v f).lineTags = s.lineTags := rfl
@[simp] theorem State.modVnpu_badLines (s : State) (v : VnpuId) (f : Vnpu → Vnpu) : (s.modVnpu v f).badLines = s.badLines := rfl
@[simp] theorem State.modVnpu_ranges (s : State) (v : VnpuId) (f : Vnpu → Vnpu) : (s.modVnpu v f).ranges = s.ranges := rfl
@[simp] theorem State.modVnpu_corrected (s : State) (v : VnpuId) (f : Vnpu → Vnpu) : (s.modVnpu v f).corrected = s.corrected := rfl
@[simp] theorem State.modVnpu_shown (s : State) (v : VnpuId) (f : Vnpu → Vnpu) : (s.modVnpu v f).shown = s.shown := rfl
@[simp] theorem State.modVnpu_scrubPass (s : State) (v : VnpuId) (f : Vnpu → Vnpu) : (s.modVnpu v f).scrubPass = s.scrubPass := rfl
@[simp] theorem State.modVnpu_strips (s : State) (v : VnpuId) (f : Vnpu → Vnpu) : (s.modVnpu v f).strips = s.strips := rfl
@[simp] theorem State.modVnpu_net (s : State) (v : VnpuId) (f : Vnpu → Vnpu) : (s.modVnpu v f).net = s.net := rfl
@[simp] theorem State.modVnpu_msgs (s : State) (v : VnpuId) (f : Vnpu → Vnpu) : (s.modVnpu v f).msgs = s.msgs := rfl
@[simp] theorem State.modVnpu_arrivals (s : State) (v : VnpuId) (f : Vnpu → Vnpu) : (s.modVnpu v f).arrivals = s.arrivals := rfl
@[simp] theorem State.modVnpu_rootPhases (s : State) (v : VnpuId) (f : Vnpu → Vnpu) : (s.modVnpu v f).rootPhases = s.rootPhases := rfl
@[simp] theorem State.modVnpu_relStamp (s : State) (v : VnpuId) (f : Vnpu → Vnpu) : (s.modVnpu v f).relStamp = s.relStamp := rfl
@[simp] theorem State.modVnpu_lastStamp (s : State) (v : VnpuId) (f : Vnpu → Vnpu) : (s.modVnpu v f).lastStamp = s.lastStamp := rfl
@[simp] theorem State.modVnpu_hostReqs (s : State) (v : VnpuId) (f : Vnpu → Vnpu) : (s.modVnpu v f).hostReqs = s.hostReqs := rfl
@[simp] theorem State.modVnpu_pageReqs (s : State) (v : VnpuId) (f : Vnpu → Vnpu) : (s.modVnpu v f).pageReqs = s.pageReqs := rfl
@[simp] theorem State.modVnpu_contracts (s : State) (v : VnpuId) (f : Vnpu → Vnpu) : (s.modVnpu v f).contracts = s.contracts := rfl
@[simp] theorem State.modVnpu_pending (s : State) (v : VnpuId) (f : Vnpu → Vnpu) : (s.modVnpu v f).pending = s.pending := rfl
@[simp] theorem State.modVnpu_routines (s : State) (v : VnpuId) (f : Vnpu → Vnpu) : (s.modVnpu v f).routines = s.routines := rfl
@[simp] theorem State.modVnpu_tensors (s : State) (v : VnpuId) (f : Vnpu → Vnpu) : (s.modVnpu v f).tensors = s.tensors := rfl
@[simp] theorem State.modVnpu_highWater (s : State) (v : VnpuId) (f : Vnpu → Vnpu) : (s.modVnpu v f).highWater = s.highWater := rfl
@[simp] theorem State.modVnpu_migrating (s : State) (v : VnpuId) (f : Vnpu → Vnpu) : (s.modVnpu v f).migrating = s.migrating := rfl
@[simp] theorem State.modVnpu_regs (s : State) (v : VnpuId) (f : Vnpu → Vnpu) : (s.modVnpu v f).regs = s.regs := rfl
@[simp] theorem State.modVnpu_prodAt (s : State) (v : VnpuId) (f : Vnpu → Vnpu) : (s.modVnpu v f).prodAt = s.prodAt := rfl
@[simp] theorem State.modVnpu_prodDue (s : State) (v : VnpuId) (f : Vnpu → Vnpu) : (s.modVnpu v f).prodDue = s.prodDue := rfl
@[simp] theorem State.modVnpu_nestUid (s : State) (v : VnpuId) (f : Vnpu → Vnpu) : (s.modVnpu v f).nestUid = s.nestUid := rfl
@[simp] theorem State.modVnpu_domains (s : State) (v : VnpuId) (f : Vnpu → Vnpu) : (s.modVnpu v f).domains = s.domains := rfl
@[simp] theorem State.modVnpu_parkOrder (s : State) (v : VnpuId) (f : Vnpu → Vnpu) : (s.modVnpu v f).parkOrder = s.parkOrder := rfl
@[simp] theorem State.modVnpu_wft (s : State) (v : VnpuId) (f : Vnpu → Vnpu) : (s.modVnpu v f).wft = s.wft := rfl
@[simp] theorem State.modVnpu_wftQueue (s : State) (v : VnpuId) (f : Vnpu → Vnpu) : (s.modVnpu v f).wftQueue = s.wftQueue := rfl
@[simp] theorem State.modVnpu_barriers (s : State) (v : VnpuId) (f : Vnpu → Vnpu) : (s.modVnpu v f).barriers = s.barriers := rfl
@[simp] theorem State.modVnpu_barrierIds (s : State) (v : VnpuId) (f : Vnpu → Vnpu) : (s.modVnpu v f).barrierIds = s.barrierIds := rfl
@[simp] theorem State.modVnpu_xphases (s : State) (v : VnpuId) (f : Vnpu → Vnpu) : (s.modVnpu v f).xphases = s.xphases := rfl
@[simp] theorem State.modVnpu_cycle (s : State) (v : VnpuId) (f : Vnpu → Vnpu) : (s.modVnpu v f).cycle = s.cycle := rfl
@[simp] theorem State.modVnpu_gtc (s : State) (v : VnpuId) (f : Vnpu → Vnpu) : (s.modVnpu v f).gtc = s.gtc := rfl
@[simp] theorem State.modVnpu_frac (s : State) (v : VnpuId) (f : Vnpu → Vnpu) : (s.modVnpu v f).frac = s.frac := rfl
@[simp] theorem State.modVnpu_slew (s : State) (v : VnpuId) (f : Vnpu → Vnpu) : (s.modVnpu v f).slew = s.slew := rfl
@[simp] theorem State.modVnpu_tscap (s : State) (v : VnpuId) (f : Vnpu → Vnpu) : (s.modVnpu v f).tscap = s.tscap := rfl
@[simp] theorem State.modVnpu_tsLast (s : State) (v : VnpuId) (f : Vnpu → Vnpu) : (s.modVnpu v f).tsLast = s.tsLast := rfl
@[simp] theorem State.modVnpu_tsLost (s : State) (v : VnpuId) (f : Vnpu → Vnpu) : (s.modVnpu v f).tsLost = s.tsLost := rfl
@[simp] theorem State.modVnpu_frameStartAt (s : State) (v : VnpuId) (f : Vnpu → Vnpu) : (s.modVnpu v f).frameStartAt = s.frameStartAt := rfl
@[simp] theorem State.modVnpu_ePermits (s : State) (v : VnpuId) (f : Vnpu → Vnpu) : (s.modVnpu v f).ePermits = s.ePermits := rfl
@[simp] theorem State.modVnpu_qRem (s : State) (v : VnpuId) (f : Vnpu → Vnpu) : (s.modVnpu v f).qRem = s.qRem := rfl
@[simp] theorem State.modVnpu_settled (s : State) (v : VnpuId) (f : Vnpu → Vnpu) : (s.modVnpu v f).settled = s.settled := rfl
@[simp] theorem State.modVnpu_accountsFresh (s : State) (v : VnpuId) (f : Vnpu → Vnpu) : (s.modVnpu v f).accountsFresh = s.accountsFresh := rfl
@[simp] theorem State.modVnpu_temps (s : State) (v : VnpuId) (f : Vnpu → Vnpu) : (s.modVnpu v f).temps = s.temps := rfl
@[simp] theorem State.modVnpu_pastLimit (s : State) (v : VnpuId) (f : Vnpu → Vnpu) : (s.modVnpu v f).pastLimit = s.pastLimit := rfl
@[simp] theorem State.modVnpu_held (s : State) (v : VnpuId) (f : Vnpu → Vnpu) : (s.modVnpu v f).held = s.held := rfl
@[simp] theorem State.modVnpu_ready (s : State) (v : VnpuId) (f : Vnpu → Vnpu) : (s.modVnpu v f).ready = s.ready := rfl
@[simp] theorem State.modVnpu_recovery (s : State) (v : VnpuId) (f : Vnpu → Vnpu) : (s.modVnpu v f).recovery = s.recovery := rfl
@[simp] theorem State.modVnpu_halted (s : State) (v : VnpuId) (f : Vnpu → Vnpu) : (s.modVnpu v f).halted = s.halted := rfl
@[simp] theorem State.modVnpu_faultN (s : State) (v : VnpuId) (f : Vnpu → Vnpu) : (s.modVnpu v f).faultN = s.faultN := rfl
@[simp] theorem State.modVnpu_lastAssert (s : State) (v : VnpuId) (f : Vnpu → Vnpu) : (s.modVnpu v f).lastAssert = s.lastAssert := rfl
@[simp] theorem State.modVnpu_railsOut (s : State) (v : VnpuId) (f : Vnpu → Vnpu) : (s.modVnpu v f).railsOut = s.railsOut := rfl
@[simp] theorem State.modVnpu_rootBad (s : State) (v : VnpuId) (f : Vnpu → Vnpu) : (s.modVnpu v f).rootBad = s.rootBad := rfl
@[simp] theorem State.modVnpu_hot (s : State) (v : VnpuId) (f : Vnpu → Vnpu) : (s.modVnpu v f).hot = s.hot := rfl
@[simp] theorem State.modVnpu_pEst (s : State) (v : VnpuId) (f : Vnpu → Vnpu) : (s.modVnpu v f).pEst = s.pEst := rfl
@[simp] theorem State.modVnpu_thermN (s : State) (v : VnpuId) (f : Vnpu → Vnpu) : (s.modVnpu v f).thermN = s.thermN := rfl
@[simp] theorem State.modVnpu_errlog (s : State) (v : VnpuId) (f : Vnpu → Vnpu) : (s.modVnpu v f).errlog = s.errlog := rfl
@[simp] theorem State.modVnpu_blobstat (s : State) (v : VnpuId) (f : Vnpu → Vnpu) : (s.modVnpu v f).blobstat = s.blobstat := rfl
@[simp] theorem State.modVnpu_validating (s : State) (v : VnpuId) (f : Vnpu → Vnpu) : (s.modVnpu v f).validating = s.validating := rfl
@[simp] theorem State.modVnpu_staging (s : State) (v : VnpuId) (f : Vnpu → Vnpu) : (s.modVnpu v f).staging = s.staging := rfl
@[simp] theorem State.modVnpu_spiFrame (s : State) (v : VnpuId) (f : Vnpu → Vnpu) : (s.modVnpu v f).spiFrame = s.spiFrame := rfl
@[simp] theorem State.modVnpu_spiAt (s : State) (v : VnpuId) (f : Vnpu → Vnpu) : (s.modVnpu v f).spiAt = s.spiAt := rfl
@[simp] theorem State.modVnpu_attest (s : State) (v : VnpuId) (f : Vnpu → Vnpu) : (s.modVnpu v f).attest = s.attest := rfl
@[simp] theorem State.modVnpu_outputs (s : State) (v : VnpuId) (f : Vnpu → Vnpu) : (s.modVnpu v f).outputs = s.outputs := rfl
@[simp] theorem State.modVnpu_cur (s : State) (v : VnpuId) (f : Vnpu → Vnpu) : (s.modVnpu v f).cur = s.cur := rfl
@[simp] theorem State.modVnpu_agenda (s : State) (v : VnpuId) (f : Vnpu → Vnpu) : (s.modVnpu v f).agenda = s.agenda := rfl
@[simp] theorem State.modVnpu_free (s : State) (v : VnpuId) (f : Vnpu → Vnpu) : (s.modVnpu v f).free = s.free := rfl

@[simp] theorem State.modLeaf_cores (s : State) (l : LeafId) (f : LeafState → LeafState) : (s.modLeaf l f).cores = s.cores := rfl
@[simp] theorem State.modLeaf_slices (s : State) (l : LeafId) (f : LeafState → LeafState) : (s.modLeaf l f).slices = s.slices := rfl
@[simp] theorem State.modLeaf_vnpus (s : State) (l : LeafId) (f : LeafState → LeafState) : (s.modLeaf l f).vnpus = s.vnpus := rfl
@[simp] theorem State.modLeaf_topUsed (s : State) (l : LeafId) (f : LeafState → LeafState) : (s.modLeaf l f).topUsed = s.topUsed := rfl
@[simp] theorem State.modLeaf_topReached (s : State) (l : LeafId) (f : LeafState → LeafState) : (s.modLeaf l f).topReached = s.topReached := rfl
@[simp] theorem State.modLeaf_clusters (s : State) (l : LeafId) (f : LeafState → LeafState) : (s.modLeaf l f).clusters = s.clusters := rfl
@[simp] theorem State.modLeaf_dram (s : State) (l : LeafId) (f : LeafState → LeafState) : (s.modLeaf l f).dram = s.dram := rfl
@[simp] theorem State.modLeaf_host (s : State) (l : LeafId) (f : LeafState → LeafState) : (s.modLeaf l f).host = s.host := rfl
@[simp] theorem State.modLeaf_owner (s : State) (l : LeafId) (f : LeafState → LeafState) : (s.modLeaf l f).owner = s.owner := rfl
@[simp] theorem State.modLeaf_zeroed (s : State) (l : LeafId) (f : LeafState → LeafState) : (s.modLeaf l f).zeroed = s.zeroed := rfl
@[simp] theorem State.modLeaf_poison (s : State) (l : LeafId) (f : LeafState → LeafState) : (s.modLeaf l f).poison = s.poison := rfl
@[simp] theorem State.modLeaf_lineTags (s : State) (l : LeafId) (f : LeafState → LeafState) : (s.modLeaf l f).lineTags = s.lineTags := rfl
@[simp] theorem State.modLeaf_badLines (s : State) (l : LeafId) (f : LeafState → LeafState) : (s.modLeaf l f).badLines = s.badLines := rfl
@[simp] theorem State.modLeaf_ranges (s : State) (l : LeafId) (f : LeafState → LeafState) : (s.modLeaf l f).ranges = s.ranges := rfl
@[simp] theorem State.modLeaf_corrected (s : State) (l : LeafId) (f : LeafState → LeafState) : (s.modLeaf l f).corrected = s.corrected := rfl
@[simp] theorem State.modLeaf_shown (s : State) (l : LeafId) (f : LeafState → LeafState) : (s.modLeaf l f).shown = s.shown := rfl
@[simp] theorem State.modLeaf_scrubPass (s : State) (l : LeafId) (f : LeafState → LeafState) : (s.modLeaf l f).scrubPass = s.scrubPass := rfl
@[simp] theorem State.modLeaf_strips (s : State) (l : LeafId) (f : LeafState → LeafState) : (s.modLeaf l f).strips = s.strips := rfl
@[simp] theorem State.modLeaf_net (s : State) (l : LeafId) (f : LeafState → LeafState) : (s.modLeaf l f).net = s.net := rfl
@[simp] theorem State.modLeaf_msgs (s : State) (l : LeafId) (f : LeafState → LeafState) : (s.modLeaf l f).msgs = s.msgs := rfl
@[simp] theorem State.modLeaf_arrivals (s : State) (l : LeafId) (f : LeafState → LeafState) : (s.modLeaf l f).arrivals = s.arrivals := rfl
@[simp] theorem State.modLeaf_rootPhases (s : State) (l : LeafId) (f : LeafState → LeafState) : (s.modLeaf l f).rootPhases = s.rootPhases := rfl
@[simp] theorem State.modLeaf_relStamp (s : State) (l : LeafId) (f : LeafState → LeafState) : (s.modLeaf l f).relStamp = s.relStamp := rfl
@[simp] theorem State.modLeaf_lastStamp (s : State) (l : LeafId) (f : LeafState → LeafState) : (s.modLeaf l f).lastStamp = s.lastStamp := rfl
@[simp] theorem State.modLeaf_hostReqs (s : State) (l : LeafId) (f : LeafState → LeafState) : (s.modLeaf l f).hostReqs = s.hostReqs := rfl
@[simp] theorem State.modLeaf_pageReqs (s : State) (l : LeafId) (f : LeafState → LeafState) : (s.modLeaf l f).pageReqs = s.pageReqs := rfl
@[simp] theorem State.modLeaf_contracts (s : State) (l : LeafId) (f : LeafState → LeafState) : (s.modLeaf l f).contracts = s.contracts := rfl
@[simp] theorem State.modLeaf_pending (s : State) (l : LeafId) (f : LeafState → LeafState) : (s.modLeaf l f).pending = s.pending := rfl
@[simp] theorem State.modLeaf_routines (s : State) (l : LeafId) (f : LeafState → LeafState) : (s.modLeaf l f).routines = s.routines := rfl
@[simp] theorem State.modLeaf_tensors (s : State) (l : LeafId) (f : LeafState → LeafState) : (s.modLeaf l f).tensors = s.tensors := rfl
@[simp] theorem State.modLeaf_highWater (s : State) (l : LeafId) (f : LeafState → LeafState) : (s.modLeaf l f).highWater = s.highWater := rfl
@[simp] theorem State.modLeaf_migrating (s : State) (l : LeafId) (f : LeafState → LeafState) : (s.modLeaf l f).migrating = s.migrating := rfl
@[simp] theorem State.modLeaf_regs (s : State) (l : LeafId) (f : LeafState → LeafState) : (s.modLeaf l f).regs = s.regs := rfl
@[simp] theorem State.modLeaf_prodAt (s : State) (l : LeafId) (f : LeafState → LeafState) : (s.modLeaf l f).prodAt = s.prodAt := rfl
@[simp] theorem State.modLeaf_prodDue (s : State) (l : LeafId) (f : LeafState → LeafState) : (s.modLeaf l f).prodDue = s.prodDue := rfl
@[simp] theorem State.modLeaf_nestUid (s : State) (l : LeafId) (f : LeafState → LeafState) : (s.modLeaf l f).nestUid = s.nestUid := rfl
@[simp] theorem State.modLeaf_domains (s : State) (l : LeafId) (f : LeafState → LeafState) : (s.modLeaf l f).domains = s.domains := rfl
@[simp] theorem State.modLeaf_parkOrder (s : State) (l : LeafId) (f : LeafState → LeafState) : (s.modLeaf l f).parkOrder = s.parkOrder := rfl
@[simp] theorem State.modLeaf_wft (s : State) (l : LeafId) (f : LeafState → LeafState) : (s.modLeaf l f).wft = s.wft := rfl
@[simp] theorem State.modLeaf_wftQueue (s : State) (l : LeafId) (f : LeafState → LeafState) : (s.modLeaf l f).wftQueue = s.wftQueue := rfl
@[simp] theorem State.modLeaf_barriers (s : State) (l : LeafId) (f : LeafState → LeafState) : (s.modLeaf l f).barriers = s.barriers := rfl
@[simp] theorem State.modLeaf_barrierIds (s : State) (l : LeafId) (f : LeafState → LeafState) : (s.modLeaf l f).barrierIds = s.barrierIds := rfl
@[simp] theorem State.modLeaf_xphases (s : State) (l : LeafId) (f : LeafState → LeafState) : (s.modLeaf l f).xphases = s.xphases := rfl
@[simp] theorem State.modLeaf_cycle (s : State) (l : LeafId) (f : LeafState → LeafState) : (s.modLeaf l f).cycle = s.cycle := rfl
@[simp] theorem State.modLeaf_gtc (s : State) (l : LeafId) (f : LeafState → LeafState) : (s.modLeaf l f).gtc = s.gtc := rfl
@[simp] theorem State.modLeaf_frac (s : State) (l : LeafId) (f : LeafState → LeafState) : (s.modLeaf l f).frac = s.frac := rfl
@[simp] theorem State.modLeaf_slew (s : State) (l : LeafId) (f : LeafState → LeafState) : (s.modLeaf l f).slew = s.slew := rfl
@[simp] theorem State.modLeaf_tscap (s : State) (l : LeafId) (f : LeafState → LeafState) : (s.modLeaf l f).tscap = s.tscap := rfl
@[simp] theorem State.modLeaf_tsLast (s : State) (l : LeafId) (f : LeafState → LeafState) : (s.modLeaf l f).tsLast = s.tsLast := rfl
@[simp] theorem State.modLeaf_tsLost (s : State) (l : LeafId) (f : LeafState → LeafState) : (s.modLeaf l f).tsLost = s.tsLost := rfl
@[simp] theorem State.modLeaf_frameStartAt (s : State) (l : LeafId) (f : LeafState → LeafState) : (s.modLeaf l f).frameStartAt = s.frameStartAt := rfl
@[simp] theorem State.modLeaf_ePermits (s : State) (l : LeafId) (f : LeafState → LeafState) : (s.modLeaf l f).ePermits = s.ePermits := rfl
@[simp] theorem State.modLeaf_qRem (s : State) (l : LeafId) (f : LeafState → LeafState) : (s.modLeaf l f).qRem = s.qRem := rfl
@[simp] theorem State.modLeaf_settled (s : State) (l : LeafId) (f : LeafState → LeafState) : (s.modLeaf l f).settled = s.settled := rfl
@[simp] theorem State.modLeaf_accountsFresh (s : State) (l : LeafId) (f : LeafState → LeafState) : (s.modLeaf l f).accountsFresh = s.accountsFresh := rfl
@[simp] theorem State.modLeaf_temps (s : State) (l : LeafId) (f : LeafState → LeafState) : (s.modLeaf l f).temps = s.temps := rfl
@[simp] theorem State.modLeaf_pastLimit (s : State) (l : LeafId) (f : LeafState → LeafState) : (s.modLeaf l f).pastLimit = s.pastLimit := rfl
@[simp] theorem State.modLeaf_held (s : State) (l : LeafId) (f : LeafState → LeafState) : (s.modLeaf l f).held = s.held := rfl
@[simp] theorem State.modLeaf_ready (s : State) (l : LeafId) (f : LeafState → LeafState) : (s.modLeaf l f).ready = s.ready := rfl
@[simp] theorem State.modLeaf_recovery (s : State) (l : LeafId) (f : LeafState → LeafState) : (s.modLeaf l f).recovery = s.recovery := rfl
@[simp] theorem State.modLeaf_halted (s : State) (l : LeafId) (f : LeafState → LeafState) : (s.modLeaf l f).halted = s.halted := rfl
@[simp] theorem State.modLeaf_faultN (s : State) (l : LeafId) (f : LeafState → LeafState) : (s.modLeaf l f).faultN = s.faultN := rfl
@[simp] theorem State.modLeaf_lastAssert (s : State) (l : LeafId) (f : LeafState → LeafState) : (s.modLeaf l f).lastAssert = s.lastAssert := rfl
@[simp] theorem State.modLeaf_railsOut (s : State) (l : LeafId) (f : LeafState → LeafState) : (s.modLeaf l f).railsOut = s.railsOut := rfl
@[simp] theorem State.modLeaf_rootBad (s : State) (l : LeafId) (f : LeafState → LeafState) : (s.modLeaf l f).rootBad = s.rootBad := rfl
@[simp] theorem State.modLeaf_hot (s : State) (l : LeafId) (f : LeafState → LeafState) : (s.modLeaf l f).hot = s.hot := rfl
@[simp] theorem State.modLeaf_pEst (s : State) (l : LeafId) (f : LeafState → LeafState) : (s.modLeaf l f).pEst = s.pEst := rfl
@[simp] theorem State.modLeaf_thermN (s : State) (l : LeafId) (f : LeafState → LeafState) : (s.modLeaf l f).thermN = s.thermN := rfl
@[simp] theorem State.modLeaf_errlog (s : State) (l : LeafId) (f : LeafState → LeafState) : (s.modLeaf l f).errlog = s.errlog := rfl
@[simp] theorem State.modLeaf_blobstat (s : State) (l : LeafId) (f : LeafState → LeafState) : (s.modLeaf l f).blobstat = s.blobstat := rfl
@[simp] theorem State.modLeaf_validating (s : State) (l : LeafId) (f : LeafState → LeafState) : (s.modLeaf l f).validating = s.validating := rfl
@[simp] theorem State.modLeaf_staging (s : State) (l : LeafId) (f : LeafState → LeafState) : (s.modLeaf l f).staging = s.staging := rfl
@[simp] theorem State.modLeaf_spiFrame (s : State) (l : LeafId) (f : LeafState → LeafState) : (s.modLeaf l f).spiFrame = s.spiFrame := rfl
@[simp] theorem State.modLeaf_spiAt (s : State) (l : LeafId) (f : LeafState → LeafState) : (s.modLeaf l f).spiAt = s.spiAt := rfl
@[simp] theorem State.modLeaf_attest (s : State) (l : LeafId) (f : LeafState → LeafState) : (s.modLeaf l f).attest = s.attest := rfl
@[simp] theorem State.modLeaf_outputs (s : State) (l : LeafId) (f : LeafState → LeafState) : (s.modLeaf l f).outputs = s.outputs := rfl
@[simp] theorem State.modLeaf_cur (s : State) (l : LeafId) (f : LeafState → LeafState) : (s.modLeaf l f).cur = s.cur := rfl
@[simp] theorem State.modLeaf_agenda (s : State) (l : LeafId) (f : LeafState → LeafState) : (s.modLeaf l f).agenda = s.agenda := rfl
@[simp] theorem State.modLeaf_free (s : State) (l : LeafId) (f : LeafState → LeafState) : (s.modLeaf l f).free = s.free := rfl

@[simp] theorem State.modSlice_cores (s : State) (m : SliceId) (f : Slice → Slice) : (s.modSlice m f).cores = s.cores := rfl
@[simp] theorem State.modSlice_vnpus (s : State) (m : SliceId) (f : Slice → Slice) : (s.modSlice m f).vnpus = s.vnpus := rfl
@[simp] theorem State.modSlice_leaves (s : State) (m : SliceId) (f : Slice → Slice) : (s.modSlice m f).leaves = s.leaves := rfl
@[simp] theorem State.modSlice_topUsed (s : State) (m : SliceId) (f : Slice → Slice) : (s.modSlice m f).topUsed = s.topUsed := rfl
@[simp] theorem State.modSlice_topReached (s : State) (m : SliceId) (f : Slice → Slice) : (s.modSlice m f).topReached = s.topReached := rfl
@[simp] theorem State.modSlice_clusters (s : State) (m : SliceId) (f : Slice → Slice) : (s.modSlice m f).clusters = s.clusters := rfl
@[simp] theorem State.modSlice_dram (s : State) (m : SliceId) (f : Slice → Slice) : (s.modSlice m f).dram = s.dram := rfl
@[simp] theorem State.modSlice_host (s : State) (m : SliceId) (f : Slice → Slice) : (s.modSlice m f).host = s.host := rfl
@[simp] theorem State.modSlice_owner (s : State) (m : SliceId) (f : Slice → Slice) : (s.modSlice m f).owner = s.owner := rfl
@[simp] theorem State.modSlice_zeroed (s : State) (m : SliceId) (f : Slice → Slice) : (s.modSlice m f).zeroed = s.zeroed := rfl
@[simp] theorem State.modSlice_poison (s : State) (m : SliceId) (f : Slice → Slice) : (s.modSlice m f).poison = s.poison := rfl
@[simp] theorem State.modSlice_lineTags (s : State) (m : SliceId) (f : Slice → Slice) : (s.modSlice m f).lineTags = s.lineTags := rfl
@[simp] theorem State.modSlice_badLines (s : State) (m : SliceId) (f : Slice → Slice) : (s.modSlice m f).badLines = s.badLines := rfl
@[simp] theorem State.modSlice_ranges (s : State) (m : SliceId) (f : Slice → Slice) : (s.modSlice m f).ranges = s.ranges := rfl
@[simp] theorem State.modSlice_corrected (s : State) (m : SliceId) (f : Slice → Slice) : (s.modSlice m f).corrected = s.corrected := rfl
@[simp] theorem State.modSlice_shown (s : State) (m : SliceId) (f : Slice → Slice) : (s.modSlice m f).shown = s.shown := rfl
@[simp] theorem State.modSlice_scrubPass (s : State) (m : SliceId) (f : Slice → Slice) : (s.modSlice m f).scrubPass = s.scrubPass := rfl
@[simp] theorem State.modSlice_strips (s : State) (m : SliceId) (f : Slice → Slice) : (s.modSlice m f).strips = s.strips := rfl
@[simp] theorem State.modSlice_net (s : State) (m : SliceId) (f : Slice → Slice) : (s.modSlice m f).net = s.net := rfl
@[simp] theorem State.modSlice_msgs (s : State) (m : SliceId) (f : Slice → Slice) : (s.modSlice m f).msgs = s.msgs := rfl
@[simp] theorem State.modSlice_arrivals (s : State) (m : SliceId) (f : Slice → Slice) : (s.modSlice m f).arrivals = s.arrivals := rfl
@[simp] theorem State.modSlice_rootPhases (s : State) (m : SliceId) (f : Slice → Slice) : (s.modSlice m f).rootPhases = s.rootPhases := rfl
@[simp] theorem State.modSlice_relStamp (s : State) (m : SliceId) (f : Slice → Slice) : (s.modSlice m f).relStamp = s.relStamp := rfl
@[simp] theorem State.modSlice_lastStamp (s : State) (m : SliceId) (f : Slice → Slice) : (s.modSlice m f).lastStamp = s.lastStamp := rfl
@[simp] theorem State.modSlice_hostReqs (s : State) (m : SliceId) (f : Slice → Slice) : (s.modSlice m f).hostReqs = s.hostReqs := rfl
@[simp] theorem State.modSlice_pageReqs (s : State) (m : SliceId) (f : Slice → Slice) : (s.modSlice m f).pageReqs = s.pageReqs := rfl
@[simp] theorem State.modSlice_contracts (s : State) (m : SliceId) (f : Slice → Slice) : (s.modSlice m f).contracts = s.contracts := rfl
@[simp] theorem State.modSlice_pending (s : State) (m : SliceId) (f : Slice → Slice) : (s.modSlice m f).pending = s.pending := rfl
@[simp] theorem State.modSlice_routines (s : State) (m : SliceId) (f : Slice → Slice) : (s.modSlice m f).routines = s.routines := rfl
@[simp] theorem State.modSlice_tensors (s : State) (m : SliceId) (f : Slice → Slice) : (s.modSlice m f).tensors = s.tensors := rfl
@[simp] theorem State.modSlice_highWater (s : State) (m : SliceId) (f : Slice → Slice) : (s.modSlice m f).highWater = s.highWater := rfl
@[simp] theorem State.modSlice_migrating (s : State) (m : SliceId) (f : Slice → Slice) : (s.modSlice m f).migrating = s.migrating := rfl
@[simp] theorem State.modSlice_regs (s : State) (m : SliceId) (f : Slice → Slice) : (s.modSlice m f).regs = s.regs := rfl
@[simp] theorem State.modSlice_prodAt (s : State) (m : SliceId) (f : Slice → Slice) : (s.modSlice m f).prodAt = s.prodAt := rfl
@[simp] theorem State.modSlice_prodDue (s : State) (m : SliceId) (f : Slice → Slice) : (s.modSlice m f).prodDue = s.prodDue := rfl
@[simp] theorem State.modSlice_nestUid (s : State) (m : SliceId) (f : Slice → Slice) : (s.modSlice m f).nestUid = s.nestUid := rfl
@[simp] theorem State.modSlice_domains (s : State) (m : SliceId) (f : Slice → Slice) : (s.modSlice m f).domains = s.domains := rfl
@[simp] theorem State.modSlice_parkOrder (s : State) (m : SliceId) (f : Slice → Slice) : (s.modSlice m f).parkOrder = s.parkOrder := rfl
@[simp] theorem State.modSlice_wft (s : State) (m : SliceId) (f : Slice → Slice) : (s.modSlice m f).wft = s.wft := rfl
@[simp] theorem State.modSlice_wftQueue (s : State) (m : SliceId) (f : Slice → Slice) : (s.modSlice m f).wftQueue = s.wftQueue := rfl
@[simp] theorem State.modSlice_barriers (s : State) (m : SliceId) (f : Slice → Slice) : (s.modSlice m f).barriers = s.barriers := rfl
@[simp] theorem State.modSlice_barrierIds (s : State) (m : SliceId) (f : Slice → Slice) : (s.modSlice m f).barrierIds = s.barrierIds := rfl
@[simp] theorem State.modSlice_xphases (s : State) (m : SliceId) (f : Slice → Slice) : (s.modSlice m f).xphases = s.xphases := rfl
@[simp] theorem State.modSlice_cycle (s : State) (m : SliceId) (f : Slice → Slice) : (s.modSlice m f).cycle = s.cycle := rfl
@[simp] theorem State.modSlice_gtc (s : State) (m : SliceId) (f : Slice → Slice) : (s.modSlice m f).gtc = s.gtc := rfl
@[simp] theorem State.modSlice_frac (s : State) (m : SliceId) (f : Slice → Slice) : (s.modSlice m f).frac = s.frac := rfl
@[simp] theorem State.modSlice_slew (s : State) (m : SliceId) (f : Slice → Slice) : (s.modSlice m f).slew = s.slew := rfl
@[simp] theorem State.modSlice_tscap (s : State) (m : SliceId) (f : Slice → Slice) : (s.modSlice m f).tscap = s.tscap := rfl
@[simp] theorem State.modSlice_tsLast (s : State) (m : SliceId) (f : Slice → Slice) : (s.modSlice m f).tsLast = s.tsLast := rfl
@[simp] theorem State.modSlice_tsLost (s : State) (m : SliceId) (f : Slice → Slice) : (s.modSlice m f).tsLost = s.tsLost := rfl
@[simp] theorem State.modSlice_frameStartAt (s : State) (m : SliceId) (f : Slice → Slice) : (s.modSlice m f).frameStartAt = s.frameStartAt := rfl
@[simp] theorem State.modSlice_ePermits (s : State) (m : SliceId) (f : Slice → Slice) : (s.modSlice m f).ePermits = s.ePermits := rfl
@[simp] theorem State.modSlice_qRem (s : State) (m : SliceId) (f : Slice → Slice) : (s.modSlice m f).qRem = s.qRem := rfl
@[simp] theorem State.modSlice_settled (s : State) (m : SliceId) (f : Slice → Slice) : (s.modSlice m f).settled = s.settled := rfl
@[simp] theorem State.modSlice_accountsFresh (s : State) (m : SliceId) (f : Slice → Slice) : (s.modSlice m f).accountsFresh = s.accountsFresh := rfl
@[simp] theorem State.modSlice_temps (s : State) (m : SliceId) (f : Slice → Slice) : (s.modSlice m f).temps = s.temps := rfl
@[simp] theorem State.modSlice_pastLimit (s : State) (m : SliceId) (f : Slice → Slice) : (s.modSlice m f).pastLimit = s.pastLimit := rfl
@[simp] theorem State.modSlice_held (s : State) (m : SliceId) (f : Slice → Slice) : (s.modSlice m f).held = s.held := rfl
@[simp] theorem State.modSlice_ready (s : State) (m : SliceId) (f : Slice → Slice) : (s.modSlice m f).ready = s.ready := rfl
@[simp] theorem State.modSlice_recovery (s : State) (m : SliceId) (f : Slice → Slice) : (s.modSlice m f).recovery = s.recovery := rfl
@[simp] theorem State.modSlice_halted (s : State) (m : SliceId) (f : Slice → Slice) : (s.modSlice m f).halted = s.halted := rfl
@[simp] theorem State.modSlice_faultN (s : State) (m : SliceId) (f : Slice → Slice) : (s.modSlice m f).faultN = s.faultN := rfl
@[simp] theorem State.modSlice_lastAssert (s : State) (m : SliceId) (f : Slice → Slice) : (s.modSlice m f).lastAssert = s.lastAssert := rfl
@[simp] theorem State.modSlice_railsOut (s : State) (m : SliceId) (f : Slice → Slice) : (s.modSlice m f).railsOut = s.railsOut := rfl
@[simp] theorem State.modSlice_rootBad (s : State) (m : SliceId) (f : Slice → Slice) : (s.modSlice m f).rootBad = s.rootBad := rfl
@[simp] theorem State.modSlice_hot (s : State) (m : SliceId) (f : Slice → Slice) : (s.modSlice m f).hot = s.hot := rfl
@[simp] theorem State.modSlice_pEst (s : State) (m : SliceId) (f : Slice → Slice) : (s.modSlice m f).pEst = s.pEst := rfl
@[simp] theorem State.modSlice_thermN (s : State) (m : SliceId) (f : Slice → Slice) : (s.modSlice m f).thermN = s.thermN := rfl
@[simp] theorem State.modSlice_errlog (s : State) (m : SliceId) (f : Slice → Slice) : (s.modSlice m f).errlog = s.errlog := rfl
@[simp] theorem State.modSlice_blobstat (s : State) (m : SliceId) (f : Slice → Slice) : (s.modSlice m f).blobstat = s.blobstat := rfl
@[simp] theorem State.modSlice_validating (s : State) (m : SliceId) (f : Slice → Slice) : (s.modSlice m f).validating = s.validating := rfl
@[simp] theorem State.modSlice_staging (s : State) (m : SliceId) (f : Slice → Slice) : (s.modSlice m f).staging = s.staging := rfl
@[simp] theorem State.modSlice_spiFrame (s : State) (m : SliceId) (f : Slice → Slice) : (s.modSlice m f).spiFrame = s.spiFrame := rfl
@[simp] theorem State.modSlice_spiAt (s : State) (m : SliceId) (f : Slice → Slice) : (s.modSlice m f).spiAt = s.spiAt := rfl
@[simp] theorem State.modSlice_attest (s : State) (m : SliceId) (f : Slice → Slice) : (s.modSlice m f).attest = s.attest := rfl
@[simp] theorem State.modSlice_outputs (s : State) (m : SliceId) (f : Slice → Slice) : (s.modSlice m f).outputs = s.outputs := rfl
@[simp] theorem State.modSlice_cur (s : State) (m : SliceId) (f : Slice → Slice) : (s.modSlice m f).cur = s.cur := rfl
@[simp] theorem State.modSlice_agenda (s : State) (m : SliceId) (f : Slice → Slice) : (s.modSlice m f).agenda = s.agenda := rfl
@[simp] theorem State.modSlice_free (s : State) (m : SliceId) (f : Slice → Slice) : (s.modSlice m f).free = s.free := rfl

@[simp] theorem State.modCluster_cores (s : State) (k : ClusterId) (f : Cluster → Cluster) : (s.modCluster k f).cores = s.cores := rfl
@[simp] theorem State.modCluster_slices (s : State) (k : ClusterId) (f : Cluster → Cluster) : (s.modCluster k f).slices = s.slices := rfl
@[simp] theorem State.modCluster_vnpus (s : State) (k : ClusterId) (f : Cluster → Cluster) : (s.modCluster k f).vnpus = s.vnpus := rfl
@[simp] theorem State.modCluster_leaves (s : State) (k : ClusterId) (f : Cluster → Cluster) : (s.modCluster k f).leaves = s.leaves := rfl
@[simp] theorem State.modCluster_topUsed (s : State) (k : ClusterId) (f : Cluster → Cluster) : (s.modCluster k f).topUsed = s.topUsed := rfl
@[simp] theorem State.modCluster_topReached (s : State) (k : ClusterId) (f : Cluster → Cluster) : (s.modCluster k f).topReached = s.topReached := rfl
@[simp] theorem State.modCluster_dram (s : State) (k : ClusterId) (f : Cluster → Cluster) : (s.modCluster k f).dram = s.dram := rfl
@[simp] theorem State.modCluster_host (s : State) (k : ClusterId) (f : Cluster → Cluster) : (s.modCluster k f).host = s.host := rfl
@[simp] theorem State.modCluster_owner (s : State) (k : ClusterId) (f : Cluster → Cluster) : (s.modCluster k f).owner = s.owner := rfl
@[simp] theorem State.modCluster_zeroed (s : State) (k : ClusterId) (f : Cluster → Cluster) : (s.modCluster k f).zeroed = s.zeroed := rfl
@[simp] theorem State.modCluster_poison (s : State) (k : ClusterId) (f : Cluster → Cluster) : (s.modCluster k f).poison = s.poison := rfl
@[simp] theorem State.modCluster_lineTags (s : State) (k : ClusterId) (f : Cluster → Cluster) : (s.modCluster k f).lineTags = s.lineTags := rfl
@[simp] theorem State.modCluster_badLines (s : State) (k : ClusterId) (f : Cluster → Cluster) : (s.modCluster k f).badLines = s.badLines := rfl
@[simp] theorem State.modCluster_ranges (s : State) (k : ClusterId) (f : Cluster → Cluster) : (s.modCluster k f).ranges = s.ranges := rfl
@[simp] theorem State.modCluster_corrected (s : State) (k : ClusterId) (f : Cluster → Cluster) : (s.modCluster k f).corrected = s.corrected := rfl
@[simp] theorem State.modCluster_shown (s : State) (k : ClusterId) (f : Cluster → Cluster) : (s.modCluster k f).shown = s.shown := rfl
@[simp] theorem State.modCluster_scrubPass (s : State) (k : ClusterId) (f : Cluster → Cluster) : (s.modCluster k f).scrubPass = s.scrubPass := rfl
@[simp] theorem State.modCluster_strips (s : State) (k : ClusterId) (f : Cluster → Cluster) : (s.modCluster k f).strips = s.strips := rfl
@[simp] theorem State.modCluster_net (s : State) (k : ClusterId) (f : Cluster → Cluster) : (s.modCluster k f).net = s.net := rfl
@[simp] theorem State.modCluster_msgs (s : State) (k : ClusterId) (f : Cluster → Cluster) : (s.modCluster k f).msgs = s.msgs := rfl
@[simp] theorem State.modCluster_arrivals (s : State) (k : ClusterId) (f : Cluster → Cluster) : (s.modCluster k f).arrivals = s.arrivals := rfl
@[simp] theorem State.modCluster_rootPhases (s : State) (k : ClusterId) (f : Cluster → Cluster) : (s.modCluster k f).rootPhases = s.rootPhases := rfl
@[simp] theorem State.modCluster_relStamp (s : State) (k : ClusterId) (f : Cluster → Cluster) : (s.modCluster k f).relStamp = s.relStamp := rfl
@[simp] theorem State.modCluster_lastStamp (s : State) (k : ClusterId) (f : Cluster → Cluster) : (s.modCluster k f).lastStamp = s.lastStamp := rfl
@[simp] theorem State.modCluster_hostReqs (s : State) (k : ClusterId) (f : Cluster → Cluster) : (s.modCluster k f).hostReqs = s.hostReqs := rfl
@[simp] theorem State.modCluster_pageReqs (s : State) (k : ClusterId) (f : Cluster → Cluster) : (s.modCluster k f).pageReqs = s.pageReqs := rfl
@[simp] theorem State.modCluster_contracts (s : State) (k : ClusterId) (f : Cluster → Cluster) : (s.modCluster k f).contracts = s.contracts := rfl
@[simp] theorem State.modCluster_pending (s : State) (k : ClusterId) (f : Cluster → Cluster) : (s.modCluster k f).pending = s.pending := rfl
@[simp] theorem State.modCluster_routines (s : State) (k : ClusterId) (f : Cluster → Cluster) : (s.modCluster k f).routines = s.routines := rfl
@[simp] theorem State.modCluster_tensors (s : State) (k : ClusterId) (f : Cluster → Cluster) : (s.modCluster k f).tensors = s.tensors := rfl
@[simp] theorem State.modCluster_highWater (s : State) (k : ClusterId) (f : Cluster → Cluster) : (s.modCluster k f).highWater = s.highWater := rfl
@[simp] theorem State.modCluster_migrating (s : State) (k : ClusterId) (f : Cluster → Cluster) : (s.modCluster k f).migrating = s.migrating := rfl
@[simp] theorem State.modCluster_regs (s : State) (k : ClusterId) (f : Cluster → Cluster) : (s.modCluster k f).regs = s.regs := rfl
@[simp] theorem State.modCluster_prodAt (s : State) (k : ClusterId) (f : Cluster → Cluster) : (s.modCluster k f).prodAt = s.prodAt := rfl
@[simp] theorem State.modCluster_prodDue (s : State) (k : ClusterId) (f : Cluster → Cluster) : (s.modCluster k f).prodDue = s.prodDue := rfl
@[simp] theorem State.modCluster_nestUid (s : State) (k : ClusterId) (f : Cluster → Cluster) : (s.modCluster k f).nestUid = s.nestUid := rfl
@[simp] theorem State.modCluster_domains (s : State) (k : ClusterId) (f : Cluster → Cluster) : (s.modCluster k f).domains = s.domains := rfl
@[simp] theorem State.modCluster_parkOrder (s : State) (k : ClusterId) (f : Cluster → Cluster) : (s.modCluster k f).parkOrder = s.parkOrder := rfl
@[simp] theorem State.modCluster_wft (s : State) (k : ClusterId) (f : Cluster → Cluster) : (s.modCluster k f).wft = s.wft := rfl
@[simp] theorem State.modCluster_wftQueue (s : State) (k : ClusterId) (f : Cluster → Cluster) : (s.modCluster k f).wftQueue = s.wftQueue := rfl
@[simp] theorem State.modCluster_barriers (s : State) (k : ClusterId) (f : Cluster → Cluster) : (s.modCluster k f).barriers = s.barriers := rfl
@[simp] theorem State.modCluster_barrierIds (s : State) (k : ClusterId) (f : Cluster → Cluster) : (s.modCluster k f).barrierIds = s.barrierIds := rfl
@[simp] theorem State.modCluster_xphases (s : State) (k : ClusterId) (f : Cluster → Cluster) : (s.modCluster k f).xphases = s.xphases := rfl
@[simp] theorem State.modCluster_cycle (s : State) (k : ClusterId) (f : Cluster → Cluster) : (s.modCluster k f).cycle = s.cycle := rfl
@[simp] theorem State.modCluster_gtc (s : State) (k : ClusterId) (f : Cluster → Cluster) : (s.modCluster k f).gtc = s.gtc := rfl
@[simp] theorem State.modCluster_frac (s : State) (k : ClusterId) (f : Cluster → Cluster) : (s.modCluster k f).frac = s.frac := rfl
@[simp] theorem State.modCluster_slew (s : State) (k : ClusterId) (f : Cluster → Cluster) : (s.modCluster k f).slew = s.slew := rfl
@[simp] theorem State.modCluster_tscap (s : State) (k : ClusterId) (f : Cluster → Cluster) : (s.modCluster k f).tscap = s.tscap := rfl
@[simp] theorem State.modCluster_tsLast (s : State) (k : ClusterId) (f : Cluster → Cluster) : (s.modCluster k f).tsLast = s.tsLast := rfl
@[simp] theorem State.modCluster_tsLost (s : State) (k : ClusterId) (f : Cluster → Cluster) : (s.modCluster k f).tsLost = s.tsLost := rfl
@[simp] theorem State.modCluster_frameStartAt (s : State) (k : ClusterId) (f : Cluster → Cluster) : (s.modCluster k f).frameStartAt = s.frameStartAt := rfl
@[simp] theorem State.modCluster_ePermits (s : State) (k : ClusterId) (f : Cluster → Cluster) : (s.modCluster k f).ePermits = s.ePermits := rfl
@[simp] theorem State.modCluster_qRem (s : State) (k : ClusterId) (f : Cluster → Cluster) : (s.modCluster k f).qRem = s.qRem := rfl
@[simp] theorem State.modCluster_settled (s : State) (k : ClusterId) (f : Cluster → Cluster) : (s.modCluster k f).settled = s.settled := rfl
@[simp] theorem State.modCluster_accountsFresh (s : State) (k : ClusterId) (f : Cluster → Cluster) : (s.modCluster k f).accountsFresh = s.accountsFresh := rfl
@[simp] theorem State.modCluster_temps (s : State) (k : ClusterId) (f : Cluster → Cluster) : (s.modCluster k f).temps = s.temps := rfl
@[simp] theorem State.modCluster_pastLimit (s : State) (k : ClusterId) (f : Cluster → Cluster) : (s.modCluster k f).pastLimit = s.pastLimit := rfl
@[simp] theorem State.modCluster_held (s : State) (k : ClusterId) (f : Cluster → Cluster) : (s.modCluster k f).held = s.held := rfl
@[simp] theorem State.modCluster_ready (s : State) (k : ClusterId) (f : Cluster → Cluster) : (s.modCluster k f).ready = s.ready := rfl
@[simp] theorem State.modCluster_recovery (s : State) (k : ClusterId) (f : Cluster → Cluster) : (s.modCluster k f).recovery = s.recovery := rfl
@[simp] theorem State.modCluster_halted (s : State) (k : ClusterId) (f : Cluster → Cluster) : (s.modCluster k f).halted = s.halted := rfl
@[simp] theorem State.modCluster_faultN (s : State) (k : ClusterId) (f : Cluster → Cluster) : (s.modCluster k f).faultN = s.faultN := rfl
@[simp] theorem State.modCluster_lastAssert (s : State) (k : ClusterId) (f : Cluster → Cluster) : (s.modCluster k f).lastAssert = s.lastAssert := rfl
@[simp] theorem State.modCluster_railsOut (s : State) (k : ClusterId) (f : Cluster → Cluster) : (s.modCluster k f).railsOut = s.railsOut := rfl
@[simp] theorem State.modCluster_rootBad (s : State) (k : ClusterId) (f : Cluster → Cluster) : (s.modCluster k f).rootBad = s.rootBad := rfl
@[simp] theorem State.modCluster_hot (s : State) (k : ClusterId) (f : Cluster → Cluster) : (s.modCluster k f).hot = s.hot := rfl
@[simp] theorem State.modCluster_pEst (s : State) (k : ClusterId) (f : Cluster → Cluster) : (s.modCluster k f).pEst = s.pEst := rfl
@[simp] theorem State.modCluster_thermN (s : State) (k : ClusterId) (f : Cluster → Cluster) : (s.modCluster k f).thermN = s.thermN := rfl
@[simp] theorem State.modCluster_errlog (s : State) (k : ClusterId) (f : Cluster → Cluster) : (s.modCluster k f).errlog = s.errlog := rfl
@[simp] theorem State.modCluster_blobstat (s : State) (k : ClusterId) (f : Cluster → Cluster) : (s.modCluster k f).blobstat = s.blobstat := rfl
@[simp] theorem State.modCluster_validating (s : State) (k : ClusterId) (f : Cluster → Cluster) : (s.modCluster k f).validating = s.validating := rfl
@[simp] theorem State.modCluster_staging (s : State) (k : ClusterId) (f : Cluster → Cluster) : (s.modCluster k f).staging = s.staging := rfl
@[simp] theorem State.modCluster_spiFrame (s : State) (k : ClusterId) (f : Cluster → Cluster) : (s.modCluster k f).spiFrame = s.spiFrame := rfl
@[simp] theorem State.modCluster_spiAt (s : State) (k : ClusterId) (f : Cluster → Cluster) : (s.modCluster k f).spiAt = s.spiAt := rfl
@[simp] theorem State.modCluster_attest (s : State) (k : ClusterId) (f : Cluster → Cluster) : (s.modCluster k f).attest = s.attest := rfl
@[simp] theorem State.modCluster_outputs (s : State) (k : ClusterId) (f : Cluster → Cluster) : (s.modCluster k f).outputs = s.outputs := rfl
@[simp] theorem State.modCluster_cur (s : State) (k : ClusterId) (f : Cluster → Cluster) : (s.modCluster k f).cur = s.cur := rfl
@[simp] theorem State.modCluster_agenda (s : State) (k : ClusterId) (f : Cluster → Cluster) : (s.modCluster k f).agenda = s.agenda := rfl
@[simp] theorem State.modCluster_free (s : State) (k : ClusterId) (f : Cluster → Cluster) : (s.modCluster k f).free = s.free := rfl

end Sys2Proof.Machine
end

