-- ==== Sys2Proof/Laws/Control.lean ====
section
/-! SUPPORT. What the operations of every control word do: registers read and written, the passing of a tick, and the completion
of a word (R112, R114, R117-R121, R345). -/

namespace Sys2Proof.Machine

/-! ## Registers -/

theorem Ctx.rd_wr (c : Ctx) (d r : Reg) (v : Word) : (c.wr d v).rd r = if r = d ∧ d ≠ 0 then v else c.rd r := by
  unfold Ctx.wr
  by_cases hd : d = 0
  · rw [if_pos hd, if_neg (fun h => h.2 hd)]
  · rw [if_neg hd]
    unfold Ctx.rd
    by_cases h : r = d
    · subst h
      rw [if_neg hd, if_pos ⟨rfl, hd⟩]; simp
    · have : d.toNat ≠ r.toNat := fun e => h (BitVec.eq_of_toNat_eq e.symm)
      rw [if_neg (c := r = d ∧ d ≠ 0) (fun x => h x.1)]
      by_cases hr : r = 0
      · rw [if_pos hr, if_pos hr]
      · rw [if_neg hr, if_neg hr]; simp [this]

theorem bit_set (k : BitVec 8) (d r : KReg) (v : Bool) :
    ((k &&& ~~~(1#8 <<< d.toNat)) ||| (if v then 1#8 <<< d.toNat else 0)).getLsbD r.toNat
      = if r = d then v else k.getLsbD r.toNat := by
  revert k; cases v <;> revert d r <;> decide +kernel

theorem Ctx.rdk_wrk (c : Ctx) (d r : KReg) (v : Bool) : (c.wrk d v).rdk r = if r = d ∧ d ≠ 0 then v else c.rdk r := by
  unfold Ctx.wrk
  by_cases hd : d = 0
  · rw [if_pos hd, if_neg (fun h => h.2 hd)]
  · rw [if_neg hd]
    unfold Ctx.rdk
    rw [bit_set]
    by_cases h : r = d
    · subst h
      have : (r == 0) = false := by simpa using hd
      rw [if_pos rfl, if_pos ⟨rfl, hd⟩, this, Bool.false_or]
    · rw [if_neg h, if_neg (fun x => h x.1)]

@[simp] theorem Ctx.rdk_wr (c : Ctx) (d : Reg) (r : KReg) (v : Word) : (c.wr d v).rdk r = c.rdk r := by
  unfold Ctx.wr; split <;> rfl
@[simp] theorem Ctx.rd_wrk (c : Ctx) (d : KReg) (r : Reg) (v : Bool) : (c.wrk d v).rd r = c.rd r := by
  unfold Ctx.wrk; split <;> rfl
@[simp] theorem Ctx.frame_wr (c : Ctx) (d : Reg) (v : Word) : (c.wr d v).frame = c.frame := by unfold Ctx.wr; split <;> rfl
@[simp] theorem Ctx.frame_wrk (c : Ctx) (d : KReg) (v : Bool) : (c.wrk d v).frame = c.frame := by unfold Ctx.wrk; split <;> rfl
@[simp] theorem Ctx.frame_land (c : Ctx) (n : Nat) (v : Word) : (c.land n v).frame = c.frame := by unfold Ctx.land; split <;> simp

theorem ofNat_gNum (r : Reg) : (BitVec.ofNat 6 (gNum r) : Reg) = r := by simp [gNum]
theorem ofNat_kNum (r : KReg) : (BitVec.ofNat 3 (kNum r - 64) : KReg) = r := by simp [kNum]
theorem gNum_lt (r : Reg) : gNum r < 64 := r.isLt

theorem Ctx.rd_land (c : Ctx) (n : Nat) (r : Reg) (v : Word) (h : n ≠ gNum r) : (c.land n v).rd r = c.rd r := by
  unfold Ctx.land
  split
  · rename_i hn
    rw [Ctx.rd_wr, if_neg]
    rintro ⟨e, -⟩
    apply h; subst e; simp [gNum, Nat.mod_eq_of_lt hn]
  · simp

theorem Ctx.rdk_land (c : Ctx) (n : Nat) (r : KReg) (v : Word) (hn : n < 72) (h : n ≠ kNum r) : (c.land n v).rdk r = c.rdk r := by
  unfold Ctx.land
  split
  · simp
  · rw [Ctx.rdk_wrk, if_neg]
    rintro ⟨e, -⟩
    apply h; subst e
    have : (n - 64) % 8 = n - 64 := Nat.mod_eq_of_lt (by omega)
    simp [kNum, this]; omega

theorem Ctx.rd_land_self (c : Ctx) (d : Reg) (v : Word) : (c.land (gNum d) v).rd d = if d = 0 then 0 else v := by
  unfold Ctx.land
  rw [if_pos (gNum_lt d), ofNat_gNum, Ctx.rd_wr]
  by_cases h : d = 0
  · rw [if_neg (fun x => x.2 h), if_pos h]; unfold Ctx.rd; rw [if_pos h]
  · rw [if_pos ⟨rfl, h⟩, if_neg h]

theorem Ctx.rdk_land_self (c : Ctx) (d : KReg) (v : Word) : (c.land (kNum d) v).rdk d = (d == 0 || v.getLsbD 0) := by
  unfold Ctx.land
  rw [if_neg (by simp [kNum]), ofNat_kNum, Ctx.rdk_wrk]
  by_cases h : d = 0
  · rw [if_neg (fun x => x.2 h)]; unfold Ctx.rdk; simp [h]
  · have : (d == 0) = false := by simpa using h
    rw [if_pos ⟨rfl, h⟩, this, Bool.false_or]

/-! ## Ticks and landings -/

theorem Ctx.rd_landOne (c : Ctx) (l : Landing) (r : Reg) (h : l.reg ≠ gNum r) : (c.landOne l).rd r = c.rd r := by
  show (c.land l.reg l.val).rd r = _
  exact Ctx.rd_land _ _ _ _ h
theorem Ctx.rdk_landOne (c : Ctx) (l : Landing) (r : KReg) (hl : l.reg < 72) (h : l.reg ≠ kNum r) : (c.landOne l).rdk r = c.rdk r := by
  show (c.land l.reg l.val).rdk r = _
  exact Ctx.rdk_land _ _ _ _ hl h
@[simp] theorem Ctx.frame_landOne (c : Ctx) (l : Landing) : (c.landOne l).frame = c.frame := by
  show (c.land l.reg l.val).frame = _
  simp

theorem foldl_landOne (ls : List Landing) (c : Ctx) :
    (ls.foldl Ctx.landOne c).frame = c.frame
      ∧ (∀ r : Reg, (∀ l ∈ ls, l.reg ≠ gNum r) → (ls.foldl Ctx.landOne c).rd r = c.rd r) := by
  induction ls generalizing c with
  | nil => exact ⟨rfl, fun _ _ => rfl⟩
  | cons l ls ih =>
    refine ⟨by rw [List.foldl_cons, (ih _).1, Ctx.frame_landOne], fun r h => ?_⟩
    rw [List.foldl_cons, (ih _).2 r (fun x hx => h x (List.mem_cons_of_mem _ hx))]
    exact Ctx.rd_landOne _ _ _ (h l (List.mem_cons_self ..))

theorem foldl_landOne_k (ls : List Landing) (c : Ctx) (r : KReg) (h : ∀ l ∈ ls, l.reg ≠ kNum r) (hl : ∀ l ∈ ls, l.reg < 72) :
    (ls.foldl Ctx.landOne c).rdk r = c.rdk r := by
  induction ls generalizing c with
  | nil => rfl
  | cons l ls ih =>
    rw [List.foldl_cons, ih _ (fun x hx => h x (List.mem_cons_of_mem _ hx)) (fun x hx => hl x (List.mem_cons_of_mem _ hx))]
    exact Ctx.rdk_landOne _ _ _ (hl l (List.mem_cons_self ..)) (h l (List.mem_cons_self ..))

theorem Ctx.settle_frame (c : Ctx) : c.settle.frame = c.frame := (foldl_landOne _ _).1
theorem Ctx.settle_rd (c : Ctx) (r : Reg) (h : ∀ l ∈ c.landings, l.reg ≠ gNum r) : c.settle.rd r = c.rd r :=
  (foldl_landOne _ _).2 r fun l hl => h l (List.mem_filter.1 hl).1
theorem Ctx.settle_rdk (c : Ctx) (r : KReg) (h : ∀ l ∈ c.landings, l.reg ≠ kNum r) (hl : ∀ l ∈ c.landings, l.reg < 72) :
    c.settle.rdk r = c.rdk r :=
  foldl_landOne_k _ _ r (fun l hl => h l (List.mem_filter.1 hl).1) (fun l h => hl l (List.mem_filter.1 h).1)

theorem foldl_landOne_landings (ls : List Landing) (c : Ctx) : (ls.foldl Ctx.landOne c).landings = c.landings := by
  induction ls generalizing c with
  | nil => rfl
  | cons l ls ih =>
    rw [List.foldl_cons, ih]
    show (c.land l.reg l.val).landings = _
    unfold Ctx.land Ctx.wr Ctx.wrk
    split <;> split <;> rfl

theorem Ctx.settle_landings (c : Ctx) : c.settle.landings = c.landings.filter fun l => l.rem ≠ 0 :=
  foldl_landOne_landings _ _

theorem Ctx.tickOnce_frame (c : Ctx) : c.tickOnce.frame = c.frame := by rw [Ctx.tickOnce, Ctx.settle_frame]; rfl
theorem Ctx.tickOnce_rd (c : Ctx) (r : Reg) (h : ∀ l ∈ c.landings, l.reg ≠ gNum r) : c.tickOnce.rd r = c.rd r := by
  rw [Ctx.tickOnce, Ctx.settle_rd]
  · rfl
  · intro l hl
    obtain ⟨m, hm, rfl⟩ := List.mem_map.1 hl
    exact h m hm
theorem Ctx.tickOnce_rdk (c : Ctx) (r : KReg) (h : ∀ l ∈ c.landings, l.reg ≠ kNum r) (hl : ∀ l ∈ c.landings, l.reg < 72) :
    c.tickOnce.rdk r = c.rdk r := by
  rw [Ctx.tickOnce, Ctx.settle_rdk]
  · rfl
  · intro l hl
    obtain ⟨m, hm, rfl⟩ := List.mem_map.1 hl
    exact h m hm
  · intro l h
    obtain ⟨m, hm, rfl⟩ := List.mem_map.1 h
    exact hl m hm
/-- A landing after a tick was a landing before it, one tick further. -/
theorem Ctx.tickOnce_landings (c : Ctx) (l : Landing) (h : l ∈ c.tickOnce.landings) : ∃ m ∈ c.landings, m.reg = l.reg := by
  rw [Ctx.tickOnce, Ctx.settle_landings] at h
  obtain ⟨m, hm, rfl⟩ := List.mem_map.1 (List.mem_filter.1 h).1
  exact ⟨m, hm, rfl⟩

theorem Ctx.elapse_frame : ∀ (n : Nat) (c : Ctx), (Ctx.elapse n c).frame = c.frame
  | 0, _ => rfl
  | n + 1, c => by
    unfold Ctx.elapse; split
    · rfl
    · rw [Ctx.elapse_frame n, Ctx.tickOnce_frame]
theorem Ctx.elapse_rd : ∀ (n : Nat) (c : Ctx) (r : Reg), (∀ l ∈ c.landings, l.reg ≠ gNum r) → (Ctx.elapse n c).rd r = c.rd r
  | 0, _, _, _ => rfl
  | n + 1, c, r, h => by
    unfold Ctx.elapse; split
    · rfl
    · rw [Ctx.elapse_rd n, Ctx.tickOnce_rd _ _ h]
      intro l hl
      obtain ⟨m, hm, e⟩ := Ctx.tickOnce_landings _ _ hl
      exact e ▸ h m hm
theorem Ctx.elapse_rdk : ∀ (n : Nat) (c : Ctx) (r : KReg), (∀ l ∈ c.landings, l.reg ≠ kNum r) → (∀ l ∈ c.landings, l.reg < 72) →
    (Ctx.elapse n c).rdk r = c.rdk r
  | 0, _, _, _, _ => rfl
  | n + 1, c, r, h, hl => by
    unfold Ctx.elapse; split
    · rfl
    · rw [Ctx.elapse_rdk n, Ctx.tickOnce_rdk _ _ h hl]
      · intro l hl
        obtain ⟨m, hm, e⟩ := Ctx.tickOnce_landings _ _ hl
        exact e ▸ h m hm
      · intro l h
        obtain ⟨m, hm, e⟩ := Ctx.tickOnce_landings _ _ h
        exact e ▸ hl m hm
theorem Ctx.elapse_none (n : Nat) (c : Ctx) (h : c.landings = []) : Ctx.elapse n c = c := by
  cases n <;> simp [Ctx.elapse, h]

/-! ## A result (R117, R120) -/

@[simp] theorem Ctx.result_frame (c : Ctx) (l : Landing) : (c.result l).frame = c.frame := by
  unfold Ctx.result; split
  · split
    · simp
    · simp
  · rfl
/-- A result of a word names another register than `r`: itself, or by MOVHI. -/
def Landing.spares (l : Landing) (r : Reg) : Prop := l.reg ≠ gNum r ∧ (128 ≤ l.reg → l.reg % 64 ≠ gNum r)

theorem Ctx.result_rd (c : Ctx) (l : Landing) (r : Reg) (h : l.spares r) : (c.result l).rd r = c.rd r := by
  unfold Ctx.result; split
  · split
    · rename_i h128
      simp only [Ctx.rd_wr]
      rw [if_neg]
      rintro ⟨e, -⟩
      apply h.2 h128; rw [e]; simp [gNum]
    · exact Ctx.rd_landOne _ _ _ h.1
  · rfl
theorem Ctx.result_rdk (c : Ctx) (l : Landing) (r : KReg) (hl : l.reg < 72 ∨ 128 ≤ l.reg) (h : l.reg ≠ kNum r) :
    (c.result l).rdk r = c.rdk r := by
  unfold Ctx.result; split
  · split
    · simp
    · exact Ctx.rdk_landOne _ _ _ (by omega) h
  · rfl
theorem foldl_result_frame (w : List Landing) (c : Ctx) : (w.foldl Ctx.result c).frame = c.frame := by
  induction w generalizing c with
  | nil => rfl
  | cons l w ih => rw [List.foldl_cons, ih, Ctx.result_frame]
theorem foldl_result_rd (w : List Landing) (c : Ctx) (r : Reg) (h : ∀ l ∈ w, l.spares r) :
    (w.foldl Ctx.result c).rd r = c.rd r := by
  induction w generalizing c with
  | nil => rfl
  | cons l w ih =>
    rw [List.foldl_cons, ih _ (fun x hx => h x (List.mem_cons_of_mem _ hx)), Ctx.result_rd _ _ _ (h l (List.mem_cons_self ..))]
theorem foldl_result_rdk (w : List Landing) (c : Ctx) (r : KReg) (hl : ∀ l ∈ w, l.reg < 72 ∨ 128 ≤ l.reg) (h : ∀ l ∈ w, l.reg ≠ kNum r) :
    (w.foldl Ctx.result c).rdk r = c.rdk r := by
  induction w generalizing c with
  | nil => rfl
  | cons l w ih =>
    rw [List.foldl_cons, ih _ (fun x hx => hl x (List.mem_cons_of_mem _ hx)) (fun x hx => h x (List.mem_cons_of_mem _ hx)),
      Ctx.result_rdk _ _ _ (hl l (List.mem_cons_self ..)) (h l (List.mem_cons_self ..))]

/-! ## The loop action (R345) -/

theorem Ctx.loopNext_loops (c : Ctx) (a : Word) : ∃ l0 l1, (c.loopNext a).1 = { c with loop0 := l0, loop1 := l1 } := by
  unfold Ctx.loopNext
  dsimp only
  by_cases h0 : 1 < c.loop0.count.toNat <;> by_cases h1 : 1 < c.loop1.count.toNat <;> simp only [h0, h1, if_true, if_false] <;>
    split_ifs <;> exact ⟨_, _, rfl⟩

theorem Ctx.loopNext_frame (c : Ctx) (a : Word) : (c.loopNext a).1.frame = c.frame := by
  obtain ⟨l0, l1, h⟩ := c.loopNext_loops a; rw [h]; rfl
theorem Ctx.loopNext_rd (c : Ctx) (a : Word) (r : Reg) : (c.loopNext a).1.rd r = c.rd r := by
  obtain ⟨l0, l1, h⟩ := c.loopNext_loops a; rw [h]; rfl
theorem Ctx.loopNext_rdk (c : Ctx) (a : Word) (r : KReg) : (c.loopNext a).1.rdk r = c.rdk r := by
  obtain ⟨l0, l1, h⟩ := c.loopNext_loops a; rw [h]; rfl
theorem Ctx.loopNext_keep (c : Ctx) (a : Word) :
    (c.loopNext a).1.fsr = c.fsr ∧ (c.loopNext a).1.landings = c.landings ∧ (c.loopNext a).1.stps = c.stps
      ∧ (c.loopNext a).1.tick = c.tick := by
  obtain ⟨l0, l1, h⟩ := c.loopNext_loops a; rw [h]; exact ⟨rfl, rfl, rfl, rfl⟩

/-! ## A word completes (R117, R345) -/

/-- The context of a completing word before the PC moves. -/
def Ctx.before (c : Ctx) (w : List Landing) (n : Nat) : Ctx :=
  w.foldl Ctx.result { (Ctx.elapse (min n 10) c) with
    tickFlags := (c.landings.filter fun l => l.rem = n).foldl (fun f l => f ||| l.flags) 0, tick := c.tick + BitVec.ofNat 64 n
    last := c.pc, pause := n - 1, stage := .fresh, issued := none, released := false }

theorem Ctx.complete_taken (c : Ctx) (w : List Landing) (t : Word) (n : Nat) :
    c.complete w (some t) n = { c.before w n with pc := t } := rfl
theorem Ctx.complete_through (c : Ctx) (w : List Landing) (n : Nat) :
    c.complete w none n = { ((c.before w n).loopNext c.pc).1 with pc := ((c.before w n).loopNext c.pc).2 } := rfl

theorem Ctx.before_frame (c : Ctx) (w : List Landing) (n : Nat) : (c.before w n).frame = c.frame := by
  rw [Ctx.before, foldl_result_frame]
  exact Ctx.elapse_frame _ _
theorem Ctx.before_rd (c : Ctx) (w : List Landing) (n : Nat) (r : Reg) (h : ∀ l ∈ c.landings, l.reg ≠ gNum r)
    (hw : ∀ l ∈ w, l.spares r) : (c.before w n).rd r = c.rd r := by
  rw [Ctx.before, foldl_result_rd _ _ _ hw]
  exact Ctx.elapse_rd _ _ _ h
theorem Ctx.before_rdk (c : Ctx) (w : List Landing) (n : Nat) (r : KReg) (h : ∀ l ∈ c.landings, l.reg ≠ kNum r)
    (hl : ∀ l ∈ c.landings, l.reg < 72) (hw : ∀ l ∈ w, l.reg ≠ kNum r) (hwl : ∀ l ∈ w, l.reg < 72 ∨ 128 ≤ l.reg) :
    (c.before w n).rdk r = c.rdk r := by
  rw [Ctx.before, foldl_result_rdk _ _ _ hwl hw]
  exact Ctx.elapse_rdk _ _ _ h hl

theorem Ctx.complete_frame (c : Ctx) (w : List Landing) (pc : Option Word) (n : Nat) : (c.complete w pc n).frame = c.frame := by
  cases pc with
  | some t => rw [Ctx.complete_taken]; exact Ctx.before_frame c w n
  | none => rw [Ctx.complete_through]; exact (Ctx.loopNext_frame _ _).trans (Ctx.before_frame c w n)
theorem Ctx.complete_rd (c : Ctx) (w : List Landing) (pc : Option Word) (n : Nat) (r : Reg) :
    (c.complete w pc n).rd r = (c.before w n).rd r := by
  cases pc with
  | some t => rfl
  | none => rw [Ctx.complete_through]; exact Ctx.loopNext_rd _ _ _
theorem Ctx.complete_rdk (c : Ctx) (w : List Landing) (pc : Option Word) (n : Nat) (r : KReg) :
    (c.complete w pc n).rdk r = (c.before w n).rdk r := by
  cases pc with
  | some t => rfl
  | none => rw [Ctx.complete_through]; exact Ctx.loopNext_rdk _ _ _
theorem Ctx.complete_landings (c : Ctx) (w : List Landing) (pc : Option Word) (n : Nat) :
    (c.complete w pc n).landings = (c.before w n).landings := by
  cases pc with
  | some t => rfl
  | none => rw [Ctx.complete_through]; exact (Ctx.loopNext_keep _ _).2.1
theorem Ctx.complete_fsr (c : Ctx) (w : List Landing) (pc : Option Word) (n : Nat) :
    (c.complete w pc n).fsr = (c.before w n).fsr := by
  cases pc with
  | some t => rfl
  | none => rw [Ctx.complete_through]; exact (Ctx.loopNext_keep _ _).1

/-! ## Stores to the Pantry still to be seen (R118) -/

theorem Ctx.ageStps_frame (c : Ctx) (n : Nat) : (c.ageStps n).frame = c.frame := rfl
theorem Core.frame_setCtx (k : Core) (sl : Slot) (c : Ctx) (h : c.frame = (k.ctx sl).frame) : (k.setCtx sl c).frame sl = k.frame sl := by
  cases sl <;> simp only [Core.frame, Core.setCtx, Core.ctx] at h ⊢ <;> rw [h]

/-! ## The frame of the module -/

theorem State.frame_modCore (s : State) (c : CoreId) (sl : Slot) (f : Core → Core) (h : (f (s.core c)).frame sl = (s.core c).frame sl) :
    (s.modCore c f).frame ⟨c, sl⟩ = s.frame ⟨c, sl⟩ := by
  unfold State.frame
  simp only [State.modCore, State.core_setCore, State.setCore_setCore, h]
theorem State.frame_modCtx (s : State) (i : CtxId) (f : Ctx → Ctx) (h : (f (s.ctx i)).frame = (s.ctx i).frame) :
    (s.modCtx i f).frame i = s.frame i := by
  obtain ⟨c, sl⟩ := i
  exact State.frame_modCore s c sl _ (Core.frame_setCtx _ _ _ h)
theorem State.frame_table (s : State) (i : CtxId) (w : List WftEntry) (q : List WftReq) :
    { s with wft := w, wftQueue := q }.frame i = s.frame i := rfl

theorem State.unblockCtx_none (s : State) (i : CtxId) (h : (s.ctx i).blocked = none) : s.unblockCtx i = s := by
  unfold State.unblockCtx; dsimp only; rw [h]
theorem State.unblockCtx_some (s : State) (i : CtxId) (o : BitVec 32) (h : (s.ctx i).blocked = some o) :
    ∃ w q, s.unblockCtx i = ({ s with wft := w, wftQueue := q } : State).modCtx i fun c =>
      { c with blocked := none, inWfe := false, inWowait := false } := by
  unfold State.unblockCtx; dsimp only; rw [h]; exact ⟨_, _, rfl⟩

theorem State.unblockCtx_frame (s : State) (i : CtxId) : (s.unblockCtx i).frame i = s.frame i := by
  cases h : (s.ctx i).blocked with
  | none => rw [State.unblockCtx_none _ _ h]
  | some o =>
    obtain ⟨w, q, e⟩ := State.unblockCtx_some s i o h
    rw [e, State.frame_modCtx]
    · exact State.frame_table s i w q
    · rfl
/-- What `unblockCtx` leaves of the context. -/
theorem State.unblockCtx_ctx (s : State) (i : CtxId) : ∃ b w, (s.unblockCtx i).ctx i = { s.ctx i with blocked := none, inWfe := b, inWowait := w } := by
  cases h : (s.ctx i).blocked with
  | none => rw [State.unblockCtx_none _ _ h, ← h]; exact ⟨(s.ctx i).inWfe, (s.ctx i).inWowait, rfl⟩
  | some o =>
    obtain ⟨w, q, e⟩ := State.unblockCtx_some s i o h
    rw [e, State.ctx_modCtx]; exact ⟨false, false, rfl⟩
theorem State.unblockCtx_store (s : State) (i : CtxId) (c : CoreId) : ((s.unblockCtx i).core c).store = (s.core c).store := by
  cases hb : (s.ctx i).blocked with
  | none => rw [State.unblockCtx_none _ _ hb]
  | some o =>
    obtain ⟨w, q, e⟩ := State.unblockCtx_some s i o hb
    rw [e]
    by_cases h : c = i.core
    · subst h; rw [State.modCtx, State.core_setCtx]; simp; rfl
    · rw [State.modCtx, State.core_setCtx_other _ _ _ _ h]; rfl
theorem State.unblockCtx_cur (s : State) (i : CtxId) : (s.unblockCtx i).cur = s.cur := by
  cases hb : (s.ctx i).blocked with
  | none => rw [State.unblockCtx_none _ _ hb]
  | some o => obtain ⟨w, q, e⟩ := State.unblockCtx_some s i o hb; rw [e]; rfl

/-! ## The acting context's word completes -/

theorem State.finish_me (s : State) (w : List Landing) (pc : Option Word) (n : Nat) : (s.finish w pc n).me = s.me := by
  unfold State.finish State.me
  simp only [State.modCtx_cur, State.unblockCtx_cur]

/-- The context of a word that completes: its STPs are older by its ticks, its implicit wait is over, and its results are in. -/
theorem State.finish_ctx (s : State) (w : List Landing) (pc : Option Word) (n : Nat) :
    ∃ b v x, (s.finish w pc n).ctx s.me = ({ s.ctx s.me with blocked := none, inWfe := b, inWowait := v, stps := x } : Ctx).complete w pc n := by
  unfold State.finish
  rw [State.ctx_modCtx]
  obtain ⟨b, v, h1⟩ := State.unblockCtx_ctx s s.me
  exact ⟨b, v, (Ctx.ageStps (s.ctx s.me) n).stps, by rw [h1]; rfl⟩

/-- The context just before its word completes agrees with the context at issue in all that the word reads. -/
def Ctx.agrees (a c : Ctx) : Prop :=
  a.landings = c.landings ∧ (∀ r, a.rd r = c.rd r) ∧ (∀ r, a.rdk r = c.rdk r) ∧ a.fsr = c.fsr ∧ a.tick = c.tick ∧ a.pc = c.pc
    ∧ a.loop0 = c.loop0 ∧ a.loop1 = c.loop1 ∧ a.later1 = c.later1

theorem State.finish_agrees (s : State) (w : List Landing) (pc : Option Word) (n : Nat) :
    ∃ a : Ctx, (s.finish w pc n).ctx s.me = a.complete w pc n ∧ a.agrees (s.ctx s.me) := by
  obtain ⟨b, v, x, h⟩ := State.finish_ctx s w pc n
  exact ⟨_, h, rfl, fun _ => rfl, fun _ => rfl, rfl, rfl, rfl, rfl, rfl, rfl⟩

theorem State.finish_frame (s : State) (w : List Landing) (pc : Option Word) (n : Nat) : (s.finish w pc n).frame s.me = s.frame s.me := by
  unfold State.finish
  rw [State.frame_modCtx _ _ _ ((Ctx.complete_frame _ _ _ _).trans (Ctx.ageStps_frame _ _)), State.unblockCtx_frame]

/-- A word that completes leaves every local store as it was: the bytes of an STP went there when it issued (R118). -/
theorem State.finish_store (s : State) (w : List Landing) (pc : Option Word) (n : Nat) (c : CoreId) :
    ((s.finish w pc n).core c).store = (s.core c).store := by
  unfold State.finish
  by_cases h : c = s.me.core
  · subst h
    rw [State.modCtx, State.core_setCtx, Core.setCtx_store, State.unblockCtx_store]
  · rw [State.modCtx, State.core_setCtx_other _ _ _ _ h, State.unblockCtx_store]

/-- The results of a word go to the registers `dst`: a register by its number, or MOVHI's. -/
def resultsIn (w : List Landing) (dst : List Nat) : Prop :=
  ∀ l ∈ w, (l.reg < 72 ∧ l.reg ∈ dst) ∨ ∃ d : Reg, l.reg = 128 + gNum d ∧ gNum d ∈ dst

theorem spares_of_resultsIn {w : List Landing} {dst : List Nat} (h : resultsIn w dst) (r : Reg) (hr : gNum r ∉ dst) :
    ∀ l ∈ w, l.spares r := by
  intro l hl
  rcases h l hl with ⟨h1, h2⟩ | ⟨d, h1, h2⟩
  · exact ⟨fun e => hr (e ▸ h2), fun e => by omega⟩
  · have := gNum_lt r
    have hd := gNum_lt d
    refine ⟨by omega, fun _ e => hr ?_⟩
    have : gNum d = gNum r := by rw [h1] at e; omega
    exact this ▸ h2

theorem State.frame_dram {s t : State} {i : CtxId} (h : t.frame i = s.frame i) :
    t.dram = s.dram ∧ t.zeroed = s.zeroed ∧ t.host = s.host := by
  have hd := congrArg State.dram h
  have hz := congrArg State.zeroed h
  have hh := congrArg State.host h
  exact ⟨hd, hz, hh⟩

theorem foldl_result_fsr (w : List Landing) (c : Ctx) (h : ∀ l ∈ w, l.rem ≠ 0 ∨ l.flags = 0) : (w.foldl Ctx.result c).fsr = c.fsr := by
  induction w generalizing c with
  | nil => rfl
  | cons l w ih =>
    rw [List.foldl_cons, ih _ (fun x hx => h x (List.mem_cons_of_mem _ hx))]
    unfold Ctx.result
    split
    · rename_i h0
      split
      · dsimp only; unfold Ctx.wr; split <;> rfl
      · have hf : l.flags = 0 := (h l (List.mem_cons_self ..)).resolve_left (fun x => x h0)
        show (c.land l.reg l.val).fsr ||| l.flags.setWidth 64 = c.fsr
        rw [hf]
        unfold Ctx.land Ctx.wr Ctx.wrk
        split <;> split <;> simp
    · rfl

/-- What a word that completes without a stall of its own leaves unchanged: everything but its results (R117, R120). -/
theorem State.finish_regFrame (s : State) (w : List Landing) (pc : Option Word) (n : Nat) (dst : List Nat) (h : resultsIn w dst)
    (hf : ∀ l ∈ w, l.rem ≠ 0 ∨ l.flags = 0) : RegFrame s (s.finish w pc n) dst := by
  have hfr := State.finish_frame s w pc n
  obtain ⟨hd, hz, hh⟩ := State.frame_dram hfr
  obtain ⟨a, hc, ha⟩ := State.finish_agrees s w pc n
  have hl : a.landings = (s.ctx s.me).landings := ha.1
  refine ⟨hfr, ?_, ?_, ?_, ?_, ?_, ?_, ?_⟩
  · intro r hr hn
    rw [hc, Ctx.complete_rd, Ctx.before_rd _ _ _ _ (fun l h => (hn l (hl ▸ h)).2) (spares_of_resultsIn h r hr), ha.2.1]
  · intro r hr hn
    rw [hc, Ctx.complete_rdk, Ctx.before_rdk _ _ _ _ (fun l h => (hn l (hl ▸ h)).2) (fun l h => (hn l (hl ▸ h)).1), ha.2.2.1]
    · intro l hl' e
      rcases h l hl' with ⟨h1, h2⟩ | ⟨d, h1, h2⟩
      · exact hr (e ▸ h2)
      · have := r.isLt; simp only [kNum] at e; omega
    · intro l hl'
      rcases h l hl' with ⟨h1, -⟩ | ⟨d, h1, -⟩
      · exact Or.inl h1
      · right; omega
  · intro hn
    rw [hc, Ctx.complete_fsr, Ctx.before, foldl_result_fsr _ _ hf]
    show (Ctx.elapse (min n 10) a).fsr = _
    rw [Ctx.elapse_none _ _ (hl.trans hn), ha.2.2.2.1]
  · intro c a; rw [State.finish_store]
  · intro a; unfold State.dbyte State.filled; rw [hd, hz]
  · intro a; rw [hh]
  · intro hb
    unfold State.finish
    rw [State.unblockCtx_none _ _ hb]
    exact ⟨rfl, rfl⟩

/-! ## The results of a completing word -/

/-- A result of latency 0 that no later result of the word replaces is in its register. -/
theorem Ctx.before_self (c : Ctx) (d : Reg) (v : Word) (fl : Flg) (n : Nat) : (c.before [⟨gNum d, v, fl, 0⟩] n).rd d = if d = 0 then 0 else v := by
  rw [Ctx.before, List.foldl_cons, List.foldl_nil, Ctx.result]
  rw [if_pos rfl, if_neg (by have := gNum_lt d; simp only; omega)]
  exact Ctx.rd_land_self _ _ _
theorem Ctx.before_self_k (c : Ctx) (d : KReg) (v : Word) (fl : Flg) (n : Nat) :
    (c.before [⟨kNum d, v, fl, 0⟩] n).rdk d = (d == 0 || v.getLsbD 0) := by
  rw [Ctx.before, List.foldl_cons, List.foldl_nil, Ctx.result]
  rw [if_pos rfl, if_neg (by have := d.isLt; simp only [kNum]; omega)]
  exact Ctx.rdk_land_self _ _ _

/-- A word with one result of latency 0 on a g register. -/
theorem State.finish_result (s : State) (d : Reg) (v : Word) (fl : Flg) (pc : Option Word) (n : Nat) :
    ((s.finish [⟨gNum d, v, fl, 0⟩] pc n).ctx s.me).rd d = if d = 0 then 0 else v := by
  obtain ⟨b, b2, x, hc⟩ := State.finish_ctx s [⟨gNum d, v, fl, 0⟩] pc n
  rw [hc, Ctx.complete_rd, Ctx.before_self]
theorem State.finish_result_k (s : State) (d : KReg) (v : Word) (fl : Flg) (pc : Option Word) (n : Nat) :
    ((s.finish [⟨kNum d, v, fl, 0⟩] pc n).ctx s.me).rdk d = (d == 0 || v.getLsbD 0) := by
  obtain ⟨b, b2, x, hc⟩ := State.finish_ctx s [⟨kNum d, v, fl, 0⟩] pc n
  rw [hc, Ctx.complete_rdk, Ctx.before_self_k]

/-- A word with one result of latency `k + 1` leaves it as a landing to come (R117). -/
theorem State.finish_landing (s : State) (l : Landing) (h : l.rem ≠ 0) (pc : Option Word) (n : Nat) :
    l ∈ ((s.finish [l] pc n).ctx s.me).landings := by
  obtain ⟨b, b2, x, hc⟩ := State.finish_ctx s [l] pc n
  rw [hc, Ctx.complete_landings, Ctx.before, List.foldl_cons, List.foldl_nil, Ctx.result, if_neg h]
  simp

theorem foldl_landOne_tick (ls : List Landing) (c : Ctx) : (ls.foldl Ctx.landOne c).tick = c.tick := by
  induction ls generalizing c with
  | nil => rfl
  | cons l ls ih =>
    rw [List.foldl_cons, ih]
    show (c.land l.reg l.val).tick = _
    unfold Ctx.land Ctx.wr Ctx.wrk
    split <;> split <;> rfl
theorem foldl_result_tick (w : List Landing) (c : Ctx) : (w.foldl Ctx.result c).tick = c.tick := by
  induction w generalizing c with
  | nil => rfl
  | cons l w ih =>
    rw [List.foldl_cons, ih]
    unfold Ctx.result
    split
    · split
      · dsimp only; unfold Ctx.wr; split <;> rfl
      · show (c.land l.reg l.val).tick = _
        unfold Ctx.land Ctx.wr Ctx.wrk
        split <;> split <;> rfl
    · rfl
theorem foldl_result_loops (w : List Landing) (c : Ctx) :
    (w.foldl Ctx.result c).loop0 = c.loop0 ∧ (w.foldl Ctx.result c).loop1 = c.loop1 ∧ (w.foldl Ctx.result c).later1 = c.later1 := by
  induction w generalizing c with
  | nil => exact ⟨rfl, rfl, rfl⟩
  | cons l w ih =>
    rw [List.foldl_cons]
    obtain ⟨h0, h1, h2⟩ := ih (c.result l)
    have : (c.result l).loop0 = c.loop0 ∧ (c.result l).loop1 = c.loop1 ∧ (c.result l).later1 = c.later1 := by
      unfold Ctx.result
      split
      · split
        · dsimp only; unfold Ctx.wr; split <;> exact ⟨rfl, rfl, rfl⟩
        · show (c.land l.reg l.val).loop0 = _ ∧ (c.land l.reg l.val).loop1 = _ ∧ (c.land l.reg l.val).later1 = _
          unfold Ctx.land Ctx.wr Ctx.wrk
          split <;> split <;> exact ⟨rfl, rfl, rfl⟩
      · exact ⟨rfl, rfl, rfl⟩
    exact ⟨h0.trans this.1, h1.trans this.2.1, h2.trans this.2.2⟩

/-- The tick of a completing word (R117, R346). -/
theorem State.finish_tick (s : State) (w : List Landing) (pc : Option Word) (n : Nat) :
    ((s.finish w pc n).ctx s.me).tick = (s.ctx s.me).tick + BitVec.ofNat 64 n := by
  obtain ⟨a, hc, ha⟩ := State.finish_agrees s w pc n
  rw [hc, ← ha.2.2.2.2.1]
  have hb : ∀ c : Ctx, (c.before w n).tick = c.tick + BitVec.ofNat 64 n := fun c => by rw [Ctx.before, foldl_result_tick]
  cases pc with
  | some t => rw [Ctx.complete_taken]; exact hb _
  | none => rw [Ctx.complete_through]; exact (Ctx.loopNext_keep _ _).2.2.2.trans (hb _)

/-- The PC after a word with a taken target. -/
theorem State.finish_pc_taken (s : State) (w : List Landing) (t : Word) (n : Nat) : ((s.finish w (some t) n).ctx s.me).pc = t := by
  obtain ⟨b, b2, x, hc⟩ := State.finish_ctx s w (some t) n
  rw [hc, Ctx.complete_taken]

/-! ## An issued word -/

theorem ctl_runs (x : Instr) (p : Pred) (l : Limit) (ops : List Nat) (body : State → Ctx → Ans) (s : State)
    (h : s.runs p ops = true) (hl : l.ok (s.ctx s.me) s.me.slot = true) :
    ctl x p l ops body s = .next ((body s (s.ctx s.me)).state s.me) := by
  simp only [State.runs, Bool.and_eq_true, Option.isNone_iff_eq_none] at h
  simp only [ctl, hl, h.1.1, h.1.2, h.2, Bool.not_true]
  rfl

set_option maxHeartbeats 4000000 in
/-- Every control word is one call of `ctl` with its predicate, its limit and its operands. -/
theorem exec_ctl {i : Instr} {p : Pred} {l : Limit} {ops : List Nat} (h : ctlParts i = some (p, l, ops)) :
    ∃ body, ∀ s, exec i s = ctl i p l ops body s := by
  cases i
  case add => cases h; apply Exists.intro; intro s; unfold exec; delta execAdd intR; exact rfl
  case sub => cases h; apply Exists.intro; intro s; unfold exec; delta execSub intR; exact rfl
  case mul => cases h; apply Exists.intro; intro s; unfold exec; delta execMul intR; exact rfl
  case mulh => cases h; apply Exists.intro; intro s; unfold exec; delta execMulh intR; exact rfl
  case mulhu => cases h; apply Exists.intro; intro s; unfold exec; delta execMulhu intR; exact rfl
  case div => cases h; apply Exists.intro; intro s; unfold exec; delta execDiv intR; exact rfl
  case divu => cases h; apply Exists.intro; intro s; unfold exec; delta execDivu intR; exact rfl
  case rem => cases h; apply Exists.intro; intro s; unfold exec; delta execRem intR; exact rfl
  case remu => cases h; apply Exists.intro; intro s; unfold exec; delta execRemu intR; exact rfl
  case and => cases h; apply Exists.intro; intro s; unfold exec; delta execAnd intR; exact rfl
  case or => cases h; apply Exists.intro; intro s; unfold exec; delta execOr intR; exact rfl
  case xor => cases h; apply Exists.intro; intro s; unfold exec; delta execXor intR; exact rfl
  case andn => cases h; apply Exists.intro; intro s; unfold exec; delta execAndn intR; exact rfl
  case shl => cases h; apply Exists.intro; intro s; unfold exec; delta execShl intR; exact rfl
  case shr => cases h; apply Exists.intro; intro s; unfold exec; delta execShr intR; exact rfl
  case sra => cases h; apply Exists.intro; intro s; unfold exec; delta execSra intR; exact rfl
  case rol => cases h; apply Exists.intro; intro s; unfold exec; delta execRol intR; exact rfl
  case min => cases h; apply Exists.intro; intro s; unfold exec; delta execMin intR; exact rfl
  case max => cases h; apply Exists.intro; intro s; unfold exec; delta execMax intR; exact rfl
  case minu => cases h; apply Exists.intro; intro s; unfold exec; delta execMinu intR; exact rfl
  case maxu => cases h; apply Exists.intro; intro s; unfold exec; delta execMaxu intR; exact rfl
  case clz => cases h; apply Exists.intro; intro s; unfold exec; delta execClz intU; exact rfl
  case ctz => cases h; apply Exists.intro; intro s; unfold exec; delta execCtz intU; exact rfl
  case popc => cases h; apply Exists.intro; intro s; unfold exec; delta execPopc intU; exact rfl
  case brev => cases h; apply Exists.intro; intro s; unfold exec; delta execBrev intU; exact rfl
  case sext => cases h; apply Exists.intro; intro s; unfold exec; delta execSext intR; exact rfl
  case zext => cases h; apply Exists.intro; intro s; unfold exec; delta execZext intR; exact rfl
  case sel => cases h; apply Exists.intro; intro s; unfold exec; delta execSel; exact rfl
  case lea => cases h; apply Exists.intro; intro s; unfold exec; delta execLea; exact rfl
  case addi => cases h; apply Exists.intro; intro s; unfold exec; delta execAddi intI; exact rfl
  case andi => cases h; apply Exists.intro; intro s; unfold exec; delta execAndi intI; exact rfl
  case ori => cases h; apply Exists.intro; intro s; unfold exec; delta execOri intI; exact rfl
  case xori => cases h; apply Exists.intro; intro s; unfold exec; delta execXori intI; exact rfl
  case shli => cases h; apply Exists.intro; intro s; unfold exec; delta execShli intU; exact rfl
  case shri => cases h; apply Exists.intro; intro s; unfold exec; delta execShri intU; exact rfl
  case srai => cases h; apply Exists.intro; intro s; unfold exec; delta execSrai intU; exact rfl
  case movi => cases h; apply Exists.intro; intro s; unfold exec; delta execMovi; exact rfl
  case movhi => cases h; apply Exists.intro; intro s; unfold exec; delta execMovhi; exact rfl
  case muli => cases h; apply Exists.intro; intro s; unfold exec; delta execMuli intI; exact rfl
  case kget => cases h; apply Exists.intro; intro s; unfold exec; delta execKget; exact rfl
  case cmp => cases h; apply Exists.intro; intro s; unfold exec; delta execCmp; exact rfl
  case cmpi => cases h; apply Exists.intro; intro s; unfold exec; delta execCmpi; exact rfl
  case fcmp => cases h; apply Exists.intro; intro s; unfold exec; delta execFcmp; exact rfl
  case kand => cases h; apply Exists.intro; intro s; unfold exec; delta execKand; exact rfl
  case kor => cases h; apply Exists.intro; intro s; unfold exec; delta execKor; exact rfl
  case kxor => cases h; apply Exists.intro; intro s; unfold exec; delta execKxor; exact rfl
  case knot => cases h; apply Exists.intro; intro s; unfold exec; delta execKnot; exact rfl
  case kset => cases h; apply Exists.intro; intro s; unfold exec; delta execKset; exact rfl
  case fadd => cases h; apply Exists.intro; intro s; unfold exec; delta execFadd; exact rfl
  case fsub => cases h; apply Exists.intro; intro s; unfold exec; delta execFsub; exact rfl
  case fmul => cases h; apply Exists.intro; intro s; unfold exec; delta execFmul; exact rfl
  case ffma => cases h; apply Exists.intro; intro s; unfold exec; delta execFfma; exact rfl
  case fmin => cases h; apply Exists.intro; intro s; unfold exec; delta execFmin; exact rfl
  case fmax => cases h; apply Exists.intro; intro s; unfold exec; delta execFmax; exact rfl
  case fabs => cases h; apply Exists.intro; intro s; unfold exec; delta execFabs; exact rfl
  case fneg => cases h; apply Exists.intro; intro s; unfold exec; delta execFneg; exact rfl
  case fcvt => cases h; apply Exists.intro; intro s; unfold exec; delta execFcvt; exact rfl
  case fexp2 => cases h; apply Exists.intro; intro s; unfold exec; delta execFexp2 special; exact rfl
  case flog2 => cases h; apply Exists.intro; intro s; unfold exec; delta execFlog2 special; exact rfl
  case frcp => cases h; apply Exists.intro; intro s; unfold exec; delta execFrcp special; exact rfl
  case frsq => cases h; apply Exists.intro; intro s; unfold exec; delta execFrsq special; exact rfl
  case fsqrt => cases h; apply Exists.intro; intro s; unfold exec; delta execFsqrt special; exact rfl
  case ld => cases h; apply Exists.intro; intro s; unfold exec; delta execLd; exact rfl
  case st => cases h; apply Exists.intro; intro s; unfold exec; delta execSt; exact rfl
  case ldp => cases h; apply Exists.intro; intro s; unfold exec; delta execLdp; exact rfl
  case stp => cases h; apply Exists.intro; intro s; unfold exec; delta execStp; exact rfl
  case ldAcq => cases h; apply Exists.intro; intro s; unfold exec; delta execLdAcq; exact rfl
  case stRel => cases h; apply Exists.intro; intro s; unfold exec; delta execStRel; exact rfl
  case pf => cases h; apply Exists.intro; intro s; unfold exec; delta execPf; exact rfl
  case fence => cases h; apply Exists.intro; intro s; unfold exec; delta execFence; exact rfl
  case slx => cases h; apply Exists.intro; intro s; unfold exec; delta execSlx; exact rfl
  case slxn => cases h; apply Exists.intro; intro s; unfold exec; delta execSlxn; exact rfl
  case rtinst => cases h; apply Exists.intro; intro s; unfold exec; delta execRtinst; exact rfl
  case rtmap => cases h; apply Exists.intro; intro s; unfold exec; delta execRtmap; exact rfl
  case eqpop => cases h; apply Exists.intro; intro s; unfold exec; delta execEqpop; exact rfl
  case wfe => cases h; apply Exists.intro; intro s; unfold exec; delta execWfe; exact rfl
  case br => cases h; apply Exists.intro; intro s; unfold exec; delta execBr; exact rfl
  case bcq => cases h; apply Exists.intro; intro s; unfold exec; delta execBcq; exact rfl
  case jr => cases h; apply Exists.intro; intro s; unfold exec; delta execJr; exact rfl
  case call => cases h; apply Exists.intro; intro s; unfold exec; delta execCall; exact rfl
  case callr => cases h; apply Exists.intro; intro s; unfold exec; delta execCallr; exact rfl
  case ret => cases h; apply Exists.intro; intro s; unfold exec; delta execRet; exact rfl
  case loop => cases h; apply Exists.intro; intro s; unfold exec; delta execLoop; exact rfl
  case nop => cases h; apply Exists.intro; intro s; unfold exec; delta execNop; exact rfl
  case trap => cases h; apply Exists.intro; intro s; unfold exec; delta execTrap; exact rfl
  case yield => cases h; apply Exists.intro; intro s; unfold exec; delta execYield; exact rfl
  case endUnit => cases h; apply Exists.intro; intro s; unfold exec; delta execEndUnit; exact rfl
  case rbld => cases h; apply Exists.intro; intro s; unfold exec; delta execRbld; exact rfl
  case rbst => cases h; apply Exists.intro; intro s; unfold exec; delta execRbst; exact rfl
  case rbset => cases h; apply Exists.intro; intro s; unfold exec; delta execRbset; exact rfl
  case rbget => cases h; apply Exists.intro; intro s; unfold exec; delta execRbget; exact rfl
  case enq => cases h; apply Exists.intro; intro s; unfold exec; delta execEnq; exact rfl
  case tkpost => cases h; apply Exists.intro; intro s; unfold exec; delta execTkpost; exact rfl
  case tkwait => cases h; apply Exists.intro; intro s; unfold exec; delta execTkwait; exact rfl
  case tkpoll => cases h; apply Exists.intro; intro s; unfold exec; delta execTkpoll; exact rfl
  case seminc => cases h; apply Exists.intro; intro s; unfold exec; delta execSeminc; exact rfl
  case semwait => cases h; apply Exists.intro; intro s; unfold exec; delta execSemwait; exact rfl
  case semmap => cases h; apply Exists.intro; intro s; unfold exec; delta execSemmap; exact rfl
  case qdrain => cases h; apply Exists.intro; intro s; unfold exec; delta execQdrain; exact rfl
  case accver => cases h; apply Exists.intro; intro s; unfold exec; delta execAccver; exact rfl
  case woreg => cases h; apply Exists.intro; intro s; unfold exec; delta execWoreg; exact rfl
  case wodereg => cases h; apply Exists.intro; intro s; unfold exec; delta execWodereg; exact rfl
  case wohold => cases h; apply Exists.intro; intro s; unfold exec; delta execWohold; exact rfl
  case worel => cases h; apply Exists.intro; intro s; unfold exec; delta execWorel; exact rfl
  case wowait => cases h; apply Exists.intro; intro s; unfold exec; delta execWowait; exact rfl
  case wopoll => cases h; apply Exists.intro; intro s; unfold exec; delta execWopoll; exact rfl
  case bar => cases h; apply Exists.intro; intro s; unfold exec; delta execBar; exact rfl
  case barxf => cases h; apply Exists.intro; intro s; unfold exec; delta execBarxf; exact rfl
  case lease => cases h; apply Exists.intro; intro s; unfold exec; delta execLease; exact rfl
  case leaserel => cases h; apply Exists.intro; intro s; unfold exec; delta execLeaserel; exact rfl
  case lend => cases h; apply Exists.intro; intro s; unfold exec; delta execLend; exact rfl
  case rsmark => cases h; apply Exists.intro; intro s; unfold exec; delta execRsmark; exact rfl
  case gtcrd => cases h; apply Exists.intro; intro s; unfold exec; delta execGtcrd; exact rfl
  case rng => cases h; apply Exists.intro; intro s; unfold exec; delta execRng; exact rfl
  case mfs => cases h; apply Exists.intro; intro s; unfold exec; delta execMfs; exact rfl
  case mts => cases h; apply Exists.intro; intro s; unfold exec; delta execMts; exact rfl
  case evecWrite => cases h; apply Exists.intro; intro s; unfold exec; delta execEvecWrite; exact rfl
  case ctxsaveWrite => cases h; apply Exists.intro; intro s; unfold exec; delta execCtxsaveWrite; exact rfl
  case eret => cases h; apply Exists.intro; intro s; unfold exec; delta execEret; exact rfl
  case opbnd => cases h; apply Exists.intro; intro s; unfold exec; delta execOpbnd; exact rfl
  case defer => cases h; apply Exists.intro; intro s; unfold exec; delta execDefer; exact rfl
  case undefer => cases h; apply Exists.intro; intro s; unfold exec; delta execUndefer; exact rfl
  case clrsig => cases h; apply Exists.intro; intro s; unfold exec; delta execClrsig; exact rfl
  case ctxsv => cases h; apply Exists.intro; intro s; unfold exec; delta execCtxsv; exact rfl
  case ctxld => cases h; apply Exists.intro; intro s; unfold exec; delta execCtxld; exact rfl
  case parkst => cases h; apply Exists.intro; intro s; unfold exec; delta execParkst; exact rfl
  case pend => cases h; apply Exists.intro; intro s; unfold exec; delta execPend; exact rfl
  case tinst => cases h; apply Exists.intro; intro s; unfold exec; delta execTinst service; exact rfl
  case tvbump => cases h; apply Exists.intro; intro s; unfold exec; delta execTvbump service; exact rfl
  case tremove => cases h; apply Exists.intro; intro s; unfold exec; delta execTremove service; exact rfl
  case tquery => cases h; apply Exists.intro; intro s; unfold exec; delta execTquery service; exact rfl
  case s1root => cases h; apply Exists.intro; intro s; unfold exec; delta execS1root service; exact rfl
  case tlbinv => cases h; apply Exists.intro; intro s; unfold exec; delta execTlbinv service; exact rfl
  case regquery => cases h; apply Exists.intro; intro s; unfold exec; delta execRegquery service; exact rfl
  case partquery => cases h; apply Exists.intro; intro s; unfold exec; delta execPartquery service; exact rfl
  case greset => cases h; apply Exists.intro; intro s; unfold exec; delta execGreset; exact rfl
  case scrubreq => cases h; apply Exists.intro; intro s; unfold exec; delta execScrubreq service; exact rfl
  case recquery => cases h; apply Exists.intro; intro s; unfold exec; delta execRecquery service; exact rfl
  case hvc => cases h; apply Exists.intro; intro s; unfold exec; delta execHvc; exact rfl
  all_goals cases h
  apply Exists.intro; intro s; unfold exec; delta execRecall; exact rfl

end Sys2Proof.Machine
end

