-- ==== Sys2Proof/Laws/Encoding.lean ====
section
/-! SUPPORT. Packing and unpacking of words: each format holds its fields apart (R30, R40, R47, R56). -/

namespace Sys2Proof

theorem unpack_pack (f : Fields) : unpack (pack f) = f := by
  obtain ⟨op, kn, kp, sub, d, a, b, x⟩ := f
  simp only [unpack, pack, Fields.mk.injEq]
  refine ⟨?_, ?_, ?_, ?_, ?_, ?_, ?_, ?_⟩ <;> apply BitVec.eq_of_getLsbD_eq <;> intro i hi <;>
    simp only [BitVec.getLsbD_extractLsb', BitVec.getLsbD_append, hi, decide_true, Bool.true_and] <;>
    split_ifs <;> first | omega | (congr 1; omega)

theorem unpackSl_packSl (op : BitVec 6) (dst a b : BitVec 5) (imm : BitVec 11) :
    unpackSl (packSl op dst a b imm) = ⟨op, dst, a, b, imm⟩ := by
  simp only [unpackSl, packSl, SlFields.mk.injEq]
  refine ⟨?_, ?_, ?_, ?_, ?_⟩ <;> apply BitVec.eq_of_getLsbD_eq <;> intro i hi <;>
    simp only [BitVec.getLsbD_extractLsb', BitVec.getLsbD_append, hi, decide_true, Bool.true_and] <;>
    split_ifs <;> first | omega | (congr 1; omega)

theorem unpackDesc_packDesc (d : Desc) : unpackDesc (packDesc d) = d := by
  obtain ⟨b, s0, s1, s2, s3⟩ := d
  simp only [unpackDesc, packDesc, Desc.mk.injEq]
  refine ⟨?_, ?_, ?_, ?_, ?_⟩ <;> apply BitVec.eq_of_getLsbD_eq <;> intro i hi <;>
    simp only [BitVec.getLsbD_extractLsb', BitVec.getLsbD_append, hi, decide_true, Bool.true_and] <;>
    split_ifs <;> first | omega | (congr 1; omega)

theorem xm_packXM (m : XM) : xm (packXM m) = m := by
  obtain ⟨a, b, c, d, e, f⟩ := m
  simp only [xm, packXM, XM.mk.injEq]
  refine ⟨?_, ?_, ?_, ?_, ?_, ?_⟩ <;> apply BitVec.eq_of_getLsbD_eq <;> intro i hi <;>
    simp only [BitVec.getLsbD_extractLsb', BitVec.getLsbD_append, hi, decide_true, Bool.true_and] <;>
    split_ifs <;> first | omega | (congr 1; omega)

theorem recOpc_packRec (o : BitVec 8) (r : EngRec) : recOpc (packRec o r) = o := by
  simp only [recOpc, packRec]
  apply BitVec.eq_of_getLsbD_eq; intro i hi
  simp only [BitVec.getLsbD_extractLsb', BitVec.getLsbD_append, hi, decide_true, Bool.true_and]
  repeat (rw [if_neg (by omega)])
  rw [if_pos (by omega)]
  exact congrArg (BitVec.getLsbD _) (by omega)

theorem unpackRec_packRec (o : BitVec 8) (r : EngRec) : unpackRec (packRec o r) = r := by
  have hd : ∀ d : Desc, unpackDesc (packDesc d) = d := unpackDesc_packDesc
  have h1 : (packRec o r).extractLsb' 128 128 = packDesc r.d := by
    apply BitVec.eq_of_getLsbD_eq; intro i hi
    simp only [packRec, BitVec.getLsbD_extractLsb', BitVec.getLsbD_append, hi, decide_true, Bool.true_and]
    repeat (rw [if_neg (by omega)])
    rw [if_pos (by omega)]; exact congrArg (BitVec.getLsbD _) (by omega)
  have h2 : (packRec o r).extractLsb' 256 128 = packDesc r.s1 := by
    apply BitVec.eq_of_getLsbD_eq; intro i hi
    simp only [packRec, BitVec.getLsbD_extractLsb', BitVec.getLsbD_append, hi, decide_true, Bool.true_and]
    repeat (rw [if_neg (by omega)])
    rw [if_pos (by omega)]; exact congrArg (BitVec.getLsbD _) (by omega)
  have h3 : (packRec o r).extractLsb' 384 128 = packDesc r.s2 := by
    apply BitVec.eq_of_getLsbD_eq; intro i hi
    simp only [packRec, BitVec.getLsbD_extractLsb', BitVec.getLsbD_append, hi, decide_true, Bool.true_and]
    repeat (rw [if_neg (by omega)])
    exact congrArg (BitVec.getLsbD _) (by omega)
  obtain ⟨f1, f2, f3, f4, f5, f6, f7, f8, f9, f10, f11, f12, f13, f14, f15, f16, f17, f18, f19, f20, f21, f22⟩ := r
  simp only [unpackRec, h1, h2, h3, hd, EngRec.mk.injEq, and_true]
  refine ⟨?_, ?_, ?_, ?_, ?_, ?_, ?_, ?_, ?_, ?_, ?_, ?_, ?_, ?_, ?_, ?_, ?_, ?_, ?_⟩ <;>
    apply BitVec.eq_of_getLsbD_eq <;> intro i hi <;>
    simp only [packRec, BitVec.getLsbD_extractLsb', BitVec.getLsbD_append, hi, decide_true, Bool.true_and] <;>
    (repeat (rw [if_neg (by omega)])) <;> rw [if_pos (by omega)] <;> exact congrArg (BitVec.getLsbD _) (by omega)

theorem decodeCtl_pack (f : Fields) : decodeCtl (pack f) = decodeFields f := by rw [decodeCtl, unpack_pack]

theorem decodeSl_packSl (op : BitVec 6) (dst a b : BitVec 5) (imm : BitVec 11) :
    decodeSl (packSl op dst a b imm) = decodeSlFields ⟨op, dst, a, b, imm⟩ := by rw [decodeSl, unpackSl_packSl]

theorem decodeRec_packRec (e : Eng) (o : BitVec 8) (r : EngRec) (k : EngRec → Instr) (h : recordCtor e o.toNat = some k) :
    decodeRec e (packRec o r) = .ok (k r) := by rw [decodeRec, recOpc_packRec, unpackRec_packRec, h]

/-! ## Fields within a field -/

@[simp] theorem cReg_xC (c : Reg) : (xC c).extractLsb' 24 6 = c := by
  apply BitVec.eq_of_getLsbD_eq; intro i hi
  simp only [xC, BitVec.getLsbD_extractLsb', BitVec.getLsbD_append, hi, decide_true, Bool.true_and]
  rw [if_neg (by omega)]
  exact congrArg (BitVec.getLsbD _) (by omega)

@[simp] theorem xC_low (c : Reg) : (xC c).extractLsb' 0 24 = 0 := by
  apply BitVec.eq_of_getLsbD_eq; intro i hi
  simp only [xC, BitVec.getLsbD_extractLsb', BitVec.getLsbD_append, hi, decide_true, Bool.true_and]
  rw [if_pos (by omega)]
  simp

@[simp] theorem xSl_c (c : Reg) (v : BitVec 5) : (xSl c v).extractLsb' 24 6 = c := by
  apply BitVec.eq_of_getLsbD_eq; intro i hi
  simp only [xSl, BitVec.getLsbD_extractLsb', BitVec.getLsbD_append, hi, decide_true, Bool.true_and]
  rw [if_neg (by omega), if_neg (by omega)]
  exact congrArg (BitVec.getLsbD _) (by omega)

@[simp] theorem xSl_mid (c : Reg) (v : BitVec 5) : (xSl c v).extractLsb' 5 19 = 0 := by
  apply BitVec.eq_of_getLsbD_eq; intro i hi
  simp only [xSl, BitVec.getLsbD_extractLsb', BitVec.getLsbD_append, hi, decide_true, Bool.true_and]
  rw [if_neg (by omega), if_pos (by omega)]
  simp

@[simp] theorem xSl_v (c : Reg) (v : BitVec 5) : (xSl c v).extractLsb' 0 5 = v := by
  apply BitVec.eq_of_getLsbD_eq; intro i hi
  simp only [xSl, BitVec.getLsbD_extractLsb', BitVec.getLsbD_append, hi, decide_true, Bool.true_and]
  rw [if_pos (by omega)]
  exact congrArg (BitVec.getLsbD _) (by omega)

@[simp] theorem xRb_off (o : BitVec 18) (n : RbReg) : (xRb o n).extractLsb' 12 18 = o := by
  apply BitVec.eq_of_getLsbD_eq; intro i hi
  simp only [xRb, BitVec.getLsbD_extractLsb', BitVec.getLsbD_append, hi, decide_true, Bool.true_and]
  rw [if_neg (by omega), if_neg (by omega)]
  exact congrArg (BitVec.getLsbD _) (by omega)

@[simp] theorem xRb_mid (o : BitVec 18) (n : RbReg) : (xRb o n).extractLsb' 3 9 = 0 := by
  apply BitVec.eq_of_getLsbD_eq; intro i hi
  simp only [xRb, BitVec.getLsbD_extractLsb', BitVec.getLsbD_append, hi, decide_true, Bool.true_and]
  rw [if_neg (by omega), if_pos (by omega)]
  simp

@[simp] theorem xRb_n (o : BitVec 18) (n : RbReg) : (xRb o n).extractLsb' 0 3 = n := by
  apply BitVec.eq_of_getLsbD_eq; intro i hi
  simp only [xRb, BitVec.getLsbD_extractLsb', BitVec.getLsbD_append, hi, decide_true, Bool.true_and]
  rw [if_pos (by omega)]
  exact congrArg (BitVec.getLsbD _) (by omega)

/-- A split immediate put together again (R34). -/
@[simp] theorem split36 (i : BitVec 36) : (i.extractLsb' 30 6 ++ i.extractLsb' 0 30 : BitVec 36) = i := by
  apply BitVec.eq_of_getLsbD_eq; intro j hj
  simp only [BitVec.getLsbD_extractLsb', BitVec.getLsbD_append]
  split_ifs with h
  · simp [h]
  · have : 30 + (j - 30) = j := by omega
    simp [this]; omega

/-- A split 42-bit immediate put together again (R34). -/
@[simp] theorem split42 (i : BitVec 42) : (i.extractLsb' 36 6 ++ i.extractLsb' 30 6 ++ i.extractLsb' 0 30 : BitVec 42) = i := by
  apply BitVec.eq_of_getLsbD_eq; intro j hj
  simp only [BitVec.getLsbD_extractLsb', BitVec.getLsbD_append]
  split_ifs with h1 h2
  · simp [h1]
  · have : 30 + (j - 30) = j := by omega
    simp [this]; omega
  · have : 36 + (j - 30 - 6) = j := by omega
    simp [this]; omega

/-- A split offset put together again (R37). -/
@[simp] theorem split48 (i : BitVec 48) :
    (i.extractLsb' 42 6 ++ i.extractLsb' 36 6 ++ i.extractLsb' 30 6 ++ i.extractLsb' 0 30 : BitVec 48) = i := by
  apply BitVec.eq_of_getLsbD_eq; intro j hj
  simp only [BitVec.getLsbD_extractLsb', BitVec.getLsbD_append]
  split_ifs with h1 h2 h3
  · simp [h1]
  · have : 30 + (j - 30) = j := by omega
    simp [this]; omega
  · have : 36 + (j - 30 - 6) = j := by omega
    simp [this]; omega
  · have : 42 + (j - 30 - 6 - 6) = j := by omega
    simp [this]; omega

@[simp] theorem kOk_k6 (k : BitVec 3) : kOk (k6 k) = true := by revert k; decide
@[simp] theorem k3_k6 (k : BitVec 3) : k3 (k6 k) = k := by revert k; decide

/-- The low bits of a widened field. -/
theorem low_setWidth {n m : Nat} (x : BitVec n) (h : n ≤ m) : (x.setWidth m).extractLsb' 0 n = x := by
  apply BitVec.eq_of_getLsbD_eq; intro i hi
  simp [hi]; omega

/-- The bits above a widened field. -/
theorem high_setWidth {n m k : Nat} (x : BitVec n) : (x.setWidth m).extractLsb' n k = 0 := by
  apply BitVec.eq_of_getLsbD_eq; intro i hi
  simp

end Sys2Proof
end

