-- ==== Sys2Proof/Laws/Meanings.lean ====
section
/-! SUPPORT. `exec` at each constructor is the meaning of that constructor. -/

namespace Sys2Proof.Machine

theorem exec_add (p : Pred) (d a b : Reg) (s : State) : exec (.add p d a b) s = execAdd p d a b s := rfl
theorem exec_sub (p : Pred) (d a b : Reg) (s : State) : exec (.sub p d a b) s = execSub p d a b s := rfl
theorem exec_mul (p : Pred) (d a b : Reg) (s : State) : exec (.mul p d a b) s = execMul p d a b s := rfl
theorem exec_mulh (p : Pred) (d a b : Reg) (s : State) : exec (.mulh p d a b) s = execMulh p d a b s := rfl
theorem exec_mulhu (p : Pred) (d a b : Reg) (s : State) : exec (.mulhu p d a b) s = execMulhu p d a b s := rfl
theorem exec_div (p : Pred) (d a b : Reg) (s : State) : exec (.div p d a b) s = execDiv p d a b s := rfl
theorem exec_divu (p : Pred) (d a b : Reg) (s : State) : exec (.divu p d a b) s = execDivu p d a b s := rfl
theorem exec_rem (p : Pred) (d a b : Reg) (s : State) : exec (.rem p d a b) s = execRem p d a b s := rfl
theorem exec_remu (p : Pred) (d a b : Reg) (s : State) : exec (.remu p d a b) s = execRemu p d a b s := rfl
theorem exec_and (p : Pred) (d a b : Reg) (s : State) : exec (.and p d a b) s = execAnd p d a b s := rfl
theorem exec_or (p : Pred) (d a b : Reg) (s : State) : exec (.or p d a b) s = execOr p d a b s := rfl
theorem exec_xor (p : Pred) (d a b : Reg) (s : State) : exec (.xor p d a b) s = execXor p d a b s := rfl
theorem exec_andn (p : Pred) (d a b : Reg) (s : State) : exec (.andn p d a b) s = execAndn p d a b s := rfl
theorem exec_shl (p : Pred) (d a b : Reg) (s : State) : exec (.shl p d a b) s = execShl p d a b s := rfl
theorem exec_shr (p : Pred) (d a b : Reg) (s : State) : exec (.shr p d a b) s = execShr p d a b s := rfl
theorem exec_sra (p : Pred) (d a b : Reg) (s : State) : exec (.sra p d a b) s = execSra p d a b s := rfl
theorem exec_rol (p : Pred) (d a b : Reg) (s : State) : exec (.rol p d a b) s = execRol p d a b s := rfl
theorem exec_min (p : Pred) (d a b : Reg) (s : State) : exec (.min p d a b) s = execMin p d a b s := rfl
theorem exec_max (p : Pred) (d a b : Reg) (s : State) : exec (.max p d a b) s = execMax p d a b s := rfl
theorem exec_minu (p : Pred) (d a b : Reg) (s : State) : exec (.minu p d a b) s = execMinu p d a b s := rfl
theorem exec_maxu (p : Pred) (d a b : Reg) (s : State) : exec (.maxu p d a b) s = execMaxu p d a b s := rfl
theorem exec_clz (p : Pred) (d a : Reg) (s : State) : exec (.clz p d a) s = execClz p d a s := rfl
theorem exec_ctz (p : Pred) (d a : Reg) (s : State) : exec (.ctz p d a) s = execCtz p d a s := rfl
theorem exec_popc (p : Pred) (d a : Reg) (s : State) : exec (.popc p d a) s = execPopc p d a s := rfl
theorem exec_brev (p : Pred) (d a : Reg) (s : State) : exec (.brev p d a) s = execBrev p d a s := rfl
theorem exec_sext (p : Pred) (d a b : Reg) (s : State) : exec (.sext p d a b) s = execSext p d a b s := rfl
theorem exec_zext (p : Pred) (d a b : Reg) (s : State) : exec (.zext p d a b) s = execZext p d a b s := rfl
theorem exec_sel (p : Pred) (d a b c : Reg) (s : State) : exec (.sel p d a b c) s = execSel p d a b c s := rfl
theorem exec_lea (p : Pred) (d a b c : Reg) (s : State) : exec (.lea p d a b c) s = execLea p d a b c s := rfl
theorem exec_addi (p : Pred) (d a : Reg) (imm : BitVec 36) (s : State) : exec (.addi p d a imm) s = execAddi p d a imm s := rfl
theorem exec_andi (p : Pred) (d a : Reg) (imm : BitVec 36) (s : State) : exec (.andi p d a imm) s = execAndi p d a imm s := rfl
theorem exec_ori (p : Pred) (d a : Reg) (imm : BitVec 36) (s : State) : exec (.ori p d a imm) s = execOri p d a imm s := rfl
theorem exec_xori (p : Pred) (d a : Reg) (imm : BitVec 36) (s : State) : exec (.xori p d a imm) s = execXori p d a imm s := rfl
theorem exec_shli (p : Pred) (d a : Reg) (n : BitVec 6) (s : State) : exec (.shli p d a n) s = execShli p d a n s := rfl
theorem exec_shri (p : Pred) (d a : Reg) (n : BitVec 6) (s : State) : exec (.shri p d a n) s = execShri p d a n s := rfl
theorem exec_srai (p : Pred) (d a : Reg) (n : BitVec 6) (s : State) : exec (.srai p d a n) s = execSrai p d a n s := rfl
theorem exec_movi (p : Pred) (d : Reg) (imm : BitVec 42) (s : State) : exec (.movi p d imm) s = execMovi p d imm s := rfl
theorem exec_movhi (p : Pred) (d : Reg) (imm : BitVec 22) (s : State) : exec (.movhi p d imm) s = execMovhi p d imm s := rfl
theorem exec_muli (p : Pred) (d a : Reg) (imm : BitVec 36) (s : State) : exec (.muli p d a imm) s = execMuli p d a imm s := rfl
theorem exec_kget (p : Pred) (d : Reg) (a : KReg) (s : State) : exec (.kget p d a) s = execKget p d a s := rfl
theorem exec_cmp (p : Pred) (cc : BitVec 4) (d : KReg) (a b : Reg) (s : State) : exec (.cmp p cc d a b) s = execCmp p cc d a b s := rfl
theorem exec_cmpi (p : Pred) (cc : BitVec 4) (d : KReg) (a : Reg) (imm : BitVec 36) (s : State) : exec (.cmpi p cc d a imm) s = execCmpi p cc d a imm s := rfl
theorem exec_fcmp (p : Pred) (cc : BitVec 4) (d : KReg) (a b : Reg) (s : State) : exec (.fcmp p cc d a b) s = execFcmp p cc d a b s := rfl
theorem exec_kand (p : Pred) (d a b : KReg) (s : State) : exec (.kand p d a b) s = execKand p d a b s := rfl
theorem exec_kor (p : Pred) (d a b : KReg) (s : State) : exec (.kor p d a b) s = execKor p d a b s := rfl
theorem exec_kxor (p : Pred) (d a b : KReg) (s : State) : exec (.kxor p d a b) s = execKxor p d a b s := rfl
theorem exec_knot (p : Pred) (d a : KReg) (s : State) : exec (.knot p d a) s = execKnot p d a s := rfl
theorem exec_kset (p : Pred) (d : KReg) (a : Reg) (s : State) : exec (.kset p d a) s = execKset p d a s := rfl
theorem exec_fadd (p : Pred) (d a b : Reg) (s : State) : exec (.fadd p d a b) s = execFadd p d a b s := rfl
theorem exec_fsub (p : Pred) (d a b : Reg) (s : State) : exec (.fsub p d a b) s = execFsub p d a b s := rfl
theorem exec_fmul (p : Pred) (d a b : Reg) (s : State) : exec (.fmul p d a b) s = execFmul p d a b s := rfl
theorem exec_ffma (p : Pred) (d a b c : Reg) (s : State) : exec (.ffma p d a b c) s = execFfma p d a b c s := rfl
theorem exec_fmin (p : Pred) (d a b : Reg) (s : State) : exec (.fmin p d a b) s = execFmin p d a b s := rfl
theorem exec_fmax (p : Pred) (d a b : Reg) (s : State) : exec (.fmax p d a b) s = execFmax p d a b s := rfl
theorem exec_fabs (p : Pred) (d a : Reg) (s : State) : exec (.fabs p d a) s = execFabs p d a s := rfl
theorem exec_fneg (p : Pred) (d a : Reg) (s : State) : exec (.fneg p d a) s = execFneg p d a s := rfl
theorem exec_fcvt (p : Pred) (d a : Reg) (ty : BitVec 4) (dir : Bool) (s : State) : exec (.fcvt p d a ty dir) s = execFcvt p d a ty dir s := rfl
theorem exec_fexp2 (p : Pred) (d a : Reg) (s : State) : exec (.fexp2 p d a) s = execFexp2 p d a s := rfl
theorem exec_flog2 (p : Pred) (d a : Reg) (s : State) : exec (.flog2 p d a) s = execFlog2 p d a s := rfl
theorem exec_frcp (p : Pred) (d a : Reg) (s : State) : exec (.frcp p d a) s = execFrcp p d a s := rfl
theorem exec_frsq (p : Pred) (d a : Reg) (s : State) : exec (.frsq p d a) s = execFrsq p d a s := rfl
theorem exec_fsqrt (p : Pred) (d a : Reg) (s : State) : exec (.fsqrt p d a) s = execFsqrt p d a s := rfl
theorem exec_ld (p : Pred) (d : Reg) (m : MemArg) (sx : Bool) (s : State) : exec (.ld p d m sx) s = execLd p d m sx s := rfl
theorem exec_st (p : Pred) (d : Reg) (m : MemArg) (s : State) : exec (.st p d m) s = execSt p d m s := rfl
theorem exec_ldp (p : Pred) (d a : Reg) (mode : AMode) (size : BitVec 2) (sx : Bool) (s : State) : exec (.ldp p d a mode size sx) s = execLdp p d a mode size sx s := rfl
theorem exec_stp (p : Pred) (d a : Reg) (mode : AMode) (size : BitVec 2) (s : State) : exec (.stp p d a mode size) s = execStp p d a mode size s := rfl
theorem exec_ldAcq (p : Pred) (d : Reg) (m : MemArg) (sx : Bool) (scope : BitVec 2) (s : State) : exec (.ldAcq p d m sx scope) s = execLdAcq p d m sx scope s := rfl
theorem exec_stRel (p : Pred) (d : Reg) (m : MemArg) (scope : BitVec 2) (s : State) : exec (.stRel p d m scope) s = execStRel p d m scope s := rfl
theorem exec_pf (p : Pred) (a : Reg) (mode : AMode) (cls : BitVec 4) (s : State) : exec (.pf p a mode cls) s = execPf p a mode cls s := rfl
theorem exec_fence (p : Pred) (mask : BitVec 16) (scope : BitVec 2) (s : State) : exec (.fence p mask scope) s = execFence p mask scope s := rfl
theorem exec_slx (p : Pred) (cls : BitVec 4) (d a b c : Reg) (vr : BitVec 5) (s : State) : exec (.slx p cls d a b c vr) s = execSlx p cls d a b c vr s := rfl
theorem exec_slxn (p : Pred) (cls : BitVec 4) (a b c : Reg) (vr : BitVec 5) (s : State) : exec (.slxn p cls a b c vr) s = execSlxn p cls a b c vr s := rfl
theorem exec_rtinst (p : Pred) (d a b : Reg) (s : State) : exec (.rtinst p d a b) s = execRtinst p d a b s := rfl
theorem exec_rtmap (p : Pred) (d a b : Reg) (s : State) : exec (.rtmap p d a b) s = execRtmap p d a b s := rfl
theorem exec_eqpop (p : Pred) (d : Reg) (s : State) : exec (.eqpop p d) s = execEqpop p d s := rfl
theorem exec_wfe (p : Pred) (s : State) : exec (.wfe p) s = execWfe p s := rfl
theorem exec_br (p : Pred) (off : BitVec 48) (s : State) : exec (.br p off) s = execBr p off s := rfl
theorem exec_bcq (p : Pred) (off : BitVec 48) (s : State) : exec (.bcq p off) s = execBcq p off s := rfl
theorem exec_jr (p : Pred) (a : Reg) (s : State) : exec (.jr p a) s = execJr p a s := rfl
theorem exec_call (p : Pred) (off : BitVec 48) (s : State) : exec (.call p off) s = execCall p off s := rfl
theorem exec_callr (p : Pred) (a : Reg) (s : State) : exec (.callr p a) s = execCallr p a s := rfl
theorem exec_ret (p : Pred) (s : State) : exec (.ret p) s = execRet p s := rfl
theorem exec_loop (p : Pred) (level : BitVec 1) (a : Reg) (off : BitVec 36) (s : State) : exec (.loop p level a off) s = execLoop p level a off s := rfl
theorem exec_nop (p : Pred) (n : BitVec 16) (s : State) : exec (.nop p n) s = execNop p n s := rfl
theorem exec_trap (p : Pred) (e : BitVec 16) (s : State) : exec (.trap p e) s = execTrap p e s := rfl
theorem exec_yield (p : Pred) (s : State) : exec (.yield p) s = execYield p s := rfl
theorem exec_endUnit (p : Pred) (s : State) : exec (.endUnit p) s = execEndUnit p s := rfl
theorem exec_rbld (p : Pred) (a : Reg) (off : BitVec 18) (n : RbReg) (s : State) : exec (.rbld p a off n) s = execRbld p a off n s := rfl
theorem exec_rbst (p : Pred) (a : Reg) (off : BitVec 18) (n : RbReg) (s : State) : exec (.rbst p a off n) s = execRbst p a off n s := rfl
theorem exec_rbset (p : Pred) (n : RbReg) (a : Reg) (id : BitVec 6) (s : State) : exec (.rbset p n a id) s = execRbset p n a id s := rfl
theorem exec_rbget (p : Pred) (d : Reg) (n : RbReg) (id : BitVec 6) (s : State) : exec (.rbget p d n id) s = execRbget p d n id s := rfl
theorem exec_enq (p : Pred) (e : Eng) (n : RbReg) (s : State) : exec (.enq p e n) s = execEnq p e n s := rfl
theorem exec_tkpost (p : Pred) (e : Eng) (s : State) : exec (.tkpost p e) s = execTkpost p e s := rfl
theorem exec_tkwait (p : Pred) (e : Eng) (s : State) : exec (.tkwait p e) s = execTkwait p e s := rfl
theorem exec_tkpoll (p : Pred) (d : Reg) (e : Eng) (s : State) : exec (.tkpoll p d e) s = execTkpoll p d e s := rfl
theorem exec_seminc (p : Pred) (n : BitVec 6) (a : Reg) (s : State) : exec (.seminc p n a) s = execSeminc p n a s := rfl
theorem exec_semwait (p : Pred) (n : BitVec 6) (a : Reg) (s : State) : exec (.semwait p n a) s = execSemwait p n a s := rfl
theorem exec_semmap (p : Pred) (n : BitVec 6) (a : Reg) (s : State) : exec (.semmap p n a) s = execSemmap p n a s := rfl
theorem exec_qdrain (p : Pred) (e : Eng) (s : State) : exec (.qdrain p e) s = execQdrain p e s := rfl
theorem exec_accver (p : Pred) (d : Reg) (t : BitVec 6) (s : State) : exec (.accver p d t) s = execAccver p d t s := rfl
theorem exec_woreg (p : Pred) (d a : Reg) (s : State) : exec (.woreg p d a) s = execWoreg p d a s := rfl
theorem exec_wodereg (p : Pred) (a : Reg) (s : State) : exec (.wodereg p a) s = execWodereg p a s := rfl
theorem exec_wohold (p : Pred) (d a : Reg) (s : State) : exec (.wohold p d a) s = execWohold p d a s := rfl
theorem exec_worel (p : Pred) (a : Reg) (s : State) : exec (.worel p a) s = execWorel p a s := rfl
theorem exec_wowait (p : Pred) (a : Reg) (s : State) : exec (.wowait p a) s = execWowait p a s := rfl
theorem exec_wopoll (p : Pred) (d a : Reg) (s : State) : exec (.wopoll p d a) s = execWopoll p d a s := rfl
theorem exec_bar (p : Pred) (level : BitVec 2) (s : State) : exec (.bar p level) s = execBar p level s := rfl
theorem exec_barxf (p : Pred) (level : BitVec 2) (s : State) : exec (.barxf p level) s = execBarxf p level s := rfl
theorem exec_lease (p : Pred) (d : Reg) (e : Eng) (s : State) : exec (.lease p d e) s = execLease p d e s := rfl
theorem exec_leaserel (p : Pred) (e : Eng) (s : State) : exec (.leaserel p e) s = execLeaserel p e s := rfl
theorem exec_lend (p : Pred) (a : Reg) (s : State) : exec (.lend p a) s = execLend p a s := rfl
theorem exec_recall (p : Pred) (s : State) : exec (.recall p) s = execRecall p s := rfl
theorem exec_rsmark (p : Pred) (s : State) : exec (.rsmark p) s = execRsmark p s := rfl
theorem exec_gtcrd (p : Pred) (d : Reg) (s : State) : exec (.gtcrd p d) s = execGtcrd p d s := rfl
theorem exec_rng (p : Pred) (d a b : Reg) (s : State) : exec (.rng p d a b) s = execRng p d a b s := rfl
theorem exec_mfs (p : Pred) (d : Reg) (n : SReg) (s : State) : exec (.mfs p d n) s = execMfs p d n s := rfl
theorem exec_mts (p : Pred) (n : SReg) (a : Reg) (s : State) : exec (.mts p n a) s = execMts p n a s := rfl
theorem exec_evecWrite (p : Pred) (a : Reg) (s : State) : exec (.evecWrite p a) s = execEvecWrite p a s := rfl
theorem exec_ctxsaveWrite (p : Pred) (a : Reg) (s : State) : exec (.ctxsaveWrite p a) s = execCtxsaveWrite p a s := rfl
theorem exec_eret (p : Pred) (s : State) : exec (.eret p) s = execEret p s := rfl
theorem exec_opbnd (p : Pred) (s : State) : exec (.opbnd p) s = execOpbnd p s := rfl
theorem exec_defer (p : Pred) (s : State) : exec (.defer p) s = execDefer p s := rfl
theorem exec_undefer (p : Pred) (s : State) : exec (.undefer p) s = execUndefer p s := rfl
theorem exec_clrsig (p : Pred) (d : Reg) (s : State) : exec (.clrsig p d) s = execClrsig p d s := rfl
theorem exec_ctxsv (p : Pred) (a : Reg) (s : State) : exec (.ctxsv p a) s = execCtxsv p a s := rfl
theorem exec_ctxld (p : Pred) (a : Reg) (s : State) : exec (.ctxld p a) s = execCtxld p a s := rfl
theorem exec_parkst (p : Pred) (d : Reg) (s : State) : exec (.parkst p d) s = execParkst p d s := rfl
theorem exec_pend (p : Pred) (d : Reg) (s : State) : exec (.pend p d) s = execPend p d s := rfl
theorem exec_tinst (p : Pred) (s : State) : exec (.tinst p) s = execTinst p s := rfl
theorem exec_tvbump (p : Pred) (s : State) : exec (.tvbump p) s = execTvbump p s := rfl
theorem exec_tremove (p : Pred) (s : State) : exec (.tremove p) s = execTremove p s := rfl
theorem exec_tquery (p : Pred) (s : State) : exec (.tquery p) s = execTquery p s := rfl
theorem exec_s1root (p : Pred) (s : State) : exec (.s1root p) s = execS1root p s := rfl
theorem exec_tlbinv (p : Pred) (s : State) : exec (.tlbinv p) s = execTlbinv p s := rfl
theorem exec_regquery (p : Pred) (s : State) : exec (.regquery p) s = execRegquery p s := rfl
theorem exec_partquery (p : Pred) (s : State) : exec (.partquery p) s = execPartquery p s := rfl
theorem exec_greset (p : Pred) (s : State) : exec (.greset p) s = execGreset p s := rfl
theorem exec_scrubreq (p : Pred) (s : State) : exec (.scrubreq p) s = execScrubreq p s := rfl
theorem exec_recquery (p : Pred) (s : State) : exec (.recquery p) s = execRecquery p s := rfl
theorem exec_hvc (p : Pred) (e : BitVec 16) (s : State) : exec (.hvc p e) s = execHvc p e s := rfl
theorem exec_vadd (r : EngRec) (s : State) : exec (.vadd r) s = execVadd r s := rfl
theorem exec_vsub (r : EngRec) (s : State) : exec (.vsub r) s = execVsub r s := rfl
theorem exec_vmul (r : EngRec) (s : State) : exec (.vmul r) s = execVmul r s := rfl
theorem exec_vfma (r : EngRec) (s : State) : exec (.vfma r) s = execVfma r s := rfl
theorem exec_vmin (r : EngRec) (s : State) : exec (.vmin r) s = execVmin r s := rfl
theorem exec_vmax (r : EngRec) (s : State) : exec (.vmax r) s = execVmax r s := rfl
theorem exec_vabs (r : EngRec) (s : State) : exec (.vabs r) s = execVabs r s := rfl
theorem exec_vneg (r : EngRec) (s : State) : exec (.vneg r) s = execVneg r s := rfl
theorem exec_vand (r : EngRec) (s : State) : exec (.vand r) s = execVand r s := rfl
theorem exec_vor (r : EngRec) (s : State) : exec (.vor r) s = execVor r s := rfl
theorem exec_vxor (r : EngRec) (s : State) : exec (.vxor r) s = execVxor r s := rfl
theorem exec_vshl (r : EngRec) (s : State) : exec (.vshl r) s = execVshl r s := rfl
theorem exec_vshr (r : EngRec) (s : State) : exec (.vshr r) s = execVshr r s := rfl
theorem exec_vsra (r : EngRec) (s : State) : exec (.vsra r) s = execVsra r s := rfl
theorem exec_vsel (r : EngRec) (s : State) : exec (.vsel r) s = execVsel r s := rfl
theorem exec_vcmp (r : EngRec) (s : State) : exec (.vcmp r) s = execVcmp r s := rfl
theorem exec_vclamp (r : EngRec) (s : State) : exec (.vclamp r) s = execVclamp r s := rfl
theorem exec_vscale (r : EngRec) (s : State) : exec (.vscale r) s = execVscale r s := rfl
theorem exec_vmov (r : EngRec) (s : State) : exec (.vmov r) s = execVmov r s := rfl
theorem exec_vbcast (r : EngRec) (s : State) : exec (.vbcast r) s = execVbcast r s := rfl
theorem exec_vexp2 (r : EngRec) (s : State) : exec (.vexp2 r) s = execVexp2 r s := rfl
theorem exec_vlog2 (r : EngRec) (s : State) : exec (.vlog2 r) s = execVlog2 r s := rfl
theorem exec_vrcp (r : EngRec) (s : State) : exec (.vrcp r) s = execVrcp r s := rfl
theorem exec_vrsq (r : EngRec) (s : State) : exec (.vrsq r) s = execVrsq r s := rfl
theorem exec_vsqrt (r : EngRec) (s : State) : exec (.vsqrt r) s = execVsqrt r s := rfl
theorem exec_vtanh (r : EngRec) (s : State) : exec (.vtanh r) s = execVtanh r s := rfl
theorem exec_vcvt (r : EngRec) (s : State) : exec (.vcvt r) s = execVcvt r s := rfl
theorem exec_vquant (r : EngRec) (s : State) : exec (.vquant r) s = execVquant r s := rfl
theorem exec_vdeq (r : EngRec) (s : State) : exec (.vdeq r) s = execVdeq r s := rfl
theorem exec_vrand (r : EngRec) (s : State) : exec (.vrand r) s = execVrand r s := rfl
theorem exec_vredsum (r : EngRec) (s : State) : exec (.vredsum r) s = execVredsum r s := rfl
theorem exec_vredmax (r : EngRec) (s : State) : exec (.vredmax r) s = execVredmax r s := rfl
theorem exec_vredmin (r : EngRec) (s : State) : exec (.vredmin r) s = execVredmin r s := rfl
theorem exec_vscan (r : EngRec) (s : State) : exec (.vscan r) s = execVscan r s := rfl
theorem exec_vany (r : EngRec) (s : State) : exec (.vany r) s = execVany r s := rfl
theorem exec_vcnt (r : EngRec) (s : State) : exec (.vcnt r) s = execVcnt r s := rfl
theorem exec_vzip2 (r : EngRec) (s : State) : exec (.vzip2 r) s = execVzip2 r s := rfl
theorem exec_vzip3 (r : EngRec) (s : State) : exec (.vzip3 r) s = execVzip3 r s := rfl
theorem exec_vzip4 (r : EngRec) (s : State) : exec (.vzip4 r) s = execVzip4 r s := rfl
theorem exec_vunzip2 (r : EngRec) (s : State) : exec (.vunzip2 r) s = execVunzip2 r s := rfl
theorem exec_vunzip3 (r : EngRec) (s : State) : exec (.vunzip3 r) s = execVunzip3 r s := rfl
theorem exec_vunzip4 (r : EngRec) (s : State) : exec (.vunzip4 r) s = execVunzip4 r s := rfl
theorem exec_vperm (r : EngRec) (s : State) : exec (.vperm r) s = execVperm r s := rfl
theorem exec_vgather (r : EngRec) (s : State) : exec (.vgather r) s = execVgather r s := rfl
theorem exec_vscatter (r : EngRec) (s : State) : exec (.vscatter r) s = execVscatter r s := rfl
theorem exec_vpart (r : EngRec) (s : State) : exec (.vpart r) s = execVpart r s := rfl
theorem exec_vldp (r : EngRec) (s : State) : exec (.vldp r) s = execVldp r s := rfl
theorem exec_vstp (r : EngRec) (s : State) : exec (.vstp r) s = execVstp r s := rfl
theorem exec_viota (r : EngRec) (s : State) : exec (.viota r) s = execViota r s := rfl
theorem exec_vzero (r : EngRec) (s : State) : exec (.vzero r) s = execVzero r s := rfl
theorem exec_vbump (r : EngRec) (s : State) : exec (.vbump r) s = execVbump r s := rfl
theorem exec_vtype (r : EngRec) (s : State) : exec (.vtype r) s = execVtype r s := rfl
theorem exec_mma (r : EngRec) (s : State) : exec (.mma r) s = execMma r s := rfl
theorem exec_mmaz (r : EngRec) (s : State) : exec (.mmaz r) s = execMmaz r s := rfl
theorem exec_mmas (r : EngRec) (s : State) : exec (.mmas r) s = execMmas r s := rfl
theorem exec_mmat (r : EngRec) (s : State) : exec (.mmat r) s = execMmat r s := rfl
theorem exec_mret (r : EngRec) (s : State) : exec (.mret r) s = execMret r s := rfl
theorem exec_mzero (r : EngRec) (s : State) : exec (.mzero r) s = execMzero r s := rfl
theorem exec_cpin (r : EngRec) (s : State) : exec (.cpin r) s = execCpin r s := rfl
theorem exec_cpina (r : EngRec) (s : State) : exec (.cpina r) s = execCpina r s := rfl
theorem exec_gathin (r : EngRec) (s : State) : exec (.gathin r) s = execGathin r s := rfl
theorem exec_fill (r : EngRec) (s : State) : exec (.fill r) s = execFill r s := rfl
theorem exec_cploc (r : EngRec) (s : State) : exec (.cploc r) s = execCploc r s := rfl
theorem exec_pfin (r : EngRec) (s : State) : exec (.pfin r) s = execPfin r s := rfl
theorem exec_cpout (r : EngRec) (s : State) : exec (.cpout r) s = execCpout r s := rfl
theorem exec_scatout (r : EngRec) (s : State) : exec (.scatout r) s = execScatout r s := rfl
theorem exec_cpouta (r : EngRec) (s : State) : exec (.cpouta r) s = execCpouta r s := rfl
theorem exec_cprem (r : EngRec) (s : State) : exec (.cprem r) s = execCprem r s := rfl
theorem exec_tx (r : EngRec) (s : State) : exec (.tx r) s = execTx r s := rfl
theorem exec_muxsel (r : EngRec) (s : State) : exec (.muxsel r) s = execMuxsel r s := rfl
theorem exec_xhold (r : EngRec) (s : State) : exec (.xhold r) s = execXhold r s := rfl
theorem exec_xend (r : EngRec) (s : State) : exec (.xend r) s = execXend r s := rfl
theorem exec_ladd (d a b : SlReg) (s : State) : exec (.ladd d a b) s = execLadd d a b s := rfl
theorem exec_lsub (d a b : SlReg) (s : State) : exec (.lsub d a b) s = execLsub d a b s := rfl
theorem exec_land (d a b : SlReg) (s : State) : exec (.land d a b) s = execLand d a b s := rfl
theorem exec_lor (d a b : SlReg) (s : State) : exec (.lor d a b) s = execLor d a b s := rfl
theorem exec_lxor (d a b : SlReg) (s : State) : exec (.lxor d a b) s = execLxor d a b s := rfl
theorem exec_lmin (d a b : SlReg) (s : State) : exec (.lmin d a b) s = execLmin d a b s := rfl
theorem exec_lmax (d a b : SlReg) (s : State) : exec (.lmax d a b) s = execLmax d a b s := rfl
theorem exec_lminu (d a b : SlReg) (s : State) : exec (.lminu d a b) s = execLminu d a b s := rfl
theorem exec_lmaxu (d a b : SlReg) (s : State) : exec (.lmaxu d a b) s = execLmaxu d a b s := rfl
theorem exec_lshl (d a b : SlReg) (s : State) : exec (.lshl d a b) s = execLshl d a b s := rfl
theorem exec_lshr (d a b : SlReg) (s : State) : exec (.lshr d a b) s = execLshr d a b s := rfl
theorem exec_lcmp (a b : SlReg) (cc : BitVec 4) (s : State) : exec (.lcmp a b cc) s = execLcmp a b cc s := rfl
theorem exec_lsel (d a b : SlReg) (s : State) : exec (.lsel d a b) s = execLsel d a b s := rfl
theorem exec_lmov (d a : SlReg) (s : State) : exec (.lmov d a) s = execLmov d a s := rfl
theorem exec_lmovi (d : SlReg) (imm : BitVec 11) (s : State) : exec (.lmovi d imm) s = execLmovi d imm s := rfl
theorem exec_laddf (d a b : SlReg) (s : State) : exec (.laddf d a b) s = execLaddf d a b s := rfl
theorem exec_lins (d a : SlReg) (pos wm1 : BitVec 6) (s : State) : exec (.lins d a pos wm1) s = execLins d a pos wm1 s := rfl
theorem exec_lext (d a : SlReg) (pos wm1 : BitVec 6) (s : State) : exec (.lext d a pos wm1) s = execLext d a pos wm1 s := rfl
theorem exec_lret (s : State) : exec (.lret) s = execLret s := rfl
theorem exec_lfail (s : State) : exec (.lfail) s = execLfail s := rfl
theorem exec_lnop (s : State) : exec (.lnop) s = execLnop s := rfl
theorem exec_landing (s : State) : exec (.landing) s = execLanding s := rfl
theorem exec_recordStart (s : State) : exec (.recordStart) s = execRecordStart s := rfl
theorem exec_recordRetirement (s : State) : exec (.recordRetirement) s = execRecordRetirement s := rfl
theorem exec_phaseMarker (s : State) : exec (.phaseMarker) s = execPhaseMarker s := rfl
theorem exec_phaseCompletion (s : State) : exec (.phaseCompletion) s = execPhaseCompletion s := rfl
theorem exec_sliceInvocation (s : State) : exec (.sliceInvocation) s = execSliceInvocation s := rfl
theorem exec_slxReply (s : State) : exec (.slxReply) s = execSlxReply s := rfl
theorem exec_pageMigration (s : State) : exec (.pageMigration) s = execPageMigration s := rfl
theorem exec_waitRegistration (s : State) : exec (.waitRegistration) s = execWaitRegistration s := rfl
theorem exec_barrierCompletion (s : State) : exec (.barrierCompletion) s = execBarrierCompletion s := rfl
theorem exec_transferPhaseStart (s : State) : exec (.transferPhaseStart) s = execTransferPhaseStart s := rfl
theorem exec_transferPhaseClose (s : State) : exec (.transferPhaseClose) s = execTransferPhaseClose s := rfl
theorem exec_trapEntry (s : State) : exec (.trapEntry) s = execTrapEntry s := rfl
theorem exec_walkerTake (s : State) : exec (.walkerTake) s = execWalkerTake s := rfl
theorem exec_prodNotification (s : State) : exec (.prodNotification) s = execProdNotification s := rfl
theorem exec_dispatch (s : State) : exec (.dispatch) s = execDispatch s := rfl
theorem exec_unitResume (s : State) : exec (.unitResume) s = execUnitResume s := rfl
theorem exec_harvestDeal (s : State) : exec (.harvestDeal) s = execHarvestDeal s := rfl
theorem exec_unpark (s : State) : exec (.unpark) s = execUnpark s := rfl
theorem exec_revocation (s : State) : exec (.revocation) s = execRevocation s := rfl
theorem exec_leaseTermEnd (s : State) : exec (.leaseTermEnd) s = execLeaseTermEnd s := rfl
theorem exec_yieldHoldEnd (s : State) : exec (.yieldHoldEnd) s = execYieldHoldEnd s := rfl
theorem exec_frameStart (s : State) : exec (.frameStart) s = execFrameStart s := rfl
theorem exec_windowBoundary (s : State) : exec (.windowBoundary) s = execWindowBoundary s := rfl
theorem exec_forcedPreemption (s : State) : exec (.forcedPreemption) s = execForcedPreemption s := rfl
theorem exec_defEnd (s : State) : exec (.defEnd) s = execDefEnd s := rfl
theorem exec_budgetTime (s : State) : exec (.budgetTime) s = execBudgetTime s := rfl
theorem exec_intervalBoundary (s : State) : exec (.intervalBoundary) s = execIntervalBoundary s := rfl
theorem exec_railConfirmed (s : State) : exec (.railConfirmed) s = execRailConfirmed s := rfl
theorem exec_dividerSwitch (s : State) : exec (.dividerSwitch) s = execDividerSwitch s := rfl
theorem exec_regulatorRefill (s : State) : exec (.regulatorRefill) s = execRegulatorRefill s := rfl
theorem exec_regulatorTrip (s : State) : exec (.regulatorTrip) s = execRegulatorTrip s := rfl
theorem exec_wayReassignment (s : State) : exec (.wayReassignment) s = execWayReassignment s := rfl
theorem exec_pageWorldChange (s : State) : exec (.pageWorldChange) s = execPageWorldChange s := rfl
theorem exec_pendingZeroFill (s : State) : exec (.pendingZeroFill) s = execPendingZeroFill s := rfl
theorem exec_guestReset (s : State) : exec (.guestReset) s = execGuestReset s := rfl
theorem exec_guestResetDrain (s : State) : exec (.guestResetDrain) s = execGuestResetDrain s := rfl
theorem exec_scrubSweep (s : State) : exec (.scrubSweep) s = execScrubSweep s := rfl
theorem exec_retentionEntry (s : State) : exec (.retentionEntry) s = execRetentionEntry s := rfl
theorem exec_retentionExit (s : State) : exec (.retentionExit) s = execRetentionExit s := rfl
theorem exec_lockstepMismatch (s : State) : exec (.lockstepMismatch) s = execLockstepMismatch s := rfl
theorem exec_eccError (s : State) : exec (.eccError) s = execEccError s := rfl
theorem exec_sensorRead (s : State) : exec (.sensorRead) s = execSensorRead s := rfl
theorem exec_railExcursion (s : State) : exec (.railExcursion) s = execRailExcursion s := rfl
theorem exec_railHalt (s : State) : exec (.railHalt) s = execRailHalt s := rfl
theorem exec_watchdog (s : State) : exec (.watchdog) s = execWatchdog s := rfl
theorem exec_tsync (s : State) : exec (.tsync) s = execTsync s := rfl
theorem exec_tsynclost (s : State) : exec (.tsynclost) s = execTsynclost s := rfl
theorem exec_gtcslew (s : State) : exec (.gtcslew) s = execGtcslew s := rfl
theorem exec_doorbell (s : State) : exec (.doorbell) s = execDoorbell s := rfl
theorem exec_blobLoad (s : State) : exec (.blobLoad) s = execBlobLoad s := rfl
theorem exec_imageLoad (s : State) : exec (.imageLoad) s = execImageLoad s := rfl
theorem exec_registerWrite (s : State) : exec (.registerWrite) s = execRegisterWrite s := rfl
theorem exec_elog (s : State) : exec (.elog) s = execElog s := rfl
theorem exec_faultclr (s : State) : exec (.faultclr) s = execFaultclr s := rfl
theorem exec_statusFrame (s : State) : exec (.statusFrame) s = execStatusFrame s := rfl
theorem exec_moduleReset (s : State) : exec (.moduleReset) s = execModuleReset s := rfl
theorem exec_boot (s : State) : exec (.boot) s = execBoot s := rfl
theorem exec_functionLevelReset (s : State) : exec (.functionLevelReset) s = execFunctionLevelReset s := rfl
theorem exec_lockInterface (s : State) : exec (.lockInterface) s = execLockInterface s := rfl
theorem exec_getDeviceInterfaceReport (s : State) : exec (.getDeviceInterfaceReport) s = execGetDeviceInterfaceReport s := rfl
theorem exec_startInterface (s : State) : exec (.startInterface) s = execStartInterface s := rfl
theorem exec_stopInterface (s : State) : exec (.stopInterface) s = execStopInterface s := rfl
theorem exec_getState (s : State) : exec (.getState) s = execGetState s := rfl
theorem exec_getMeasurements (s : State) : exec (.getMeasurements) s = execGetMeasurements s := rfl
theorem exec_keyErasure (s : State) : exec (.keyErasure) s = execKeyErasure s := rfl
theorem exec_hostCompletion (s : State) : exec (.hostCompletion) s = execHostCompletion s := rfl
theorem exec_pageRequestResponse (s : State) : exec (.pageRequestResponse) s = execPageRequestResponse s := rfl
theorem exec_pageRequestTimeout (s : State) : exec (.pageRequestTimeout) s = execPageRequestTimeout s := rfl
theorem exec_accessArrival (s : State) : exec (.accessArrival) s = execAccessArrival s := rfl
theorem exec_rootControllerMismatch (s : State) : exec (.rootControllerMismatch) s = execRootControllerMismatch s := rfl
theorem exec_clockMonitor (s : State) : exec (.clockMonitor) s = execClockMonitor s := rfl
theorem exec_keySwitch (s : State) : exec (.keySwitch) s = execKeySwitch s := rfl
theorem exec_configurationRequest (s : State) : exec (.configurationRequest) s = execConfigurationRequest s := rfl

end Sys2Proof.Machine
end

