-- ==== Sys2Proof/Laws/Memory.lean ====
section
/-! SUPPORT. The canonical form of a byte memory is kept by every operation, and a byte read is the byte written last (R4, R25). -/

namespace Sys2Proof.Machine

/-! ## The canonical form -/

theorem okAfter_mono {a b : Nat} (h : b ≤ a) : ∀ {m : Mem}, Mem.okAfter a m = true → Mem.okAfter b m = true
  | [], _ => rfl
  | (x, v) :: r, hm => by
    simp only [Mem.okAfter, Bool.and_eq_true, decide_eq_true_eq] at hm ⊢
    exact ⟨⟨by omega, hm.1.2⟩, hm.2⟩

theorem wf_of_okAfter {a : Nat} : ∀ {m : Mem}, Mem.okAfter a m = true → m.wf = true
  | [], _ => rfl
  | (x, v) :: r, hm => by
    simp only [Mem.okAfter, Mem.wf, Bool.and_eq_true] at hm ⊢
    exact ⟨hm.1.2, hm.2⟩

theorem wf_tail {x : Nat} {v : Byte} {r : Mem} (h : Mem.wf ((x, v) :: r) = true) : Mem.okAfter x r = true := by
  simp only [Mem.wf, Bool.and_eq_true] at h; exact h.2

theorem wf_cons {x : Nat} {v : Byte} {r : Mem} (hv : v ≠ 0) (h : Mem.okAfter x r = true) : Mem.wf ((x, v) :: r) = true := by
  simp only [Mem.wf, Bool.and_eq_true]; exact ⟨by simpa using hv, h⟩

theorem okAfter_set {a : Nat} : ∀ {m : Mem} {b : Nat} {v : Byte}, a < b → Mem.okAfter a m = true → Mem.okAfter a (m.set b v) = true
  | [], b, v, hb, _ => by
    unfold Mem.set; split
    · rfl
    · rename_i hv; simp only [Mem.okAfter, Bool.and_eq_true, decide_eq_true_eq]; exact ⟨⟨hb, by simpa using hv⟩, trivial⟩
  | (x, w) :: r, b, v, hb, hm => by
    have hm' := hm
    simp only [Mem.okAfter, Bool.and_eq_true, decide_eq_true_eq] at hm
    unfold Mem.set; split
    · rename_i hx
      split
      · exact hm'
      · rename_i hv
        simp only [Mem.okAfter, Bool.and_eq_true, decide_eq_true_eq]
        exact ⟨⟨hb, by simpa using hv⟩, ⟨hx, hm.1.2⟩, hm.2⟩
    · split
      · rename_i hx; subst hx
        split
        · exact okAfter_mono (by omega) hm.2
        · rename_i hv
          simp only [Mem.okAfter, Bool.and_eq_true, decide_eq_true_eq]; exact ⟨⟨hb, by simpa using hv⟩, hm.2⟩
      · simp only [Mem.okAfter, Bool.and_eq_true, decide_eq_true_eq]
        exact ⟨hm.1, okAfter_set (by omega) hm.2⟩

/-- A byte written keeps the canonical form. -/
theorem wf_set {m : Mem} {a : Nat} {v : Byte} (h : m.wf = true) : (m.set a v).wf = true := by
  match m, h with
  | [], _ =>
    unfold Mem.set; split
    · rfl
    · rename_i hv; exact wf_cons hv rfl
  | (x, w) :: r, h =>
    have hw : w ≠ 0 := by simp only [Mem.wf, Bool.and_eq_true] at h; simpa using h.1
    have hr := wf_tail h
    unfold Mem.set; split
    · rename_i hx; split
      · exact h
      · rename_i hv
        refine wf_cons hv ?_
        simp only [Mem.okAfter, Bool.and_eq_true, decide_eq_true_eq]; exact ⟨⟨hx, by simpa using hw⟩, hr⟩
    · split
      · rename_i hx; subst hx
        split
        · exact wf_of_okAfter hr
        · rename_i hv; exact wf_cons hv hr
      · exact wf_cons hw (okAfter_set (by omega) hr)

/-- Bytes written keep the canonical form. -/
theorem wf_write : ∀ {bs : List Byte} {m : Mem} {a : Nat}, m.wf = true → (m.write a bs).wf = true
  | [], _, _, h => h
  | b :: r, m, a, h => by rw [Mem.write]; exact wf_write (bs := r) (wf_set h)

theorem okAfter_filter {p : Nat × Byte → Bool} : ∀ {m : Mem} {a : Nat}, Mem.okAfter a m = true → Mem.okAfter a (m.filter p) = true
  | [], _, _ => rfl
  | (x, w) :: r, a, h => by
    simp only [Mem.okAfter, Bool.and_eq_true, decide_eq_true_eq] at h
    rw [List.filter_cons]; split
    · simp only [Mem.okAfter, Bool.and_eq_true, decide_eq_true_eq]; exact ⟨h.1, okAfter_filter h.2⟩
    · exact okAfter_mono (by omega) (okAfter_filter (m := r) h.2)

/-- Cells removed keep the canonical form. -/
theorem wf_filter {p : Nat × Byte → Bool} : ∀ {m : Mem}, m.wf = true → Mem.wf (m.filter p) = true
  | [], _ => rfl
  | (x, w) :: r, h => by
    have hw : w ≠ 0 := by simp only [Mem.wf, Bool.and_eq_true] at h; simpa using h.1
    rw [List.filter_cons]; split
    · exact wf_cons hw (okAfter_filter (wf_tail h))
    · exact wf_of_okAfter (okAfter_filter (p := p) (wf_tail h))

theorem wf_clear {m : Mem} {lo hi : Nat} (h : m.wf = true) : (m.clear lo hi).wf = true := wf_filter h
theorem wf_part {m : Mem} {lo hi : Nat} (h : m.wf = true) : (m.part lo hi).wf = true := wf_filter h

/-- Every listed byte of a canonical memory is above the bound. -/
theorem okAfter_lt : ∀ {m : Mem} {a : Nat}, Mem.okAfter a m = true → ∀ e ∈ m, a < e.1
  | [], _, _, _, h => by cases h
  | (x, w) :: r, a, hm, e, he => by
    simp only [Mem.okAfter, Bool.and_eq_true, decide_eq_true_eq] at hm
    rcases List.mem_cons.1 he with rfl | he
    · exact hm.1.1
    · exact lt_trans hm.1.1 (okAfter_lt hm.2 e he)

/-- Two canonical lists joined, all of the first below all of the second. -/
theorem okAfter_append : ∀ {m n : Mem} {a : Nat}, Mem.okAfter a m = true → n.wf = true →
    (∀ e ∈ n, a < e.1) → (∀ e ∈ m, ∀ f ∈ n, e.1 < f.1) → Mem.okAfter a (m ++ n) = true
  | [], [], _, _, _, _, _ => rfl
  | [], (x, w) :: r, a, _, hn, ha, _ => by
    have := ha (x, w) (List.mem_cons_self ..)
    simp only [Mem.wf, Bool.and_eq_true] at hn
    simp only [List.nil_append, Mem.okAfter, Bool.and_eq_true, decide_eq_true_eq]; exact ⟨⟨this, hn.1⟩, hn.2⟩
  | (x, w) :: r, n, a, hm, hn, _, hmn => by
    simp only [Mem.okAfter, Bool.and_eq_true, decide_eq_true_eq] at hm
    simp only [List.cons_append, Mem.okAfter, Bool.and_eq_true, decide_eq_true_eq]
    exact ⟨hm.1, okAfter_append hm.2 hn (fun e he => hmn (x, w) (List.mem_cons_self ..) e he)
      (fun e he f hf => hmn e (List.mem_cons_of_mem _ he) f hf)⟩

theorem wf_append {m n : Mem} (hm : m.wf = true) (hn : n.wf = true) (h : ∀ e ∈ m, ∀ f ∈ n, e.1 < f.1) :
    Mem.wf (m ++ n) = true := by
  match m, hm with
  | [], _ => simpa using hn
  | (x, w) :: r, hm =>
    have hw : w ≠ 0 := by simp only [Mem.wf, Bool.and_eq_true] at hm; simpa using hm.1
    exact wf_cons hw (okAfter_append (wf_tail hm) hn (fun e he => h (x, w) (List.mem_cons_self ..) e he)
      (fun e he f hf => h e (List.mem_cons_of_mem _ he) f hf))

theorem okAfter_shift {src dst : Nat} : ∀ {m : Mem} {a : Nat}, Mem.okAfter a m = true → src ≤ a →
    Mem.okAfter (a - src + dst) (m.shift src dst) = true
  | [], _, _, _ => rfl
  | (x, w) :: r, a, hm, ha => by
    simp only [Mem.okAfter, Bool.and_eq_true, decide_eq_true_eq] at hm
    have := okAfter_shift (src := src) (dst := dst) hm.2 (by omega)
    simp only [Mem.shift, List.map_cons, Mem.okAfter, Bool.and_eq_true, decide_eq_true_eq]
    exact ⟨⟨by omega, hm.1.2⟩, this⟩

/-- A canonical memory moved stays canonical. -/
theorem wf_shift {m : Mem} {src dst : Nat} (h : m.wf = true) (hs : ∀ e ∈ m, src ≤ e.1) : (m.shift src dst).wf = true := by
  match m, h with
  | [], _ => rfl
  | (x, w) :: r, h =>
    have hw : w ≠ 0 := by simp only [Mem.wf, Bool.and_eq_true] at h; simpa using h.1
    exact wf_cons hw (okAfter_shift (wf_tail h) (hs (x, w) (List.mem_cons_self ..)))

theorem wf_splice {m x : Mem} {dst n src : Nat} (hm : m.wf = true) (hx : x.wf = true) : (m.splice dst n x src).wf = true := by
  have hp : (x.part src (src + n)).wf = true := wf_part hx
  have hlo : ∀ e ∈ x.part src (src + n), src ≤ e.1 ∧ e.1 < src + n := by
    intro e he
    have := (List.mem_filter.1 he).2
    simpa using this
  have hsh : ((x.part src (src + n)).shift src dst).wf = true := wf_shift hp (fun e he => (hlo e he).1)
  have hb : ∀ e ∈ (x.part src (src + n)).shift src dst, dst ≤ e.1 ∧ e.1 < dst + n := by
    intro e he
    obtain ⟨f, hf, rfl⟩ := List.mem_map.1 he
    have := hlo f hf
    constructor <;> simp only <;> omega
  refine wf_append (wf_append (wf_filter hm) hsh ?_) (wf_filter hm) ?_
  · intro e he f hf
    have h1 : e.1 < dst := by simpa using (List.mem_filter.1 he).2
    have := (hb f hf).1; omega
  · intro e he f hf
    have h2 : dst + n ≤ f.1 := by simpa using (List.mem_filter.1 hf).2
    rcases List.mem_append.1 he with he | he
    · have h1 : e.1 < dst := by simpa using (List.mem_filter.1 he).2
      omega
    · have := (hb e he).2; omega

/-! ## Read after write -/

theorem get_below : ∀ {m : Mem} {a b : Nat}, Mem.okAfter a m = true → b ≤ a → m.get b = 0
  | [], _, _, _, _ => rfl
  | (x, w) :: r, a, b, hm, hb => by
    simp only [Mem.okAfter, Bool.and_eq_true, decide_eq_true_eq] at hm
    unfold Mem.get
    rw [if_neg (by omega), if_pos (by omega)]

theorem get_set_after : ∀ {m : Mem} {a b c : Nat} {v : Byte}, Mem.okAfter c m = true →
    (m.set a v).get b = if b = a then v else m.get b
  | [], a, b, _, v, _ => by
    unfold Mem.set; split
    · rename_i hv; subst hv; simp [Mem.get]
    · simp only [Mem.get]; split_ifs <;> first | rfl | omega
  | (x, w) :: r, a, b, c, v, hm => by
    simp only [Mem.okAfter, Bool.and_eq_true, decide_eq_true_eq] at hm
    have ih := fun a b v => get_set_after (a := a) (b := b) (v := v) hm.2
    unfold Mem.set; split
    · rename_i hx; split
      · rename_i hv; subst hv
        by_cases hb : b = a
        · subst hb; simp only [Mem.get]; rw [if_neg (by omega), if_pos (by omega)]; simp
        · rw [if_neg hb]
      · by_cases hb : b = a
        · subst hb; simp [Mem.get]
        · rw [if_neg hb]; simp only [Mem.get]
          split_ifs <;> first | rfl | omega
    · split
      · rename_i hx; subst hx
        split
        · rename_i hv; subst hv
          by_cases hb : b = a
          · subst hb; rw [if_pos rfl]; exact get_below hm.2 (le_refl _)
          · rw [if_neg hb]; simp only [Mem.get]
            split_ifs with h1 h2
            · omega
            · exact get_below hm.2 (by omega)
            · rfl
        · by_cases hb : b = a
          · subst hb; simp [Mem.get]
          · rw [if_neg hb]; simp only [Mem.get]; split_ifs <;> first | rfl | omega
      · simp only [Mem.get]
        split_ifs with h1 h2 h3 h4 h5 <;> first | rfl | omega | (rw [ih]; simp_all) 

/-- A byte after a write of one byte. -/
theorem get_set {m : Mem} {a b : Nat} {v : Byte} (h : m.wf = true) : (m.set a v).get b = if b = a then v else m.get b := by
  match m, h with
  | [], _ => exact get_set_after (c := 0) rfl
  | (x, w) :: r, h =>
    by_cases hx : x = 0
    · subst hx
      have hr := wf_tail h
      unfold Mem.set; split
      · omega
      · split
        · rename_i ha; subst ha
          split
          · rename_i hv; subst hv
            by_cases hb : b = 0
            · subst hb; rw [if_pos rfl]; exact get_below hr (le_refl _)
            · rw [if_neg hb]; simp only [Mem.get]; rw [if_neg (by omega), if_neg (by omega)]
          · by_cases hb : b = 0
            · subst hb; simp [Mem.get]
            · rw [if_neg hb]; simp only [Mem.get]; split_ifs <;> first | rfl | omega
        · simp only [Mem.get]
          have ih := get_set_after (a := a) (b := b) (v := v) hr
          split_ifs <;> first | rfl | omega | (rw [ih]; simp_all)
    · refine get_set_after (c := 0) ?_
      simp only [Mem.wf, Bool.and_eq_true] at h
      simp only [Mem.okAfter, Bool.and_eq_true, decide_eq_true_eq]
      exact ⟨⟨by omega, h.1⟩, h.2⟩

/-- A byte outside a write reads as before. -/
theorem get_write_outside : ∀ {bs : List Byte} {m : Mem} {a b : Nat}, m.wf = true → (b < a ∨ a + bs.length ≤ b) →
    (m.write a bs).get b = m.get b
  | [], _, _, _, _, _ => rfl
  | x :: r, m, a, b, h, hb => by
    simp only [List.length_cons] at hb
    rw [Mem.write, get_write_outside (wf_set h) (by omega), get_set h, if_neg (by omega)]

/-- A byte inside a write reads as written. -/
theorem get_write_inside : ∀ {bs : List Byte} {m : Mem} {a n : Nat}, m.wf = true → (hn : n < bs.length) →
    (m.write a bs).get (a + n) = bs[n]
  | [], _, _, _, _, hn => by simp at hn
  | x :: r, m, a, n, h, hn => by
    match n with
    | 0 => rw [Mem.write, get_write_outside (wf_set h) (by omega), get_set h]; simp
    | k + 1 =>
      have := get_write_inside (bs := r) (m := m.set a x) (a := a + 1) (n := k) (wf_set h) (by simpa using hn)
      rw [Mem.write]
      have e : a + (k + 1) = a + 1 + k := by omega
      rw [e, this]; simp

/-- The bytes just written are read back. -/
theorem read_write {bs : List Byte} {m : Mem} {a : Nat} (h : m.wf = true) : (m.write a bs).read a bs.length = bs := by
  have key : ∀ (n : Nat) (k : Nat), k + n = bs.length → (m.write a bs).read (a + k) n = bs.drop k := by
    intro n
    induction n with
    | zero => intro k hk; rw [Mem.read, List.drop_of_length_le (by omega)]
    | succ n ih =>
      intro k hk
      rw [Mem.read, get_write_inside h (by omega)]
      have : a + k + 1 = a + (k + 1) := by omega
      rw [this, ih (k + 1) (by omega)]
      exact (List.drop_eq_getElem_cons (by omega)).symm
  simpa using key bs.length 0 (by omega)

end Sys2Proof.Machine
end

