-- ==== Sys2Proof/Laws/PerInstr.lean ====
section
/-! SUPPORT. The fields of every well-formed instruction decode to it, one lemma per constructor (R30-R39, R70-R72 control words;
R41, R77, R78 records; R56, R80 slice words). -/

namespace Sys2Proof.Laws.RoundTrip

set_option Elab.async false

/-- The fields of an instruction decode to it; a record's engine and OPC name it; an event has no word. -/
def Statement (i : Instr) : Prop :=
  i.wf = true → (∀ f, encodeFields i = some f → decodeFields f = .ok i)
    ∧ (∀ e o r, recordParts i = some (e, o, r) → ∃ k, recordCtor e o.toNat = some k ∧ k r = i)
    ∧ (∀ w, encodeSl i = some w → decodeSl w = .ok i)

/-! ## The four kinds of constructor -/

theorem ofCtl {i : Instr} {f : Fields} (he : encodeFields i = some f) (hr : recordParts i = none) (hs : encodeSl i = none)
    (h : i.wf = true → decodeFields f = .ok i) : Statement i := by
  intro w
  refine ⟨fun f' hf => ?_, fun e o r h => ?_, fun w h => ?_⟩
  · rw [he] at hf; cases hf; exact h w
  · rw [hr] at h; cases h
  · rw [hs] at h; cases h

theorem ofRec {i : Instr} {e : Eng} {o : BitVec 8} {r : EngRec} {k : EngRec → Instr} (he : encodeFields i = none)
    (hr : recordParts i = some (e, o, r)) (hs : encodeSl i = none) (h : recordCtor e o.toNat = some k) (hk : k r = i) :
    Statement i := by
  intro _
  refine ⟨fun f hf => ?_, fun e' o' r' h' => ?_, fun w h => ?_⟩
  · rw [he] at hf; cases hf
  · rw [hr] at h'; cases h'; exact ⟨k, h, hk⟩
  · rw [hs] at h; cases h

theorem ofSl {i : Instr} {w : BitVec 32} (he : encodeFields i = none) (hr : recordParts i = none) (hs : encodeSl i = some w)
    (h : i.wf = true → decodeSl w = .ok i) : Statement i := by
  intro hw
  refine ⟨fun f hf => ?_, fun e o r h' => ?_, fun w' h' => ?_⟩
  · rw [he] at hf; cases hf
  · rw [hr] at h'; cases h'
  · rw [hs] at h'; cases h'; exact h hw

theorem ofEvent {i : Instr} (he : encodeFields i = none) (hr : recordParts i = none) (hs : encodeSl i = none) :
    Statement i := by
  intro _
  refine ⟨fun f hf => ?_, fun e o r h' => ?_, fun w' h' => ?_⟩
  · rw [he] at hf; cases hf
  · rw [hr] at h'; cases h'
  · rw [hs] at h'; cases h'

/-! ## The shapes of control words -/

theorem r3_word (k : Pred → Reg → Reg → Reg → Instr) (o : BitVec 8) (p : Pred) (d a b : Reg) (h : p.ok = true) :
    decR3 k (encR o p 0 d a b 0) = .ok (k p d a b) := by simp [decR3, encR, chk, Fields.pred, h]
theorem r2_word (k : Pred → Reg → Reg → Instr) (o : BitVec 8) (p : Pred) (d a : Reg) (h : p.ok = true) :
    decR2 k (encR o p 0 d a 0 0) = .ok (k p d a) := by simp [decR2, encR, chk, Fields.pred, h]
theorem r4_word (k : Pred → Reg → Reg → Reg → Reg → Instr) (o : BitVec 8) (p : Pred) (d a b c : Reg) (h : p.ok = true) :
    decR4 k (encR o p 0 d a b (xC c)) = .ok (k p d a b c) := by simp [decR4, encR, chk, Fields.pred, h, cReg]
theorem imm_word (k : Pred → Reg → Reg → BitVec 36 → Instr) (o : BitVec 8) (p : Pred) (d a : Reg) (i : BitVec 36)
    (h : p.ok = true) : decImm k (encI o p 0 d a i) = .ok (k p d a i) := by simp [decImm, encI, encR, chk, Fields.pred, h]
theorem sh_word (k : Pred → Reg → Reg → BitVec 6 → Instr) (o : BitVec 8) (p : Pred) (d a : Reg) (n : BitVec 6)
    (h : p.ok = true) : decSh k (encI o p 0 d a (n.setWidth 36)) = .ok (k p d a n) := by
  have h1 : (n.setWidth 36).extractLsb' 30 6 = 0 := by revert n; decide
  have h2 : ((n.setWidth 36).extractLsb' 0 30).extractLsb' 6 24 = 0 := by revert n; decide
  have h3 : ((n.setWidth 36).extractLsb' 0 30).extractLsb' 0 6 = n := by revert n; decide
  simp only [decSh, encI, encR, chk, Fields.pred, h, h1, h2, h3]; rfl
theorem kkk_word (k : Pred → KReg → KReg → KReg → Instr) (o : BitVec 8) (p : Pred) (d a b : KReg) (h : p.ok = true) :
    decK3 k (encR o p 0 (k6 d) (k6 a) (k6 b) 0) = .ok (k p d a b) := by simp [decK3, encR, chk, Fields.pred, h]
theorem r0_word (k : Pred → Instr) (o : BitVec 8) (p : Pred) (h : p.ok = true) :
    decR0 k (encR o p 0 0 0 0 0) = .ok (k p) := by simp [decR0, encR, chk, Fields.pred, h]
theorem br_word (k : Pred → BitVec 48 → Instr) (o : BitVec 8) (p : Pred) (off : BitVec 48) (h : p.ok = true) :
    decBr k (encB o p off) = .ok (k p off) := by simp [decBr, encB, encR, chk, Fields.pred, h]
theorem rA_word (k : Pred → Reg → Instr) (o : BitVec 8) (p : Pred) (a : Reg) (h : p.ok = true) :
    decA k (encR o p 0 0 a 0 0) = .ok (k p a) := by simp [decA, encR, chk, Fields.pred, h]
theorem rD_word (k : Pred → Reg → Instr) (o : BitVec 8) (p : Pred) (d : Reg) (hp : p.ok = true) (h : (k p d).wf = true) :
    decD k (encR o p 0 d 0 0 0) = .ok (k p d) := by simp [decD, encR, chk, Fields.pred, h, hp]
theorem rE_word (k : Pred → Eng → Instr) (o : BitVec 8) (p : Pred) (e : Eng) (hp : p.ok = true) (h : (k p e).wf = true) :
    decE k (encR o p e.bits 0 0 0 0) = .ok (k p e) := by
  cases e <;> simp [decE, decEng, encR, chk, Fields.pred, Eng.bits, Eng.ofCode, h, hp]
theorem rDE_word (k : Pred → Reg → Eng → Instr) (o : BitVec 8) (p : Pred) (d : Reg) (e : Eng) (hp : p.ok = true)
    (h : (k p d e).wf = true) : decDE k (encR o p e.bits d 0 0 0) = .ok (k p d e) := by
  cases e <;> simp [decDE, decEng, encR, chk, Fields.pred, Eng.bits, Eng.ofCode, h, hp]
theorem sem_word (k : Pred → BitVec 6 → Reg → Instr) (o : BitVec 8) (p : Pred) (n : BitVec 6) (a : Reg) (h : p.ok = true) :
    decSem k (encR o p 0 0 a 0 (n.setWidth 30)) = .ok (k p n a) := by
  simp [decSem, encR, chk, Fields.pred, h, low_setWidth, high_setWidth]
theorem lv_word (k : Pred → BitVec 2 → Instr) (o : BitVec 8) (p : Pred) (l : BitVec 2) (h : p.ok = true) :
    decLv k (encR o p (l.setWidth 4) 0 0 0 0) = .ok (k p l) := by
  simp [decLv, encR, chk, Fields.pred, h, low_setWidth, high_setWidth]
theorem rb_word (k : Pred → Reg → BitVec 18 → RbReg → Instr) (o : BitVec 8) (p : Pred) (a : Reg) (off : BitVec 18) (n : RbReg)
    (h : p.ok = true) : decRb k (encR o p 0 0 a 0 (xRb off n)) = .ok (k p a off n) := by
  simp [decRb, encR, chk, Fields.pred, h]
theorem x16_word (k : Pred → BitVec 16 → Instr) (o : BitVec 8) (p : Pred) (n : BitVec 16) (h : p.ok = true) :
    dec16 k (encR o p 0 0 0 0 (n.setWidth 30)) = .ok (k p n) := by
  simp [dec16, encR, chk, Fields.pred, h, low_setWidth, high_setWidth]

/-- A service number without a row of its own (R408, R409). -/
theorem service_hvc (p : Pred) (n : BitVec 16) (h : namedService n = false) : service p n = .hvc p n := by
  unfold service
  split <;> first
    | rfl
    | (rename_i x; exfalso; have e := BitVec.ofNat_toNat 16 n; rw [x] at e; rw [BitVec.setWidth_eq] at e; rw [← e] at h; revert h; decide)

/-- X of FENCE (R38). -/
def fenceX (m : BitVec 16) (sc : BitVec 2) : BitVec 30 := (0 : BitVec 7) ++ sc ++ (0 : BitVec 5) ++ m

theorem fenceX_parts (m : BitVec 16) (sc : BitVec 2) :
    (fenceX m sc).extractLsb' 28 2 = 0 ∧ (fenceX m sc).extractLsb' 26 2 = 0 ∧ (fenceX m sc).extractLsb' 24 2 = 0
      ∧ (fenceX m sc).extractLsb' 23 1 = 0 ∧ (fenceX m sc).extractLsb' 21 2 = sc ∧ (fenceX m sc).extractLsb' 16 5 = 0
      ∧ (fenceX m sc).extractLsb' 0 16 = m := by
  refine ⟨?_, ?_, ?_, ?_, ?_, ?_, ?_⟩ <;> apply BitVec.eq_of_getLsbD_eq <;> intro i hi <;>
    simp only [fenceX, BitVec.getLsbD_extractLsb', BitVec.getLsbD_append, hi, decide_true, Bool.true_and] <;>
    split_ifs <;> first | omega | exact congrArg (BitVec.getLsbD _) (by omega) | simp

theorem ofNum_num (r : SReg) : SReg.ofNum (r.num.extractLsb' 0 12).toNat = some r := by
  cases r <;> first | rfl | (rename_i e; cases e <;> rfl)

theorem ofNum_mod (r : SReg) : SReg.ofNum (r.num.toNat % 4096) = some r := by
  cases r <;> first | rfl | (rename_i e; cases e <;> rfl)

theorem num_high (r : SReg) : r.num.extractLsb' 12 18 = 0 := by
  cases r <;> first | rfl | (rename_i e; cases e <;> rfl)

theorem mtsOf_mts (p : Pred) (r : SReg) (a : Reg) (h1 : r ≠ .evec) (h2 : r ≠ .ctxsave) : mtsOf p r a = .mts p r a := by
  cases r <;> first | rfl | exact absurd rfl h1 | exact absurd rfl h2

theorem fcvt_parts (dir : Bool) (ty : BitVec 4) :
    (0#1 ++ bit dir ++ ty).extractLsb' 5 1 = 0#1 ∧ (0#1 ++ bit dir ++ ty).extractLsb' 0 4 = ty
      ∧ ((0#1 ++ bit dir ++ ty).extractLsb' 4 1 == 1#1) = dir := by
  revert dir ty; decide

/-- The slice fields of LINS and LEXT (R80). -/
theorem slField_parts (pos wm1 : BitVec 6) :
    ((((wm1.extractLsb' 5 1).setWidth 5 : BitVec 5).extractLsb' 0 1 ++ ((wm1.extractLsb' 0 5) ++ pos : BitVec 11).extractLsb' 6 5 : BitVec 6) = wm1)
      ∧ ((wm1.extractLsb' 0 5) ++ pos : BitVec 11).extractLsb' 0 6 = pos := by
  revert pos wm1; decide

theorem slField_high (wm1 : BitVec 6) : ((wm1.extractLsb' 5 1).setWidth 5).extractLsb' 1 4 = 0#4 := by
  revert wm1; decide

/-! ## One lemma per constructor -/

theorem add (p : Pred) (d a b : Reg) : Statement (.add p d a b) :=
  ofCtl rfl rfl rfl fun h => r3_word .add 0x01 p d a b h
theorem sub (p : Pred) (d a b : Reg) : Statement (.sub p d a b) :=
  ofCtl rfl rfl rfl fun h => r3_word .sub 0x02 p d a b h
theorem mul (p : Pred) (d a b : Reg) : Statement (.mul p d a b) :=
  ofCtl rfl rfl rfl fun h => r3_word .mul 0x03 p d a b h
theorem mulh (p : Pred) (d a b : Reg) : Statement (.mulh p d a b) :=
  ofCtl rfl rfl rfl fun h => r3_word .mulh 0x04 p d a b h
theorem mulhu (p : Pred) (d a b : Reg) : Statement (.mulhu p d a b) :=
  ofCtl rfl rfl rfl fun h => r3_word .mulhu 0x05 p d a b h
theorem div (p : Pred) (d a b : Reg) : Statement (.div p d a b) :=
  ofCtl rfl rfl rfl fun h => r3_word .div 0x06 p d a b h
theorem divu (p : Pred) (d a b : Reg) : Statement (.divu p d a b) :=
  ofCtl rfl rfl rfl fun h => r3_word .divu 0x07 p d a b h
theorem rem (p : Pred) (d a b : Reg) : Statement (.rem p d a b) :=
  ofCtl rfl rfl rfl fun h => r3_word .rem 0x08 p d a b h
theorem remu (p : Pred) (d a b : Reg) : Statement (.remu p d a b) :=
  ofCtl rfl rfl rfl fun h => r3_word .remu 0x09 p d a b h
theorem and (p : Pred) (d a b : Reg) : Statement (.and p d a b) :=
  ofCtl rfl rfl rfl fun h => r3_word .and 0x0A p d a b h
theorem or (p : Pred) (d a b : Reg) : Statement (.or p d a b) :=
  ofCtl rfl rfl rfl fun h => r3_word .or 0x0B p d a b h
theorem xor (p : Pred) (d a b : Reg) : Statement (.xor p d a b) :=
  ofCtl rfl rfl rfl fun h => r3_word .xor 0x0C p d a b h
theorem andn (p : Pred) (d a b : Reg) : Statement (.andn p d a b) :=
  ofCtl rfl rfl rfl fun h => r3_word .andn 0x0D p d a b h
theorem shl (p : Pred) (d a b : Reg) : Statement (.shl p d a b) :=
  ofCtl rfl rfl rfl fun h => r3_word .shl 0x0E p d a b h
theorem shr (p : Pred) (d a b : Reg) : Statement (.shr p d a b) :=
  ofCtl rfl rfl rfl fun h => r3_word .shr 0x0F p d a b h
theorem sra (p : Pred) (d a b : Reg) : Statement (.sra p d a b) :=
  ofCtl rfl rfl rfl fun h => r3_word .sra 0x10 p d a b h
theorem rol (p : Pred) (d a b : Reg) : Statement (.rol p d a b) :=
  ofCtl rfl rfl rfl fun h => r3_word .rol 0x11 p d a b h
theorem min (p : Pred) (d a b : Reg) : Statement (.min p d a b) :=
  ofCtl rfl rfl rfl fun h => r3_word .min 0x12 p d a b h
theorem max (p : Pred) (d a b : Reg) : Statement (.max p d a b) :=
  ofCtl rfl rfl rfl fun h => r3_word .max 0x13 p d a b h
theorem minu (p : Pred) (d a b : Reg) : Statement (.minu p d a b) :=
  ofCtl rfl rfl rfl fun h => r3_word .minu 0x14 p d a b h
theorem maxu (p : Pred) (d a b : Reg) : Statement (.maxu p d a b) :=
  ofCtl rfl rfl rfl fun h => r3_word .maxu 0x15 p d a b h
theorem clz (p : Pred) (d a : Reg) : Statement (.clz p d a) :=
  ofCtl rfl rfl rfl fun h => r2_word .clz 0x16 p d a h
theorem ctz (p : Pred) (d a : Reg) : Statement (.ctz p d a) :=
  ofCtl rfl rfl rfl fun h => r2_word .ctz 0x17 p d a h
theorem popc (p : Pred) (d a : Reg) : Statement (.popc p d a) :=
  ofCtl rfl rfl rfl fun h => r2_word .popc 0x18 p d a h
theorem brev (p : Pred) (d a : Reg) : Statement (.brev p d a) :=
  ofCtl rfl rfl rfl fun h => r2_word .brev 0x19 p d a h
theorem sext (p : Pred) (d a b : Reg) : Statement (.sext p d a b) :=
  ofCtl rfl rfl rfl fun h => r3_word .sext 0x1A p d a b h
theorem zext (p : Pred) (d a b : Reg) : Statement (.zext p d a b) :=
  ofCtl rfl rfl rfl fun h => r3_word .zext 0x1B p d a b h
theorem sel (p : Pred) (d a b c : Reg) : Statement (.sel p d a b c) :=
  ofCtl rfl rfl rfl fun h => r4_word .sel 0x1C p d a b c h
theorem lea (p : Pred) (d a b c : Reg) : Statement (.lea p d a b c) :=
  ofCtl rfl rfl rfl fun h => r4_word .lea 0x1D p d a b c h
theorem addi (p : Pred) (d a : Reg) (imm : BitVec 36) : Statement (.addi p d a imm) :=
  ofCtl rfl rfl rfl fun h => imm_word .addi 0x20 p d a imm h
theorem andi (p : Pred) (d a : Reg) (imm : BitVec 36) : Statement (.andi p d a imm) :=
  ofCtl rfl rfl rfl fun h => imm_word .andi 0x21 p d a imm h
theorem ori (p : Pred) (d a : Reg) (imm : BitVec 36) : Statement (.ori p d a imm) :=
  ofCtl rfl rfl rfl fun h => imm_word .ori 0x22 p d a imm h
theorem xori (p : Pred) (d a : Reg) (imm : BitVec 36) : Statement (.xori p d a imm) :=
  ofCtl rfl rfl rfl fun h => imm_word .xori 0x23 p d a imm h
theorem shli (p : Pred) (d a : Reg) (n : BitVec 6) : Statement (.shli p d a n) :=
  ofCtl rfl rfl rfl fun h => sh_word .shli 0x24 p d a n h
theorem shri (p : Pred) (d a : Reg) (n : BitVec 6) : Statement (.shri p d a n) :=
  ofCtl rfl rfl rfl fun h => sh_word .shri 0x25 p d a n h
theorem srai (p : Pred) (d a : Reg) (n : BitVec 6) : Statement (.srai p d a n) :=
  ofCtl rfl rfl rfl fun h => sh_word .srai 0x26 p d a n h
theorem movi (p : Pred) (d : Reg) (imm : BitVec 42) : Statement (.movi p d imm) :=
  ofCtl rfl rfl rfl fun h => by
    change (fun f : Fields => chk (f.sub == 0) f (.movi f.pred f.d (f.a ++ f.b ++ f.x))) (encR 0x27 p 0 d (imm.extractLsb' 36 6) (imm.extractLsb' 30 6) (imm.extractLsb' 0 30)) = _
    simp_all [encR, chk, Fields.pred, Instr.wf]
theorem movhi (p : Pred) (d : Reg) (imm : BitVec 22) : Statement (.movhi p d imm) :=
  ofCtl rfl rfl rfl fun h => by
    change (fun f : Fields => chk (f.sub == 0 && f.a == 0 && f.b == 0 && f.x.extractLsb' 22 8 == 0) f (.movhi f.pred f.d (f.x.extractLsb' 0 22))) (encR 0x28 p 0 d 0 0 (imm.setWidth 30)) = _
    simp_all [encR, chk, Fields.pred, Instr.wf, low_setWidth, high_setWidth]
theorem muli (p : Pred) (d a : Reg) (imm : BitVec 36) : Statement (.muli p d a imm) :=
  ofCtl rfl rfl rfl fun h => imm_word .muli 0x29 p d a imm h
theorem kget (p : Pred) (d : Reg) (a : KReg) : Statement (.kget p d a) :=
  ofCtl rfl rfl rfl fun h => by
    change (fun f : Fields => chk (f.sub == 0 && kOk f.a && f.b == 0 && f.x == 0) f (.kget f.pred f.d (k3 f.a))) (encR 0x2A p 0 d (k6 a) 0 0) = _
    simp_all [encR, chk, Fields.pred, Instr.wf]
theorem cmp (p : Pred) (cc : BitVec 4) (d : KReg) (a b : Reg) : Statement (.cmp p cc d a b) :=
  ofCtl rfl rfl rfl fun h => by
    change (fun f : Fields => chk (decide (f.sub.toNat ≤ 9) && kOk f.d && f.x == 0) f (.cmp f.pred f.sub (k3 f.d) f.a f.b)) (encR 0x30 p cc (k6 d) a b 0) = _
    simp_all [encR, chk, Fields.pred, Instr.wf]
theorem cmpi (p : Pred) (cc : BitVec 4) (d : KReg) (a : Reg) (imm : BitVec 36) : Statement (.cmpi p cc d a imm) :=
  ofCtl rfl rfl rfl fun h => by
    change (fun f : Fields => chk (decide (f.sub.toNat ≤ 9) && kOk f.d) f (.cmpi f.pred f.sub (k3 f.d) f.a (f.b ++ f.x))) (encI 0x31 p cc (k6 d) a imm) = _
    simp_all [encR, chk, Fields.pred, Instr.wf, encI]
theorem fcmp (p : Pred) (cc : BitVec 4) (d : KReg) (a b : Reg) : Statement (.fcmp p cc d a b) :=
  ofCtl rfl rfl rfl fun h => by
    change (fun f : Fields => chk (decide (f.sub.toNat ≤ 7) && kOk f.d && f.x == 0) f (.fcmp f.pred f.sub (k3 f.d) f.a f.b)) (encR 0x32 p cc (k6 d) a b 0) = _
    simp_all [encR, chk, Fields.pred, Instr.wf]
theorem kand (p : Pred) (d a b : KReg) : Statement (.kand p d a b) :=
  ofCtl rfl rfl rfl fun h => kkk_word .kand 0x33 p d a b h
theorem kor (p : Pred) (d a b : KReg) : Statement (.kor p d a b) :=
  ofCtl rfl rfl rfl fun h => kkk_word .kor 0x34 p d a b h
theorem kxor (p : Pred) (d a b : KReg) : Statement (.kxor p d a b) :=
  ofCtl rfl rfl rfl fun h => kkk_word .kxor 0x35 p d a b h
theorem knot (p : Pred) (d a : KReg) : Statement (.knot p d a) :=
  ofCtl rfl rfl rfl fun h => by
    change (fun f : Fields => chk (f.sub == 0 && kOk f.d && kOk f.a && f.b == 0 && f.x == 0) f (.knot f.pred (k3 f.d) (k3 f.a))) (encR 0x36 p 0 (k6 d) (k6 a) 0 0) = _
    simp_all [encR, chk, Fields.pred, Instr.wf]
theorem kset (p : Pred) (d : KReg) (a : Reg) : Statement (.kset p d a) :=
  ofCtl rfl rfl rfl fun h => by
    change (fun f : Fields => chk (f.sub == 0 && kOk f.d && f.b == 0 && f.x == 0) f (.kset f.pred (k3 f.d) f.a)) (encR 0x37 p 0 (k6 d) a 0 0) = _
    simp_all [encR, chk, Fields.pred, Instr.wf]
theorem fadd (p : Pred) (d a b : Reg) : Statement (.fadd p d a b) :=
  ofCtl rfl rfl rfl fun h => r3_word .fadd 0x38 p d a b h
theorem fsub (p : Pred) (d a b : Reg) : Statement (.fsub p d a b) :=
  ofCtl rfl rfl rfl fun h => r3_word .fsub 0x39 p d a b h
theorem fmul (p : Pred) (d a b : Reg) : Statement (.fmul p d a b) :=
  ofCtl rfl rfl rfl fun h => r3_word .fmul 0x3A p d a b h
theorem ffma (p : Pred) (d a b c : Reg) : Statement (.ffma p d a b c) :=
  ofCtl rfl rfl rfl fun h => r4_word .ffma 0x3B p d a b c h
theorem fmin (p : Pred) (d a b : Reg) : Statement (.fmin p d a b) :=
  ofCtl rfl rfl rfl fun h => r3_word .fmin 0x3C p d a b h
theorem fmax (p : Pred) (d a b : Reg) : Statement (.fmax p d a b) :=
  ofCtl rfl rfl rfl fun h => r3_word .fmax 0x3D p d a b h
theorem fabs (p : Pred) (d a : Reg) : Statement (.fabs p d a) :=
  ofCtl rfl rfl rfl fun h => r2_word .fabs 0x3E p d a h
theorem fneg (p : Pred) (d a : Reg) : Statement (.fneg p d a) :=
  ofCtl rfl rfl rfl fun h => r2_word .fneg 0x3F p d a h
theorem fcvt (p : Pred) (d a : Reg) (ty : BitVec 4) (dir : Bool) : Statement (.fcvt p d a ty dir) :=
  ofCtl rfl rfl rfl fun h => by
    change (fun f : Fields => chk (f.sub == 0 && f.x == 0 && f.b.extractLsb' 5 1 == 0 && f.b.extractLsb' 0 4 != 0 && f.b.extractLsb' 0 4 != 15) f
            (.fcvt f.pred f.d f.a (f.b.extractLsb' 0 4) (f.b.extractLsb' 4 1 == 1))) (encR 0x40 p 0 d a ((0 : BitVec 1) ++ (bit dir) ++ ty) 0) = _
    simp_all [encR, chk, Fields.pred, Instr.wf, fcvt_parts]
theorem fexp2 (p : Pred) (d a : Reg) : Statement (.fexp2 p d a) :=
  ofCtl rfl rfl rfl fun h => r2_word .fexp2 0x41 p d a h
theorem flog2 (p : Pred) (d a : Reg) : Statement (.flog2 p d a) :=
  ofCtl rfl rfl rfl fun h => r2_word .flog2 0x42 p d a h
theorem frcp (p : Pred) (d a : Reg) : Statement (.frcp p d a) :=
  ofCtl rfl rfl rfl fun h => r2_word .frcp 0x43 p d a h
theorem frsq (p : Pred) (d a : Reg) : Statement (.frsq p d a) :=
  ofCtl rfl rfl rfl fun h => r2_word .frsq 0x44 p d a h
theorem fsqrt (p : Pred) (d a : Reg) : Statement (.fsqrt p d a) :=
  ofCtl rfl rfl rfl fun h => r2_word .fsqrt 0x45 p d a h
theorem ld (p : Pred) (d : Reg) (m : MemArg) (sx : Bool) : Statement (.ld p d m sx) := by
  obtain ⟨base, mode, cls, size⟩ := m; cases mode <;> cases sx <;> exact ofCtl rfl rfl rfl fun h => by
    simp_all [decodeFields, encR, chk, Fields.pred, Instr.wf, encM, memArg, aMode, modeOk, xm_packXM, signOk, bit, bool]
theorem st (p : Pred) (d : Reg) (m : MemArg) : Statement (.st p d m) := by
  obtain ⟨base, mode, cls, size⟩ := m; cases mode <;> exact ofCtl rfl rfl rfl fun h => by
    simp_all [decodeFields, encR, chk, Fields.pred, Instr.wf, encM, memArg, aMode, modeOk, xm_packXM]
theorem ldp (p : Pred) (d a : Reg) (mode : AMode) (size : BitVec 2) (sx : Bool) : Statement (.ldp p d a mode size sx) := by
  cases mode <;> cases sx <;> exact ofCtl rfl rfl rfl fun h => by
    simp_all [decodeFields, encR, chk, Fields.pred, Instr.wf, encM, aMode, modeOk, xm_packXM, signOk, bit, bool]
theorem stp (p : Pred) (d a : Reg) (mode : AMode) (size : BitVec 2) : Statement (.stp p d a mode size) := by
  cases mode <;> exact ofCtl rfl rfl rfl fun h => by
    simp_all [decodeFields, encR, chk, Fields.pred, Instr.wf, encM, aMode, modeOk, xm_packXM]
theorem ldAcq (p : Pred) (d : Reg) (m : MemArg) (sx : Bool) (scope : BitVec 2) : Statement (.ldAcq p d m sx scope) := by
  obtain ⟨base, mode, cls, size⟩ := m; cases mode <;> cases sx <;> exact ofCtl rfl rfl rfl fun h => by
    simp_all [decodeFields, encR, chk, Fields.pred, Instr.wf, encM, memArg, aMode, modeOk, xm_packXM, signOk, bit, bool]
theorem stRel (p : Pred) (d : Reg) (m : MemArg) (scope : BitVec 2) : Statement (.stRel p d m scope) := by
  obtain ⟨base, mode, cls, size⟩ := m; cases mode <;> exact ofCtl rfl rfl rfl fun h => by
    simp_all [decodeFields, encR, chk, Fields.pred, Instr.wf, encM, memArg, aMode, modeOk, xm_packXM]
theorem pf (p : Pred) (a : Reg) (mode : AMode) (cls : BitVec 4) : Statement (.pf p a mode cls) := by
  cases mode <;> exact ofCtl rfl rfl rfl fun h => by
    simp_all [decodeFields, encR, chk, Fields.pred, Instr.wf, encM, aMode, modeOk, xm_packXM]
theorem fence (p : Pred) (mask : BitVec 16) (scope : BitVec 2) : Statement (.fence p mask scope) :=
  ofCtl rfl rfl rfl fun h => by
    change (fun f : Fields => chk (f.sub == 0 && f.d == 0 && f.a == 0 && f.b == 0 && (xm f.x).mode == 0 && (xm f.x).size == 0 && (xm f.x).scale == 0
            && (xm f.x).sx == 0 && f.x.extractLsb' 16 5 == 0 && f.x.extractLsb' 0 16 != 0) f
            (.fence f.pred (f.x.extractLsb' 0 16) (xm f.x).scope)) (encR 0x4F p 0 0 0 0 (fenceX mask scope)) = _
    simp_all [encR, chk, Fields.pred, Instr.wf, xm, fenceX_parts]
theorem slx (p : Pred) (cls : BitVec 4) (d a b c : Reg) (vr : BitVec 5) : Statement (.slx p cls d a b c vr) :=
  ofCtl rfl rfl rfl fun h => by
    change (fun f : Fields => chk (f.x.extractLsb' 5 19 == 0) f (.slx f.pred f.sub f.d f.a f.b (cReg f) (f.x.extractLsb' 0 5))) (encR 0x50 p cls d a b (xSl c vr)) = _
    simp_all [encR, chk, Fields.pred, Instr.wf, cReg]
theorem slxn (p : Pred) (cls : BitVec 4) (a b c : Reg) (vr : BitVec 5) : Statement (.slxn p cls a b c vr) :=
  ofCtl rfl rfl rfl fun h => by
    change (fun f : Fields => chk (f.d == 0 && f.x.extractLsb' 5 19 == 0) f (.slxn f.pred f.sub f.a f.b (cReg f) (f.x.extractLsb' 0 5))) (encR 0x51 p cls 0 a b (xSl c vr)) = _
    simp_all [encR, chk, Fields.pred, Instr.wf, cReg]
theorem rtinst (p : Pred) (d a b : Reg) : Statement (.rtinst p d a b) :=
  ofCtl rfl rfl rfl fun h => r3_word .rtinst 0x52 p d a b h
theorem rtmap (p : Pred) (d a b : Reg) : Statement (.rtmap p d a b) :=
  ofCtl rfl rfl rfl fun h => r3_word .rtmap 0x53 p d a b h
theorem eqpop (p : Pred) (d : Reg) : Statement (.eqpop p d) :=
  ofCtl rfl rfl rfl fun h => rD_word .eqpop 0x54 p d (by simp_all [Instr.wf]) h
theorem wfe (p : Pred) : Statement (.wfe p) :=
  ofCtl rfl rfl rfl fun h => r0_word .wfe 0x55 p h
theorem br (p : Pred) (off : BitVec 48) : Statement (.br p off) :=
  ofCtl rfl rfl rfl fun h => br_word .br 0x58 p off h
theorem bcq (p : Pred) (off : BitVec 48) : Statement (.bcq p off) :=
  ofCtl rfl rfl rfl fun h => br_word .bcq 0x59 p off h
theorem jr (p : Pred) (a : Reg) : Statement (.jr p a) :=
  ofCtl rfl rfl rfl fun h => rA_word .jr 0x5A p a h
theorem call (p : Pred) (off : BitVec 48) : Statement (.call p off) :=
  ofCtl rfl rfl rfl fun h => br_word .call 0x5B p off h
theorem callr (p : Pred) (a : Reg) : Statement (.callr p a) :=
  ofCtl rfl rfl rfl fun h => rA_word .callr 0x5C p a h
theorem ret (p : Pred) : Statement (.ret p) :=
  ofCtl rfl rfl rfl fun h => r0_word .ret 0x5D p h
theorem loop (p : Pred) (level : BitVec 1) (a : Reg) (off : BitVec 36) : Statement (.loop p level a off) :=
  ofCtl rfl rfl rfl fun h => by
    change (fun f : Fields => chk (f.sub.extractLsb' 1 3 == 0 && f.d == 0 && decide (1 ≤ (f.b ++ f.x).toInt)) f
            (.loop f.pred (f.sub.extractLsb' 0 1) f.a (f.b ++ f.x))) (encI 0x5E p (level.setWidth 4) 0 a off) = _
    simp_all [encR, chk, Fields.pred, Instr.wf, encI, low_setWidth, high_setWidth]
theorem nop (p : Pred) (n : BitVec 16) : Statement (.nop p n) :=
  ofCtl rfl rfl rfl fun h => x16_word .nop 0x5F p n h
theorem trap (p : Pred) (e : BitVec 16) : Statement (.trap p e) :=
  ofCtl rfl rfl rfl fun h => x16_word .trap 0x60 p e h
theorem yield (p : Pred) : Statement (.yield p) :=
  ofCtl rfl rfl rfl fun h => r0_word .yield 0x61 p h
theorem endUnit (p : Pred) : Statement (.endUnit p) :=
  ofCtl rfl rfl rfl fun h => r0_word .endUnit 0x62 p h
theorem rbld (p : Pred) (a : Reg) (off : BitVec 18) (n : RbReg) : Statement (.rbld p a off n) :=
  ofCtl rfl rfl rfl fun h => rb_word .rbld 0x64 p a off n h
theorem rbst (p : Pred) (a : Reg) (off : BitVec 18) (n : RbReg) : Statement (.rbst p a off n) :=
  ofCtl rfl rfl rfl fun h => rb_word .rbst 0x65 p a off n h
theorem rbset (p : Pred) (n : RbReg) (a : Reg) (id : BitVec 6) : Statement (.rbset p n a id) :=
  ofCtl rfl rfl rfl fun h => by
    change (fun f : Fields => chk (f.sub == 0 && kOk f.d && f.b == 0 && f.x.extractLsb' 6 24 == 0 && fieldIdOk (f.x.extractLsb' 0 6)) f
            (.rbset f.pred (k3 f.d) f.a (f.x.extractLsb' 0 6))) (encR 0x66 p 0 (k6 n) a 0 (id.setWidth 30)) = _
    simp_all [encR, chk, Fields.pred, Instr.wf, low_setWidth, high_setWidth]
theorem rbget (p : Pred) (d : Reg) (n : RbReg) (id : BitVec 6) : Statement (.rbget p d n id) :=
  ofCtl rfl rfl rfl fun h => by
    change (fun f : Fields => chk (f.sub == 0 && kOk f.a && f.b == 0 && f.x.extractLsb' 6 24 == 0 && fieldIdOk (f.x.extractLsb' 0 6)) f
            (.rbget f.pred f.d (k3 f.a) (f.x.extractLsb' 0 6))) (encR 0x67 p 0 d (k6 n) 0 (id.setWidth 30)) = _
    simp_all [encR, chk, Fields.pred, Instr.wf, low_setWidth, high_setWidth]
theorem enq (p : Pred) (e : Eng) (n : RbReg) : Statement (.enq p e n) := by
  cases e <;> exact ofCtl rfl rfl rfl fun h => by
    simp_all [decodeFields, encR, chk, Fields.pred, Instr.wf, decEng, Eng.bits, Eng.ofCode, low_setWidth, high_setWidth]
theorem tkpost (p : Pred) (e : Eng) : Statement (.tkpost p e) :=
  ofCtl rfl rfl rfl fun h => rE_word .tkpost 0x69 p e (by simp_all [Instr.wf]) h
theorem tkwait (p : Pred) (e : Eng) : Statement (.tkwait p e) :=
  ofCtl rfl rfl rfl fun h => rE_word .tkwait 0x6A p e (by simp_all [Instr.wf]) h
theorem tkpoll (p : Pred) (d : Reg) (e : Eng) : Statement (.tkpoll p d e) :=
  ofCtl rfl rfl rfl fun h => rDE_word .tkpoll 0x6B p d e (by simp_all [Instr.wf]) h
theorem seminc (p : Pred) (n : BitVec 6) (a : Reg) : Statement (.seminc p n a) :=
  ofCtl rfl rfl rfl fun h => sem_word .seminc 0x6C p n a h
theorem semwait (p : Pred) (n : BitVec 6) (a : Reg) : Statement (.semwait p n a) :=
  ofCtl rfl rfl rfl fun h => sem_word .semwait 0x6D p n a h
theorem semmap (p : Pred) (n : BitVec 6) (a : Reg) : Statement (.semmap p n a) :=
  ofCtl rfl rfl rfl fun h => sem_word .semmap 0x6E p n a h
theorem qdrain (p : Pred) (e : Eng) : Statement (.qdrain p e) :=
  ofCtl rfl rfl rfl fun h => rE_word .qdrain 0x6F p e (by simp_all [Instr.wf]) h
theorem accver (p : Pred) (d : Reg) (t : BitVec 6) : Statement (.accver p d t) :=
  ofCtl rfl rfl rfl fun h => by
    change (fun f : Fields => chk (f.sub == 0 && f.a == 0 && f.b == 0 && f.x.extractLsb' 6 24 == 0 && decide ((f.x.extractLsb' 0 6).toNat ≤ 11)) f
            (.accver f.pred f.d (f.x.extractLsb' 0 6))) (encR 0x70 p 0 d 0 0 (t.setWidth 30)) = _
    simp_all [encR, chk, Fields.pred, Instr.wf, low_setWidth, high_setWidth]
theorem woreg (p : Pred) (d a : Reg) : Statement (.woreg p d a) :=
  ofCtl rfl rfl rfl fun h => r2_word .woreg 0x71 p d a h
theorem wodereg (p : Pred) (a : Reg) : Statement (.wodereg p a) :=
  ofCtl rfl rfl rfl fun h => rA_word .wodereg 0x72 p a h
theorem wohold (p : Pred) (d a : Reg) : Statement (.wohold p d a) :=
  ofCtl rfl rfl rfl fun h => r2_word .wohold 0x73 p d a h
theorem worel (p : Pred) (a : Reg) : Statement (.worel p a) :=
  ofCtl rfl rfl rfl fun h => rA_word .worel 0x74 p a h
theorem wowait (p : Pred) (a : Reg) : Statement (.wowait p a) :=
  ofCtl rfl rfl rfl fun h => rA_word .wowait 0x75 p a h
theorem wopoll (p : Pred) (d a : Reg) : Statement (.wopoll p d a) :=
  ofCtl rfl rfl rfl fun h => r2_word .wopoll 0x76 p d a h
theorem bar (p : Pred) (level : BitVec 2) : Statement (.bar p level) :=
  ofCtl rfl rfl rfl fun h => lv_word .bar 0x77 p level h
theorem barxf (p : Pred) (level : BitVec 2) : Statement (.barxf p level) :=
  ofCtl rfl rfl rfl fun h => lv_word .barxf 0x78 p level h
theorem lease (p : Pred) (d : Reg) (e : Eng) : Statement (.lease p d e) :=
  ofCtl rfl rfl rfl fun h => rDE_word .lease 0x79 p d e (by simp_all [Instr.wf]) h
theorem leaserel (p : Pred) (e : Eng) : Statement (.leaserel p e) :=
  ofCtl rfl rfl rfl fun h => rE_word .leaserel 0x7A p e (by simp_all [Instr.wf]) h
theorem lend (p : Pred) (a : Reg) : Statement (.lend p a) :=
  ofCtl rfl rfl rfl fun h => rA_word .lend 0x7B p a h
theorem rsmark (p : Pred) : Statement (.rsmark p) :=
  ofCtl rfl rfl rfl fun h => r0_word .rsmark 0x7D p h
theorem gtcrd (p : Pred) (d : Reg) : Statement (.gtcrd p d) :=
  ofCtl rfl rfl rfl fun h => rD_word .gtcrd 0x7E p d (by simp_all [Instr.wf]) h
theorem rng (p : Pred) (d a b : Reg) : Statement (.rng p d a b) :=
  ofCtl rfl rfl rfl fun h => r3_word .rng 0x7F p d a b h
theorem mfs (p : Pred) (d : Reg) (n : SReg) : Statement (.mfs p d n) :=
  ofCtl rfl rfl rfl fun h => by
    change (fun f : Fields => match SReg.ofNum (f.x.extractLsb' 0 12).toNat with
          | some r => chk (f.sub == 0 && f.a == 0 && f.b == 0 && f.x.extractLsb' 12 18 == 0) f (.mfs f.pred f.d r)
          | none => .error .reservedField) (encR 0x80 p 0 d 0 0 n.num) = _
    simp_all [encR, chk, Fields.pred, Instr.wf, ofNum_mod, num_high]
theorem mts (p : Pred) (n : SReg) (a : Reg) : Statement (.mts p n a) :=
  ofCtl rfl rfl rfl fun h => by
    change (fun f : Fields => match SReg.ofNum (f.x.extractLsb' 0 12).toNat with
          | some r => chk (f.sub == 0 && f.d == 0 && f.b == 0 && f.x.extractLsb' 12 18 == 0) f (mtsOf f.pred r f.a)
          | none => .error .reservedField) (encR 0x81 p 0 0 a 0 n.num) = _
    simp_all [encR, chk, Fields.pred, Instr.wf, ofNum_mod, num_high, mtsOf_mts]
theorem evecWrite (p : Pred) (a : Reg) : Statement (.evecWrite p a) :=
  ofCtl rfl rfl rfl fun h => by
    change (fun f : Fields => match SReg.ofNum (f.x.extractLsb' 0 12).toNat with
          | some r => chk (f.sub == 0 && f.d == 0 && f.b == 0 && f.x.extractLsb' 12 18 == 0) f (mtsOf f.pred r f.a)
          | none => .error .reservedField) (encR 0x81 p 0 0 a 0 0x020) = _
    simp_all [encR, chk, Fields.pred, Instr.wf, SReg.ofNum, mtsOf]
theorem ctxsaveWrite (p : Pred) (a : Reg) : Statement (.ctxsaveWrite p a) :=
  ofCtl rfl rfl rfl fun h => by
    change (fun f : Fields => match SReg.ofNum (f.x.extractLsb' 0 12).toNat with
          | some r => chk (f.sub == 0 && f.d == 0 && f.b == 0 && f.x.extractLsb' 12 18 == 0) f (mtsOf f.pred r f.a)
          | none => .error .reservedField) (encR 0x81 p 0 0 a 0 0x070) = _
    simp_all [encR, chk, Fields.pred, Instr.wf, SReg.ofNum, mtsOf]
theorem eret (p : Pred) : Statement (.eret p) :=
  ofCtl rfl rfl rfl fun h => r0_word .eret 0x83 p h
theorem opbnd (p : Pred) : Statement (.opbnd p) :=
  ofCtl rfl rfl rfl fun h => r0_word .opbnd 0x84 p h
theorem defer (p : Pred) : Statement (.defer p) :=
  ofCtl rfl rfl rfl fun h => r0_word .defer 0x85 p h
theorem undefer (p : Pred) : Statement (.undefer p) :=
  ofCtl rfl rfl rfl fun h => r0_word .undefer 0x86 p h
theorem clrsig (p : Pred) (d : Reg) : Statement (.clrsig p d) :=
  ofCtl rfl rfl rfl fun h => rD_word .clrsig 0x87 p d (by simp_all [Instr.wf]) h
theorem ctxsv (p : Pred) (a : Reg) : Statement (.ctxsv p a) :=
  ofCtl rfl rfl rfl fun h => rA_word .ctxsv 0x88 p a h
theorem ctxld (p : Pred) (a : Reg) : Statement (.ctxld p a) :=
  ofCtl rfl rfl rfl fun h => rA_word .ctxld 0x89 p a h
theorem parkst (p : Pred) (d : Reg) : Statement (.parkst p d) :=
  ofCtl rfl rfl rfl fun h => rD_word .parkst 0x8A p d (by simp_all [Instr.wf]) h
theorem pend (p : Pred) (d : Reg) : Statement (.pend p d) :=
  ofCtl rfl rfl rfl fun h => rD_word .pend 0x8B p d (by simp_all [Instr.wf]) h
theorem tinst (p : Pred) : Statement (.tinst p) :=
  ofCtl rfl rfl rfl fun h => by
    change (fun f : Fields => dec16 service f) (encR 0x82 p 0 0 0 0 0x100) = _
    simp_all [encR, chk, Fields.pred, Instr.wf, dec16, service]
theorem tvbump (p : Pred) : Statement (.tvbump p) :=
  ofCtl rfl rfl rfl fun h => by
    change (fun f : Fields => dec16 service f) (encR 0x82 p 0 0 0 0 0x101) = _
    simp_all [encR, chk, Fields.pred, Instr.wf, dec16, service]
theorem tremove (p : Pred) : Statement (.tremove p) :=
  ofCtl rfl rfl rfl fun h => by
    change (fun f : Fields => dec16 service f) (encR 0x82 p 0 0 0 0 0x102) = _
    simp_all [encR, chk, Fields.pred, Instr.wf, dec16, service]
theorem tquery (p : Pred) : Statement (.tquery p) :=
  ofCtl rfl rfl rfl fun h => by
    change (fun f : Fields => dec16 service f) (encR 0x82 p 0 0 0 0 0x103) = _
    simp_all [encR, chk, Fields.pred, Instr.wf, dec16, service]
theorem s1root (p : Pred) : Statement (.s1root p) :=
  ofCtl rfl rfl rfl fun h => by
    change (fun f : Fields => dec16 service f) (encR 0x82 p 0 0 0 0 0x110) = _
    simp_all [encR, chk, Fields.pred, Instr.wf, dec16, service]
theorem tlbinv (p : Pred) : Statement (.tlbinv p) :=
  ofCtl rfl rfl rfl fun h => by
    change (fun f : Fields => dec16 service f) (encR 0x82 p 0 0 0 0 0x111) = _
    simp_all [encR, chk, Fields.pred, Instr.wf, dec16, service]
theorem regquery (p : Pred) : Statement (.regquery p) :=
  ofCtl rfl rfl rfl fun h => by
    change (fun f : Fields => dec16 service f) (encR 0x82 p 0 0 0 0 0x120) = _
    simp_all [encR, chk, Fields.pred, Instr.wf, dec16, service]
theorem partquery (p : Pred) : Statement (.partquery p) :=
  ofCtl rfl rfl rfl fun h => by
    change (fun f : Fields => dec16 service f) (encR 0x82 p 0 0 0 0 0x121) = _
    simp_all [encR, chk, Fields.pred, Instr.wf, dec16, service]
theorem greset (p : Pred) : Statement (.greset p) :=
  ofCtl rfl rfl rfl fun h => by
    change (fun f : Fields => dec16 service f) (encR 0x82 p 0 0 0 0 0x130) = _
    simp_all [encR, chk, Fields.pred, Instr.wf, dec16, service]
theorem scrubreq (p : Pred) : Statement (.scrubreq p) :=
  ofCtl rfl rfl rfl fun h => by
    change (fun f : Fields => dec16 service f) (encR 0x82 p 0 0 0 0 0x140) = _
    simp_all [encR, chk, Fields.pred, Instr.wf, dec16, service]
theorem recquery (p : Pred) : Statement (.recquery p) :=
  ofCtl rfl rfl rfl fun h => by
    change (fun f : Fields => dec16 service f) (encR 0x82 p 0 0 0 0 0x141) = _
    simp_all [encR, chk, Fields.pred, Instr.wf, dec16, service]
theorem hvc (p : Pred) (e : BitVec 16) : Statement (.hvc p e) :=
  ofCtl rfl rfl rfl fun h => by
    change (fun f : Fields => dec16 service f) (encR 0x82 p 0 0 0 0 (e.setWidth 30)) = _
    simp_all [encR, chk, Fields.pred, Instr.wf, dec16, low_setWidth, high_setWidth, service_hvc]
theorem vadd (r : EngRec) : Statement (.vadd r) := ofRec rfl rfl rfl rfl rfl
theorem vsub (r : EngRec) : Statement (.vsub r) := ofRec rfl rfl rfl rfl rfl
theorem vmul (r : EngRec) : Statement (.vmul r) := ofRec rfl rfl rfl rfl rfl
theorem vfma (r : EngRec) : Statement (.vfma r) := ofRec rfl rfl rfl rfl rfl
theorem vmin (r : EngRec) : Statement (.vmin r) := ofRec rfl rfl rfl rfl rfl
theorem vmax (r : EngRec) : Statement (.vmax r) := ofRec rfl rfl rfl rfl rfl
theorem vabs (r : EngRec) : Statement (.vabs r) := ofRec rfl rfl rfl rfl rfl
theorem vneg (r : EngRec) : Statement (.vneg r) := ofRec rfl rfl rfl rfl rfl
theorem vand (r : EngRec) : Statement (.vand r) := ofRec rfl rfl rfl rfl rfl
theorem vor (r : EngRec) : Statement (.vor r) := ofRec rfl rfl rfl rfl rfl
theorem vxor (r : EngRec) : Statement (.vxor r) := ofRec rfl rfl rfl rfl rfl
theorem vshl (r : EngRec) : Statement (.vshl r) := ofRec rfl rfl rfl rfl rfl
theorem vshr (r : EngRec) : Statement (.vshr r) := ofRec rfl rfl rfl rfl rfl
theorem vsra (r : EngRec) : Statement (.vsra r) := ofRec rfl rfl rfl rfl rfl
theorem vsel (r : EngRec) : Statement (.vsel r) := ofRec rfl rfl rfl rfl rfl
theorem vcmp (r : EngRec) : Statement (.vcmp r) := ofRec rfl rfl rfl rfl rfl
theorem vclamp (r : EngRec) : Statement (.vclamp r) := ofRec rfl rfl rfl rfl rfl
theorem vscale (r : EngRec) : Statement (.vscale r) := ofRec rfl rfl rfl rfl rfl
theorem vmov (r : EngRec) : Statement (.vmov r) := ofRec rfl rfl rfl rfl rfl
theorem vbcast (r : EngRec) : Statement (.vbcast r) := ofRec rfl rfl rfl rfl rfl
theorem vexp2 (r : EngRec) : Statement (.vexp2 r) := ofRec rfl rfl rfl rfl rfl
theorem vlog2 (r : EngRec) : Statement (.vlog2 r) := ofRec rfl rfl rfl rfl rfl
theorem vrcp (r : EngRec) : Statement (.vrcp r) := ofRec rfl rfl rfl rfl rfl
theorem vrsq (r : EngRec) : Statement (.vrsq r) := ofRec rfl rfl rfl rfl rfl
theorem vsqrt (r : EngRec) : Statement (.vsqrt r) := ofRec rfl rfl rfl rfl rfl
theorem vtanh (r : EngRec) : Statement (.vtanh r) := ofRec rfl rfl rfl rfl rfl
theorem vcvt (r : EngRec) : Statement (.vcvt r) := ofRec rfl rfl rfl rfl rfl
theorem vquant (r : EngRec) : Statement (.vquant r) := ofRec rfl rfl rfl rfl rfl
theorem vdeq (r : EngRec) : Statement (.vdeq r) := ofRec rfl rfl rfl rfl rfl
theorem vrand (r : EngRec) : Statement (.vrand r) := ofRec rfl rfl rfl rfl rfl
theorem vredsum (r : EngRec) : Statement (.vredsum r) := ofRec rfl rfl rfl rfl rfl
theorem vredmax (r : EngRec) : Statement (.vredmax r) := ofRec rfl rfl rfl rfl rfl
theorem vredmin (r : EngRec) : Statement (.vredmin r) := ofRec rfl rfl rfl rfl rfl
theorem vscan (r : EngRec) : Statement (.vscan r) := ofRec rfl rfl rfl rfl rfl
theorem vany (r : EngRec) : Statement (.vany r) := ofRec rfl rfl rfl rfl rfl
theorem vcnt (r : EngRec) : Statement (.vcnt r) := ofRec rfl rfl rfl rfl rfl
theorem vzip2 (r : EngRec) : Statement (.vzip2 r) := ofRec rfl rfl rfl rfl rfl
theorem vzip3 (r : EngRec) : Statement (.vzip3 r) := ofRec rfl rfl rfl rfl rfl
theorem vzip4 (r : EngRec) : Statement (.vzip4 r) := ofRec rfl rfl rfl rfl rfl
theorem vunzip2 (r : EngRec) : Statement (.vunzip2 r) := ofRec rfl rfl rfl rfl rfl
theorem vunzip3 (r : EngRec) : Statement (.vunzip3 r) := ofRec rfl rfl rfl rfl rfl
theorem vunzip4 (r : EngRec) : Statement (.vunzip4 r) := ofRec rfl rfl rfl rfl rfl
theorem vperm (r : EngRec) : Statement (.vperm r) := ofRec rfl rfl rfl rfl rfl
theorem vgather (r : EngRec) : Statement (.vgather r) := ofRec rfl rfl rfl rfl rfl
theorem vscatter (r : EngRec) : Statement (.vscatter r) := ofRec rfl rfl rfl rfl rfl
theorem vpart (r : EngRec) : Statement (.vpart r) := ofRec rfl rfl rfl rfl rfl
theorem vldp (r : EngRec) : Statement (.vldp r) := ofRec rfl rfl rfl rfl rfl
theorem vstp (r : EngRec) : Statement (.vstp r) := ofRec rfl rfl rfl rfl rfl
theorem viota (r : EngRec) : Statement (.viota r) := ofRec rfl rfl rfl rfl rfl
theorem vzero (r : EngRec) : Statement (.vzero r) := ofRec rfl rfl rfl rfl rfl
theorem vbump (r : EngRec) : Statement (.vbump r) := ofRec rfl rfl rfl rfl rfl
theorem vtype (r : EngRec) : Statement (.vtype r) := ofRec rfl rfl rfl rfl rfl
theorem mma (r : EngRec) : Statement (.mma r) := ofRec rfl rfl rfl rfl rfl
theorem mmaz (r : EngRec) : Statement (.mmaz r) := ofRec rfl rfl rfl rfl rfl
theorem mmas (r : EngRec) : Statement (.mmas r) := ofRec rfl rfl rfl rfl rfl
theorem mmat (r : EngRec) : Statement (.mmat r) := ofRec rfl rfl rfl rfl rfl
theorem mret (r : EngRec) : Statement (.mret r) := ofRec rfl rfl rfl rfl rfl
theorem mzero (r : EngRec) : Statement (.mzero r) := ofRec rfl rfl rfl rfl rfl
theorem cpin (r : EngRec) : Statement (.cpin r) := ofRec rfl rfl rfl rfl rfl
theorem cpina (r : EngRec) : Statement (.cpina r) := ofRec rfl rfl rfl rfl rfl
theorem gathin (r : EngRec) : Statement (.gathin r) := ofRec rfl rfl rfl rfl rfl
theorem fill (r : EngRec) : Statement (.fill r) := ofRec rfl rfl rfl rfl rfl
theorem cploc (r : EngRec) : Statement (.cploc r) := ofRec rfl rfl rfl rfl rfl
theorem pfin (r : EngRec) : Statement (.pfin r) := ofRec rfl rfl rfl rfl rfl
theorem cpout (r : EngRec) : Statement (.cpout r) := ofRec rfl rfl rfl rfl rfl
theorem scatout (r : EngRec) : Statement (.scatout r) := ofRec rfl rfl rfl rfl rfl
theorem cpouta (r : EngRec) : Statement (.cpouta r) := ofRec rfl rfl rfl rfl rfl
theorem cprem (r : EngRec) : Statement (.cprem r) := ofRec rfl rfl rfl rfl rfl
theorem tx (r : EngRec) : Statement (.tx r) := ofRec rfl rfl rfl rfl rfl
theorem muxsel (r : EngRec) : Statement (.muxsel r) := ofRec rfl rfl rfl rfl rfl
theorem xhold (r : EngRec) : Statement (.xhold r) := ofRec rfl rfl rfl rfl rfl
theorem xend (r : EngRec) : Statement (.xend r) := ofRec rfl rfl rfl rfl rfl
theorem ladd (d a b : SlReg) : Statement (.ladd d a b) :=
  ofSl rfl rfl rfl fun h => by rw [decodeSl_packSl]; simp_all [decodeSlFields, sl3, slChk, Instr.wf]
theorem lsub (d a b : SlReg) : Statement (.lsub d a b) :=
  ofSl rfl rfl rfl fun h => by rw [decodeSl_packSl]; simp_all [decodeSlFields, sl3, slChk, Instr.wf]
theorem land (d a b : SlReg) : Statement (.land d a b) :=
  ofSl rfl rfl rfl fun h => by rw [decodeSl_packSl]; simp_all [decodeSlFields, sl3, slChk, Instr.wf]
theorem lor (d a b : SlReg) : Statement (.lor d a b) :=
  ofSl rfl rfl rfl fun h => by rw [decodeSl_packSl]; simp_all [decodeSlFields, sl3, slChk, Instr.wf]
theorem lxor (d a b : SlReg) : Statement (.lxor d a b) :=
  ofSl rfl rfl rfl fun h => by rw [decodeSl_packSl]; simp_all [decodeSlFields, sl3, slChk, Instr.wf]
theorem lmin (d a b : SlReg) : Statement (.lmin d a b) :=
  ofSl rfl rfl rfl fun h => by rw [decodeSl_packSl]; simp_all [decodeSlFields, sl3, slChk, Instr.wf]
theorem lmax (d a b : SlReg) : Statement (.lmax d a b) :=
  ofSl rfl rfl rfl fun h => by rw [decodeSl_packSl]; simp_all [decodeSlFields, sl3, slChk, Instr.wf]
theorem lminu (d a b : SlReg) : Statement (.lminu d a b) :=
  ofSl rfl rfl rfl fun h => by rw [decodeSl_packSl]; simp_all [decodeSlFields, sl3, slChk, Instr.wf]
theorem lmaxu (d a b : SlReg) : Statement (.lmaxu d a b) :=
  ofSl rfl rfl rfl fun h => by rw [decodeSl_packSl]; simp_all [decodeSlFields, sl3, slChk, Instr.wf]
theorem lshl (d a b : SlReg) : Statement (.lshl d a b) :=
  ofSl rfl rfl rfl fun h => by rw [decodeSl_packSl]; simp_all [decodeSlFields, sl3, slChk, Instr.wf]
theorem lshr (d a b : SlReg) : Statement (.lshr d a b) :=
  ofSl rfl rfl rfl fun h => by rw [decodeSl_packSl]; simp_all [decodeSlFields, sl3, slChk, Instr.wf]
theorem lcmp (a b : SlReg) (cc : BitVec 4) : Statement (.lcmp a b cc) :=
  ofSl rfl rfl rfl fun h => by rw [decodeSl_packSl]; simp_all [decodeSlFields, low_setWidth, high_setWidth, slChk, Instr.wf]
theorem lsel (d a b : SlReg) : Statement (.lsel d a b) :=
  ofSl rfl rfl rfl fun h => by rw [decodeSl_packSl]; simp_all [decodeSlFields, sl3, slChk, Instr.wf]
theorem lmov (d a : SlReg) : Statement (.lmov d a) :=
  ofSl rfl rfl rfl fun h => by rw [decodeSl_packSl]; simp_all [decodeSlFields, slChk, Instr.wf]
theorem lmovi (d : SlReg) (imm : BitVec 11) : Statement (.lmovi d imm) :=
  ofSl rfl rfl rfl fun h => by rw [decodeSl_packSl]; simp_all [decodeSlFields, slChk, Instr.wf]
theorem laddf (d a b : SlReg) : Statement (.laddf d a b) :=
  ofSl rfl rfl rfl fun h => by rw [decodeSl_packSl]; simp_all [decodeSlFields, sl3, slChk, Instr.wf]
theorem lins (d a : SlReg) (pos wm1 : BitVec 6) : Statement (.lins d a pos wm1) :=
  ofSl rfl rfl rfl fun h => by rw [decodeSl_packSl]; simp_all [decodeSlFields, slField, slField_parts, slField_high, slChk, Instr.wf]
theorem lext (d a : SlReg) (pos wm1 : BitVec 6) : Statement (.lext d a pos wm1) :=
  ofSl rfl rfl rfl fun h => by rw [decodeSl_packSl]; simp_all [decodeSlFields, slField, slField_parts, slField_high, slChk, Instr.wf]
theorem lret : Statement (.lret) :=
  ofSl rfl rfl rfl fun h => by rw [decodeSl_packSl]; simp_all [decodeSlFields, slChk, Instr.wf]
theorem lfail : Statement (.lfail) :=
  ofSl rfl rfl rfl fun h => by rw [decodeSl_packSl]; simp_all [decodeSlFields, slChk, Instr.wf]
theorem lnop : Statement (.lnop) :=
  ofSl rfl rfl rfl fun h => by rw [decodeSl_packSl]; simp_all [decodeSlFields, slChk, Instr.wf]
theorem landing : Statement (.landing) := ofEvent rfl rfl rfl
theorem recordStart : Statement (.recordStart) := ofEvent rfl rfl rfl
theorem recordRetirement : Statement (.recordRetirement) := ofEvent rfl rfl rfl
theorem phaseMarker : Statement (.phaseMarker) := ofEvent rfl rfl rfl
theorem phaseCompletion : Statement (.phaseCompletion) := ofEvent rfl rfl rfl
theorem sliceInvocation : Statement (.sliceInvocation) := ofEvent rfl rfl rfl
theorem slxReply : Statement (.slxReply) := ofEvent rfl rfl rfl
theorem pageMigration : Statement (.pageMigration) := ofEvent rfl rfl rfl
theorem waitRegistration : Statement (.waitRegistration) := ofEvent rfl rfl rfl
theorem barrierCompletion : Statement (.barrierCompletion) := ofEvent rfl rfl rfl
theorem transferPhaseStart : Statement (.transferPhaseStart) := ofEvent rfl rfl rfl
theorem transferPhaseClose : Statement (.transferPhaseClose) := ofEvent rfl rfl rfl
theorem trapEntry : Statement (.trapEntry) := ofEvent rfl rfl rfl
theorem walkerTake : Statement (.walkerTake) := ofEvent rfl rfl rfl
theorem prodNotification : Statement (.prodNotification) := ofEvent rfl rfl rfl
theorem dispatch : Statement (.dispatch) := ofEvent rfl rfl rfl
theorem unitResume : Statement (.unitResume) := ofEvent rfl rfl rfl
theorem harvestDeal : Statement (.harvestDeal) := ofEvent rfl rfl rfl
theorem unpark : Statement (.unpark) := ofEvent rfl rfl rfl
theorem revocation : Statement (.revocation) := ofEvent rfl rfl rfl
theorem leaseTermEnd : Statement (.leaseTermEnd) := ofEvent rfl rfl rfl
theorem yieldHoldEnd : Statement (.yieldHoldEnd) := ofEvent rfl rfl rfl
theorem frameStart : Statement (.frameStart) := ofEvent rfl rfl rfl
theorem windowBoundary : Statement (.windowBoundary) := ofEvent rfl rfl rfl
theorem forcedPreemption : Statement (.forcedPreemption) := ofEvent rfl rfl rfl
theorem defEnd : Statement (.defEnd) := ofEvent rfl rfl rfl
theorem budgetTime : Statement (.budgetTime) := ofEvent rfl rfl rfl
theorem intervalBoundary : Statement (.intervalBoundary) := ofEvent rfl rfl rfl
theorem railConfirmed : Statement (.railConfirmed) := ofEvent rfl rfl rfl
theorem dividerSwitch : Statement (.dividerSwitch) := ofEvent rfl rfl rfl
theorem regulatorRefill : Statement (.regulatorRefill) := ofEvent rfl rfl rfl
theorem regulatorTrip : Statement (.regulatorTrip) := ofEvent rfl rfl rfl
theorem wayReassignment : Statement (.wayReassignment) := ofEvent rfl rfl rfl
theorem pageWorldChange : Statement (.pageWorldChange) := ofEvent rfl rfl rfl
theorem pendingZeroFill : Statement (.pendingZeroFill) := ofEvent rfl rfl rfl
theorem guestReset : Statement (.guestReset) := ofEvent rfl rfl rfl
theorem guestResetDrain : Statement (.guestResetDrain) := ofEvent rfl rfl rfl
theorem scrubSweep : Statement (.scrubSweep) := ofEvent rfl rfl rfl
theorem retentionEntry : Statement (.retentionEntry) := ofEvent rfl rfl rfl
theorem retentionExit : Statement (.retentionExit) := ofEvent rfl rfl rfl
theorem lockstepMismatch : Statement (.lockstepMismatch) := ofEvent rfl rfl rfl
theorem eccError : Statement (.eccError) := ofEvent rfl rfl rfl
theorem sensorRead : Statement (.sensorRead) := ofEvent rfl rfl rfl
theorem railExcursion : Statement (.railExcursion) := ofEvent rfl rfl rfl
theorem railHalt : Statement (.railHalt) := ofEvent rfl rfl rfl
theorem watchdog : Statement (.watchdog) := ofEvent rfl rfl rfl
theorem tsync : Statement (.tsync) := ofEvent rfl rfl rfl
theorem tsynclost : Statement (.tsynclost) := ofEvent rfl rfl rfl
theorem gtcslew : Statement (.gtcslew) := ofEvent rfl rfl rfl
theorem doorbell : Statement (.doorbell) := ofEvent rfl rfl rfl
theorem blobLoad : Statement (.blobLoad) := ofEvent rfl rfl rfl
theorem imageLoad : Statement (.imageLoad) := ofEvent rfl rfl rfl
theorem registerWrite : Statement (.registerWrite) := ofEvent rfl rfl rfl
theorem elog : Statement (.elog) := ofEvent rfl rfl rfl
theorem faultclr : Statement (.faultclr) := ofEvent rfl rfl rfl
theorem statusFrame : Statement (.statusFrame) := ofEvent rfl rfl rfl
theorem moduleReset : Statement (.moduleReset) := ofEvent rfl rfl rfl
theorem boot : Statement (.boot) := ofEvent rfl rfl rfl
theorem functionLevelReset : Statement (.functionLevelReset) := ofEvent rfl rfl rfl
theorem lockInterface : Statement (.lockInterface) := ofEvent rfl rfl rfl
theorem getDeviceInterfaceReport : Statement (.getDeviceInterfaceReport) := ofEvent rfl rfl rfl
theorem startInterface : Statement (.startInterface) := ofEvent rfl rfl rfl
theorem stopInterface : Statement (.stopInterface) := ofEvent rfl rfl rfl
theorem getState : Statement (.getState) := ofEvent rfl rfl rfl
theorem getMeasurements : Statement (.getMeasurements) := ofEvent rfl rfl rfl
theorem keyErasure : Statement (.keyErasure) := ofEvent rfl rfl rfl
theorem hostCompletion : Statement (.hostCompletion) := ofEvent rfl rfl rfl
theorem pageRequestResponse : Statement (.pageRequestResponse) := ofEvent rfl rfl rfl
theorem pageRequestTimeout : Statement (.pageRequestTimeout) := ofEvent rfl rfl rfl
theorem accessArrival : Statement (.accessArrival) := ofEvent rfl rfl rfl
theorem rootControllerMismatch : Statement (.rootControllerMismatch) := ofEvent rfl rfl rfl
theorem clockMonitor : Statement (.clockMonitor) := ofEvent rfl rfl rfl
theorem keySwitch : Statement (.keySwitch) := ofEvent rfl rfl rfl
theorem configurationRequest : Statement (.configurationRequest) := ofEvent rfl rfl rfl

end Sys2Proof.Laws.RoundTrip

theorem Sys2Proof.Laws.RoundTrip.recall (p : Sys2Proof.Pred) : Sys2Proof.Laws.RoundTrip.Statement (.recall p) :=
  Sys2Proof.Laws.RoundTrip.ofCtl rfl rfl rfl fun h => Sys2Proof.Laws.RoundTrip.r0_word .recall 0x7C p h
end

