-- ==== Sys2Proof/Laws/Units.lean ====
section
/-! SUPPORT. What the shared operations on aligned units, stamps and failures can change: one lemma for each. -/

namespace Sys2Proof.Machine

/-- A write of a local unit changes bytes of the local stores and their poison alone (R211, R450). -/
theorem Core.writeUnit_changes (k : Core) (u : LocalUnit) : ∃ m p, k.writeUnit u = { k with store := m, poison := p } := by
  have step : ∀ (l : List Nat) (k : Core), ∃ m p, l.foldl (fun k i => if u.mask.getLsbD i then
      k.lstore (64 * u.unit + i) (((leBytes 64 u.data.toNat).drop i).take 1) else k) k = { k with store := m, poison := p } := by
    intro l
    induction l with
    | nil => exact fun k => ⟨k.store, k.poison, rfl⟩
    | cons i l ih =>
      intro k
      simp only [List.foldl_cons]
      split
      · obtain ⟨m, p, h⟩ := ih (k.lstore (64 * u.unit + i) (((leBytes 64 u.data.toNat).drop i).take 1))
        exact ⟨m, p, h⟩
      · exact ih k
  unfold Core.writeUnit
  split
  · exact ⟨_, _, rfl⟩
  · exact step _ k

/-- The head that gathers local bytes keeps all but the unit gathered and the unit read (R211). -/
theorem Head.putLocal_changes (h : Head) (a : Nat) (bs : List Byte) : ∃ u x, h.putLocal a bs = { h with put := some u, seen := x } :=
  ⟨_, _, rfl⟩

/-- The head that reads local bytes keeps all but the unit read (R211). -/
theorem Head.readLocal_changes (h : Head) (k : Core) (a n : Nat) : ∃ x, (h.readLocal k a n).2 = { h with seen := some x } := ⟨_, rfl⟩

/-- A release changes the stamp that later acquires take, and nothing else (R242). -/
theorem State.releaseStamp_changes (s : State) : ∃ n, s.relStamp ≤ n ∧ s.lastStamp ≤ n ∧ s.releaseStamp = { s with relStamp := n } :=
  ⟨_, Nat.le_max_left .., Nat.le_max_right .., rfl⟩

/-- A stamp of a source only moves on (R242). -/
theorem Core.noteStamp_le (k : Core) (i : Fin 7) (n : Nat) : k.stamps.get i ≤ (k.noteStamp i n).stamps.get i ∧ n ≤ (k.noteStamp i n).stamps.get i := by
  have h : (k.noteStamp i n).stamps.get i = max (k.stamps.get i) n := Array.getElem_set_self (xs := k.stamps.toArray) (by simp)
  exact h ▸ ⟨Nat.le_max_left .., Nat.le_max_right ..⟩

/-- A unit that has not failed is not ended (R423). -/
theorem State.endFailure_none (s : State) (i : CtxId) (h : (s.ctx i).failing = none) : s.endFailure i = s := by
  simp [State.endFailure, h]

/-- Requests given up leave every level and every trip as they are (R386). -/
theorem State.giveUp_levels (s : State) (p : Asker → Bool) :
    (s.giveUp p).regs.map (fun r => (r.leaf, r.point, r.lvl, r.tripped)) = s.regs.map fun r => (r.leaf, r.point, r.lvl, r.tripped) := by
  simp [State.giveUp, Function.comp_def]

/-- A step inside the clamp extents of its record is itself the first such step from it on (R211, R274). -/
theorem nextIn_inside (r : EngRec) (h : Head) (hi : inExtent r h = true)
    (h0 : h.j0 < r.count0) (h1 : h.j1 < r.count1) (h2 : h.j2 < r.count2) (h3 : h.j3 < r.count3) : nextIn r h = some h := by
  have e : ∀ (x : BitVec 24) (j c : Nat), (x == 0 || decide (j < x.toNat)) = true → j < c → ¬ extentOf x c ≤ j := by
    intro x j c hx hc
    unfold extentOf
    split
    · omega
    · simp_all
  simp only [inExtent, Bool.and_eq_true] at hi
  simp only [nextIn, if_neg (e _ _ _ hi.2 h3), if_neg (e _ _ _ hi.1.2 h2), if_neg (e _ _ _ hi.1.1.2 h1), if_neg (e _ _ _ hi.1.1.1 h0)]

/-- The unit that such a step reaches is the unit from it on. -/
theorem unitFrom_inside (r : EngRec) (u : Head → Option Nat) (h : Head) (hi : inExtent r h = true)
    (h0 : h.j0 < r.count0) (h1 : h.j1 < r.count1) (h2 : h.j2 < r.count2) (h3 : h.j3 < r.count3) : unitFrom r u h = u h := by
  simp [unitFrom, nextIn_inside r h hi h0 h1 h2 h3]

/-- A core that its clear quarantines leaves every core of the dispatch without a unit (R311, R412). -/
theorem State.dispatchTo_quarantined (s : State) (cs : List CoreId) (v : VnpuId) (q : Fin 8)
    (h : (cs.any fun c => ((cs.foldl (fun s c => s.serveWorld c v) s).core c).quarantined) = true) :
    s.dispatchTo cs v q = cs.foldl (fun s c => s.serveWorld c v) s := by simp only [State.dispatchTo, h, if_true]

/-- A word of the wait-for table sends its request once, waits for the reply and hands it on (R363). -/
theorem State.request_replied (s : State) (q : WftReq) (k : State → Word → Ans) (v : Word) (h : (s.ctx s.me).stage = .replied v) :
    s.request q k = k s v := by simp only [State.request, h]
theorem State.request_asked (s : State) (q : WftReq) (k : State → Word → Ans) (h : (s.ctx s.me).stage = .asked) :
    s.request q k = .stall s := by simp only [State.request, h]
theorem State.request_fresh (s : State) (q : WftReq) (k : State → Word → Ans) (h : (s.ctx s.me).stage = .fresh) :
    s.request q k = .stall (({ s with wftQueue := s.wftQueue ++ [q] }).modCtx s.me fun c => { c with stage := .asked }) := by
  simp only [State.request, h]

end Sys2Proof.Machine
end

