-- ==== Sys2Proof/Tests/Slice0.lean ====
section
/-! SUPPORT. Tests: a term that each well-formedness check refuses, words from the spec's tables, one step of some instructions
with results from the spec's worked examples, and for each statement with hypotheses states that meet them. -/

set_option Elab.async false

namespace Sys2Proof.Machine

/-! ## Terms that each check refuses (R31, R58, R71, R72, R80) -/

theorem test_wf_reservedPredicate : (Instr.add ⟨1, 0⟩ 3 4 5).wf = false ∧ (Instr.nop ⟨1, 0⟩ 0).wf = false := by decide
theorem test_wf_conditions : (Instr.cmp ⟨0, 0⟩ 10 1 2 3).wf = false ∧ (Instr.cmpi ⟨0, 0⟩ 10 1 2 0).wf = false
    ∧ (Instr.fcmp ⟨0, 0⟩ 8 1 2 3).wf = false ∧ (Instr.lcmp 0 1 10).wf = false := by decide
theorem test_wf_convertType : (Instr.fcvt ⟨0, 0⟩ 1 2 0 true).wf = false ∧ (Instr.fcvt ⟨0, 0⟩ 1 2 15 true).wf = false := by decide
theorem test_wf_signOfDword : (Instr.ld ⟨0, 0⟩ 1 ⟨2, .off 0, 0, 3⟩ true).wf = false ∧ (Instr.ldp ⟨0, 0⟩ 1 2 (.off 0) 3 true).wf = false
    ∧ (Instr.ldAcq ⟨0, 0⟩ 1 ⟨2, .off 0, 0, 3⟩ true 0).wf = false := by decide
theorem test_wf_fenceMask : (Instr.fence ⟨0, 0⟩ 0 0).wf = false := by decide
theorem test_wf_eqpopOdd : (Instr.eqpop ⟨0, 0⟩ 1).wf = false := by decide
theorem test_wf_loopBack : (Instr.loop ⟨0, 0⟩ 0 1 0).wf = false ∧ (Instr.loop ⟨0, 0⟩ 0 1 (-1)).wf = false := by decide
theorem test_wf_fieldIds : (Instr.rbset ⟨0, 0⟩ 0 1 0x08).wf = false ∧ (Instr.rbget ⟨0, 0⟩ 1 0 0x2C).wf = false := by decide
theorem test_wf_tile : (Instr.accver ⟨0, 0⟩ 1 12).wf = false := by decide
theorem test_wf_leaseXf : (Instr.lease ⟨0, 0⟩ 1 .xf).wf = false ∧ (Instr.leaserel ⟨0, 0⟩ .xf).wf = false := by decide
theorem test_wf_mtsNamedRows : (Instr.mts ⟨0, 0⟩ .evec 1).wf = false ∧ (Instr.mts ⟨0, 0⟩ .ctxsave 1).wf = false := by decide
theorem test_wf_service : (Instr.hvc ⟨0, 0⟩ 0x100).wf = false := by decide
theorem test_wf_sliceRegisters : (Instr.ladd 16 0 1).wf = false ∧ (Instr.ladd 0 25 1).wf = false ∧ (Instr.ladd 0 1 31).wf = false
    ∧ (Instr.lmovi 23 0).wf = false := by decide
theorem test_wf_fieldWidth : (Instr.lins 0 1 1 63).wf = false ∧ (Instr.lext 0 1 63 1).wf = false := by decide

/-! ## Words of the spec's worked encodings -/

/-- The table after R147. -/
theorem test_decode_arithmetic : decodeCtl 0x2000082000000001 = .ok (.addi ⟨0, 0⟩ 2 2 1)
    ∧ decodeCtl 0x2090082000000001 = .ok (.addi ⟨1, 1⟩ 2 2 1) ∧ decodeCtl 0x2400249000000003 = .ok (.shli ⟨0, 0⟩ 9 9 3)
    ∧ decodeCtl 0x27000FFFFFFFFFFF = .ok (.movi ⟨0, 0⟩ 3 (-1)) ∧ decodeCtl 0x3102087FFFFFFFFB = .ok (.cmpi ⟨0, 0⟩ 2 2 7 (-5))
    ∧ decodeCtl 0x7E00240000000000 = .ok (.gtcrd ⟨0, 0⟩ 9) ∧ decodeCtl 0x7F00141080000000 = .ok (.rng ⟨0, 0⟩ 5 1 2) := by decide +kernel
theorem test_decode_floatAndPredicate : decodeCtl 0x32060C4140000000 = .ok (.fcmp ⟨0, 0⟩ 6 3 4 5)
    ∧ decodeCtl 0x3700044000000000 = .ok (.kset ⟨0, 0⟩ 1 4) ∧ decodeCtl 0x3B000C4146000000 = .ok (.ffma ⟨0, 0⟩ 3 4 5 6)
    ∧ decodeCtl 0x4000083440000000 = .ok (.fcvt ⟨0, 0⟩ 2 3 1 true) := by decide +kernel
/-- The neighbours that the text after that table rejects: SHLI by 64, CMP with SUB 10, KSET with D 9. -/
theorem test_decode_rejectsNeighbours : decodeCtl 0x2400249000000040 = .error .reservedField
    ∧ decodeCtl 0x300A084140000000 = .error .reservedField ∧ decodeCtl 0x3700244000000000 = .error .reservedField := by decide +kernel
/-- The tables of R39, of R248, and before the message-passing outcomes. -/
theorem test_decode_memory : decodeCtl 0x48031C415F000000 = .ok (.ld ⟨0, 0⟩ 7 ⟨4, .idx 5 3, 3, 3⟩ false)
    ∧ decodeCtl 0x4801083028800004 = .ok (.ld ⟨0, 0⟩ 2 ⟨3, .postOff 4, 1, 2⟩ true)
    ∧ decodeCtl 0x4A00146008000040 = .ok (.ldp ⟨0, 0⟩ 5 6 (.off 0x40) 2 false)
    ∧ decodeCtl 0x4B001C602C000008 = .ok (.stp ⟨0, 0⟩ 7 6 (.postOff 8) 3)
    ∧ decodeCtl 0x4E02004000000080 = .ok (.pf ⟨0, 0⟩ 4 (.off 128) 2) ∧ decodeCtl 0x4F00000000200003 = .ok (.fence ⟨0, 0⟩ 3 1)
    ∧ decodeCtl 0x4D0004B00C600000 = .ok (.stRel ⟨0, 0⟩ 1 ⟨11, .off 0, 0, 3⟩ 3)
    ∧ decodeCtl 0x4C0008B00C600000 = .ok (.ldAcq ⟨0, 0⟩ 2 ⟨11, .off 0, 0, 3⟩ false 3) := by decide +kernel
/-- The table of R72, and the RBLD and ENQ of the record worked to the bit. -/
theorem test_decode_queues : decodeCtl 0x50021C4146000008 = .ok (.slx ⟨0, 0⟩ 2 7 4 5 6 8)
    ∧ decodeCtl 0x5F00000000000000 = .ok (.nop ⟨0, 0⟩ 0) ∧ decodeCtl 0x5F00000000000003 = .ok (.nop ⟨0, 0⟩ 3)
    ∧ decodeCtl 0x6803000000000001 = .ok (.enq ⟨0, 0⟩ .vx 1) ∧ decodeCtl 0x640000000003F001 = .ok (.rbld ⟨0, 0⟩ 0 63 1) := by decide +kernel
/-- The table of R74 and R75. -/
theorem test_decode_checks : decodeCtl 0x1E00000000000000 = .error .illegalOp ∧ decodeCtl 0x01800C4140000000 = .error .reservedField
    ∧ decodeCtl 0x01B00C4141000000 = .error .reservedField ∧ decodeCtl 0x8000040000000007 = .error .reservedField
    ∧ decodeCtl 0x8100002000000011 = .ok (.mts ⟨0, 0⟩ .boostst 2) := by decide +kernel
/-- The record sm_exp worked to the bit, as a record of VX. -/
theorem test_decode_vector : decodeRec .vx (0x1002000000020000 <<< 320 ||| 0x1002000000020000 <<< 192 ||| 0xF <<< 64 ||| 0x1800E04F205C0000)
    = .ok (.vexp2 { (default : EngRec) with
        rnd := 7, wait := 4, post := 7, ev := 1, tile := 2, ver := 5, vchk := 1, bump := 1, trip0 := 15
        d := ⟨0x10020000, 512, 0, 0, 0⟩, s1 := ⟨0x10020000, 512, 0, 0, 0⟩ }) := by decide +kernel
/-- The first record of the GEMM (0x02 in the table of MX is MMAZ), and the VIOTA record of chapter 6. -/
theorem test_decode_matrix : decodeRec .mx (0x2000000000800000 <<< 448 ||| 0x10000 <<< 320 ||| 0x0800000000000000 <<< 256
      ||| 0x1000000000000000 <<< 192 ||| 0x0200000000000000 <<< 128 ||| 0x7F0007 <<< 64 ||| 0x0201002C00040000)
    = .ok (.mmaz { (default : EngRec) with
        stype := 1, wait := 2, post := 6, bump := 1, trip0 := 7, trip1 := 127
        d := ⟨0x10000000, 0, 512, 0, 0⟩, s1 := ⟨0, 256, 2048, 0, 0⟩, s2 := ⟨0x20000000, 32768, 0, 0, 0⟩ })
    ∧ decodeRec .vx (0x2468ACE000000000 <<< 448 ||| 0x1000000020000 <<< 192 ||| 7 <<< 64 ||| 0x3EA000080002B001)
    = .ok (.viota { (default : EngRec) with
        dtype := 10, post := 4, s2imm := 1, aux := 0xB001, trip0 := 7
        d := ⟨0x10000, 512, 0, 0, 0⟩, s2 := ⟨0x2468ACE0, 0, 0, 0, 0⟩ }) := by decide +kernel
/-- Slice words of the routine of chapter 10 and of R58; one opcode is read in the table of each engine (R42). -/
theorem test_decode_slice : decodeSl 0x06D88000 = .ok (.ladd 22 24 16) ∧ decodeSl 0x3AD80000 = .ok (.lmov 22 24)
    ∧ decodeSl 0x4A580BC0 = .ok (.lext 18 24 0 47) ∧ decodeSl 0x30129800 = .ok (.lcmp 18 19 0) ∧ decodeSl 0x4A9803F0 = .ok (.lext 20 24 48 15)
    ∧ decodeSl 0x3EA00001 = .ok (.lmovi 21 1) ∧ decodeSl 0x465403F0 = .ok (.lins 18 20 48 15) ∧ decodeSl 0x3712C000 = .ok (.lsel 24 18 24)
    ∧ decodeSl 0x4C000000 = .ok .lret := by decide +kernel

/-! ## One step, with results of the spec's examples -/

/-- The state after reset with these registers in slot O of core 0. -/
def testStart (rs : List (Reg × Word)) : State := rs.foldl (fun s x => s.upd fun c => c.wr x.1 x.2) State.reset

/-- The state that an instruction answers. -/
def testRun (i : Instr) (s : State) : State :=
  match exec i s with
  | .next t => t
  | _ => s

/-- Register r of the acting context after the instruction, in the state with these registers. -/
def testReg (i : Instr) (rs : List (Reg × Word)) (r : Reg) : Word := let s := testStart rs; ((testRun i s).ctx s.me).rd r

/-- The landings of the acting context after the instruction. -/
def testLand (i : Instr) (rs : List (Reg × Word)) : List Landing := let s := testStart rs; ((testRun i s).ctx s.me).landings

/-- The table of R133. -/
theorem test_step_divide : testLand (.div ⟨0, 0⟩ 3 1 2) [(1, -7), (2, 2)] = [⟨3, -3, 0, 10⟩] ∧ testLand (.div ⟨0, 0⟩ 3 1 2) [(1, 5)] = [⟨3, -1, 0, 10⟩]
    ∧ testLand (.div ⟨0, 0⟩ 3 1 2) [(1, 0x8000000000000000), (2, -1)] = [⟨3, 0x8000000000000000, 0, 10⟩]
    ∧ testLand (.divu ⟨0, 0⟩ 3 1 2) [(1, 7)] = [⟨3, -1, 0, 10⟩] := by decide +kernel
theorem test_step_remainder : testLand (.rem ⟨0, 0⟩ 3 1 2) [(1, -7), (2, 2)] = [⟨3, -1, 0, 10⟩] ∧ testLand (.rem ⟨0, 0⟩ 3 1 2) [(1, 5)] = [⟨3, 5, 0, 10⟩]
    ∧ testLand (.rem ⟨0, 0⟩ 3 1 2) [(1, 0x8000000000000000), (2, -1)] = [⟨3, 0, 0, 10⟩]
    ∧ testLand (.remu ⟨0, 0⟩ 3 1 2) [(1, -1), (2, 0x10)] = [⟨3, 0xF, 0, 10⟩] := by decide +kernel
/-- R134, and the MOVHI example of R136. -/
theorem test_step_extend : testReg (.sext ⟨0, 0⟩ 3 1 2) [(1, 0x80), (2, 7)] 3 = 0xFFFFFFFFFFFFFF80
    ∧ testReg (.zext ⟨0, 0⟩ 3 1 2) [(1, 0x80), (2, 7)] 3 = 0x80 := by decide +kernel
theorem test_step_movhi : testReg (.movhi ⟨0, 0⟩ 3 0x48D1) [(3, 0x16789ABCDEF)] 3 = 0x0123456789ABCDEF := by decide +kernel
/-- The example after R121, and the table after R145. -/
theorem test_step_fadd : testLand (.fadd ⟨0, 0⟩ 3 4 5) [(4, 0x3FC00000), (5, 0x40200000)] = [⟨3, 0x40800000, 0, 3⟩]
    ∧ testLand (.fadd ⟨0, 0⟩ 8 6 5) [(6, 0x3F801000), (5, 0xBF800000)] = [⟨8, 0x3A000000, 0, 3⟩] := by decide +kernel
theorem test_step_fmul : testLand (.fmul ⟨0, 0⟩ 6 4 4) [(4, 0x3F800800)] = [⟨6, 0x3F801000, 0x10, 3⟩] := by decide +kernel
theorem test_step_ffma : testLand (.ffma ⟨0, 0⟩ 7 4 4 5) [(4, 0x3F800800), (5, 0xBF800000)] = [⟨7, 0x3A000400, 0, 3⟩] := by decide +kernel
/-- The FCVT example of R144 and the special-function and hash examples of chapter 4. -/
theorem test_step_fcvt : testLand (.fcvt ⟨0, 0⟩ 2 3 8 true) [(3, 0xC2FF0000)] = [⟨2, 0xFFFFFFFFFFFFFF80, 0x10, 3⟩]
    ∧ testLand (.fcvt ⟨0, 0⟩ 2 3 8 true) [(3, 0x43000000)] = [⟨2, 0x7F, 0x1, 3⟩] := by decide +kernel
theorem test_step_fexp2 : testLand (.fexp2 ⟨0, 0⟩ 2 3) [(3, 0xC0400000)] = [⟨2, 0x3E000000, 0, 6⟩] := by decide +kernel
theorem test_step_rng : testReg (.rng ⟨0, 0⟩ 5 1 2) [] 5 = 0 := by decide +kernel
/-- g0 discards; a false-predicated instruction takes its tick alone (R114, R123). -/
theorem test_step_g0 : testReg (.addi ⟨0, 0⟩ 0 0 5) [] 0 = 0 := by decide +kernel
theorem test_step_falsePredicate : testReg (.addi ⟨0, 1⟩ 1 0 5) [] 1 = 0 ∧ ((testRun (.nop ⟨0, 1⟩ 9) State.reset).ctx State.reset.me).tick = 1 := by
  decide +kernel
/-- R347: TRAP 5, with no handler, ends the unit after its tick; R123: a branch that is not predicated moves the PC by words. -/
theorem test_step_branch : ((testRun (.br ⟨0, 0⟩ 3) State.reset).ctx State.reset.me).pc = 24 := by decide +kernel
theorem test_step_call : ((testRun (.call ⟨0, 0⟩ (-1)) State.reset).ctx State.reset.me).pc = -8
    ∧ testReg (.call ⟨0, 0⟩ (-1)) [] 63 = 8 := by decide +kernel
theorem test_step_jumpAlign : ((testRun (.jr ⟨0, 0⟩ 1) (testStart [(1, 4)])).ctx State.reset.me).trap.map (·.cause) = some 8
    ∨ ((testRun (.jr ⟨0, 0⟩ 1) (testStart [(1, 4)])).ctx State.reset.me).live = false := by decide +kernel
/-- Word 9 of CASPC in an executor whose condition holds: lane n becomes y0. -/
theorem test_step_sliceSelect :
    let s := State.reset.modSlice 0 fun x => x.setExec 0
      { n := 3, f := true, y := ⟨#[7, 0, 0, 0], rfl⟩, words := [0x3712C000, 0x4C000000] }
    ((((testRun (.lsel 24 18 24) s).slice 0).exec 0).rd 3 = 7 ∧ (((testRun (.lsel 24 18 24) s).slice 0).exec 0).words = [0x4C000000]) := by
  decide +kernel
/-- A step fetches the word at the PC and runs it: MOVI g3, -1 placed next. -/
theorem test_step_fetches : (match step (State.reset.withFetchWord 64 0x27000FFFFFFFFFFF) with
    | .next t => (t.ctx ⟨0, .o⟩).rd 3 == -1 && (t.ctx ⟨0, .o⟩).pc == 0x10088
    | _ => false) = true := by decide +kernel
theorem test_step_illegal : (match step (State.reset.withFetchWord 64 0x1E00000000000000) with
    | .next t => (t.ctx ⟨0, .o⟩).rd 3 == 0 && !((t.ctx ⟨0, .o⟩).trap.isNone && (t.ctx ⟨0, .o⟩).live && (t.ctx ⟨0, .o⟩).pc == 0x10088)
    | _ => false) = true := by decide +kernel

/-! ## States that meet the hypotheses of the statements

Each theorem names its statement and shows, clause by clause, a state and operands that meet the hypotheses of that clause together;
what a clause names as the answer of a function (a state read, a trap) is shown to exist. -/

/-- Slot O of core 0 at a placed word, in world 2 of leaf 0, with a handler at 0x18000, a save area at 0x200000 and a data page at
0x20000, at privilege S. -/
def testHome : State :=
  { ((State.reset.withFetchWord 64 0x5F00000000000000).modVnpu 0 fun v => { v with evec := 0x18001, ctxsave := 0x200001 }) with
      owner := [(16, 2), (24, 2), (32, 2), (512, 2), (513, 2)] }

/-- `testHome` with these registers. -/
def testHomeWith (rs : List (Reg × Word)) : State := rs.foldl (fun s x => s.upd fun c => c.wr x.1 x.2) testHome

/-- A fetch answers a word that decodes to `x`. -/
def testFetches (s : State) (x : Except DecErr Instr) : Bool :=
  match s.fetch ⟨0, .o⟩ with
  | .word _ w => decide (decodeCtl w = x)
  | _ => false

/-- A context may issue, and no word it has issued waits. -/
def testIssues (s : State) (i : CtxId) : Bool :=
  (s.ctx i).live && (s.ctx i).failing.isNone && s.awake i.core && !((s.ctx i).trap.isSome && s.trapReady i) && s.canIssue i && (s.ctx i).issued.isNone

/-- An access answers. -/
def testOk {α : Type} : AccRes α → Bool
  | .ok _ _ => true
  | _ => false

/-- An access traps. -/
def testTraps {α : Type} : AccRes α → Bool
  | .trap _ => true
  | _ => false

/-- An access waits. -/
def testStalls {α : Type} : AccRes α → Bool
  | .stall _ => true
  | _ => false

theorem witness_EveryInstructionDecodesFromItsWord : (Instr.add ⟨1, 7⟩ 63 63 63).wf = true ∧ encodeCtl (.add ⟨1, 7⟩ 63 63 63) = some 0x01F0FFFFC0000000
    ∧ (Instr.vadd default).wf = true ∧ (recordParts (.vadd default)).isSome = true ∧ (Instr.ladd 24 23 0).wf = true
    ∧ encodeSl (.ladd 24 23 0) = some 0x07170000 := by decide +kernel
theorem witness_EveryDecodedWordIsTheEncoding : decodeCtl 0x01F0FFFFC0000000 = .ok (.add ⟨1, 7⟩ 63 63 63)
    ∧ decodeSl 0x07170000 = .ok (.ladd 24 23 0) ∧ decodeRec .vx 0x0100000000000000 = .ok (.vadd default) := by decide +kernel
theorem witness_AStepRunsTheDecodedInstruction_word : testHome.midUnit = false ∧ testHome.agenda = [.ctx ⟨0, .o⟩] ∧ testIssues { testHome with agenda := [] } ⟨0, .o⟩ = true
    ∧ testFetches { testHome with agenda := [] } (.ok (.nop ⟨0, 0⟩ 0)) = true := by decide +kernel
theorem witness_AStepRunsTheDecodedInstruction_record :
    let s := State.reset.withFetchWord 512 0x0100000000000000
    s.midUnit = false ∧ s.agenda = [.eng ⟨0, .vx⟩] ∧ (∃ q, (s.engine ⟨0, .vx⟩).queue = [q] ∧ decodeRec .vx q.record = .ok (.vadd default))
      ∧ (s.engine ⟨0, .vx⟩).head.st = .walking ∧ s.held = false ∧ s.halted = false ∧ (s.cluster (clusterOf 0)).retention = false
      ∧ s.xfStops 0 = false ∧ s.cutting ⟨0, .o⟩ = false := by
  refine ⟨by decide +kernel, by decide +kernel, ⟨_, rfl, by decide +kernel⟩, by decide +kernel⟩
/-- A word that has issued and waits; a record whose step a regulator holds. -/
theorem witness_AStepRunsTheDecodedInstruction_issued :
    let s : State := { (testHome.upd fun c => { c with issued := some (.qdrain ⟨0, 0⟩ .vx) }) with agenda := [] }
    let q : State := { (State.reset.withFetchWord 512 0x0100000000000000) with regs := [⟨0, 0, 0, [⟨.eng ⟨0, .vx⟩ 0, 0, 0, 0⟩], false⟩] }
    (s.ctx ⟨0, .o⟩).issued = some (.qdrain ⟨0, 0⟩ .vx) ∧ (s.ctx ⟨0, .o⟩).live = true ∧ (s.ctx ⟨0, .o⟩).failing = none ∧ s.awake 0 = true
      ∧ ((s.ctx ⟨0, .o⟩).trap.isSome && s.trapReady ⟨0, .o⟩) = false ∧ s.canIssue ⟨0, .o⟩ = true ∧ q.stepHeld ⟨0, .vx⟩ .o = true
      ∧ ({ s with agenda := [.ctx ⟨0, .o⟩] } : State).midUnit = false := by decide +kernel
theorem witness_AStepRunsTheDecodedInstruction_slice :
    let s := State.reset.withFetchWord 32 0x4C000000
    s.midUnit = false ∧ s.agenda = [.slice 0 0] ∧ ((s.slice 0).exec 0).words = [0x4C000000] ∧ decodeSl 0x4C000000 = .ok .lret := by decide +kernel
theorem witness_AStepRunsTheDecodedInstruction_event : isEvent .frameStart = true ∧ State.reset.midUnit = false := by decide +kernel
theorem witness_AWordThatDoesNotDecodeTraps : testIssues { testHome with agenda := [] } ⟨0, .o⟩ = true
    ∧ testFetches { (State.reset.withFetchWord 64 0x1E00000000000000) with agenda := [] } (.error .illegalOp) = true
    ∧ testFetches { (State.reset.withFetchWord 64 0x01800C4140000000) with agenda := [] } (.error .reservedField) = true
    ∧ (match ({ testHome with agenda := [], owner := [] } : State).fetch ⟨0, .o⟩ with | .trap _ => true | _ => false) = true := by decide +kernel
/-- A routine of core 0 whose line, at an address, is held in its home slice. -/
def testHolds (pa : Nat) (s : State) : State :=
  s.modSlice (homeSlice (pa / 128)) fun x => x.setExec 0 { inv := some ⟨0, ⟨0, .o⟩, true, pa, pa, 0, 0, 0, 0, 0, 0, 0, 0, 0, 0, 0, true, 0⟩ }
/-- The root of stage 1 of virtual NPU 0 is at 0x20000, in a line that a routine holds. -/
def testWalks1 (s : State) : State := testHolds 0x20000 (s.modVnpu 0 fun x => { x with s1root := 0x20000 })
theorem witness_AWordThatDoesNotDecodeTraps_wait : testHome.midUnit = false ∧ testIssues (testHolds placePc { testHome with agenda := [] }) ⟨0, .o⟩ = true
    ∧ (match (testHolds placePc { testHome with agenda := [] }).fetch ⟨0, .o⟩ with | .stall _ => true | _ => false) = true := by decide +kernel
theorem witness_AStepStopsOnlyPastDram : State.reset.agendaOk = true
    ∧ (∃ f, step { State.reset with agenda := [.rootStore (2 ^ 38) [1]] } = .fault f)
    ∧ (∃ f, step { State.reset with agenda := [.rootOwner (2 ^ 26) 2] } = .fault f)
    ∧ (∃ f, step { State.reset with agenda := [.rootRange (2 ^ 26) 1 0] } = .fault f) := by
  refine ⟨by decide +kernel, ⟨_, rfl⟩, ⟨_, rfl⟩, ⟨_, rfl⟩⟩
theorem witness_OneRegisterResults : gResult State.reset (.add ⟨0, 0⟩ 0 1 2) = some (0, 0, 0) ∧ State.reset.issues (.add ⟨0, 0⟩ 0 1 2) = true
    ∧ gResult State.reset (.div ⟨0, 0⟩ 63 1 2) = some (63, -1, 10) ∧ State.reset.issues (.div ⟨0, 0⟩ 63 1 2) = true := by decide +kernel
theorem witness_OnePredicateResults : kResult (State.reset.ctx State.reset.me) (.knot ⟨0, 0⟩ 7 0) = some (7, false)
    ∧ State.reset.issues (.knot ⟨0, 0⟩ 7 0) = true ∧ kResult (State.reset.ctx State.reset.me) (.kset ⟨0, 0⟩ 0 1) = some (0, false) := by decide +kernel
/-- FSQRT of -1 raises IV; FCR enables it in the second state. -/
theorem witness_FloatResults : fResult ((testStart [(1, 0xBF800000)]).ctx State.reset.me) (.fsqrt ⟨0, 0⟩ 2 1) = some (2, 0x7FC00000, 1, 10)
    ∧ (testStart [(1, 0xBF800000)]).issues (.fsqrt ⟨0, 0⟩ 2 1) = true ∧ ((1 : Flg) &&& (State.reset.ctx State.reset.me).enabled = 0)
    ∧ ((1 : Flg) &&& (({ (State.reset.ctx State.reset.me) with fcr := 0x1F00 } : Ctx)).enabled ≠ 0) := by decide +kernel
/-- One landing of 10 ticks, before a NOP 10 and a NOP 9. -/
theorem witness_ALandingComesAtItsTick :
    let s := State.reset.upd fun c => { c with landings := [⟨gNum 5, 7, 1, 10⟩] }
    s.issues (.nop ⟨0, 0⟩ 9) = true ∧ s.issues (.nop ⟨0, 0⟩ 8) = true ∧ (s.ctx s.me).landings = [⟨gNum 5, 7, 1, 10⟩] := by decide +kernel
/-- ERET at U; a false predicate; PENDTRAP with a landing on g3, read by its predicate operand k2 or by its operand B. -/
theorem witness_TheChecksBeforeAnEffect :
    let u := State.reset.upd fun c => { c with sup := false }
    let s := State.reset.upd fun c => { c with debug := 1, landings := [⟨gNum 3, 7, 0, 2⟩, ⟨kNum 2, 1, 0, 1⟩] }
    ctlParts (.eret ⟨0, 0⟩) = some (⟨0, 0⟩, .supervisor, []) ∧ Limit.supervisor.ok (u.ctx u.me) u.me.slot = false
      ∧ ctlParts (.add ⟨0, 1⟩ 1 2 3) = some (⟨0, 1⟩, .none, [2, 3]) ∧ Limit.none.ok (State.reset.ctx State.reset.me) .o = true
      ∧ (State.reset.ctx State.reset.me).early [kNum 1] = none ∧ (State.reset.ctx State.reset.me).holds ⟨0, 1⟩ = false
      ∧ tb (s.ctx s.me).debug 0 = true ∧ (s.ctx s.me).pendingOn 3 = some 2 ∧ (s.ctx s.me).pendingOn (kNum 2) = some 1
      ∧ (s.ctx s.me).early [kNum 0] = none ∧ (s.ctx s.me).holds ⟨0, 0⟩ = true ∧ (s.ctx s.me).early [2] = none := by decide +kernel

theorem witness_JumpsGoToTheirTarget :
    let s := testStart [(1, 8), (2, 7), (63, -8)]
    jumpOf (s.ctx s.me) (.jr ⟨0, 0⟩ 1) = some (8, false) ∧ s.issues (.jr ⟨0, 0⟩ 1) = true ∧ (s.ctx s.me).pcAligned = true
      ∧ jumpOf (s.ctx s.me) (.callr ⟨0, 0⟩ 2) = some (7, true) ∧ s.issues (.callr ⟨0, 0⟩ 2) = true
      ∧ jumpOf (s.ctx s.me) (.ret ⟨0, 0⟩) = some (-8, false) ∧ ctlParts (.bcq ⟨0, 1⟩ 1) = some (⟨0, 1⟩, .none, [])
      ∧ (s.ctx s.me).early [kNum 1] = none ∧ (s.ctx s.me).holds ⟨0, 1⟩ = false ∧ (s.ctx s.me).loop0.active = false
      ∧ (s.ctx s.me).loop1.active = false ∧ (s.ctx s.me).landings = [] := by decide +kernel
theorem witness_BcqPopsTheOldestBit :
    let s := State.reset.upd fun c => { c with cq := [true, false] }
    s.issues (.bcq ⟨0, 0⟩ (-1)) = true ∧ (s.ctx s.me).cq = [true, false] ∧ State.reset.issues (.bcq ⟨0, 0⟩ (-1)) = true
      ∧ (State.reset.ctx State.reset.me).cq = [] := by decide +kernel
/-- LOOP with counts 0 and 1 of each level; the last word of a level-1 body with 2 passes, and with 1, left, alone and with level 0. -/
theorem witness_LoopsStartSkipAndRepeat :
    let t := fun n => State.reset.upd fun c => { c with loop1 := ⟨0, 0, n, true⟩, loop0 := ⟨0, 0, 5, true⟩, later1 := true }
    let c := (t 1).ctx (t 1).me
    (c.level false).active = true ∧ (c.level false).stop = c.pc ∧ 1 < (c.level false).count.toNat ∧ State.reset.issues (.loop ⟨0, 0⟩ 0 1 1) = true ∧ (testStart [(1, 1)]).issues (.loop ⟨0, 0⟩ 1 1 1) = true
      ∧ ((t 2).ctx (t 2).me).loop1.active = true ∧ ((t 2).ctx (t 2).me).loop1.stop = ((t 2).ctx (t 2).me).pc ∧ ((t 2).ctx (t 2).me).later1 = true
      ∧ 1 < ((t 2).ctx (t 2).me).loop1.count.toNat ∧ ((t 1).ctx (t 1).me).loop1.count.toNat ≤ 1 := by decide +kernel
theorem witness_NopAndMovhi : State.reset.issues (.nop ⟨0, 0⟩ (-1)) = true ∧ State.reset.issues (.movhi ⟨0, 0⟩ 0 5) = true
    ∧ (State.reset.ctx State.reset.me).landings = [] := by decide +kernel

/-- The harvest slot of core 0 acts, with a lease of CI. -/
def testHarvest : State := { (State.reset.modCore 0 fun k => k.setLease .ci { held := true }) with cur := { slot := .h } }

/-- A word of `effectOf` that takes its effect in `s`. -/
def testTakes (s : State) (i : Instr) : Bool := (effectOf s i).isSome && s.issues i

theorem witness_WordsTakeTheirEffect :
    let s := State.reset.upd fun c => { c with events := [⟨0, 0⟩], wake := true, fifos := Vector.replicate 5 1 }
    [Instr.rbset ⟨0, 0⟩ 7 1 0x2B, .tkwait ⟨0, 0⟩ .xf, .tkpoll ⟨0, 0⟩ 1 .ci, .semwait ⟨0, 0⟩ 47 0, .qdrain ⟨0, 0⟩ .mx, .accver ⟨0, 0⟩ 1 11,
      .eqpop ⟨0, 0⟩ 62, .wfe ⟨0, 0⟩, .defer ⟨0, 0⟩, .undefer ⟨0, 0⟩, .opbnd ⟨0, 0⟩, .rsmark ⟨0, 0⟩, .rtmap ⟨0, 0⟩ 1 2 3].all (testTakes s) = true
      ∧ testTakes State.reset (.tkpoll ⟨0, 0⟩ 1 .ci) = true := by decide +kernel
theorem witness_WordsTakeTheirEffect_harvest : [Instr.lease ⟨0, 0⟩ 1 .ci, .lease ⟨0, 0⟩ 1 .vx, .leaserel ⟨0, 0⟩ .ci].all (testTakes testHarvest) = true := by
  decide +kernel
/-- A record of the acting slot in MX. -/
def testQueued (s : State) : State :=
  s.modCore 0 fun k => k.setEngine .mx { queue := [⟨0, s.cur.slot, 0, 0, true, 0, none, false⟩], head := {} }
theorem witness_WordsWaitOnTheirObject :
    let s := testQueued (testStart [(1, 1)])
    ([Instr.tkwait ⟨0, 0⟩ .xf, .semwait ⟨0, 0⟩ 0 1, .qdrain ⟨0, 0⟩ .mx, .eqpop ⟨0, 0⟩ 0, .endUnit ⟨0, 0⟩, .eret ⟨0, 0⟩].all
      fun i => (blocksOn s i).isSome && s.issues i) = true
    ∧ staysFor (testQueued testHarvest) (.leaserel ⟨0, 0⟩ .mx) = true ∧ (testQueued testHarvest).issues (.leaserel ⟨0, 0⟩ .mx) = true
    ∧ staysFor s (.lend ⟨0, 0⟩ 1) = true ∧ s.issues (.lend ⟨0, 0⟩ 1) = true := by
  decide +kernel
/-- A WFE with nothing registered, with two objects registered, and asleep. -/
theorem witness_WordsWaitOnTheirObject_wfe :
    let s := testStart []
    let e := fun (o : BitVec 32) => (⟨o, .ctx s.me, false, true, s.ctxLeaf s.me⟩ : WftEntry)
    let w : State := { s with wft := [e 0x10000042, e 0x10000043] }
    blocksOn s (.wfe ⟨0, 0⟩) = some (evObj 0 .o) ∧ blocksOn w (.wfe ⟨0, 0⟩) = some 0x10000042 ∧ (w.woregs w.me).drop 1 = [0x10000043]
      ∧ s.issues (.wfe ⟨0, 0⟩) = true ∧ w.issues (.wfe ⟨0, 0⟩) = true
      ∧ staysFor (w.upd fun c => { c with inWfe := true }) (.wfe ⟨0, 0⟩) = true := by decide +kernel
/-- A word of `orderedEffect` whose phases are complete. -/
def testOrdered (s : State) (i : Instr) : Bool := (s.quiet.bind fun u => orderedEffect s u i).isSome && s.issues i
theorem witness_WordsThatCloseAPhaseTakeTheirEffect :
    [Instr.fence ⟨0, 0⟩ 0xFFFF 3, .tkpost ⟨0, 0⟩ .ci, .seminc ⟨0, 0⟩ 0 1, .worel ⟨0, 0⟩ 1, .hvc ⟨0, 0⟩ 0xFFFF, .partquery ⟨0, 0⟩, .recquery ⟨0, 0⟩,
      .regquery ⟨0, 0⟩, .tquery ⟨0, 0⟩].all (testOrdered State.reset) = true
    ∧ testOrdered (testStart [(1, 113)]) (.regquery ⟨0, 0⟩) = true ∧ testOrdered (testStart [(1, 112)]) (.regquery ⟨0, 0⟩) = true := by
  decide +kernel
theorem witness_WordsThatCloseAPhaseTakeTheirEffect_wait :
    let s := State.reset.upd fun c => { c with stage := .closed 1 }
    (orderedEffect s s (.tkpost ⟨0, 0⟩ .ci)).isSome = true ∧ s.quiet.isNone = true ∧ s.issues (.tkpost ⟨0, 0⟩ .ci) = true := by decide +kernel
/-- A TKPOST at a port of 15 tokens. -/
theorem witness_WordsThatCloseAPhaseTakeTheirEffect_full :
    let s := (testStart []).upd fun c => c.setPort .ci 0 15
    s.quiet.isSome = true ∧ s.noTokens .ci = false ∧ ((s.quiet.getD s).ctx s.me).portCount .ci 0 = 15 ∧ s.issues (.tkpost ⟨0, 0⟩ .ci) = true := by
  decide +kernel
theorem witness_AnEmptyPhaseIsCompleteAtOnce : (State.reset.phases (.ctx State.reset.me)) = {}
    ∧ State.reset.recordWaits (.ctx State.reset.me) = false ∧ (State.reset.ctx State.reset.me).stage = .fresh := by decide +kernel
/-- An object of kind 1, and one that is not valid; each word with its reply, and with its request. -/
theorem witness_TableWordsAskAndComplete :
    let s := testStart [(1, 0x10000042)]
    let r := s.upd fun c => { c with stage := .replied 0 }
    let w := s.upd fun c => { c with blocked := some 0x10000042, inWowait := true }
    let b := w.upd fun c => { c with released := true }
    let is := [Instr.woreg ⟨0, 0⟩ 2 1, .wohold ⟨0, 0⟩ 2 1, .wopoll ⟨0, 0⟩ 2 1, .wodereg ⟨0, 0⟩ 1, .wowait ⟨0, 0⟩ 1]
    (is.all fun i => (tableResult r i).isSome && r.issues i) = true
      ∧ (is.all fun i => (tableResult (testStart [(1, -1)]) i).isSome && (testStart [(1, -1)]).issues i) = true
      ∧ (is.all fun i => (tableRequest s i).isSome && s.issues i) = true ∧ (s.ctx s.me).stage = .fresh ∧ (s.ctx s.me).blocked = none
      ∧ (b.ctx b.me).stage = .fresh ∧ (b.ctx b.me).blocked = some (((b.ctx b.me).rd 1).setWidth 32) ∧ (b.ctx b.me).released = true
      ∧ (b.ctx b.me).inWowait = true ∧ b.issues (.wowait ⟨0, 0⟩ 1) = true
      ∧ (w.ctx w.me).blocked = some (((w.ctx w.me).rd 1).setWidth 32) ∧ (w.ctx w.me).released = false
      ∧ w.issues (.wowait ⟨0, 0⟩ 1) = true := by decide +kernel
/-- A table with no entry of the context and no room, with room, and with its entry. -/
theorem witness_TheTableAnswers :
    let s := State.reset.upd fun c => { c with stage := .asked }
    let t : State := { s with contracts := { s.contracts with leaves := s.contracts.leaves.set 0 { wftq := 1 } } }
    (s.ctx s.me).stage = .asked ∧ s.wft = [] ∧ s.wftRoom 0 = false ∧ t.wftRoom 0 = true ∧ (t.ctx t.me).stage = .asked := by decide +kernel

/-! ### Memory -/

/-- The home state with g1 at its data page. -/
def testData : State := testHomeWith [(1, 0x20000), (2, 0x1122334455667788)]
theorem witness_LoadsTakeTheBytesRead : (loadOf testData (.ld ⟨0, 0⟩ 3 ⟨1, .off 0, 0, 3⟩ false)) = some (0, 0x20000, 8, true)
    ∧ testData.issues (.ld ⟨0, 0⟩ 3 ⟨1, .off 0, 0, 3⟩ false) = true
    ∧ testOk (testData.load (.ctx testData.me) (testData.myAcc false) 0 0x20000 8 true false) = true
    ∧ testTraps (testData.load (.ctx testData.me) (testData.myAcc false) 0 0x21000 8 true false) = true
    ∧ (loadOf testData (.rbld ⟨0, 0⟩ 1 0 7)) = some (0, 0x20000, 64, true) ∧ testData.issues (.rbld ⟨0, 0⟩ 1 0 7) = true
    ∧ (loadOf testData (.ldAcq ⟨0, 0⟩ 3 ⟨1, .postOff 8, 15, 0⟩ true 3)) = some (15, 0x20000, 1, false)
    ∧ testData.issues (.ldAcq ⟨0, 0⟩ 3 ⟨1, .postOff 8, 15, 0⟩ true 3) = true := by decide +kernel
/-- A read of the acting context waits for a line that a routine holds. -/
theorem witness_LoadsTakeTheBytesRead_wait :
    let s := testHolds 0x20000 testData
    testStalls (s.load (.ctx s.me) (s.myAcc false) 0 0x20000 8 true false) = true := by decide +kernel
theorem witness_ALoadReadsAndKeepsMemory : testData.memoriesOk = true ∧ (testData.checkPages (testData.myAcc false) 0x20000 8).isOk = true
    ∧ testOk (testData.load (.ctx testData.me) (testData.myAcc false) 0 0x20000 8 false false) = true ∧ [(1 : Byte)].length = sizeBytes 0 := by decide +kernel
theorem witness_StoresSendTheirBytes : (storeOf testData (.st ⟨0, 0⟩ 2 ⟨1, .off 0, 0, 3⟩)).isSome = true
    ∧ testData.issues (.st ⟨0, 0⟩ 2 ⟨1, .off 0, 0, 3⟩) = true ∧ testData.issues (.stRel ⟨0, 0⟩ 2 ⟨1, .off 0, 0, 3⟩ 3) = true
    ∧ testOk (testData.storeMsg (.ctx testData.me) (testData.myAcc true) 0 0x20000 [1, 2] 0 false true none) = true
    ∧ testTraps (testData.storeMsg (.ctx testData.me) (testData.myAcc true) 0 0x21000 [1, 2] 0 false true none) = true
    ∧ (testData.checkPages (testData.myAcc true) 0x20000 8).isOk = true ∧ (testData.checkPages (testData.myAcc true) 0x21000 8).isOk = false
    ∧ (testData.ctx testData.me).stage = .fresh ∧ (testData.closePhase (.ctx testData.me) 0).isSome = true
    ∧ testOk (testData.storeMsg (.ctx testData.me) (testData.myAcc true) 0 0x20000 [1, 2] 1 false true none) = true
    ∧ (storeOf testData (.rbst ⟨0, 0⟩ 1 0 7)).isSome = true ∧ testData.issues (.rbst ⟨0, 0⟩ 1 0 7) = true
    ∧ testData.walkHeld (testData.myAcc true) 0x20000 8 = false ∧ testData.walkHeld (testData.myAcc true) 0x21000 8 = false := by decide +kernel
/-- An ST.REL whose walk meets a table line that a routine holds. -/
theorem witness_StoresSendTheirBytes_held :
    let s := testWalks1 testData
    s.walkHeld (s.myAcc true) 0x20000 8 = true ∧ s.issues (.stRel ⟨0, 0⟩ 2 ⟨1, .off 0, 0, 3⟩ 3) = true := by decide +kernel
/-- A store over the end of a line. -/
theorem witness_MessagesCarryTheStoredBytes : testOk (testData.storeMsg (.ctx testData.me) (testData.myAcc true) 15 0x2007F [1, 2] 0 false true none) = true
    ∧ (match testData.checkPages (testData.myAcc true) 0x2007F 2 with
      | .ok pages => ((physPieces pages 0x2007F 2).map fun p => p.2.2) == [1, 1] | .error _ => false) = true
    ∧ srcCore (.ctx testData.me) = some 0 ∧ (testData.phases (.ctx testData.me)).counts = [] := by decide +kernel
theorem witness_StoredBytesAreReadBack : State.reset.memoriesOk = true ∧ (4095 : Nat) % 4096 + [(1 : Byte)].length ≤ 4096 := by decide +kernel
theorem witness_PrefetchNeverTraps : testData.issues (.pf ⟨0, 0⟩ 1 (.off 0) 0) = true ∧ testOk (testData.prefetch 0x20000) = true
    ∧ (testData.checkPages (testData.myAcc false) 0x40000000 1).isOk = false ∧ testData.walkHeld (testData.myAcc false) 0x40000000 1 = false ∧ testStalls ((testHolds 0x20000 testData).prefetch 0x20000) = true := by
  decide +kernel
/-- The last bytes of the Pantry, the first address past it, a region lent away, a poisoned unit, and a store of class 0 in flight. -/
theorem witness_PantryWords :
    let s := testStart [(1, 0xFFFF8), (2, 0xFFFFC)]
    let l := s.modCore 0 fun k => { k with lent := 0x8000000000000 ||| 0xFFFF }
    let p := s.modCore 0 fun k => { k with poison := [0xFFFF8 / 64] }
    let f : State := { s with net := [⟨7, .ctx s.me, 0, 0, 0, 0, 0, 0, 0, .write [(0x20000, [9])] 0 true none⟩] }
    s.issues (.ldp ⟨0, 0⟩ 3 1 (.off 0) 3 false) = true ∧ s.issues (.stp ⟨0, 0⟩ 3 2 (.off 0) 3) = true
      ∧ s.lateClass (.ctx s.me) 0 = false ∧ f.lateClass (.ctx f.me) 0 = true ∧ f.issues (.ldp ⟨0, 0⟩ 3 1 (.off 0) 3 false) = true
      ∧ f.issues (.stp ⟨0, 0⟩ 3 1 (.off 0) 3) = true
      ∧ (s.core 0).firstNotHeld .o 0xFFFF8 8 = none ∧ (s.core 0).poisoned 0xFFFF8 8 = none ∧ (l.core 0).firstNotHeld .o 0xFFFF8 8 = some 0xFFFF8
      ∧ (p.core 0).firstNotHeld .o 0xFFFF8 8 = none ∧ (p.core 0).poisoned 0xFFFF8 8 = some 0xFFFC0
      ∧ s.issues (.stp ⟨0, 0⟩ 3 1 (.off 0) 3) = true ∧ s.storesOk = true ∧ (s.ctx s.me).stps = [] := by decide +kernel
/-- An LDP in the tick after an STP reads the bytes before it, and one in the second reads its bytes (R118, R248). -/
theorem test_step_stp :
    let s := testStart [(1, 0x40), (2, 0x1122334455667788)]
    let t := testRun (.stp ⟨0, 0⟩ 2 1 (.off 0) 3) s
    ((testRun (.ldp ⟨0, 0⟩ 3 1 (.off 0) 3 false) t).ctx s.me).landings = [⟨3, 0, 0, 3⟩]
      ∧ ((testRun (.ldp ⟨0, 0⟩ 3 1 (.off 0) 3 false) (testRun (.nop ⟨0, 0⟩ 0) t)).ctx s.me).landings = [⟨3, 0x1122334455667788, 0, 3⟩] := by
  decide +kernel

/-! ### Queues, services, traps and units -/

/-- VX of core 0 holds n records of slot O. -/
def testFull (n : Nat) (s : State) : State :=
  s.modCore 0 fun k => k.setEngine .vx { queue := List.replicate n ⟨0, .o, 0, 0, true, 0, none, false⟩, head := {} }
/-- An owner's ENQ to an engine that slot H leases; a context with three phases open. -/
theorem witness_EnqAppendsTheRecord_owner :
    let s : State := { (testHarvest.modCtx ⟨0, .h⟩ fun c => { c with live := true }) with cur := { testHarvest.cur with slot := .o } }
    let f : State := s.setPhases (.ctx s.me) { s.phases (.ctx s.me) with opens := [⟨0, [0]⟩, ⟨1, [0]⟩, ⟨2, [0]⟩] }
    s.issues (.enq ⟨0, 0⟩ .ci 7) = true ∧ (s.core 0).leased .ci = true ∧ (s.core 0).ctxH.live = true ∧ (s.engine ⟨0, .ci⟩).queue = []
      ∧ ((s.ownerEnters 0 .ci).ended.closePhase (.ctx s.me) 0).isSome = true ∧ ((s.ownerEnters 0 .ci).core 0).revoke = true
      ∧ f.issues (.enq ⟨0, 0⟩ .vx 7) = true ∧ (f.ended.closePhase (.ctx f.me) 0).isNone = true := by decide +kernel
theorem witness_EnqAppendsTheRecord : testHarvest.issues (.enq ⟨0, 0⟩ .xf 7) = true ∧ testHarvest.issues (.enq ⟨0, 0⟩ .vx 7) = true
    ∧ (testHarvest.core 0).leased .vx = false ∧ (testHarvest.core 0).leased .ci = true ∧ (testHarvest.engine ⟨0, .ci⟩).queue = []
    ∧ (testHarvest.ended.closePhase (.ctx testHarvest.me) 0).isSome = true
    ∧ (testFull 8 testHome).issues (.enq ⟨0, 0⟩ .vx 0) = true ∧ (testHome.core 0).leased .vx = false ∧ testHome.harvestIn 0 .vx = false
    ∧ ((testFull 7 testHome).engine ⟨0, .vx⟩).queue.length = 7 ∧ ((testFull 7 testHome).ended.closePhase (.ctx testHome.me) 0).isSome = true := by
  decide +kernel
theorem witness_MtsWritesTheRegister :
    let s := testStart [(1, 0x1F00), (2, -1), (3, 0x18001), (4, 0x18002)]
    s.issues (.mts ⟨0, 0⟩ .fcr 1) = true ∧ sysOk .fcr 0x1F00 = true ∧ sysOk .fcr (-1) = false ∧ s.issues (.evecWrite ⟨0, 0⟩ 3) = true
      ∧ sysOk .evec 0x18001 = true ∧ sysOk .evec 0x18002 = false ∧ s.issues (.ctxsaveWrite ⟨0, 0⟩ 1) = true
      ∧ mtsGives (s.ctx s.me) (.evecWrite ⟨0, 0⟩ 4) = some (.evec, 0x18002) := by decide +kernel
/-- The last counter of slot O, the first of slot H, bit 63, and a nonzero zero field; an unmapped number. -/
theorem witness_SemmapWritesTheMap : State.reset.issues (.semmap ⟨0, 0⟩ 63 1) = true ∧ semEntryOk .o 47 = true ∧ semEntryOk .o 48 = false
    ∧ fld (47 : Word) 62 6 = 0 ∧ tb (1 <<< 63 : Word) 63 = true ∧ fld (1 <<< 63 : Word) 62 6 = 0 ∧ fld (64 : Word) 62 6 ≠ 0
    ∧ (State.reset.ctx State.reset.me).counter 48 = none ∧ State.reset.issues (.seminc ⟨0, 0⟩ 48 1) = true
    ∧ State.reset.issues (.semwait ⟨0, 0⟩ 48 1) = true := by decide +kernel
theorem witness_WordsTrapOnTheirOperands :
    let h := testHarvest
    let s := testStart [(1, 0x20), (2, 1 <<< 60)]
    ([Instr.tkpost ⟨0, 0⟩ .xf, .tkwait ⟨0, 0⟩ .xf, .tkpoll ⟨0, 0⟩ 1 .xf, .accver ⟨0, 0⟩ 1 0, .bar ⟨0, 0⟩ 1, .barxf ⟨0, 0⟩ 1].all
        fun i => (trapOf h i).isSome && h.issues i) = true
      ∧ ([Instr.barxf ⟨0, 0⟩ 0, .barxf ⟨0, 0⟩ 1, .ctxsv ⟨0, 0⟩ 1, .ctxld ⟨0, 0⟩ 1, .rbld ⟨0, 0⟩ 1 0 0, .rbst ⟨0, 0⟩ 1 0 0, .lend ⟨0, 0⟩ 2].all
        fun i => (trapOf s i).isSome && s.issues i) = true := by decide +kernel
/-- A harvest context that holds an object by WOHOLD. -/
theorem witness_WordsTrapOnTheirOperands_held :
    let s : State := { testHarvest with wft := [⟨0x10000042, .ctx ⟨0, .h⟩, true, true, testHarvest.ctxLeaf ⟨0, .h⟩⟩] }
    trapOf s (.rsmark ⟨0, 0⟩) = some { cause := 0x0E, eaddr := 0x10000042, einfo := 0x10002 } ∧ s.issues (.rsmark ⟨0, 0⟩) = true := by decide +kernel
/-- A handler and a save area; an area that is not writable. -/
theorem witness_ATrapEntersTheHandler : testHome.issues (.trap ⟨0, 0⟩ (-1)) = true ∧ testHome.mayEnter ⟨0, .o⟩ = true
    ∧ (testHome.entryImage ⟨0, .o⟩ { cause := 0x1A }).2 = none ∧ testHome.entryFree ⟨0, .o⟩ = true ∧ testHome.mayStamp (.ctx ⟨0, .o⟩) = true
    ∧ ((testHome.core 0).stamps.toList.all (· == 0)) = true
    ∧ (({ testHome with owner := [(16, 2)] } : State).entryImage ⟨0, .o⟩ { cause := 0x1A }).2.isSome = true := by decide +kernel
/-- With no routine under way no line is held. -/
theorem testFree (s : State) (h : ∀ m : SliceId, ((s.slice m).execs.toList.all fun e => e.inv.isNone) = true) (line : Nat) :
    s.lineHeld line = false := by
  have := h (homeSlice line)
  simp only [State.lineHeld, List.any_eq_false, List.all_eq_true, Option.isNone_iff_eq_none] at this ⊢
  intro e he
  simp [this e he]
/-- The handler of TRAP 5 runs: EPC is the next word, and the image is in memory. -/
def testHandler : State := testRun (.trap ⟨0, 0⟩ 5) testHome
theorem test_step_trap : (let c := testHandler.ctx ⟨0, .o⟩
    c.pc == 0x18000 && c.epc == 0x10088 && c.efrom == 0x10080 && c.ecause == 0x1A && c.einfo == 5 && tb c.estat 0) = true := by decide +kernel
/-- In a handler entered at 0x10088, with an image in the save area of which only MAGIC is not 0. -/
def testReturn : State :=
  let s := testHomeWith [(1, 0x200000)]
  { (s.upd fun c => { c with estat := 1, epc := 0x10088 }) with zeroed := 512 :: s.zeroed, dram := s.dram.write 0x200000 (leBytes 4 0x47410001) }
theorem test_step_eret : (let c := (testRun (.eret ⟨0, 0⟩) testReturn).ctx ⟨0, .o⟩; c.pc == 0x10088 && !tb c.estat 0) = true := by decide +kernel
/-- The image of the handler's save area is read and valid; one with nothing in it is not. -/
theorem witness_EretReturns : testReturn.issues (.eret ⟨0, 0⟩) = true ∧ testReturn.undrained testReturn.me = none
    ∧ (match testReturn.ended.quiet with
      | some u =>
        let i := u.getImage u.me (imagePieces (u.saveArea u.me))
        let x := ({ u with owner := [] } : State).getImage u.me (imagePieces (u.saveArea u.me))
        !u.imageHeld (u.imageAcc u.me false) (imagePieces (u.saveArea u.me)) && i.2.2.isNone && (imageBad .o i.2.1).isNone && (imageBad .o []).isSome && x.2.2.isSome
      | none => false) = true
    ∧ (match (testHolds 0x200000 testReturn).ended.quiet with
      | some u => u.imageHeld (u.imageAcc u.me false) (imagePieces (u.saveArea u.me))
      | none => false) = true := by decide +kernel
theorem witness_ImagesAreCopied :
    let s : State := { testReturn with regs := (List.range 113).map fun p => ⟨0, p, 1000000, [], false⟩ }
    s.issues (.ctxsv ⟨0, 0⟩ 1) = true ∧ s.issues (.ctxld ⟨0, 0⟩ 1) = true ∧ ((s.ctx s.me).rd 1).toNat % 64 = 0
      ∧ (match s.quiet with
        | some u =>
          let x := u.cutStep s.me
          let w := x.copyGate (imagePieces (x.saveArea s.me) ++ imagePieces 0x200000)
          x.atCut s.me && x.engPhasesQuiet s.me && w.1 && !((testHolds 0x200000 x).copyGate (imagePieces (x.saveArea s.me) ++ imagePieces 0x200000)).1 && (w.2.copyImage s.me 0x200000 (imagePieces (x.saveArea s.me))).2.isNone
            && (({ w.2 with owner := [(16, 2)] } : State).copyImage s.me 0x200000 (imagePieces (x.saveArea s.me))).2.isSome
        | none => false) = true
      ∧ (match s.quiet with
        | some u =>
          let g := u.copyGate (imagePieces 0x200000 ++ imagePieces (u.saveArea s.me))
          let h := g.2.getImage s.me [(0x200000, 0, 64)]
          let x := h.1.getImage s.me (imagePieces 0x200000)
          g.1 && h.2.2.isNone && (excBad h.2.1).isNone && (excBad ((h.2.1).write 0x30 [0xFF])).isSome && x.2.2.isNone
            && (({ h.1 with owner := [(16, 2), (512, 2)] } : State).getImage s.me (imagePieces 0x200000)).2.2.isSome
            && (x.1.putImage s.me x.2.1 (imagePieces (u.saveArea s.me))).2.isNone
            && (({ x.1 with owner := [] } : State).putImage s.me x.2.1 (imagePieces (u.saveArea s.me))).2.isSome
        | none => false) = true := by decide +kernel
theorem witness_WordsThatLeaveTheSlot :
    let p := testHome.upd fun c => { c with preq := true }
    let h : State := { (testHome.modCore 0 fun k => { k with ctxH := { k.ctxO with bank := 3 } }) with cur := { slot := .h } }
    testHome.issues (.endUnit ⟨0, 0⟩) = true ∧ testHome.undrained testHome.me = none ∧ testHome.ended.quiet.isSome = true
      ∧ p.issues (.opbnd ⟨0, 0⟩) = true ∧ (p.ctx p.me).preq = true ∧ p.undrained p.me = none ∧ p.ended.quiet.isSome = true
      ∧ testHome.issues (.yield ⟨0, 0⟩) = true ∧ h.issues (.yield ⟨0, 0⟩) = true ∧ h.wft = [] ∧ h.drained h.me = true ∧ h.slxnOpen h.me = false := by
  decide +kernel
/-- Region 59 lent; regions back from a harvest context that leaves at once, and from one whose owner waits for it. -/
theorem witness_LendAndRecall :
    let s := testStart [(1, 1 <<< 59)]
    let h := (testStart []).modCore 0 fun k => { k with lent := 1, ctxH := { live := true } }
    let u := (h.ended.askRevoke 0 false).revokeNow 0
    let g : State := h.modCore 0 fun k => { k with ctxH := { k.ctxH with failing := some 0x1E } }
    h.slotHStays 0 = false ∧ g.slotHStays 0 = true ∧ (((g.askRevoke 0 true).revokeNow 0).core 0).ctxH.live = true ∧ g.issues (.recall ⟨0, 0⟩) = true
      ∧ g.issues (.lend ⟨0, 0⟩ 0) = true
      ∧ s.issues (.lend ⟨0, 0⟩ 1) = true ∧ fld ((s.ctx s.me).rd 1) 63 60 = 0 ∧ s.drained s.me = true ∧ h.drained h.me = true ∧ (s.core 0).lent = 0
      ∧ h.issues (.lend ⟨0, 0⟩ 0) = true ∧ (h.core 0).lent &&& ~~~0 ≠ 0 ∧ (h.core 0).ctxH.live = true ∧ (u.core 0).ctxH.live = false
      ∧ h.issues (.recall ⟨0, 0⟩) = true := by decide +kernel
theorem witness_BarriersMeet :
    let a := State.reset.upd fun c => { c with stage := .arrived 0 }
    let b : State := { State.reset with barriers := [⟨0, State.reset.barrierObj State.reset.me 1, true, [], 1, [], 0⟩] }
    State.reset.issues (.bar ⟨0, 0⟩ 0) = true ∧ (State.reset.ctx State.reset.me).stage = .fresh
      ∧ (match State.reset.quiet with | some u => (u.undrained u.me).isNone | none => false) = true
      ∧ a.issues (.bar ⟨0, 0⟩ 1) = true ∧ (a.ctx a.me).stage = .arrived 0 ∧ a.barriers = [] ∧ a.xphases = [] ∧ a.issues (.barxf ⟨0, 0⟩ 3) = true
      ∧ (match State.reset.quiet with | some u => (match u.arrive u.me 3 false with | some (.ok _) => true | _ => false) | none => false) = true
      ∧ b.issues (.bar ⟨0, 0⟩ 1) = true
      ∧ (match b.quiet with | some u => (match u.arrive u.me 1 false with | some (.error _) => true | _ => false) | none => false) = true := by
  decide +kernel
/-- A program of one XEND, whose arrival takes no token, one whose XEND waits for a token of an empty port, and one that awaits a revocation;
a phase that has started
at cycle 32, before it and at it. -/
theorem witness_BarriersMeet_transfer :
    let end_ := fun (w : BitVec 4) => (encodeRec (.xend { (default : EngRec) with s2imm := 1, wait := w })).getD 0
    let p := fun (w : BitVec 4) => State.reset.modCore 0 fun k => k.setEngine .xf { queue := [⟨end_ w, .o, 0, 0, true, 0, none, false⟩] }
    let arrives := fun (s : State) (o : Barrier → Bool) => (match s.quiet with
      | some u => (match u.arrive u.me 3 true with | some (.ok v) => v.barriers.all o | _ => false)
      | none => false)
    let meets := fun (s : State) => (match s.quiet, s.program s.me with
      | some u, some prog => (popAll (u.ctx s.me) (u.popping s.me prog)).isOk
      | _, _ => false)
    let b : State := { p 0 with barriers := [⟨0, State.reset.barrierObj State.reset.me 3, false, [State.reset.unitOf State.reset.me], 1, [], 0⟩] }
    let d : State := State.reset.modCore 0 fun k => { k.setEngine .xf { queue := [⟨end_ 0, .o, 0, 0, true, 0, none, true⟩] } with
      revoke := true, ctxH := { live := true } }
    let x : State := { (State.reset.upd fun c => { c with stage := .arrived 0 }) with xphases := [⟨0, 0, [⟨0, .o⟩], some 32, [], [], [], 4, []⟩] }
    (p 0).issues (.barxf ⟨0, 0⟩ 3) = true ∧ ((p 0).program (p 0).me).isSome = true ∧ meets (p 0) = true ∧ arrives (p 0) (fun b => b.xf) = true
      ∧ meets (p 1) = false ∧ (match b.quiet with | some u => (match u.arrive u.me 3 true with | some (.error _) => true | _ => false) | none => false) = true
      ∧ ((d.quiet.bind fun u => (u.program d.me).map fun g => g.any (u.awaitsRevocation ⟨0, .xf⟩)) = some true) ∧ d.issues (.barxf ⟨0, 0⟩ 3) = true
      ∧ (((p 0).quiet.bind fun u => (u.program (p 0).me).map fun g => g.any (u.awaitsRevocation ⟨0, .xf⟩) || u.stepsHeld 0) = some false)
      ∧ x.issues (.barxf ⟨0, 0⟩ 3) = true ∧ (x.ctx x.me).stage = .arrived 0 ∧ x.cycle < 32 ∧ 32 ≤ ({ x with cycle := 32 } : State).cycle := by
  decide +kernel
/-- The registers of a service, at S, and what it answers there. -/
def testService (s : State) (i : Instr) : Option (Nat × Nat) := if s.issues i then s.quiet.bind fun u => (serviceResult s u i).map (·.2) else none
theorem witness_ServicesAnswer :
    let v : State := { (testHomeWith [(1, 1), (2, 0x20000), (3, 0x20040)]) with
      contracts := { testHome.contracts with vnpus := testHome.contracts.vnpus.set 1 { enable := true, leaf := 0, world := 2 } } }
    let g := v.upd fun c => { c with stage := .revoking }
    testService (testHome.upd fun c => { c with sup := false }) (.tinst ⟨0, 0⟩) = some (1, 0)
      ∧ testService (testHomeWith [(2, 1)]) (.tinst ⟨0, 0⟩) = some (2, 0)
      ∧ testService (testHomeWith [(1, 1 <<< 32)]) (.tvbump ⟨0, 0⟩) = some (2, 0) ∧ testService (testHomeWith [(1, 0xFFFF)]) (.tremove ⟨0, 0⟩) = some (2, 0)
      ∧ testService (testHomeWith [(1, 0xFFFFFFFFF000)]) (.s1root ⟨0, 0⟩) = some (0, 0) ∧ testService (testHomeWith [(1, 1 <<< 48)]) (.s1root ⟨0, 0⟩) = some (2, 0)
      ∧ testService testHome (.tlbinv ⟨0, 0⟩) = some (0, 0) ∧ testService (testHomeWith [(2, 0xFFF)]) (.scrubreq ⟨0, 0⟩) = some (2, 0)
      ∧ (testService (testHomeWith [(2, 4096)]) (.scrubreq ⟨0, 0⟩)).map (·.1) = some 0
      ∧ v.quiet.isSome = true ∧ v.issues (.greset ⟨0, 0⟩) = true ∧ (v.contract 1).enable = true ∧ topOf (v.leafOf 1) = v.ctxTop v.me
      ∧ (v.ctx v.me).vnpu ≠ 1 ∧ (v.ctx v.me).rd 1 = 1 ∧ (g.ctx g.me).stage = .revoking ∧ (g.vnpu 1).busy = false ∧ g.issues (.greset ⟨0, 0⟩) = true := by
  decide +kernel
/-- An access that answers what `f` accepts. -/
def testGives {α : Type} (x : AccRes α) (f : State → α → Bool) : Bool :=
  match x with
  | .ok v b => f v b
  | _ => false
theorem testGives_iff {α : Type} {x : AccRes α} {f : State → α → Bool} (h : testGives x f = true) : ∃ v b, x = .ok v b ∧ f v b = true := by
  cases x with
  | ok v b => exact ⟨v, b, rfl, h⟩
  | trap t => cases h
  | stall t => cases h
/-- The home state with a tensor table at 0x20000 whose entry 0 holds a number, these registers, and a Strongroom copy of slot 0. -/
def testTable (n : Nat) (rs : List (Reg × Word)) (t : List TensorCopy) : State :=
  let s := testHomeWith rs
  { (s.upd fun c => { c with tentab := 0x20000, tenlim := 5 }) with
      zeroed := 32 :: s.zeroed, dram := s.dram.write 0x20000 (leBytes 64 n), tensors := t }
/-- A context with no phase open, nothing sent and no record that waits. -/
theorem testNothing (s : State) (h : (s.phases (.ctx s.me)) = {} ∧ (s.ctx s.me).stage = .fresh ∧ s.recordWaits (.ctx s.me) = false) :
    s.sentNothing := by
  obtain ⟨h, f, w⟩ := h
  simp [State.sentNothing, h, f, w]
/-- At S with nothing sent: the services that read no memory. -/
theorem witness_ServicesAnswer_runs :
    let s := testHome.upd fun c => { c with tenlim := 5 }
    let q := testHomeWith [(2, 4096)]
    s.sentNothing ∧ q.sentNothing ∧ serviceRuns s (.tremove ⟨0, 0⟩) ∧ serviceRuns s (.s1root ⟨0, 0⟩) ∧ serviceRuns s (.tlbinv ⟨0, 0⟩)
      ∧ serviceRuns q (.scrubreq ⟨0, 0⟩)
      ∧ (s.issues (.tremove ⟨0, 0⟩) && s.issues (.s1root ⟨0, 0⟩) && s.issues (.tlbinv ⟨0, 0⟩) && q.issues (.scrubreq ⟨0, 0⟩)) = true := by
  refine ⟨testNothing _ (by decide +kernel), testNothing _ (by decide +kernel), ?_, ?_, ?_, ?_, by decide +kernel⟩ <;>
    · simp only [serviceRuns]; decide +kernel
/-- TINST of a plain entry of world 2. -/
theorem witness_ServicesAnswer_runsTinst :
    let s := testTable (2 ^ 417) [(2, 0x20000)] []
    s.sentNothing ∧ serviceRuns s (.tinst ⟨0, 0⟩) ∧ s.issues (.tinst ⟨0, 0⟩) = true := by
  refine ⟨testNothing _ (by decide +kernel), ⟨by decide +kernel, by decide +kernel, by decide +kernel, ?_⟩, by decide +kernel⟩
  let s := testTable (2 ^ 417) [(2, 0x20000)] []
  let u := s.quiet.getD s
  obtain ⟨v, bs, h, p⟩ := testGives_iff (x := u.load (.ctx s.me) (u.myAcc false) 0 0x20000 64 u.inSlotO false)
    (f := fun v bs => decide (entWorld (leNat bs) = (u.ctxWorld s.me).toNat ∧ entSealed (leNat bs) = false ∧ entEnc (leNat bs) = false
        ∧ (v.tensor (u.ctxLeaf s.me) 0).writer = none)) (by decide +kernel)
  exact ⟨v, bs, h, of_decide_eq_true p⟩
/-- TVBUMP of an encrypted tensor at the version of its entry. -/
theorem witness_ServicesAnswer_runsTvbump :
    let s := testTable (2 ^ 320) [(1, 1)] [⟨0, 0, 7, 3, 2, true, true, none, false, none⟩]
    s.sentNothing ∧ serviceRuns s (.tvbump ⟨0, 0⟩) ∧ s.issues (.tvbump ⟨0, 0⟩) = true := by
  refine ⟨testNothing _ (by decide +kernel), ⟨by decide +kernel, by decide +kernel, by decide +kernel, ?_⟩, by decide +kernel⟩
  let s := testTable (2 ^ 320) [(1, 1)] [⟨0, 0, 7, 3, 2, true, true, none, false, none⟩]
  let u := s.quiet.getD s
  obtain ⟨v, bs, h, p⟩ := testGives_iff (x := u.load (.ctx s.me) (u.myAcc false) 0 ((s.ctx s.me).entryAddr 0) 44 u.inSlotO false)
    (f := fun v bs => decide (entCurrent (leNat bs) 1 = true ∧ (v.tensor (u.ctxLeaf s.me) 0).enc = true
        ∧ (v.tensor (u.ctxLeaf s.me) 0).writer = none ∧ (v.tensor (u.ctxLeaf s.me) 0).wver ≠ 2 ^ 32 - 1)) (by decide +kernel)
  exact ⟨v, bs, h, of_decide_eq_true p⟩
/-- GRESET by a U caller, of itself, of one past the last, and of one that is not of its partition. -/
theorem witness_ServicesAnswer_greset :
    let s := testHomeWith [(1, 3)]
    let u := s.upd fun c => { c with sup := false }
    s.sentNothing ∧ u.sentNothing ∧ s.issues (.greset ⟨0, 0⟩) = true ∧ u.issues (.greset ⟨0, 0⟩) = true ∧ (s.ctx s.me).stage = .fresh
      ∧ ((testHomeWith [(1, 0)]).ctx s.me).vnpu.val = 0 ∧ ((testHomeWith [(1, 64)]).ctx s.me).rd 1 = 64 ∧ (s.contract 3).enable = false := by
  exact ⟨testNothing _ (by decide +kernel), testNothing _ (by decide +kernel), by decide +kernel⟩
/-- TINST of an entry of world 2, encrypted, into an empty slot. -/
theorem witness_ServicesAnswer_tinst :
    let s := { (testHomeWith [(1, 0), (2, 0x20000)]) with zeroed := 32 :: testHome.zeroed }
    let s := { (s.upd fun c => { c with tentab := 0x20000, tenlim := 0 }) with dram := s.dram.write 0x20000 (leBytes 64 (2 ^ 496)) }
    s.quiet.isSome = true ∧ s.issues (.tinst ⟨0, 0⟩) = true ∧ (s.ctx s.me).sup = true := by decide +kernel
theorem witness_InvocationsAreSent :
    let s := testHomeWith [(1, 0x20008), (2, 1)]
    let r := s.upd fun c => { c with stage := .replied 5 }
    let w := s.modCore 0 fun k => { k with stamps := Vector.replicate 7 2 }
    let x := s.newInv (s.ctx s.me) true 0x20008 0x20008 0 0 0 0 0
    r.issues (.slx ⟨0, 0⟩ 15 5 1 2 3 31) = true ∧ (r.ctx r.me).stage = .replied 5 ∧ s.issues (.slx ⟨0, 0⟩ 0 5 1 2 3 0) = true ∧ (s.ctx s.me).stage = .fresh
      ∧ (s.mapped s.me 0).isSome = true ∧ (match s.invAddr (s.myAcc true) 0x20008 0 (some 0) with
        | .ok (pa, pages) => pa == 0x20008 && testOk (s.sendInv x pages) | .error _ => false) = true
      ∧ (match s.invAddr (s.myAcc true) 0x20009 0 (some 0) with | .error _ => true | _ => false) = true
      ∧ (match s.invAddr (s.myAcc true) 0x20008 16 (s.mapped s.me 16) with | .error _ => true | _ => false) = true
      ∧ s.mayStamp (.ctx s.me) = true ∧ w.mayStamp (.ctx w.me) = false ∧ w.issues (.slxn ⟨0, 0⟩ 0 1 2 3 0) = true
      ∧ (match w.invAddr (w.myAcc true) 0x20009 0 (some 0) with | .error _ => true | _ => false) = true
      ∧ s.issues (.slxn ⟨0, 0⟩ 0 1 2 3 0) = true ∧ (s.ctx s.me).events.length < 64 ∧ (s.ctx s.me).eventsHeld = []
      ∧ s.invHeld (s.myAcc true) 0x20008 (s.mapped s.me 0) = false ∧ s.invHeld (s.myAcc true) 0x20009 (s.mapped s.me 0) = false
      ∧ s.invHeld (s.myAcc true) 0x20008 (s.mapped s.me 16) = false
      ∧ (testWalks1 s).invHeld (s.myAcc true) 0x20008 (s.mapped s.me 0) = true := by decide +kernel
/-- Images of 1 word: LRET, an illegal word, LRET with no quota; ids 15 and 16 uninstalled. -/
theorem witness_RtinstInstallsAndFrees :
    let t : State := { testHome with zeroed := 32 :: testHome.zeroed, dram := testHome.dram.write 0x20000 (leBytes 4 0x4C000000) }
    let s := t.upd fun c => (c.wr 1 0x20000).wr 2 1
    let q : State := { s with contracts := { s.contracts with leaves := s.contracts.leaves.set 0 { placeLeaf with rtq := 1 } } }
    let g := (testHomeWith [(2, (1 <<< 63) + 16)]).upd fun c => { c with stage := .revoking }
    let g : State := { g with routines := [⟨0, 16, 16, [0x4C000000]⟩] }
    s.issues (.rtinst ⟨0, 0⟩ 3 1 2) = true ∧ (match s.load (.ctx s.me) (s.myAcc false) 0 0x20000 4 s.inSlotO false with
        | .ok u bs => (firstBad (imageWords 1 (leNat bs))).isNone && (u.freeId 0).isNone
        | _ => false) = true
      ∧ (q.freeId 0).isSome = true ∧ firstBad [0] = some 0 ∧ fld ((g.ctx g.me).rd 2) 62 8 = 0 ∧ tb ((g.ctx g.me).rd 2) 63 = true
      ∧ g.idKnown 0 16 = true ∧ g.idInUse 0 16 = false ∧ (g.ctx g.me).stage = .revoking ∧ g.issues (.rtinst ⟨0, 0⟩ 3 1 2) = true := by decide +kernel

/-! ### Records -/

/-- The record at the head of its engine of core 0, walking. -/
def testRecord (i : Instr) : State :=
  match recordParts i with
  | some (e, _, _) => State.reset.modCore 0 fun k =>
      k.setEngine e { queue := [⟨(encodeRec i).getD 0, .o, 0, 0, true, 0, none, false⟩], head := { st := .walking } }
  | none => State.reset

/-- Its header and its own checks hold, and its operands are checked. -/
def testWalks (i : Instr) (opds : EngRec → List Opd) : Bool :=
  match recordParts i with
  | some (e, _, r) => headerOk e r && recordOk i && ((testRecord i).engine ⟨0, e⟩).queue.map (·.hdr) == [r]
      && (((testRecord i).core 0).checked .o (opds r)).isOk
  | none => false

/-- A record of F32, of I32, and of N32, at Pantry addresses 0 and 0x1000. -/
def testF32 : EngRec := { (default : EngRec) with d := ⟨0x1000, 0, 0, 0, 0⟩ }
def testI32 : EngRec := { testF32 with dtype := 6, stype := 6 }

/-- One record of each lane operation, at its first step. -/
def testLaneRecords : List Instr :=
  [.vadd testF32, .vsub testI32, .vmul testF32, .vfma testF32, .vmin testI32, .vmax testF32, .vabs testI32, .vneg testF32, .vand testI32, .vor testI32,
    .vxor testI32, .vshl testI32, .vshr testI32, .vsra testI32, .vsel testI32, .vclamp { testF32 with s2imm := 1 }, .vscale { testF32 with s2imm := 1 },
    .vmov testF32, .vexp2 testF32, .vlog2 testF32, .vrcp testF32, .vrsq testF32, .vsqrt testF32, .vtanh testF32, .vcvt { testF32 with dtype := 1 },
    .vrand { testF32 with s2imm := 1 }, .viota { testF32 with dtype := 6, s2imm := 1 }]
theorem witness_LaneRecordsWriteEveryLane : (testLaneRecords.all fun i => match laneRule i with
    | some (r, o, _) => testWalks i fun _ => o.opds r { st := .walking }
    | none => false) = true ∧ State.reset.storesOk = true := by decide +kernel

def testStepRecords : List Instr :=
  let n : EngRec := { testI32 with dtype := 10, stype := 10 }
  let z : EngRec := { n with s2imm := 1, s2 := ⟨512, 0, 0, 0, 0⟩ }
  [.vcmp testI32, .vcmp { testF32 with d := default, aux := 0xC000 }, .vbcast { n with s2imm := 1 }, .vquant { testF32 with dtype := 3 },
    .vdeq { testF32 with stype := 3 }, .vzero testF32, .vredsum testF32, .vredmax testI32, .vredmin testF32, .vscan testI32,
    .vany { n with dtype := 0, d := default }, .vcnt n, .vzip2 z, .vzip3 z, .vzip4 z, .vunzip2 z, .vunzip3 z, .vunzip4 z, .vperm n,
    .vldp { testF32 with aux := 512 }, .vstp { testF32 with aux := 1 }]
theorem witness_VectorRecordsTakeTheirStep : (testStepRecords.all fun i => match stepRule (State.reset.core 0) { st := .walking } i with
    | some (_, os, _) => testWalks i fun _ => os
    | none => false) = true := by decide +kernel

/-- The first step of a record has its operands, and its lists of indices and elements. -/
def testMoves (i : Instr) (f : Core → EngRec → Head → Bool) : Bool :=
  match recordParts i with
  | some (_, _, r) => testWalks i (fun _ => []) && f ((testRecord i).core 0) r { st := .walking }
  | none => false
/-- VCMP at a full condition queue; VBUMP and VTYPE; VGATHER and VSCATTER by index and by LIST; VPART. -/
theorem witness_VectorRecordsTakeTheirStep_moves :
    let n : EngRec := { testI32 with dtype := 10, stype := 10, s2 := ⟨0x2000, 0, 0, 0, 0⟩ }
    let f := fun (k : Core) (r : EngRec) h => (indices r k .o h).isOk && (k.opds .o [vecAt r.d (h.addr r.d) (128 * (tw r.dtype / 8)) (some r.dtype) false]).isOk
    testMoves (.vcmp { testF32 with d := default, aux := 0xC000 }) (fun _ r _ => r.aux.getLsbD 15
        && !(({ (State.reset.ctx State.reset.me) with cq := List.replicate 16 true } : Ctx)).cqRoom) = true
      ∧ testMoves (.vbump { (default : EngRec) with aux := 0x1FF }) (fun _ _ _ => true) = true
      ∧ testMoves (.vtype { (default : EngRec) with aux := 1 }) (fun _ _ _ => true) = true
      ∧ testMoves (.vgather n) f = true ∧ testMoves (.vscatter { n with aux := 1 }) f = true
      ∧ testMoves (.vpart n) (fun k r h => (k.checked .o [scalarAt r.d r.d.base.toNat 4 (some 10) false,
          vecAt r.s1 (h.addr r.s1) 512 (some r.stype) true, scalarAt r.s2 r.s2.base.toNat 4 (some 10) false]).isOk) = true := by decide +kernel
/-- The MMA family at its first step, which is not and is the last of its j0 loop, MRET and MZERO. -/
theorem witness_MatrixStepsTakeTheirEffect :
    let r : EngRec := { (default : EngRec) with stype := 1, d := ⟨0x10000000, 0, 0, 0, 0⟩, s2 := ⟨0x20000000, 0, 0, 0, 0⟩ }
    let x : EngRec := { r with stype := 3, trip0 := 1, s2 := ⟨0x20000000, 0, 0, 0, 0⟩ }
    ([Instr.mma { r with trip0 := 1 }, .mmaz r, .mmas x].all fun i => match mmaForm i with
      | some (_, z, sc, a) => testMoves i fun k r h => (k.checked .o (mmaOpds z sc a r h)).isOk && (k.tileCheck .o (match recordParts i with
        | some (_, o, _) => o.toNat | none => 0) r).isNone
      | none => false) = true
      ∧ testMoves (.mzero { (default : EngRec) with d := ⟨0x10000000, 0, 0, 0, 0⟩ }) (fun k r h =>
          (k.checked .o [⟨1, [h.addr r.d], 512, 512, true, none, false⟩]).isOk) = true
      ∧ testMoves (.mret { testF32 with s1 := ⟨0x10000000, 0, 0, 0, 0⟩ }) (fun k r h =>
          (k.checked .o [⟨r.d.space, [h.addr r.d], 512, 64, true, none, false⟩, ⟨1, [h.addr r.s1], 512, 512, true, some r.stype, true⟩]).isOk) = true := by
  decide +kernel
/-- A header that fails, operands past a space, a head that waits, and a record at the head. -/
theorem witness_RecordsFaultWithNoEffect :
    let bad : Instr := .vadd { testF32 with rnd := 6 }
    let far : EngRec := { testF32 with d := ⟨0xFFFC0, 0, 0, 0, 0⟩ }
    (match recordParts bad with | some (e, _, r) => !headerOk e r && decide (e ≠ .xf) | none => false) = true
      ∧ ((testRecord bad).engine ⟨0, .vx⟩).queue.length = 1 ∧ ((testRecord bad).engine ⟨0, .vx⟩).head.st = .walking
      ∧ ((testRecord bad).engine ⟨0, .vx⟩).head.orphan = false
      ∧ testMoves (.vadd far) (fun k r h => !(k.checked .o ((sameLanes r).opds r h)).isOk) = true
      ∧ testMoves (.mmaz { (default : EngRec) with stype := 1, d := ⟨0x10000000, 0, 0, 0, 0⟩, s2 := ⟨0x20200000, 0, 0, 0, 0⟩ })
          (fun k r h => (k.tileCheck .o 2 r).isNone && !(k.checked .o (mmaOpds true false false r h)).isOk) = true
      ∧ ((testFull 1 State.reset).headOf .vx).st ≠ .walking ∧ ((State.reset.core 0).firstNotHeld .o (64 * 3) 64).isNone = true
      ∧ testMoves (.vzero { far with trip0 := 1 }) (fun k _ h => match stepRule k h (.vzero far) with
          | some (_, os, _) => !(k.checked .o os).isOk | none => false) = true
      ∧ testMoves (.mzero { (default : EngRec) with d := ⟨0x10000000, 0, 0, 0, 0⟩, vchk := 1 })
          (fun k r _ => ((k.lend (1 <<< 16)).tileCheck .o 7 r).isSome) = true
      ∧ (((testRecord bad).modEngine ⟨0, .mx⟩ fun x => { x with head := { x.head with resumed := true } }).headOf .mx).resumed = true := by
  decide +kernel
/-- The copy of the entry of a tensor of one F32 element at 0x20000, in the home state with the record walking in engine e. -/
def testCopy (i : Instr) : State :=
  match recordParts i with
  | some (e, _, _) => testHome.modCore 0 fun k =>
      k.setEngine e { queue := [⟨(encodeRec i).getD 0, .o, 0, 0, true, 0, none, false⟩]
                      head := { st := .walking, copy := BitVec.ofNat 432 (0x20000 + 2 ^ 64 + 2 ^ 96 + 2 ^ 128 + 2 ^ 160 + 4 * 2 ^ 192) } }
  | none => testHome
/-- A step of a copy in its extents, with the element's address, and one out of them. -/
def testCopies (i : Instr) (list : Bool) : Bool :=
  match recordParts i with
  | some (e, _, r) =>
    let s := testCopy i
    let h := s.headOf e
    headerOk e r && recordOk i && (s.engine ⟨0, e⟩).queue.map (·.hdr) == [r] && h.openLine.isNone && ((s.core 0).opds .o [localSide r h (e == .co)]).isOk && inExtent r h
      && decide (tensorAddr list (s.core 0) .o r h = .ok 0x20000) && !entHost h.copy.toNat && !entEnc h.copy.toNat && !inExtent
        { r with s2 := ⟨0, 1, 0, 0, 0⟩ } { h with j0 := 1 }
      && (match (s.engine ⟨0, e⟩).queue with
        | q :: _ => testOk (s.load (.eng ⟨0, e⟩) (engAcc ⟨0, e⟩ q false false) 0 0x20000 4 false true)
            && testOk (s.storeMsg (.eng ⟨0, e⟩) (engAcc ⟨0, e⟩ q true false) 0 0x20000 [1, 2, 3, 4] 0 true true none)
            && (s.checkPages (engAcc ⟨0, e⟩ q false false) 0x20000 1).isOk && !s.walkHeld (engAcc ⟨0, e⟩ q false false) 0x20000 1
            && (s.admitSeq 0 (s.asker (.eng ⟨0, e⟩)) (s.mcCharges (some (s.leafOf 0)) (0x20000 / 128) true)).1
        | [] => false)
  | none => false
theorem witness_CopiesInWriteLocalElements : testCopies (.cpin testF32) false = true ∧ testCopies (.cpina { testF32 with d := ⟨0x20000000, 0, 0, 0, 0⟩ }) false = true
    ∧ testCopies (.gathin { testF32 with aux := 0x3FFF }) true = true ∧ testCopies (.pfin { testF32 with d := default }) false = true
    ∧ testWalks (.fill { testF32 with s2imm := 1 }) (fun r => [localSide r { st := .walking } false]) = true
    ∧ testWalks (.cploc testF32) (fun r => [localSide r { st := .walking } false, ⟨r.s1.space, [0], 4, 4, false, some r.stype, true⟩]) = true := by
  decide +kernel
/-- The element of a step past the tensor's last. -/
theorem witness_CopiesInWriteLocalElements_trap : (let s := testCopy (.cpin { testF32 with s2 := ⟨1, 0, 0, 0, 0⟩ })
    tensorAddr false (s.core 0) .o { testF32 with s2 := ⟨1, 0, 0, 0, 0⟩ } (s.headOf .ci) = .error { cause := 0x0A }) := by decide +kernel
theorem witness_CopiesOutSendTheirElement : ([Instr.cpout testF32, .cpouta { testF32 with d := ⟨0x10000000, 0, 0, 0, 0⟩ }, .cprem testF32].all fun i => testCopies i false
    && match copyOutForm i with | some (_, list, _) => !list | none => false) = true ∧ testCopies (.scatout { testF32 with aux := 0x3FFF }) true = true
    ∧ ((State.reset.modCore 0 fun k => { k with poison := [0x1000 / 64] }).core 0).poisonIn [(0x1000, 4)] ≠ none := by decide +kernel
/-- A tensor of the host whose unit has been answered, has failed, and has not been asked for out of RUN; a unit under way in CO. -/
theorem witness_CopiesInWriteLocalElements_host :
    let e : EngId := ⟨0, .ci⟩
    let h : Head := { st := .walking, copy := BitVec.ofNat 432 (2 ^ 344), hostReq := some 0 }
    let r := fun (x : Option (List Byte)) => ({ testHome with hostReqs := [⟨0, e, 0, 0, 0, 0x1000, 0, some x, false⟩] } : State)
    entHost h.copy.toNat = true ∧ ((r (some [])).unitRead e h 0x1008).map (·.result) = some (some (some []))
      ∧ ((r none).unitRead e h 0x1008).map (·.result) = some (some none) ∧ (testHome.unitRead e h 0x1008).isNone = true
      ∧ (match testHome.hostPage 0 0x1008 with | .closed => true | _ => false) = true
      ∧ ((testCopy (.cpout testF32)).modEngine ⟨0, .co⟩ fun x => { x with head := { x.head with unit := some 5 } }).headOf .co
          = { (testCopy (.cpout testF32)).headOf .co with unit := some 5 } := by decide +kernel
/-- CO at an element of a host tensor, in RUN with its page granted and out of RUN, and of an encrypted one, before and after its last line. -/
theorem witness_CopiesOutSendTheirElement_forms :
    let i : Instr := .cpout { testF32 with trip0 := 1 }
    let e : EngId := ⟨0, .co⟩
    let s := testCopy i
    let g := s.modVnpu 0 fun x => { x with tdisp := .run, granted := [(0x20, 0x99)] }
    let send := fun (s : State) (ps : List (Nat × List Byte)) =>
      (((s.admitAll 0 (s.asker (.eng e)) [(0, 4)]).2.sendCounted (.eng e) 0 hostPort 0 fun _ => .hostWrite 0 ps).isSome, (s.admitAll 0 (s.asker (.eng e)) [(0, 4)]).1)
    let h := s.headOf .co
    let t := s.modCore 0 fun k => { k with tlb := [⟨0, 2, 12, 0x20, 0x20, true, false, false, true, false, true⟩] }
    let enc := BitVec.ofNat 432 (h.copy.toNat + 2 ^ 424)
    (match g.hostPage 0 0x20000 with | .ready => true | _ => false) = true ∧ (match s.hostPage 0 0x20000 with | .closed => true | _ => false) = true
      ∧ send g [(0x99000, [1, 2, 3, 4])] = (true, true) ∧ send s [] = (true, true)
      ∧ entHost (BitVec.ofNat 432 (h.copy.toNat + 2 ^ 344)).toNat = true ∧ entEnc enc.toNat = true ∧ entHost enc.toNat = false
      ∧ (match (s.engine e).queue with | q :: _ => (t.checkPages (engAcc e q true true) 0x20000 4).isOk && !t.walkHeld (engAcc e q true true) 0x20000 4 | [] => false) = true
      ∧ (Head.advance { h with openLine := some ⟨0x20000, 0⟩ } { testF32 with trip0 := 1 }).st = .walking ∧ lineVa 0x20000 ≤ 0x20000 := by decide +kernel
/-- Phase cycle 3 of a phase of core 0: a record that starts at it, and one that has ended. -/
theorem witness_TransferRecordsMoveBeats :
    let x : XPhase := ⟨0, 0, [⟨0, .o⟩], some 32, [], [], [], 0, []⟩
    let s : State := { State.reset with xphases := [x], cycle := 35 }
    let r : EngRec := { (default : EngRec) with s2 := ⟨3, 0, 0, 0, 0⟩ }
    (s.xphases.find? fun y => y.members.contains ⟨0, .o⟩) = some x ∧ s.cycle - 32 = 3 ∧ startOf r ≤ 3 ∧ 3 - startOf r < stepsOf r
      ∧ stepsOf (default : EngRec) ≤ 3 - startOf default ∧ (s.core 0).poisoned 0 32 = none
      ∧ ((s.modCore 0 fun k => { k with poison := [0] }).core 0).poisoned 0 32 = some 0 := by decide +kernel
theorem witness_SliceWordsRunAtTheLine :
    let i : Invocation := ⟨0, ⟨0, .o⟩, true, 0x20000, 0x20000, 0, 0, 0, 0, 0, 0, 0, 0, 0, 0, 0, true, 0⟩
    let e : Exec := { inv := some i, words := [0x06588000, 0x4C000000] }
    (sliceResult e (.ladd 18 24 16)).isSome = true ∧ e.words.drop 1 ≠ [] ∧ (e.words.drop 2).drop 1 = [] ∧ e.inv = some i
      ∧ testHome.memoriesOk = true ∧ testHome.mayAccess i.vnpu (testHome.pageWorld (i.pa / 4096)) = true
      ∧ State.reset.mayAccess i.vnpu (State.reset.pageWorld (i.pa / 4096)) = false := by decide +kernel

/-! ### Events -/

/-- A message in flight, which the event names. -/
def testMsg (m : Msg) (s : State) : State := { s with net := [m], cur := { s.cur with ev := { n := m.id } } }
/-- A write of one byte at 0x20000 by the context of core 0, of its phase 0, after `n` phases. -/
def testWrite (n : Nat) : Msg := ⟨7, .ctx ⟨0, .o⟩, 0, (homeSlice (0x20000 / 128)).val, 0, 0, 0, 0, 0, .write [(0x20000, [9])] n true none⟩
def testInv : Invocation := ⟨3, ⟨0, .o⟩, true, 0x20008, 0x20008, 0, 0, 1, 5, 6, 0, 0, 0, 0, 0, 0, true, 0⟩
theorem witness_MessagesArriveAndMeet_writes :
    let s := testMsg (testWrite 0) testHome
    let u := s.modSlice (homeSlice (0x20000 / 128)) fun x => x.setExec 0 { inv := some testInv }
    s.net.find? (fun x => x.id = s.cur.ev.n) = some (testWrite 0) ∧ s.mayAccess 0 (s.pageWorld 32) = true ∧ s.mayAccess 0 (s.pageWorld 33) = false
      ∧ s.phaseDone (.ctx ⟨0, .o⟩) 0 = true ∧ s.phaseDone (.ctx ⟨0, .o⟩) 1 = false ∧ s.behind (testWrite 0).turn (testWrite 0).key false 0x20000 1 = false
      ∧ s.lineHeld (0x20000 / 128) = false ∧ u.lineHeld (0x20000 / 128) = true
      ∧ (s.admitSeq 0 (.msg 7) (s.mcCharges (some (s.leafOf 0)) (0x20000 / 128) true)).1 = true
      ∧ (({ s with regs := [⟨0, 97 + controllerOf 0x20000, 0, [], false⟩] } : State).admitSeq 0 (.msg 7)
          (s.mcCharges (some (s.leafOf 0)) (0x20000 / 128) true)).1 = false
      ∧ ({ s with net := [{ testWrite 0 with id := 6 }, testWrite 0] } : State).behind (testWrite 0).turn (testWrite 0).key false 0x20000 1 = true := by
  decide +kernel
/-- A host write of virtual NPU 0, out of RUN, in RUN, and behind an earlier one of its source that it meets. -/
theorem witness_MessagesArriveAndMeet_host :
    let m : Msg := { testWrite 0 with target := hostPort, body := .hostWrite 0 [(0x1000, [9])] }
    let s := testMsg m testHome
    let r := s.modVnpu 0 fun x => { x with tdisp := .run }
    s.evMsg m ∧ s.behind m.turn m.key true 0x1000 1 = false ∧ s.inRun 0 = false ∧ r.inRun 0 = true
      ∧ ({ s with net := [{ m with id := 6 }, m] } : State).behind m.turn m.key true 0x1000 1 = true := by
  refine ⟨by unfold State.evMsg; decide +kernel, by decide +kernel⟩
/-- An invocation that arrives, one whose page is marked, and one whose line an earlier store of its context is still to reach; its
reply, with q and with a fault; a marker that is complete and one that is not. -/
theorem witness_MessagesArriveAndMeet_invoke :
    let m : Msg := { testWrite 0 with body := .invoke { testInv with id := 7 } }
    let s := testMsg m testHome
    let w : Msg := { testWrite 0 with id := 6, body := .write [(0x20078, [9])] 0 true none }
    let late := fun (s : State) => s.net.any fun x => decide (x.key < m.key) && x.blocks m.turn false (testInv.pa / 128 * 128) 128
    (s.net.find? fun x => x.id = s.cur.ev.n) = some m ∧ late s = false ∧ s.marked 32 = false
      ∧ ({ s with migrating := [⟨0, 32, 32, 33, 1⟩] } : State).marked 32 = true ∧ late { s with net := [w, m] } = true
      ∧ s.arrived m.target m.src 0 = 0 := by decide +kernel
/-- Markers with a count of 0, which has come, and of 1, which has not; a phase all of whose targets have acknowledged, and one with a
target left. -/
theorem witness_MessagesArriveAndMeet_phases :
    let r : Src := .ctx ⟨0, .o⟩
    let s := State.reset.setPhases r { closed := 2, opens := [⟨0, []⟩, ⟨1, [5]⟩] }
    let t := { s with cur := { s.cur with ev := { src := r } } }
    s.arrived 5 r 0 = 0 ∧ t.replyPhase r = none ∧ t.recordWaits r = false
      ∧ (t.modCtx ⟨0, .o⟩ fun c => { c with eventsHeld := [⟨2, 0⟩] }).recordWaits r = true ∧ (t.phases r).opens = [⟨0, []⟩, ⟨1, [5]⟩] ∧ (∀ y ∈ [(⟨1, [5]⟩ : OpenPhase)], y.targets ≠ []) := by
  decide +kernel
/-- An invocation that the slice grants to an idle executor; the reply that its context waits for. -/
theorem witness_MessagesArriveAndMeet_routines :
    let s := testHome.modSlice 0 fun x => { x with queue := [testInv] }
    let a := testHome.upd fun c => { c with stage := .sent 3 }
    let pt := 97 + controllerOf 0x20008
    (((List.finRange 4).find? fun x => (((s.slice 0).exec x).inv).isNone) = some 0) ∧ s.grantable 0 = [(0, testInv)] ∧ s.invFault 0 testInv = none
      ∧ (s.admitSeq 0 (.inv 3) (s.mcCharges (some (s.invLeaf testInv)) (0x20008 / 128) true)).1 = true
      ∧ (({ s with regs := [⟨0, pt, 0, [], false⟩] } : State).admitSeq 0 (.inv 3) (s.mcCharges (some (s.invLeaf testInv)) (0x20008 / 128) true)).1 = false
      ∧ a.awaitsReply testInv = true ∧ testInv.rgen = (a.vnpu 0).rgen ∧ testInv.wait = true
      ∧ a.owedRecord { testInv with wait := false, serial := (a.ctx a.me).serial } = true ∧ (1 : BitVec 16) ≠ (a.vnpu 0).rgen := by decide +kernel
/-- A NACK of an invocation: its translation holds, its routine is unmapped or its page gone, and its core port is held; a marker with a
retry beyond its count; a reply still to be taken of phase 0; a reply to a context that no longer waits, and a record owed to none. -/
theorem witness_MessagesArriveAndMeet_nack :
    let i : Invocation := { testInv with vr := 0, rid := 1 }
    let m : Msg := { testWrite 0 with body := .reply i .nack }
    let s := (testMsg m testHome).upd fun c => { c with stage := .sent 3 }
    let fresh := fun (s : State) => s.modCore i.src.core fun k => { k with tlb := k.tlb.filter fun e => !(e.vnpu = i.vnpu && e.covers i.va) }
    let at_ := fun (s : State) => (fresh s).invAddr { core := i.src.core, vnpu := i.vnpu, user := i.user, write := true } (BitVec.ofNat 64 i.va)
      (BitVec.ofNat 5 i.vr) (some ⟨i.rid % 256, Nat.mod_lt _ (by decide)⟩)
    let u := fresh s
    let n := { s with net := [{ m with body := .reply { i with wait := false } .nack }], arrivals := [⟨5, m.src, 0, 2⟩] }
    s.awaitsReply i = true ∧ testHome.awaitsReply i = false ∧ testHome.owedRecord { i with rgen := 9, serial := 9 } = false ∧ i.rgen = (s.vnpu 0).rgen
      ∧ (match at_ s with
        | .ok (pa, _) => !s.marked (pa / 4096) && ({ s with migrating := [⟨0, 32, pa / 4096, 33, 1⟩] } : State).marked (pa / 4096)
        | .error _ => false) = true
      ∧ s.mayStamp (.ctx i.src) = true ∧ (s.modCore 0 fun k => { k with stamps := Vector.replicate 7 2 }).mayStamp (.ctx i.src) = false
      ∧ s.owedRecord { i with wait := false, serial := (s.ctx i.src).serial } = true
      ∧ (at_ s).isOk = true ∧ (at_ { s with owner := [] }).isOk = false ∧ (u.admitAll 0 (.msg m.id) [(0, 24)]).1 = true
      ∧ (({ u with regs := [⟨0, 0, 0, [], false⟩] } : State).admitAll 0 (.msg m.id) [(0, 24)]).1 = false
      ∧ ((u.unpost m).countRetry i (homeSlice (i.pa / 128)).val).isSome = true
      ∧ u.invHeld { core := 0, vnpu := 0, user := i.user, write := true } (BitVec.ofNat 64 i.va) (some 1) = false
      ∧ (fresh (testWalks1 s)).invHeld { core := 0, vnpu := 0, user := i.user, write := true } (BitVec.ofNat 64 i.va) (some 1) = true
      ∧ n.arrived 5 m.src 0 = 2 ∧ (n.replyPhase m.src).isSome = true ∧ n.recordWaits m.src = false := by decide +kernel
/-- A page of intermediate address 0x400000 mapped alone to 0x20000 moves to page 33. -/
theorem witness_MessagesArriveAndMeet_migration :
    let d := testHome.dram.write placeT1 (leBytes 8 (0x102000 + 1))
    let d := d.write (0x102000 + 16) (leBytes 8 (0x103000 + 1))
    let d := d.write 0x103000 (leBytes 8 0x2000F)
    let s : State := { testHome with dram := d, zeroed := [257, 258, 259] ++ testHome.zeroed, migrating := [⟨0, 0x400, 32, 33, 1⟩] }
    let s := { s with cur := { s.cur with ev := { n := 0x400 } } }
    (s.migrating.find? fun g => g.vnpu = s.cur.ev.vnpu && decide (g.ipage ≤ s.cur.ev.n) && decide (s.cur.ev.n < g.ipage + g.pages))
        = some ⟨0, 0x400, 32, 33, 1⟩ ∧ s.memoriesOk = true ∧ s.nackMarked.pagesBusy 32 1 = false ∧ s.nackMarked.phasesQuiet .root = true
      ∧ s.nackMarked.lineHeld (0x103000 / 128) = false ∧ (testHolds 0x103000 s).nackMarked.lineHeld (0x103000 / 128) = true
      ∧ (s.setPhases .root { closed := 1, opens := [⟨0, [5]⟩] }).nackMarked.phasesQuiet .root = false ∧ (testHolds 0x20000 s).nackMarked.pagesBusy 32 1 = true
      ∧ (s.nackMarked.mapEntry 0 0x400).map (fun x => (x.1, x.2.2)) = some (0x103000, 12) := by decide +kernel
/-- A full barrier with its members, of BAR and of BARXF; one that lacks a member; a phase at its end and before it. -/
theorem witness_MessagesArriveAndMeet_meetings :
    let b : Barrier := ⟨0, 1, true, [], 0, [], 0⟩
    let s : State := { State.reset with barriers := [b] }
    let x : XPhase := ⟨0, 0, [], some 32, [], [], [], 4, []⟩
    (s.barriers.find? fun b => b.id = s.cur.ev.n) = some b ∧ b.full = true ∧ ({ b with missing := 1 } : Barrier).full = false
      ∧ ([x].find? fun x => x.id = s.cur.ev.n) = some x ∧ 32 + x.p + 8 ≤ 44 ∧ 43 < 32 + x.p + 8 ∧ State.reset.wftQueue = []
      ∧ (s.walkers (.wowait ⟨0, .o⟩ 5)).any (fun i => !s.mayStamp (.ctx i)) = false
      ∧ (s.walkers (.wowait ⟨0, .o⟩ 5)).any (fun i => !(s.modCore 0 fun k => { k with stamps := Vector.replicate 7 2 }).mayStamp (.ctx i)) = true := by
  decide +kernel
/-- Slot O of core 0 with one landing that is due, and one that is not. -/
theorem witness_ContextEventsTakeEffect_landing : ∀ l ∈ [(⟨3, 5, 0, 1⟩ : Landing)], l.rem ≠ 0 := by decide
/-- A record that waits: with a header that faults, behind an open phase, at an empty port, ready and free; and the harvest case. -/
theorem witness_ContextEventsTakeEffect_start :
    let w := fun (i : Instr) (g : Nat) => State.reset.modCore 0 fun k => k.setEngine .vx { queue := [⟨(encodeRec i).getD 0, .o, 0, g, true, 0, none, false⟩], head := {} }
    let s := w (.vadd testF32) 0
    let p := w (.vadd { testF32 with wait := 1 }) 0
    let e : EngId := ⟨0, .vx⟩
    ((s.engine e).queue.all fun q => (headTrap (s.core 0) .vx q).isNone && s.phaseDone (.ctx ⟨0, .o⟩) q.gate && !s.awaitsRevocation e q
        && (s.startHold e q).isNone && s.paced e q.slot && !takesEntry .vx (recOpc q.record).toNat) = true
      ∧ (s.engine e).head.st = .waiting ∧ (s.engine e).queue.length = 1
      ∧ (((w (.vadd { testF32 with rnd := 6 }) 0).engine e).queue.all fun q => (headTrap (s.core 0) .vx q).isSome) = true
      ∧ (((w (.vadd testF32) 1).engine e).queue.all fun q => !s.phaseDone (.ctx ⟨0, .o⟩) q.gate) = true
      ∧ ((p.engine e).queue.all fun q => (p.startHold e q).isSome && (headTrap (p.core 0) .vx q).isNone) = true := by decide +kernel
/-- An XF record at the head of its queue: a legal one and one with a reserved header value, as it waits and after its fault. -/
theorem witness_ContextEventsTakeEffect_xf :
    let q := fun (r : EngRec) => (⟨(encodeRec (.xend { r with s2imm := 1 })).getD 0, .o, 0, 0, true, 0, none, false⟩ : QEntry)
    let s := fun (h : HeadState) => State.reset.modCore 0 fun k => k.setEngine .xf { queue := [q default], head := { st := h } }
    headTrap (State.reset.core 0) .xf (q default) = none ∧ (headTrap (State.reset.core 0) .xf (q { (default : EngRec) with rnd := 6 })).isSome = true
      ∧ ((s .waiting).engine ⟨0, .xf⟩).head.st = .waiting ∧ ((s (.faulted 1)).engine ⟨0, .xf⟩).head.st = .faulted 1
      ∧ ((s (.faulted 1)).ctx ⟨0, .o⟩).trap = none ∧ (((s (.faulted 1)).upd fun c => { c with trap := some { cause := 2 } }).ctx ⟨0, .o⟩).trap.isSome = true := by
  decide +kernel
/-- A CI record at the entry of its tensor, which is taken, which faults without a table, and which waits at a regulator; it waits, or
faulted at PHASE 1 or 2 with its trap behind it. -/
theorem witness_ContextEventsTakeEffect_entry :
    let r : EngRec := { testF32 with s1 := ⟨1, 0, 0, 0, 0⟩ }
    let q : QEntry := ⟨(encodeRec (.cpin r)).getD 0, .o, 0, 0, true, 0, none, false⟩
    let e : EngId := ⟨0, .ci⟩
    let put := fun (s : State) (h : HeadState) => s.modCore 0 fun k => k.setEngine .ci { queue := [q], head := { st := h } }
    let s := testTable (0x20000 + 2 ^ 64 + 2 ^ 96 + 2 ^ 128 + 2 ^ 160 + 4 * 2 ^ 192 + 2 ^ 320) [] []
    let f := fun (s : State) => match (put s .waiting).takeEntry e q with | .ok .. => 0 | .fault _ => 1 | .stall _ => 2
    takesEntry .ci (recOpc q.record).toNat = true ∧ f s = 0 ∧ f testHome = 1 ∧ f { s with regs := [⟨0, 0, 0, [], false⟩] } = 2
      ∧ ([HeadState.waiting, .faulted 1, .faulted 2].all fun h => decide (((put s h).engine e).head.st = h)
        && ((put s h).ctx ⟨0, .o⟩).trap.isNone && (headTrap ((put s h).core 0) .ci q).isNone && (put s h).phaseDone (.ctx ⟨0, .o⟩) q.gate
        && !(put s h).awaitsRevocation e q && ((put s h).startHold e q).isNone && (put s h).paced e .o) = true := by decide +kernel
/-- A record that resumes where it faulted, while its context has its trap and after; one whose head fails a check again; a record with
an event that may not be stamped yet. -/
theorem witness_ContextEventsTakeEffect_resume :
    let w := fun (i : Instr) => State.reset.modCore 0 fun k =>
      k.setEngine .vx { queue := [⟨(encodeRec i).getD 0, .o, 0, 0, true, 0, none, false⟩], head := { st := .faulted 3 } }
    let s := w (.vadd testF32)
    let t := s.upd fun c => { c with trap := some { cause := 8 } }
    let e : EngId := ⟨0, .vx⟩
    let q : QEntry := ⟨(encodeRec (.vadd { testF32 with ev := 1 })).getD 0, .o, 0, 0, true, 0, none, false⟩
    (s.engine e).head.st = .faulted 3 ∧ (s.ctx ⟨0, .o⟩).trap.isSome = false ∧ (t.ctx ⟨0, .o⟩).trap.isSome = true
      ∧ ((s.engine e).queue.all fun q => (headTrap (s.core 0) .vx q).isNone) = true
      ∧ (((w (.vadd { testF32 with rnd := 6 })).engine e).queue.all fun q => (headTrap (s.core 0) .vx q).isSome) = true
      ∧ wantsEvent q {} = true ∧ s.mayStamp (.eng e) = true
      ∧ (s.modCore 0 fun k => { k with stamps := Vector.replicate 7 2 }).mayStamp (.eng e) = false := by decide +kernel
/-- A trap that waits and that nothing holds. -/
theorem witness_ContextEventsTakeEffect_trap :
    let s := testHome.upd fun c => { c with trap := some { cause := 8 } }
    s.evCtx = ⟨0, .o⟩ ∧ (s.ctx ⟨0, .o⟩).trap = some { cause := 8 } ∧ (s.ctx ⟨0, .o⟩).stage = .fresh ∧ s.entryFree ⟨0, .o⟩ = true
      ∧ s.mayStamp (.ctx ⟨0, .o⟩) = true ∧ ∀ line, s.lineHeld line = false :=
  ⟨by decide +kernel, by decide +kernel, by decide +kernel, by decide +kernel, by decide +kernel, testFree _ (by decide +kernel)⟩
/-- A unit that has failed: its FATAL image may be written, waits for a line, or is not written at all; its stamp is not due; a lost
state and a trap's own cause. -/
theorem witness_ContextEventsTakeEffect_failure :
    let s := testHome.upd fun c => { c with failing := some 0x1E }
    let n := s.modVnpu 0 fun v => { v with ctxsave := 0 }
    (s.ctx ⟨0, .o⟩).failing = some 0x1E ∧ s.fatalFree ⟨0, .o⟩ 0 = true ∧ (testHolds 0x200000 s).fatalFree ⟨0, .o⟩ 0 = false
      ∧ s.mayStamp (.ctx ⟨0, .o⟩) = true ∧ (s.modCore 0 fun k => { k with stamps := Vector.replicate 7 2 }).mayStamp (.ctx ⟨0, .o⟩) = false
      ∧ tb (s.vnpu 0).ctxsave 0 = true ∧ tb (n.vnpu 0).ctxsave 0 = false ∧ (n.ctx ⟨0, .o⟩).failing = some 0x1E := by decide +kernel
/-- A record whose steps are done: its phase complete, its phase not complete, and its FIFO full. -/
theorem witness_ContextEventsTakeEffect_retire :
    let q : QEntry := ⟨(encodeRec (.vadd { testF32 with post := 4 })).getD 0, .o, 0, 0, true, 0, none, false⟩
    let s := State.reset.modCore 0 fun k => k.setEngine .vx { queue := [q], head := { st := .done, retire := some 0 } }
    let f := s.upd fun c => { c with fifos := Vector.replicate 5 15 }
    let e : EngId := ⟨0, .vx⟩
    (s.engine e).head.st = .done ∧ (s.engine e).head.retire = some 0 ∧ (s.engine e).head.orphan = false ∧ s.phaseDone (.eng e) 0 = true
      ∧ s.phaseDone (.eng e) 1 = false ∧ s.retireHold e q (s.engine e).head = none ∧ (f.retireHold e q (f.engine e).head).isSome = true := by decide +kernel
/-- A cause in a context with no handler; a revocation of slot H, at once and deferred; a lease at its term, with an owner record and
without; DEF, a YIELD hold and grace, before and at their ends. -/
theorem witness_ContextEventsTakeEffect_terms :
    let t := State.reset.upd fun c => { c with trap := some { cause := 8 } }
    let r := State.reset.modCore 0 fun k => { k with revoke := true, ctxH := { live := true } }
    let l : State := { (State.reset.modCore 0 fun k => k.setLease .vx { held := true }) with
      clusters := State.reset.clusters.set 0 { quarters := 4 * 8192 } }
    let g := State.reset.upd fun c => { c with live := true, preq := true, graceEnd := some 0, holdEnd := some 0, defer := true }
    let u := (({ (g.upd fun c => { c with defer := false }) with held := false } : State)).cutStep ⟨0, .o⟩
    let v := (u.closePhase (.ctx ⟨0, .o⟩) 0).getD u
    let full := u.setPhases (.ctx ⟨0, .o⟩) { closed := 3, opens := [⟨0, [0]⟩, ⟨1, [0]⟩, ⟨2, [0]⟩] }
    (t.ctx ⟨0, .o⟩).canTrap = true ∧ t.inPhase ⟨0, .o⟩ = false ∧ t.vectored ⟨0, .o⟩ = false
      ∧ (r.core 0).revoke = true ∧ (r.core 0).ctxH.live = true ∧ (r.core 0).revokeHard = false ∧ r.revokeDeferred 0 = false
      ∧ (l.core 0).leases[3].held = true ∧ 0 + 8192 ≤ l.coreCycle 0 ∧ l.engHolds 0 .vx .o = false ∧ (testFull 1 l).engHolds 0 .vx .o = true
      ∧ (g.ctx ⟨0, .o⟩).holdEnd = some 0 ∧ 0 ≤ g.coreCycle 0 ∧ (g.ctx ⟨0, .o⟩).defer = true ∧ (g.ctx ⟨0, .o⟩).deferEnd ≤ g.gtc.toNat
      ∧ (g.ctx ⟨0, .o⟩).graceEnd = some 0 ∧ g.inPhase ⟨0, .o⟩ = false ∧ (g.ctx ⟨0, .o⟩).stage = .fresh
      ∧ u.atCut ⟨0, .o⟩ = true ∧ (u.ctx ⟨0, .o⟩).cutGate = none ∧ (u.closePhase (.ctx ⟨0, .o⟩) 0).isSome = true
      ∧ (full.closePhase (.ctx ⟨0, .o⟩) 0).isNone = true ∧ (g.ctx ⟨0, .o⟩).failing = none
      ∧ v.phaseDone (.ctx ⟨0, .o⟩) (v.phases (.ctx ⟨0, .o⟩)).closed = true ∧ v.phasesQuiet (.ctx ⟨0, .o⟩) = true ∧ v.engPhasesQuiet ⟨0, .o⟩ = true
      ∧ (v.phases (.ctx ⟨0, .o⟩)).closed = (u.phases (.ctx ⟨0, .o⟩)).closed + 1
      ∧ r.slotHStays 0 = false
      ∧ (r.modCore 0 fun k => { k with ctxH := { live := true, failing := some 0x1E } }).slotHStays 0 = true
      ∧ (r.modCore 0 fun k => { k with revokeHard := true }).slotHStays 0 = false := by
  decide +kernel
/-- The home state with a frame, a module queue 0 of virtual NPU 0 at 0x20000 with block 0x20800, and slot O of core 0 idle in a window of leaf 0. -/
def testLaunch : State :=
  let q : QueueRec := { ring := 0x20000, qcb := 0x20800, inModule := true, k := 2 }
  let v := testHome.contracts.vnpus.get 0
  { (testHome.modCore 0 fun k => { k with ctxO := {}, window := { owner := some 0, harvest := some 0 }, world := 2 }) with
      contracts := { testHome.contracts with frame := 1000, vnpus := testHome.contracts.vnpus.set 0 { v with queues := v.queues.set 0 q } }
      ready := true }
/-- One nest of 2 iterations in queue 0. -/
def testNest : Nest :=
  { uid := 1, index := 0, entry := 0x10080, args := 77, trip0 := 2, trip1 := 1, trip2 := 1, trip3 := 1, order := 0xE4, group := 1, gang := false,
    fuse := false, serial := false, harvest := false, next := 1, retired := 0, rejected := false }
theorem witness_LaunchEventsTakeEffect_queue :
    let s := testLaunch.modQueue 0 0 fun x => { x with prod := 1 }
    let r := (s.contract 0).queues.get 0
    (s.contract 0).enable = true ∧ r.inModule = true ∧ s.evQueue.qstop = false ∧ (s.vnpu 0).busy = false ∧ (s.qRead 0 r r.qcb 4).isSome = true
      ∧ s.evQueue.unpublished = none ∧ s.qBusy 0 r r.qcb = false ∧ (testHolds 0x20800 s).qBusy 0 r r.qcb = true
      ∧ s.qBusy 0 r (entryAt r s.evQueue) = false ∧ (s.modQueue 0 0 fun x => { x with unpublished := some true }).evQueue.unpublished.isSome = true
      ∧ (({ s with owner := [] } : State).qRead 0 r r.qcb 4).isNone = true ∧ s.evQueue.takeable = true
      ∧ (match s.queuePages 0 r s.evQueue with | .ready => true | _ => false) = true ∧ (s.admitAll 0 (.walker 0 0) (State.fetchCharge r)).1 = true
      ∧ (s.qRead 0 r (entryAt r s.evQueue) 64).isSome = true
      ∧ (({ s with owner := [] } : State).qRead 0 r (entryAt r s.evQueue) 64).isNone = true := by decide +kernel
theorem witness_LaunchEventsTakeEffect_dispatch :
    let s := testLaunch.modQueue 0 0 fun x => { x with nests := [testNest] }
    s.windowOwner 0 = some 0 ∧ s.qualifies 0 0 = true
      ∧ s.pickNest 0 (fun n => !n.harvest && (s.targets 0 n).contains 0) = some (0, 0, testNest) ∧ s.targets 0 testNest = [0]
      ∧ (s.core 0).world = (s.contract 0).world ∧ (s.core 0).quarantined = false ∧ ((s.vnpu 0).queue 0).headNest = some testNest := by decide +kernel
theorem witness_LaunchEventsTakeEffect_resume :
    let x : Saved := ⟨{ pc := 0x10088 }, List.replicate 5 ([], {}), [], [], [], [], 0, false⟩
    let s := testLaunch.modCore 0 fun k => { k with saved := [x] }
    s.windowOwner 0 = some 0 ∧ (s.core 0).ctxO.live = false ∧ (s.core 0).clearDue = none
      ∧ ((s.core 0).saved.find? fun x => x.ctx.leaf = 0 && x.ctx.failing.isNone) = some x ∧ s.fatalFree ⟨0, .o⟩ x.ctx.vnpu = true ∧ (s.core 0).quarantined = false ∧ (s.core 0).world = (s.contract 0).world ∧ x.ctx.excOk = true
      ∧ s.cur.ev.flag = false := by decide +kernel
theorem witness_LaunchEventsTakeEffect_harvest :
    let s := testLaunch.modQueue 0 0 fun x => { x with nests := [{ testNest with harvest := true }] }
    let p := testLaunch.modCore 0 fun k => k.setBank 3 { used := true, parked := true }
    s.harvestFree 0 = some 0 ∧ (allCores.find? fun d => s.harvestQualifies d 0) = some 0 ∧ (s.pickNest 0 (fun n => n.harvest)).isSome = true
      ∧ (((List.finRange 4).find? fun b => !((s.core 0).bank b).used) = some 0) ∧ p.harvestFree 0 = some 0 ∧ p.unparkChoice 0 0 = some 3
      ∧ ((p.core 0).bank 3).marked = false
      ∧ (testLaunch.modCore 0 fun k => k.setBank 3 { used := true, parked := true, marked := true }).unparkChoice 0 0 = some 3 := by decide +kernel
/-- A doorbell of a host queue of 4 entries, by 4 and by 5; a frame start, and one that is not; windows at offset 0 of a same and another
owner; a budget at its end; a refill; a regulator that trips at its threshold; a way reassignment. -/
theorem witness_LaunchEventsTakeEffect_timers :
    let v := testLaunch.contracts.vnpus.get 0
    let h : State := { testLaunch with contracts := { testLaunch.contracts with
        vnpus := testLaunch.contracts.vnpus.set 0 { v with queues := v.queues.set 0 { k := 2 } }
        windows := testLaunch.contracts.windows.set 0 [{ owner := some 0 }], leaves := testLaunch.contracts.leaves.set 0 { budget := 5, regTrap := true, thresh := 1 } } }
    let b : State := { ((h.modLeaf 0 fun x => { x with used := 5 }).modQueue 0 1 fun x => { x with prod := 1 }) with
      gtc := 1000, regs := [⟨0, 3, 0, [⟨.walker 0 1, 0, 0, 0⟩], false⟩] }
    h.doorbellDead 0 0 = false ∧ testLaunch.doorbellDead 0 0 = true ∧ (2 ^ 2 < ((5 : BitVec 32) - 0).toNat) ∧ ((4 : BitVec 32) - 0).toNat ≤ 2 ^ 2
      ∧ h.frameNs ≠ 0 ∧ h.gtc.toNat % h.frameNs = 0 ∧ b.gtc.toNat % b.frameNs ≠ 0 ∧ h.dueWindow 0 = some ({ owner := some 0 }, 0) ∧ h.contracts.frame ≠ 0
      ∧ (h.core 0).windowAt = none ∧ (h.core 0).ctxO.live = false ∧ h.inPhase ⟨0, .o⟩ = false ∧ (b.topContract 0).budget = 0
      ∧ (b.leafContract 0).budget ≤ (b.leaf 0).used ∧ (b.leaf 0).reached = false ∧ b.gtc.toNat % 125 = 0 ∧ h.gtc.toNat % 100000 = 0
      ∧ b.heldAt 0 3 = [⟨.walker 0 1, 0, 0, 0⟩] ∧ (b.reg 0 3).tripped = false ∧ 0 + 1000 * (b.leafContract 0).thresh ≤ b.gtc.toNat := by decide +kernel
/-- A boundary with slot H occupied: at another owner, at the same one with another harvest set and with the same window. -/
theorem witness_LaunchEventsTakeEffect_window :
    let w : Window := { owner := some 0, harvest := some 0 }
    let s := fun (k : Window) (at_ : Option Nat) (c : Ctx) => ({ (testLaunch.modCore 0 fun x => { x with window := k, windowAt := at_, ctxH := c }) with
      contracts := { testLaunch.contracts with windows := testLaunch.contracts.windows.set 0 [w] }, gtc := 5000, frameStartAt := 4000 } : State)
    let h : Ctx := { live := true }
    let same := fun (s : State) => (s.core 0).windowAt.isSome && (s.windowOwner 0).isSome && s.windowOwner 0 == w.owner.filter fun l => !s.suspended l
    (s w none h).dueWindow 0 = some (w, 4000) ∧ (s w none h).contracts.frame ≠ 0 ∧ same (s w none h) = false ∧ ((s w none h).core 0).ctxO.live = false
      ∧ same (s w (some 0) h) = true ∧ same (s { w with harvest := none } (some 0) h) = true
      ∧ ((((s { w with harvest := none } (some 0) h).askRevoke 0 true).revokeNow 0).core 0).ctxH.live = false
      ∧ ((((s { w with harvest := none } (some 0) { h with failing := some 0x1E }).askRevoke 0 true).revokeNow 0).core 0).ctxH.live = true := by
  decide +kernel
/-- All clusters low; a rail that moves; a page that changes world; a reset that drains; a sweep; a cluster quiet for 20 µs and one in
retention; lockstep; sites of errors; readings of 500, 440 and 399 quarter degrees; a rail in tolerance; a frame count that stands. -/
theorem witness_ModuleEventsTakeEffect :
    let q : State := { (State.reset.modCluster 0 fun x => { x with quietAt := some 0, moving := some (true, 0), marks := State.reset.clusterMarks 0 }) with gtc := 20000 }
    let b := State.reset.modVnpu 0 fun x => { x with busy := true, sweeps := [⟨0, 4096, 0, 1, 0, ⟨0, .o⟩⟩] }
    let l : State := { State.reset with contracts := { State.reset.contracts with lockstep := 1 } }
    let p : State := { q with spiAt := 9999 }
    p.cycle % 4 = 0 ∧ p.spiAt / 10000 < p.gtc.toNat / 10000 ∧ p.settled = false ∧ ({ p with settled := true } : State).settled = true
      ∧ State.reset.gtc.toNat / 10000 ≤ State.reset.spiAt / 10000
      ∧ b.sweepBusy 0 ⟨0, 4096, 0, 1, 0, ⟨0, .o⟩⟩ = false ∧ (testWalks1 testHome).sweepBusy 0 ⟨0x20000, 4096, 0x20000, 1, 0, ⟨0, .o⟩⟩ = true
      ∧ ({ q with clusters := q.clusters.set 0 { q.cluster 0 with marks := [(1, 0)], waking := some true } } : State).clusterMarks 0 ≠ [(1, 0)]
      ∧ (q.cluster 0).quietAt = some 0 ∧ 0 + 20000 ≤ q.gtc.toNat ∧ q.clusterQuiet 0 = true ∧ q.clusterMarks 0 = (q.cluster 0).marks ∧ q.holdsClass0 0 = false ∧ (q.cluster 0).waking ≠ some true ∧ (q.cluster 0).moving = some (true, 0)
      ∧ State.reset.cycle % 4 = 0 ∧ State.reset.pageWorld 32 = 0 ∧ testHome.pageWorld 32 = 2 ∧ State.reset.memoriesOk = true
      ∧ ((b.resetStops 0).vnpu 0).busy = true ∧ (b.resetStops 0).drainCount 0 = 0 ∧ (b.resetStops 0).anyLive 0 = false ∧ (b.vnpu 0).sweeps.length = 1
      ∧ l.lockstep 0 = true ∧ l.lockstep 95 = false ∧ localOk 0 1 = true ∧ State.reset.poison.contains 0 = false
      ∧ q.holdsClass0 0 = false ∧ ({ q with cycle := 5 } : State).cycle % 4 ≠ 0
      ∧ testHome.entryMay 0 32 = true ∧ (testHolds placeT1 testHome).entryMay 0 32 = false
      ∧ ((List.range 46).filter fun n => decide ((if 14 ≤ n ∧ n < 30 then 420 else 440 : Int) ≤ tempAt (List.replicate 14 0 ++ [420, 419]) n)) = [14]
      ∧ 500 ≤ hottest (dieTemps (List.replicate 40 500)) ∧ hottest (dieTemps (List.replicate 40 440)) < 500
      ∧ hottest (dieTemps (List.replicate 40 399)) < 400 ∧ State.reset.railsOut = [] ∧ ({ q with gtc := 100000, railsOut := [(.vio, 0)] } : State).longExcursion .vio = true
      ∧ ({ q with gtc := 99999, railsOut := [(.vio, 0)] } : State).longExcursion .vio = false ∧ State.reset.spiAt + 100000 ≤ (100000 : Word).toNat
      ∧ State.reset.contracts.tsync = 0 := by decide +kernel
/-- Out of reset and held; a recovery; the error log of one record; a persistent fault; the TDISP states; keys; a host request; a page
request before its limit, at it, and of an earlier reset generation. -/
theorem witness_InterfaceEventsTakeEffect :
    let h : State := { testLaunch with hostReqs := [⟨0, ⟨0, .ci⟩, 0, 0, 0, 0x1000, 0, none, false⟩], pageReqs := [⟨0, 0, 0, 5, 0⟩], cur := { ev := { flag := true } } }
    let h : State := { h with contracts := { h.contracts with leaves := h.contracts.leaves.set 0 { placeLeaf with rateHost := 8, depthHost := 8 } } }
    let e : State := { State.reset with errlog := { recs := [(0, ⟨0, 0, 0, false, 0, 0, 0, 0, 0, 0⟩)] }, rootBad := true, lastAssert := some 1 }
    let r : HostReq := ⟨0, ⟨0, .ci⟩, 0, 0, 0, 0x1000, 0, none, false⟩
    let g := h.modVnpu 0 fun x => { x with tdisp := .run }
    let b : Blob := ⟨true, true, 0, 0, [], [], [], [], [], []⟩
    let a : State := { State.reset with errlog := { recs := [(1, ⟨0, 0, 0, true, 0, 0, 0, 0, 0, 0⟩)] } }
    (∃ r ∈ a.errlog.recs, r.2.faultN = true) ∧ (∀ r ∈ ({ e with rootBad := false } : State).errlog.recs, r.2.faultN = false)
      ∧ ({ e with rootBad := false } : State).faultPersists = false
      ∧ State.reset.held = true ∧ State.reset.thermN = false ∧ testHome.held = false ∧ testHome.recovery = false ∧ e.errlog.recs.length = 1 ∧ e.faultPersists = true
      ∧ State.reset.faultPersists = false ∧ e.lastAssert = some 1 ∧ State.reset.ready = false ∧ testLaunch.ready = true ∧ (h.vnpu 0).tdisp = .unlocked
      ∧ (h.vnpu 0).oldKey = none ∧ (h.hostReqs.find? fun r => r.id = h.cur.ev.n && r.result.isNone) = some r ∧ h.keyGone r = false
      ∧ r.rgen = (h.vnpu 0).rgen ∧ r.lost = false ∧ h.inRun 0 = false ∧ g.inRun 0 = true ∧ g.keyGone r = false ∧ h.cur.ev.m = 0
      ∧ (g.admitAll 0 (.host 0) [(96, 64)]).1 = true ∧ (({ g with regs := [⟨0, 96, 0, [], false⟩] } : State).admitAll 0 (.host 0) [(96, 64)]).1 = false ∧ (h.modVnpu 0 fun x => { x with keyGen := 1 }).keyGone r = true
      ∧ h.validating = none ∧ ({ h with validating := some b } : State).validating.isSome = true ∧ h.staging.wf = true ∧ (h.vnpu 0).msixTable.wf = true
      ∧ ({ State.reset with thermN := true } : State).thermN = true ∧ h.ready = true
      ∧ (h.pageReqs.find? fun p => p.index = h.cur.ev.n && p.vnpu = h.cur.ev.vnpu) = some ⟨0, 0, 0, 5, 0⟩ := by decide +kernel
/-- An engine that stands within a unit of its tensor. -/
theorem witness_AStepRunsTheDecodedInstruction_unit :
    let s := (testCopy (.cpin testF32)).modEngine ⟨0, .ci⟩ fun x => { x with head := { x.head with unit := some 0 } }
    s.midUnit = true ∧ (∃ q, (s.engine s.myEng).queue = [q] ∧ decodeRec s.cur.eng q.record = .ok (.cpin testF32)) := by
  refine ⟨by decide +kernel, ⟨_, rfl, by decide +kernel⟩⟩
theorem witness_EveryStepKeepsTheMemories : State.reset.memoriesOk = true ∧ (∃ t, step State.reset = .next t) := ⟨by decide +kernel, ⟨_, rfl⟩⟩

end Sys2Proof.Machine
end

/-! Results on one g register: the values of the integer instructions in the terms of the library's words (R132-R134), the
next PC of a completing word (R345), and the completion of every instruction of the table `gResult`. -/

namespace Sys2Proof.Machine

/-! ## Values (R132, R133, R143) -/

/-- DIV and REM (R133) are the library's signed division away from a zero divisor; the overflow corner is the library's own. -/
theorem divS_eq (x y : Word) : divS x y = if y = 0 then (BitVec.allOnes 64, x) else (x.sdiv y, x.srem y) := by
  have zero : y.toInt = 0 ↔ y = 0 := by rw [← BitVec.toInt_inj]; rfl
  unfold divS
  dsimp only
  by_cases hy : y = 0
  · rw [if_pos (zero.2 hy), if_pos hy]; rfl
  · rw [if_neg (mt zero.1 hy), if_neg hy]
    by_cases corner : x.toInt = -2 ^ 63 ∧ y.toInt = -1
    · have ex : x = BitVec.intMin 64 := BitVec.eq_of_toInt_eq corner.1
      have ey : y = -1#64 := BitVec.eq_of_toInt_eq corner.2
      rw [if_pos corner, ex, ey]
      decide
    · rw [if_neg corner]
      refine Prod.ext (BitVec.eq_of_toInt_eq ?_) ?_
      · rw [BitVec.toInt_ofInt, BitVec.toInt_sdiv]
      · rw [mul_comm, ← Int.tmod_def, ← BitVec.toInt_srem, BitVec.ofInt_toInt]

/-- DIVU and REMU (R133) are the library's unsigned division away from a zero divisor. -/
theorem divU_eq (x y : Word) : divU x y = if y = 0 then (BitVec.allOnes 64, x) else (x / y, x % y) := by
  unfold divU
  by_cases hy : y = 0
  · rw [if_pos hy, if_pos hy]; rfl
  · rw [if_neg hy, if_neg hy]
    exact Prod.ext (BitVec.ofNat_toNat 64 (x / y)) (BitVec.ofNat_toNat 64 (x % y))

theorem divS_fst (x y : Word) : (divS x y).1 = if y = 0 then BitVec.allOnes 64 else x.sdiv y := by
  rw [divS_eq, apply_ite Prod.fst]
theorem divS_snd (x y : Word) : (divS x y).2 = if y = 0 then x else x.srem y := by
  rw [divS_eq, apply_ite Prod.snd]
theorem divU_fst (x y : Word) : (divU x y).1 = if y = 0 then BitVec.allOnes 64 else x / y := by
  rw [divU_eq, apply_ite Prod.fst]
theorem divU_snd (x y : Word) : (divU x y).2 = if y = 0 then x else x % y := by
  rw [divU_eq, apply_ite Prod.snd]

theorem highHalf_natCast_mul (m n : Nat) : highHalf ((m : Int) * n) = BitVec.ofNat 64 (m * n / 2 ^ 64) :=
  BitVec.ofInt_natCast 64 (m * n / 2 ^ 64)

theorem ite_slt_eq_min (x y : Word) : (if x.slt y then x else y) = BitVec.ofInt 64 (min x.toInt y.toInt) := by
  by_cases h : x.toInt < y.toInt
  · rw [if_pos (BitVec.slt_iff_toInt_lt.2 h), min_eq_left h.le, BitVec.ofInt_toInt]
  · rw [if_neg (mt BitVec.slt_iff_toInt_lt.1 h), min_eq_right (not_lt.1 h), BitVec.ofInt_toInt]

theorem ite_slt_eq_max (x y : Word) : (if x.slt y then y else x) = BitVec.ofInt 64 (max x.toInt y.toInt) := by
  by_cases h : x.toInt < y.toInt
  · rw [if_pos (BitVec.slt_iff_toInt_lt.2 h), max_eq_right h.le, BitVec.ofInt_toInt]
  · rw [if_neg (mt BitVec.slt_iff_toInt_lt.1 h), max_eq_left (not_lt.1 h), BitVec.ofInt_toInt]

theorem ite_ult_eq_min (x y : Word) : (if x.ult y then x else y) = BitVec.ofNat 64 (min x.toNat y.toNat) := by
  by_cases h : x.toNat < y.toNat
  · rw [if_pos (BitVec.ult_iff_toNat_lt.2 h), min_eq_left h.le, BitVec.ofNat_toNat, BitVec.setWidth_eq]
  · rw [if_neg (mt BitVec.ult_iff_toNat_lt.1 h), min_eq_right (not_lt.1 h), BitVec.ofNat_toNat, BitVec.setWidth_eq]

theorem ite_ult_eq_max (x y : Word) : (if x.ult y then y else x) = BitVec.ofNat 64 (max x.toNat y.toNat) := by
  by_cases h : x.toNat < y.toNat
  · rw [if_pos (BitVec.ult_iff_toNat_lt.2 h), max_eq_right h.le, BitVec.ofNat_toNat, BitVec.setWidth_eq]
  · rw [if_neg (mt BitVec.ult_iff_toNat_lt.1 h), max_eq_left (not_lt.1 h), BitVec.ofNat_toNat, BitVec.setWidth_eq]

/-- The bits below the sign of an F32 pattern are the register's (R143). -/
theorem Ctx.f32_mod (c : Ctx) (a : Reg) : c.f32 a % 2 ^ 31 = (c.rd a).toNat % 2 ^ 31 :=
  Nat.mod_mod_of_dvd _ (pow_dvd_pow 2 (by decide))

/-! ## The next PC of a completing word (R345) -/

theorem Ctx.landOne_loops (c : Ctx) (l : Landing) : (c.landOne l).loop0 = c.loop0 ∧ (c.landOne l).loop1 = c.loop1 := by
  unfold Ctx.landOne Ctx.land Ctx.wr Ctx.wrk
  split <;> split <;> exact ⟨rfl, rfl⟩

theorem foldl_landOne_loops (ls : List Landing) (c : Ctx) :
    (ls.foldl Ctx.landOne c).loop0 = c.loop0 ∧ (ls.foldl Ctx.landOne c).loop1 = c.loop1 := by
  induction ls generalizing c with
  | nil => exact ⟨rfl, rfl⟩
  | cons l ls ih =>
    obtain ⟨h0, h1⟩ := ih (c.landOne l)
    obtain ⟨l0, l1⟩ := c.landOne_loops l
    exact ⟨h0.trans l0, h1.trans l1⟩

/-- No landing moves a loop level. -/
theorem Ctx.elapse_loops : ∀ (n : Nat) (c : Ctx), (Ctx.elapse n c).loop0 = c.loop0 ∧ (Ctx.elapse n c).loop1 = c.loop1
  | 0, _ => ⟨rfl, rfl⟩
  | n + 1, c => by
    unfold Ctx.elapse
    split
    · exact ⟨rfl, rfl⟩
    · obtain ⟨h0, h1⟩ := Ctx.elapse_loops n c.tickOnce
      obtain ⟨t0, t1⟩ : c.tickOnce.loop0 = c.loop0 ∧ c.tickOnce.loop1 = c.loop1 := foldl_landOne_loops _ _
      exact ⟨h0.trans t0, h1.trans t1⟩

theorem Ctx.before_loops (c : Ctx) (w : List Landing) (n : Nat) :
    (c.before w n).loop0 = c.loop0 ∧ (c.before w n).loop1 = c.loop1 := by
  obtain ⟨e0, e1⟩ := Ctx.elapse_loops (min n 10) c
  unfold Ctx.before
  exact ⟨(foldl_result_loops w _).1.trans e0, (foldl_result_loops w _).2.1.trans e1⟩

/-- A loop level does not end at an address (R345). -/
def Loop.passes (l : Loop) (a : Word) : Prop := l.active = true → l.stop ≠ a

theorem Ctx.loopNext_passes (c : Ctx) (a : Word) (h0 : c.loop0.passes a) (h1 : c.loop1.passes a) :
    c.loopNext a = (c, a + 8) := by
  have off : ∀ l : Loop, l.passes a → (l.active && l.stop == a) = false := by
    intro l hl
    cases h : l.active
    · rfl
    · simpa using hl h
  unfold Ctx.loopNext
  simp only [off _ h0, off _ h1, Bool.false_and, Bool.false_eq_true, if_false]

/-- A word without a taken target goes on to the next one where no active loop ends at it. -/
theorem State.finish_nextWord (s : State) (w : List Landing) (n : Nat) : NextWord s (s.finish w none n) := by
  intro h0 h1
  obtain ⟨b, v, x, hc⟩ := State.finish_ctx s w none n
  rw [hc, Ctx.complete_through]
  obtain ⟨e0, e1⟩ := Ctx.before_loops { s.ctx s.me with blocked := none, inWfe := b, inWowait := v, stps := x } w n
  rw [Ctx.loopNext_passes _ _ (e0 ▸ h0) (e1 ▸ h1)]

/-! ## A word of one result -/

theorem State.issues_iff {s : State} {i : Instr} {p : Pred} {l : Limit} {ops : List Nat} (h : ctlParts i = some (p, l, ops)) :
    s.issues i = true ↔ l.ok (s.ctx s.me) s.me.slot = true ∧ s.runs p ops = true := by
  rw [State.issues, h, Bool.and_eq_true]

/-- A control word that issues and answers one result completes with that result. -/
theorem ctl_one {i : Instr} {p : Pred} {l : Limit} {ops : List Nat} {body : State → Ctx → Ans} {s : State} {d : Reg} {v : Word}
    {lat : Nat} (hp : ctlParts i = some (p, l, ops)) (hi : s.issues i = true) (hb : body s (s.ctx s.me) = one s d v lat) :
    ctl i p l ops body s = .next (s.finish [⟨gNum d, v, 0, lat⟩] none 1) := by
  obtain ⟨hl, hr⟩ := (State.issues_iff hp).1 hi
  rw [ctl_runs i p l ops body s hr hl, hb]; rfl

/-- What a word of one result leaves, wherever its latency puts it (R117, R345). -/
theorem State.finish_one (s : State) (d : Reg) (v : Word) (lat : Nat) :
    let t := s.finish [⟨gNum d, v, 0, lat⟩] none 1
    (if lat = 0 then (t.ctx s.me).rd d = (if d = 0 then 0 else v) else ⟨gNum d, v, 0, lat⟩ ∈ (t.ctx s.me).landings)
      ∧ (t.ctx s.me).tick = (s.ctx s.me).tick + 1 ∧ NextWord s t ∧ RegFrame s t [gNum d] := by
  refine ⟨?_, State.finish_tick s _ none 1, State.finish_nextWord s _ 1, State.finish_regFrame s _ none 1 _ ?_ ?_⟩
  · split
    · next h => subst h; exact State.finish_result s d v 0 none 1
    · next h => exact State.finish_landing s _ h none 1
  · intro l hl
    rw [List.mem_singleton.1 hl]
    exact Or.inl ⟨(gNum_lt d).trans (by decide), List.mem_singleton.2 rfl⟩
  · intro l hl
    rw [List.mem_singleton.1 hl]
    exact Or.inr rfl

/-- Every instruction of the table that issues completes with the table's result: its meaning is `ctl` with one result, whose
value is the table's by definition, or by the lemma on the division, the high half, the minimum, the maximum or the F32 pattern. -/
theorem exec_gResult {s : State} {i : Instr} {d : Reg} {v : Word} {lat : Nat} (h : gResult s i = some (d, v, lat))
    (hi : s.issues i = true) : exec i s = .next (s.finish [⟨gNum d, v, 0, lat⟩] none 1) := by
  cases i
  case add | sub | mul | mulh | mulhu | div | divu | rem | remu | and | or | xor | andn | shl | shr | sra | rol | min | max | minu
      | maxu | sext | zext =>
    unfold exec
    simp only [execAdd, execSub, execMul, execMulh, execMulhu, execDiv, execDivu, execRem, execRemu, execAnd, execOr, execXor,
      execAndn, execShl, execShr, execSra, execRol, execMin, execMax, execMinu, execMaxu, execSext, execZext, intR,
      divS_fst, divS_snd, divU_fst, divU_snd, highHalf_natCast_mul, ite_slt_eq_min, ite_slt_eq_max, ite_ult_eq_min, ite_ult_eq_max]
    cases h
    exact ctl_one rfl hi rfl
  case clz | ctz | popc | brev | shli | shri | srai =>
    unfold exec
    simp only [execClz, execCtz, execPopc, execBrev, execShli, execShri, execSrai, intU]
    cases h
    exact ctl_one rfl hi rfl
  case addi | andi | ori | xori | muli =>
    unfold exec
    simp only [execAddi, execAndi, execOri, execXori, execMuli, intI]
    cases h
    exact ctl_one rfl hi rfl
  case sel | lea | movi | kget | fneg | gtcrd | rng | rbget | mfs | pend | clrsig | parkst =>
    unfold exec
    simp only [execSel, execLea, execMovi, execKget, execFneg, execGtcrd, execRng, execRbget, execMfs, execPend, execClrsig,
      execParkst]
    cases h
    exact ctl_one rfl hi rfl
  case fabs =>
    unfold exec execFabs
    cases h
    exact ctl_one rfl hi (congrArg (fun x => one s _ (BitVec.ofNat 64 x) 0) (Ctx.f32_mod _ _))
  -- No other instruction is in the table.
  all_goals cases h

/-- Settles O8: a word of the table completes with its result (`exec_gResult`), and what a completing word of one result
leaves is `State.finish_one`. -/
theorem oneRegisterResults : Obligations.OneRegisterResults := fun s _ d v lat h hi =>
  ⟨_, exec_gResult h hi, State.finish_one s d v lat⟩

end Sys2Proof.Machine

/-! Jumps and hardware loops: the answers of BR, CALL, JR, CALLR and RET, a false-predicated control word, the start of a loop level
(R341, R342, R344), and which level acts at the end of a body (R345). -/

namespace Sys2Proof.Machine

/-! ## A control word that issues, and one whose predicate is false -/

/-- A control word that issues answers what its meaning gives. -/
theorem ctl_issued {i : Instr} {p : Pred} {l : Limit} {ops : List Nat} {body : State → Ctx → Ans} {s : State}
    (hp : ctlParts i = some (p, l, ops)) (hi : s.issues i = true) :
    ctl i p l ops body s = .next ((body s (s.ctx s.me)).state s.me) := by
  obtain ⟨hl, hr⟩ := (State.issues_iff hp).1 hi
  exact ctl_runs i p l ops body s hr hl

/-- A control word whose predicate is false takes its one tick and does nothing else (R31). -/
theorem ctl_falls {i : Instr} {p : Pred} {l : Limit} {ops : List Nat} {body : State → Ctx → Ans} {s : State}
    (hl : l.ok (s.ctx s.me) s.me.slot = true) (he : (s.ctx s.me).early [kNum p.kp] = none) (hk : (s.ctx s.me).holds p = false) :
    ctl i p l ops body s = .next (s.finish [] none 1) := by
  simp only [ctl, hl, he, hk, Bool.not_true, Bool.not_false, Bool.false_eq_true, if_false, if_true]

/-- A word that finishes on `u` with results of g or k registers that raise no flag completes with the effect `u`. -/
theorem Completes.of_finish {i : Instr} {s u : State} {w : List Landing} {pc : Option Word}
    (h : exec i s = .next (u.finish w pc 1)) (hw : ∀ l ∈ w, l.reg < 72 ∧ l.flags = 0) : Completes i s u w pc := by
  refine ⟨h, State.finish_regFrame u w pc 1 _ (fun l hl => Or.inl ⟨(hw l hl).1, ?_⟩) fun l hl => Or.inr (hw l hl).2⟩
  have small : l.reg % 128 = l.reg := Nat.mod_eq_of_lt ((hw l hl).1.trans (by decide))
  exact List.mem_map.2 ⟨l, hl, small⟩

theorem Ctx.complete_cq (c : Ctx) (w : List Landing) (pc : Option Word) (n : Nat) : (c.complete w pc n).cq = c.cq := by
  have h := congrArg Ctx.cq (Ctx.complete_frame c w pc n)
  exact h

/-- A completing word moves no condition queue. -/
theorem State.finish_cq (s : State) (w : List Landing) (pc : Option Word) (n : Nat) :
    ((s.finish w pc n).ctx s.me).cq = (s.ctx s.me).cq := by
  obtain ⟨b, v, x, hc⟩ := State.finish_ctx s w pc n
  rw [hc, Ctx.complete_cq]

/-! ## Jumps (R37, R341, R342) -/

theorem shiftLeft_three_eq_mul (x : Word) : x <<< 3 = 8 * x := by
  rw [BitVec.shiftLeft_eq_mul_twoPow, mul_comm]; rfl

theorem branchTo_eq (pc : Word) (off : BitVec 48) : branchTo pc off = pc + 8 * off.signExtend 64 := by
  rw [branchTo, shiftLeft_three_eq_mul]

/-- A branch from a control word's address goes to a control word's address. -/
theorem branchTo_aligned {pc : Word} (off : BitVec 48) (h : pc.toNat % 8 = 0) : (branchTo pc off).toNat % 8 = 0 := by
  rw [branchTo_eq, BitVec.toNat_add, BitVec.toNat_mul]
  change (_ + 8 * _ % _) % _ % 8 = 0
  omega

theorem and_seven_eq_zero_iff (t : Word) : t &&& 7 = 0 ↔ t.toNat % 8 = 0 := by
  rw [← BitVec.toNat_inj, BitVec.toNat_and]
  change t.toNat &&& (2 ^ 3 - 1) = 0 ↔ _
  rw [Nat.and_two_pow_sub_one_eq_mod]

/-- A jump to a register's value goes there, or traps ALIGN where the value is no multiple of 8 (R342). -/
theorem jumpTo_eq (s : State) (t : Word) (w : List Landing) :
    jumpTo s t w = if t.toNat % 8 = 0 then .done s w (some t) 1 else .trap s { cause := 0x08, eaddr := t } := by
  rw [jumpTo, ite_not]
  exact if_congr (and_seven_eq_zero_iff t) rfl rfl

/-- The result with which a jump goes: the link, or none (R341). -/
def linkOf (c : Ctx) (link : Bool) : List Landing := if link then [res 63 (c.pc + 8)] else []

theorem linkOf_plain (c : Ctx) (link : Bool) : ∀ l ∈ linkOf c link, l.reg < 72 ∧ l.flags = 0 := by
  cases link <;> simp [linkOf, res, gNum]

/-- Every jump that issues goes to its target with its link, or traps ALIGN. A branch's target is aligned as its own address is. -/
theorem exec_jump {s : State} {i : Instr} {t : Word} {link : Bool} (h : jumpOf (s.ctx s.me) i = some (t, link))
    (hi : s.issues i = true) (ha : (s.ctx s.me).pcAligned = true) :
    exec i s = .next (if t.toNat % 8 = 0 then s.finish (linkOf (s.ctx s.me) link) (some t) 1
      else s.raise s.me { cause := 0x08, eaddr := t }) := by
  have near (off : BitVec 48) : (branchTo (s.ctx s.me).pc off).toNat % 8 = 0 := branchTo_aligned off (by simpa [Ctx.pcAligned] using ha)
  revert h
  fun_cases jumpOf (s.ctx s.me) i
  case case1 p off | case2 p off =>
    rw [← branchTo_eq]
    rintro ⟨⟩
    rw [if_pos (near off)]
    unfold exec
    exact ctl_issued rfl hi
  case case3 p a | case4 p a | case5 p =>
    rintro ⟨⟩
    unfold exec
    refine (ctl_issued rfl hi).trans (congrArg _ ?_)
    rw [jumpTo_eq, apply_ite (Ans.state s.me)]
    rfl
  case case6 => rintro ⟨⟩

/-- A jump, or BCQ, is above no privilege and in no wrong slot. -/
theorem jump_limit {c : Ctx} {i : Instr} {p : Pred} {l : Limit} {ops : List Nat}
    (h : (jumpOf c i).isSome = true ∨ ∃ q off, i = .bcq q off) (hp : ctlParts i = some (p, l, ops)) : l = .none := by
  obtain hj | ⟨q, off, rfl⟩ := h
  · revert hj hp
    fun_cases jumpOf c i
    case case1 | case2 | case3 | case4 | case5 => rintro ⟨⟩ -; rfl
    case case6 => rintro - ⟨⟩
  · cases hp; rfl

/-- A false-predicated word without a limit takes its one tick, whatever its meaning: it neither links nor pops (R31, R341). -/
theorem exec_falls {s : State} {i : Instr} {p : Pred} {ops : List Nat} (hp : ctlParts i = some (p, .none, ops))
    (he : (s.ctx s.me).early [kNum p.kp] = none) (hk : (s.ctx s.me).holds p = false) :
    exec i s = .next (s.finish [] none 1) := by
  obtain ⟨body, hb⟩ := exec_ctl hp
  rw [hb s, ctl_falls rfl he hk]

/-- Settles O15: a jump's answer is `exec_jump`, by the alignment of its target; a false-predicated one is a word of no effect
(`exec_falls`), whose PC, registers and condition queue are those of a word that only takes its tick. -/
theorem jumpsGoToTheirTarget : Obligations.JumpsGoToTheirTarget := by
  refine ⟨fun s i t link hj hi ha => ⟨fun h8 => ?_, fun h8 => ?_⟩, fun s i p l ops hj hp he hk h0 h1 hn => ?_⟩
  · refine Completes.of_finish ?_ (linkOf_plain (s.ctx s.me) link)
    rw [exec_jump hj hi ha, if_pos h8]
    rfl
  · rw [exec_jump hj hi ha, if_neg h8]
  · obtain rfl := jump_limit hj hp
    refine ⟨_, exec_falls hp he hk, ?_, ?_, State.finish_cq s [] none 1⟩
    · exact State.finish_nextWord s [] 1 (fun h => by simp [h0] at h) (fun h => by simp [h1] at h)
    · obtain ⟨-, regs, -⟩ := State.finish_regFrame s [] none 1 [] (fun _ h => by cases h) (fun _ h => by cases h)
      exact regs 63 List.not_mem_nil hn

/-! ## Loop levels (R344, R345) -/

/-- Loop level 1 or 0 of a context, replaced. -/
def Ctx.setLevel (c : Ctx) (b : Bool) (l : Loop) : Ctx := if b then { c with loop1 := l } else { c with loop0 := l }

theorem Ctx.level_false (c : Ctx) : c.level false = c.loop0 := rfl
theorem Ctx.level_true (c : Ctx) : c.level true = c.loop1 := rfl
theorem Ctx.setLevel_false (c : Ctx) (l : Loop) : c.setLevel false l = { c with loop0 := l } := rfl
theorem Ctx.setLevel_true (c : Ctx) (l : Loop) : c.setLevel true l = { c with loop1 := l } := rfl
theorem Ctx.level_setLevel (c : Ctx) (b : Bool) (l : Loop) : (c.setLevel b l).level b = l := by cases b <;> rfl
theorem Ctx.level_not_setLevel (c : Ctx) (b : Bool) (l : Loop) : (c.setLevel b l).level (!b) = c.level !b := by cases b <;> rfl
theorem Ctx.level_setLevel_not (c : Ctx) (b : Bool) (l : Loop) : (c.setLevel (!b) l).level b = c.level b := by cases b <;> rfl

/-- A level that goes back to its start, one pass fewer to come. -/
def Loop.repeated (l : Loop) : Loop := { l with count := l.count - 1 }
/-- A level that has ended. -/
def Loop.over (l : Loop) : Loop := { l with active := false }

theorem Loop.passes_iff (l : Loop) (a : Word) : l.passes a ↔ l.active = false ∨ l.stop ≠ a := by
  cases h : l.active <;> simp [Loop.passes, h]
theorem Loop.acts_iff (l : Loop) (a : Word) : (l.active && l.stop == a) = true ↔ ¬ l.passes a := by
  simp [Loop.passes]
theorem Loop.acts_eq_false_iff (l : Loop) (a : Word) : (l.active && l.stop == a) = false ↔ l.passes a := by
  rw [← Bool.not_eq_true, Loop.acts_iff, not_not]

/-- A level takes one pass: it goes back to its start while more than one is left, else it ends and `k` follows. -/
def Ctx.takePass (c : Ctx) (b : Bool) (k : Ctx → Ctx × Word) : Ctx × Word :=
  if 1 < (c.level b).count.toNat then (c.setLevel b (c.level b).repeated, (c.level b).start)
  else k (c.setLevel b (c.level b).over)

theorem Ctx.takePass_more {c : Ctx} {b : Bool} {k : Ctx → Ctx × Word} (h : 1 < (c.level b).count.toNat) :
    c.takePass b k = (c.setLevel b (c.level b).repeated, (c.level b).start) := if_pos h
theorem Ctx.takePass_last {c : Ctx} {b : Bool} {k : Ctx → Ctx × Word} (h : (c.level b).count.toNat ≤ 1) :
    c.takePass b k = k (c.setLevel b (c.level b).over) := if_neg (not_lt.2 h)

/-- A pass of one level leaves the other as it is. -/
theorem Ctx.takePass_not_level (c : Ctx) (b : Bool) (a : Word) : (c.takePass (!b) fun d => (d, a)).1.level b = c.level b := by
  unfold Ctx.takePass
  split <;> exact Ctx.level_setLevel_not c b _

/-- The loop action at an address in passes: of both levels, the later one first, or of the one that ends there (R345). -/
theorem Ctx.loopNext_eq (c : Ctx) (a : Word) :
    c.loopNext a =
      if (c.loop0.active && c.loop0.stop == a) && (c.loop1.active && c.loop1.stop == a) then
        c.takePass c.later1 fun d => d.takePass (!c.later1) fun e => (e, a + 8)
      else if c.loop0.active && c.loop0.stop == a then c.takePass false fun d => (d, a + 8)
      else if c.loop1.active && c.loop1.stop == a then c.takePass true fun d => (d, a + 8)
      else (c, a + 8) := by
  have both : (c.takePass c.later1 fun d => d.takePass (!c.later1) fun e => (e, a + 8)) =
      if c.later1 then c.takePass true fun d => d.takePass false fun e => (e, a + 8)
      else c.takePass false fun d => d.takePass true fun e => (e, a + 8) := by
    cases c.later1 <;> rfl
  rw [both]
  unfold Ctx.loopNext Ctx.takePass
  by_cases more0 : 1 < c.loop0.count.toNat <;> by_cases more1 : 1 < c.loop1.count.toNat <;>
    simp only [Ctx.level_false, Ctx.level_true, Ctx.setLevel_false, Ctx.setLevel_true, more0, more1, if_true, if_false] <;> rfl

/-- Where one level ends at an address, it takes a pass, and on its last one the next word follows. -/
theorem Ctx.loopNext_alone (c : Ctx) {a : Word} {b : Bool} (hx : ¬ (c.level b).passes a) (hy : (c.level !b).passes a) :
    c.loopNext a = c.takePass b fun d => (d, a + 8) := by
  rw [← Loop.acts_iff] at hx
  rw [← Loop.acts_eq_false_iff] at hy
  rw [Ctx.loopNext_eq]
  cases b
  case false => rw [Ctx.level_false] at hx; rw [Bool.not_false, Ctx.level_true] at hy; rw [hx, hy]; rfl
  case true => rw [Ctx.level_true] at hx; rw [Bool.not_true, Ctx.level_false] at hy; rw [hx, hy]; rfl

/-- Where both levels end at an address, the later one takes a pass, and on its last one the other takes a pass. -/
theorem Ctx.loopNext_both (c : Ctx) {a : Word} {b : Bool} (hx : ¬ (c.level b).passes a) (hy : ¬ (c.level !b).passes a)
    (later : c.later1 = b) : c.loopNext a = c.takePass b fun d => d.takePass (!b) fun e => (e, a + 8) := by
  rw [← Loop.acts_iff] at hx hy
  rw [Ctx.loopNext_eq, if_pos, later]
  cases b
  case false => exact Bool.and_eq_true_iff.2 ⟨hx, hy⟩
  case true => exact Bool.and_eq_true_iff.2 ⟨hy, hx⟩

/-- The level that acts first goes back to its start while more than one pass is left, and the other is left alone. -/
theorem Ctx.loopNext_more (c : Ctx) {a : Word} {b : Bool} (hx : ¬ (c.level b).passes a)
    (first : c.later1 = b ∨ (c.level !b).passes a) (more : 1 < (c.level b).count.toNat) :
    c.loopNext a = (c.setLevel b (c.level b).repeated, (c.level b).start) := by
  by_cases hy : (c.level !b).passes a
  · rw [c.loopNext_alone hx hy, Ctx.takePass_more more]
  · rw [c.loopNext_both hx hy (first.resolve_right hy), Ctx.takePass_more more]

/-- The level that acts first ends on its last pass, whatever the other does after it. -/
theorem Ctx.loopNext_over (c : Ctx) {a : Word} {b : Bool} (hx : ¬ (c.level b).passes a)
    (first : c.later1 = b ∨ (c.level !b).passes a) (last : (c.level b).count.toNat ≤ 1) :
    (c.loopNext a).1.level b = (c.level b).over := by
  by_cases hy : (c.level !b).passes a
  · rw [c.loopNext_alone hx hy, Ctx.takePass_last last, Ctx.level_setLevel]
  · rw [c.loopNext_both hx hy (first.resolve_right hy), Ctx.takePass_last last, Ctx.takePass_not_level, Ctx.level_setLevel]

theorem Ctx.before_later1 (c : Ctx) (w : List Landing) (n : Nat) : (c.before w n).later1 = c.later1 := by
  have h := congrArg Ctx.later1 (Ctx.before_frame c w n)
  exact h

theorem Ctx.before_level (c : Ctx) (w : List Landing) (n : Nat) : (c.before w n).level = c.level := by
  obtain ⟨h0, h1⟩ := c.before_loops w n
  funext b
  rw [Ctx.level, h0, h1]; rfl

/-- A word that falls through takes the loop action at its address, with the levels it found (R345). -/
theorem State.finish_loopNext (s : State) (w : List Landing) (n : Nat) : ∃ e : Ctx,
    e.level = (s.ctx s.me).level ∧ e.later1 = (s.ctx s.me).later1
      ∧ ((s.finish w none n).ctx s.me).pc = (e.loopNext (s.ctx s.me).pc).2
      ∧ ((s.finish w none n).ctx s.me).level = (e.loopNext (s.ctx s.me).pc).1.level := by
  obtain ⟨b, v, x, hc⟩ := State.finish_ctx s w none n
  rw [hc, Ctx.complete_through]
  refine ⟨_, ?_, ?_, rfl, rfl⟩
  · exact Ctx.before_level _ w n
  · exact Ctx.before_later1 _ w n

/-- A word with a taken target moves no level (R345). -/
theorem State.finish_level_taken (s : State) (w : List Landing) (t : Word) (n : Nat) :
    ((s.finish w (some t) n).ctx s.me).level = (s.ctx s.me).level := by
  obtain ⟨b, v, x, hc⟩ := State.finish_ctx s w (some t) n
  rw [hc, Ctx.complete_taken]
  exact Ctx.before_level _ w n

/-- A LOOP that issues skips its body where the count is 0, and else starts its level at the next word (R344). -/
theorem exec_loop_issued {s : State} {p : Pred} {lv : BitVec 1} {a : Reg} {off : BitVec 36}
    (hi : s.issues (.loop p lv a off) = true) :
    let stop (c : Ctx) := c.pc + 8 * off.signExtend 64
    let n : BitVec 32 := ((s.ctx s.me).rd a).setWidth 32
    exec (.loop p lv a off) s = .next (if n = 0 then s.finish [] (some (stop (s.ctx s.me) + 8)) 1
      else (s.upd fun c => if lv = 0 then { c with loop0 := ⟨c.pc + 8, stop c, n, true⟩, later1 := false }
        else { c with loop1 := ⟨c.pc + 8, stop c, n, true⟩, later1 := true }).finish [] none 1) := by
  dsimp only
  unfold exec
  refine (ctl_issued rfl hi).trans (congrArg _ ?_)
  dsimp only
  rw [shiftLeft_three_eq_mul, apply_ite (Ans.state s.me)]
  rfl

/-- Settles O17: a LOOP's answer is `exec_loop_issued`; a word that falls through takes the loop action at its address
(`State.finish_loopNext`), in which the first level to act takes a pass and, on its last one, hands over to the other where
that ends there too; a taken branch takes none. -/
theorem loopsStartSkipAndRepeat : Obligations.LoopsStartSkipAndRepeat := by
  refine ⟨fun s p lv a off hi => ?_, fun s w b => ?_, fun s w a b => congrFun (State.finish_level_taken s w a 1) b⟩
  · have run := exec_loop_issued hi
    dsimp only at run ⊢
    have completes {u : State} {pc : Option Word} (h : exec (.loop p lv a off) s = .next (u.finish [] pc 1)) :
        Completes (.loop p lv a off) s u [] pc := .of_finish h fun _ h => by cases h
    refine ⟨fun h0 => completes ?_, fun h0 hl => completes ?_, fun h0 hl => completes ?_⟩
    · rw [run, if_pos h0]
    · rw [run, if_neg h0, hl]; rfl
    · rw [run, if_neg h0, hl]; rfl
  · obtain ⟨e, hl, h1, hpc, hlev⟩ := State.finish_loopNext s w 1
    dsimp only
    rw [hpc, hlev, ← hl, ← h1]
    intro act stop first
    rw [← Loop.passes_iff] at first
    have hx : ¬ (e.level b).passes (s.ctx s.me).pc := fun h => h act stop
    refine ⟨fun more => ?_, fun last => ⟨?_, fun alone => ?_, fun yact ystop => ?_⟩⟩
    · rw [e.loopNext_more hx first more, Ctx.level_setLevel, Ctx.level_not_setLevel]
      exact ⟨rfl, rfl, rfl⟩
    · rw [e.loopNext_over hx first last]; rfl
    · rw [← Loop.passes_iff] at alone
      rw [e.loopNext_alone hx alone, Ctx.takePass_last last, Ctx.level_not_setLevel]
      exact ⟨rfl, rfl⟩
    · have hy : ¬ (e.level !b).passes (s.ctx s.me).pc := fun h => h yact ystop
      rw [e.loopNext_both hx hy (first.resolve_right hy), Ctx.takePass_last last, ← e.level_not_setLevel b (e.level b).over]
      refine ⟨fun more => ?_, fun last' => ?_⟩
      · rw [Ctx.takePass_more more, Ctx.level_setLevel]
        exact ⟨rfl, rfl⟩
      · rw [Ctx.takePass_last last', Ctx.level_setLevel]
        exact ⟨rfl, rfl⟩

end Sys2Proof.Machine

/-! Decoding and encoding are inverse: the word of every well-formed instruction decodes to it, and a word that decodes is the
encoding of what it decodes to (R30-R39, R40-R44, R56-R58, R70-R80). -/

namespace Sys2Proof

/-- Every constructor's fields decode to it: the lemma of its own name. -/
theorem fieldsDecode : ∀ i : Instr, Laws.RoundTrip.Statement i
  | .add _ _ _ _ => Laws.RoundTrip.add _ _ _ _
  | .sub _ _ _ _ => Laws.RoundTrip.sub _ _ _ _
  | .mul _ _ _ _ => Laws.RoundTrip.mul _ _ _ _
  | .mulh _ _ _ _ => Laws.RoundTrip.mulh _ _ _ _
  | .mulhu _ _ _ _ => Laws.RoundTrip.mulhu _ _ _ _
  | .div _ _ _ _ => Laws.RoundTrip.div _ _ _ _
  | .divu _ _ _ _ => Laws.RoundTrip.divu _ _ _ _
  | .rem _ _ _ _ => Laws.RoundTrip.rem _ _ _ _
  | .remu _ _ _ _ => Laws.RoundTrip.remu _ _ _ _
  | .and _ _ _ _ => Laws.RoundTrip.and _ _ _ _
  | .or _ _ _ _ => Laws.RoundTrip.or _ _ _ _
  | .xor _ _ _ _ => Laws.RoundTrip.xor _ _ _ _
  | .andn _ _ _ _ => Laws.RoundTrip.andn _ _ _ _
  | .shl _ _ _ _ => Laws.RoundTrip.shl _ _ _ _
  | .shr _ _ _ _ => Laws.RoundTrip.shr _ _ _ _
  | .sra _ _ _ _ => Laws.RoundTrip.sra _ _ _ _
  | .rol _ _ _ _ => Laws.RoundTrip.rol _ _ _ _
  | .min _ _ _ _ => Laws.RoundTrip.min _ _ _ _
  | .max _ _ _ _ => Laws.RoundTrip.max _ _ _ _
  | .minu _ _ _ _ => Laws.RoundTrip.minu _ _ _ _
  | .maxu _ _ _ _ => Laws.RoundTrip.maxu _ _ _ _
  | .clz _ _ _ => Laws.RoundTrip.clz _ _ _
  | .ctz _ _ _ => Laws.RoundTrip.ctz _ _ _
  | .popc _ _ _ => Laws.RoundTrip.popc _ _ _
  | .brev _ _ _ => Laws.RoundTrip.brev _ _ _
  | .sext _ _ _ _ => Laws.RoundTrip.sext _ _ _ _
  | .zext _ _ _ _ => Laws.RoundTrip.zext _ _ _ _
  | .sel _ _ _ _ _ => Laws.RoundTrip.sel _ _ _ _ _
  | .lea _ _ _ _ _ => Laws.RoundTrip.lea _ _ _ _ _
  | .addi _ _ _ _ => Laws.RoundTrip.addi _ _ _ _
  | .andi _ _ _ _ => Laws.RoundTrip.andi _ _ _ _
  | .ori _ _ _ _ => Laws.RoundTrip.ori _ _ _ _
  | .xori _ _ _ _ => Laws.RoundTrip.xori _ _ _ _
  | .shli _ _ _ _ => Laws.RoundTrip.shli _ _ _ _
  | .shri _ _ _ _ => Laws.RoundTrip.shri _ _ _ _
  | .srai _ _ _ _ => Laws.RoundTrip.srai _ _ _ _
  | .movi _ _ _ => Laws.RoundTrip.movi _ _ _
  | .movhi _ _ _ => Laws.RoundTrip.movhi _ _ _
  | .muli _ _ _ _ => Laws.RoundTrip.muli _ _ _ _
  | .kget _ _ _ => Laws.RoundTrip.kget _ _ _
  | .cmp _ _ _ _ _ => Laws.RoundTrip.cmp _ _ _ _ _
  | .cmpi _ _ _ _ _ => Laws.RoundTrip.cmpi _ _ _ _ _
  | .fcmp _ _ _ _ _ => Laws.RoundTrip.fcmp _ _ _ _ _
  | .kand _ _ _ _ => Laws.RoundTrip.kand _ _ _ _
  | .kor _ _ _ _ => Laws.RoundTrip.kor _ _ _ _
  | .kxor _ _ _ _ => Laws.RoundTrip.kxor _ _ _ _
  | .knot _ _ _ => Laws.RoundTrip.knot _ _ _
  | .kset _ _ _ => Laws.RoundTrip.kset _ _ _
  | .fadd _ _ _ _ => Laws.RoundTrip.fadd _ _ _ _
  | .fsub _ _ _ _ => Laws.RoundTrip.fsub _ _ _ _
  | .fmul _ _ _ _ => Laws.RoundTrip.fmul _ _ _ _
  | .ffma _ _ _ _ _ => Laws.RoundTrip.ffma _ _ _ _ _
  | .fmin _ _ _ _ => Laws.RoundTrip.fmin _ _ _ _
  | .fmax _ _ _ _ => Laws.RoundTrip.fmax _ _ _ _
  | .fabs _ _ _ => Laws.RoundTrip.fabs _ _ _
  | .fneg _ _ _ => Laws.RoundTrip.fneg _ _ _
  | .fcvt _ _ _ _ _ => Laws.RoundTrip.fcvt _ _ _ _ _
  | .fexp2 _ _ _ => Laws.RoundTrip.fexp2 _ _ _
  | .flog2 _ _ _ => Laws.RoundTrip.flog2 _ _ _
  | .frcp _ _ _ => Laws.RoundTrip.frcp _ _ _
  | .frsq _ _ _ => Laws.RoundTrip.frsq _ _ _
  | .fsqrt _ _ _ => Laws.RoundTrip.fsqrt _ _ _
  | .ld _ _ _ _ => Laws.RoundTrip.ld _ _ _ _
  | .st _ _ _ => Laws.RoundTrip.st _ _ _
  | .ldp _ _ _ _ _ _ => Laws.RoundTrip.ldp _ _ _ _ _ _
  | .stp _ _ _ _ _ => Laws.RoundTrip.stp _ _ _ _ _
  | .ldAcq _ _ _ _ _ => Laws.RoundTrip.ldAcq _ _ _ _ _
  | .stRel _ _ _ _ => Laws.RoundTrip.stRel _ _ _ _
  | .pf _ _ _ _ => Laws.RoundTrip.pf _ _ _ _
  | .fence _ _ _ => Laws.RoundTrip.fence _ _ _
  | .slx _ _ _ _ _ _ _ => Laws.RoundTrip.slx _ _ _ _ _ _ _
  | .slxn _ _ _ _ _ _ => Laws.RoundTrip.slxn _ _ _ _ _ _
  | .rtinst _ _ _ _ => Laws.RoundTrip.rtinst _ _ _ _
  | .rtmap _ _ _ _ => Laws.RoundTrip.rtmap _ _ _ _
  | .eqpop _ _ => Laws.RoundTrip.eqpop _ _
  | .wfe _ => Laws.RoundTrip.wfe _
  | .br _ _ => Laws.RoundTrip.br _ _
  | .bcq _ _ => Laws.RoundTrip.bcq _ _
  | .jr _ _ => Laws.RoundTrip.jr _ _
  | .call _ _ => Laws.RoundTrip.call _ _
  | .callr _ _ => Laws.RoundTrip.callr _ _
  | .ret _ => Laws.RoundTrip.ret _
  | .loop _ _ _ _ => Laws.RoundTrip.loop _ _ _ _
  | .nop _ _ => Laws.RoundTrip.nop _ _
  | .trap _ _ => Laws.RoundTrip.trap _ _
  | .yield _ => Laws.RoundTrip.yield _
  | .endUnit _ => Laws.RoundTrip.endUnit _
  | .rbld _ _ _ _ => Laws.RoundTrip.rbld _ _ _ _
  | .rbst _ _ _ _ => Laws.RoundTrip.rbst _ _ _ _
  | .rbset _ _ _ _ => Laws.RoundTrip.rbset _ _ _ _
  | .rbget _ _ _ _ => Laws.RoundTrip.rbget _ _ _ _
  | .enq _ _ _ => Laws.RoundTrip.enq _ _ _
  | .tkpost _ _ => Laws.RoundTrip.tkpost _ _
  | .tkwait _ _ => Laws.RoundTrip.tkwait _ _
  | .tkpoll _ _ _ => Laws.RoundTrip.tkpoll _ _ _
  | .seminc _ _ _ => Laws.RoundTrip.seminc _ _ _
  | .semwait _ _ _ => Laws.RoundTrip.semwait _ _ _
  | .semmap _ _ _ => Laws.RoundTrip.semmap _ _ _
  | .qdrain _ _ => Laws.RoundTrip.qdrain _ _
  | .accver _ _ _ => Laws.RoundTrip.accver _ _ _
  | .woreg _ _ _ => Laws.RoundTrip.woreg _ _ _
  | .wodereg _ _ => Laws.RoundTrip.wodereg _ _
  | .wohold _ _ _ => Laws.RoundTrip.wohold _ _ _
  | .worel _ _ => Laws.RoundTrip.worel _ _
  | .wowait _ _ => Laws.RoundTrip.wowait _ _
  | .wopoll _ _ _ => Laws.RoundTrip.wopoll _ _ _
  | .bar _ _ => Laws.RoundTrip.bar _ _
  | .barxf _ _ => Laws.RoundTrip.barxf _ _
  | .lease _ _ _ => Laws.RoundTrip.lease _ _ _
  | .leaserel _ _ => Laws.RoundTrip.leaserel _ _
  | .lend _ _ => Laws.RoundTrip.lend _ _
  | .recall _ => Laws.RoundTrip.recall _
  | .rsmark _ => Laws.RoundTrip.rsmark _
  | .gtcrd _ _ => Laws.RoundTrip.gtcrd _ _
  | .rng _ _ _ _ => Laws.RoundTrip.rng _ _ _ _
  | .mfs _ _ _ => Laws.RoundTrip.mfs _ _ _
  | .mts _ _ _ => Laws.RoundTrip.mts _ _ _
  | .evecWrite _ _ => Laws.RoundTrip.evecWrite _ _
  | .ctxsaveWrite _ _ => Laws.RoundTrip.ctxsaveWrite _ _
  | .eret _ => Laws.RoundTrip.eret _
  | .opbnd _ => Laws.RoundTrip.opbnd _
  | .defer _ => Laws.RoundTrip.defer _
  | .undefer _ => Laws.RoundTrip.undefer _
  | .clrsig _ _ => Laws.RoundTrip.clrsig _ _
  | .ctxsv _ _ => Laws.RoundTrip.ctxsv _ _
  | .ctxld _ _ => Laws.RoundTrip.ctxld _ _
  | .parkst _ _ => Laws.RoundTrip.parkst _ _
  | .pend _ _ => Laws.RoundTrip.pend _ _
  | .tinst _ => Laws.RoundTrip.tinst _
  | .tvbump _ => Laws.RoundTrip.tvbump _
  | .tremove _ => Laws.RoundTrip.tremove _
  | .tquery _ => Laws.RoundTrip.tquery _
  | .s1root _ => Laws.RoundTrip.s1root _
  | .tlbinv _ => Laws.RoundTrip.tlbinv _
  | .regquery _ => Laws.RoundTrip.regquery _
  | .partquery _ => Laws.RoundTrip.partquery _
  | .greset _ => Laws.RoundTrip.greset _
  | .scrubreq _ => Laws.RoundTrip.scrubreq _
  | .recquery _ => Laws.RoundTrip.recquery _
  | .hvc _ _ => Laws.RoundTrip.hvc _ _
  | .vadd _ => Laws.RoundTrip.vadd _
  | .vsub _ => Laws.RoundTrip.vsub _
  | .vmul _ => Laws.RoundTrip.vmul _
  | .vfma _ => Laws.RoundTrip.vfma _
  | .vmin _ => Laws.RoundTrip.vmin _
  | .vmax _ => Laws.RoundTrip.vmax _
  | .vabs _ => Laws.RoundTrip.vabs _
  | .vneg _ => Laws.RoundTrip.vneg _
  | .vand _ => Laws.RoundTrip.vand _
  | .vor _ => Laws.RoundTrip.vor _
  | .vxor _ => Laws.RoundTrip.vxor _
  | .vshl _ => Laws.RoundTrip.vshl _
  | .vshr _ => Laws.RoundTrip.vshr _
  | .vsra _ => Laws.RoundTrip.vsra _
  | .vsel _ => Laws.RoundTrip.vsel _
  | .vcmp _ => Laws.RoundTrip.vcmp _
  | .vclamp _ => Laws.RoundTrip.vclamp _
  | .vscale _ => Laws.RoundTrip.vscale _
  | .vmov _ => Laws.RoundTrip.vmov _
  | .vbcast _ => Laws.RoundTrip.vbcast _
  | .vexp2 _ => Laws.RoundTrip.vexp2 _
  | .vlog2 _ => Laws.RoundTrip.vlog2 _
  | .vrcp _ => Laws.RoundTrip.vrcp _
  | .vrsq _ => Laws.RoundTrip.vrsq _
  | .vsqrt _ => Laws.RoundTrip.vsqrt _
  | .vtanh _ => Laws.RoundTrip.vtanh _
  | .vcvt _ => Laws.RoundTrip.vcvt _
  | .vquant _ => Laws.RoundTrip.vquant _
  | .vdeq _ => Laws.RoundTrip.vdeq _
  | .vrand _ => Laws.RoundTrip.vrand _
  | .vredsum _ => Laws.RoundTrip.vredsum _
  | .vredmax _ => Laws.RoundTrip.vredmax _
  | .vredmin _ => Laws.RoundTrip.vredmin _
  | .vscan _ => Laws.RoundTrip.vscan _
  | .vany _ => Laws.RoundTrip.vany _
  | .vcnt _ => Laws.RoundTrip.vcnt _
  | .vzip2 _ => Laws.RoundTrip.vzip2 _
  | .vzip3 _ => Laws.RoundTrip.vzip3 _
  | .vzip4 _ => Laws.RoundTrip.vzip4 _
  | .vunzip2 _ => Laws.RoundTrip.vunzip2 _
  | .vunzip3 _ => Laws.RoundTrip.vunzip3 _
  | .vunzip4 _ => Laws.RoundTrip.vunzip4 _
  | .vperm _ => Laws.RoundTrip.vperm _
  | .vgather _ => Laws.RoundTrip.vgather _
  | .vscatter _ => Laws.RoundTrip.vscatter _
  | .vpart _ => Laws.RoundTrip.vpart _
  | .vldp _ => Laws.RoundTrip.vldp _
  | .vstp _ => Laws.RoundTrip.vstp _
  | .viota _ => Laws.RoundTrip.viota _
  | .vzero _ => Laws.RoundTrip.vzero _
  | .vbump _ => Laws.RoundTrip.vbump _
  | .vtype _ => Laws.RoundTrip.vtype _
  | .mma _ => Laws.RoundTrip.mma _
  | .mmaz _ => Laws.RoundTrip.mmaz _
  | .mmas _ => Laws.RoundTrip.mmas _
  | .mmat _ => Laws.RoundTrip.mmat _
  | .mret _ => Laws.RoundTrip.mret _
  | .mzero _ => Laws.RoundTrip.mzero _
  | .cpin _ => Laws.RoundTrip.cpin _
  | .cpina _ => Laws.RoundTrip.cpina _
  | .gathin _ => Laws.RoundTrip.gathin _
  | .fill _ => Laws.RoundTrip.fill _
  | .cploc _ => Laws.RoundTrip.cploc _
  | .pfin _ => Laws.RoundTrip.pfin _
  | .cpout _ => Laws.RoundTrip.cpout _
  | .scatout _ => Laws.RoundTrip.scatout _
  | .cpouta _ => Laws.RoundTrip.cpouta _
  | .cprem _ => Laws.RoundTrip.cprem _
  | .tx _ => Laws.RoundTrip.tx _
  | .muxsel _ => Laws.RoundTrip.muxsel _
  | .xhold _ => Laws.RoundTrip.xhold _
  | .xend _ => Laws.RoundTrip.xend _
  | .ladd _ _ _ => Laws.RoundTrip.ladd _ _ _
  | .lsub _ _ _ => Laws.RoundTrip.lsub _ _ _
  | .land _ _ _ => Laws.RoundTrip.land _ _ _
  | .lor _ _ _ => Laws.RoundTrip.lor _ _ _
  | .lxor _ _ _ => Laws.RoundTrip.lxor _ _ _
  | .lmin _ _ _ => Laws.RoundTrip.lmin _ _ _
  | .lmax _ _ _ => Laws.RoundTrip.lmax _ _ _
  | .lminu _ _ _ => Laws.RoundTrip.lminu _ _ _
  | .lmaxu _ _ _ => Laws.RoundTrip.lmaxu _ _ _
  | .lshl _ _ _ => Laws.RoundTrip.lshl _ _ _
  | .lshr _ _ _ => Laws.RoundTrip.lshr _ _ _
  | .lcmp _ _ _ => Laws.RoundTrip.lcmp _ _ _
  | .lsel _ _ _ => Laws.RoundTrip.lsel _ _ _
  | .lmov _ _ => Laws.RoundTrip.lmov _ _
  | .lmovi _ _ => Laws.RoundTrip.lmovi _ _
  | .laddf _ _ _ => Laws.RoundTrip.laddf _ _ _
  | .lins _ _ _ _ => Laws.RoundTrip.lins _ _ _ _
  | .lext _ _ _ _ => Laws.RoundTrip.lext _ _ _ _
  | .lret => Laws.RoundTrip.lret
  | .lfail => Laws.RoundTrip.lfail
  | .lnop => Laws.RoundTrip.lnop
  | .landing => Laws.RoundTrip.landing
  | .recordStart => Laws.RoundTrip.recordStart
  | .recordRetirement => Laws.RoundTrip.recordRetirement
  | .phaseMarker => Laws.RoundTrip.phaseMarker
  | .phaseCompletion => Laws.RoundTrip.phaseCompletion
  | .sliceInvocation => Laws.RoundTrip.sliceInvocation
  | .slxReply => Laws.RoundTrip.slxReply
  | .pageMigration => Laws.RoundTrip.pageMigration
  | .waitRegistration => Laws.RoundTrip.waitRegistration
  | .barrierCompletion => Laws.RoundTrip.barrierCompletion
  | .transferPhaseStart => Laws.RoundTrip.transferPhaseStart
  | .transferPhaseClose => Laws.RoundTrip.transferPhaseClose
  | .trapEntry => Laws.RoundTrip.trapEntry
  | .walkerTake => Laws.RoundTrip.walkerTake
  | .prodNotification => Laws.RoundTrip.prodNotification
  | .dispatch => Laws.RoundTrip.dispatch
  | .unitResume => Laws.RoundTrip.unitResume
  | .harvestDeal => Laws.RoundTrip.harvestDeal
  | .unpark => Laws.RoundTrip.unpark
  | .revocation => Laws.RoundTrip.revocation
  | .leaseTermEnd => Laws.RoundTrip.leaseTermEnd
  | .yieldHoldEnd => Laws.RoundTrip.yieldHoldEnd
  | .frameStart => Laws.RoundTrip.frameStart
  | .windowBoundary => Laws.RoundTrip.windowBoundary
  | .forcedPreemption => Laws.RoundTrip.forcedPreemption
  | .defEnd => Laws.RoundTrip.defEnd
  | .budgetTime => Laws.RoundTrip.budgetTime
  | .intervalBoundary => Laws.RoundTrip.intervalBoundary
  | .railConfirmed => Laws.RoundTrip.railConfirmed
  | .dividerSwitch => Laws.RoundTrip.dividerSwitch
  | .regulatorRefill => Laws.RoundTrip.regulatorRefill
  | .regulatorTrip => Laws.RoundTrip.regulatorTrip
  | .wayReassignment => Laws.RoundTrip.wayReassignment
  | .pageWorldChange => Laws.RoundTrip.pageWorldChange
  | .pendingZeroFill => Laws.RoundTrip.pendingZeroFill
  | .guestReset => Laws.RoundTrip.guestReset
  | .guestResetDrain => Laws.RoundTrip.guestResetDrain
  | .scrubSweep => Laws.RoundTrip.scrubSweep
  | .retentionEntry => Laws.RoundTrip.retentionEntry
  | .retentionExit => Laws.RoundTrip.retentionExit
  | .lockstepMismatch => Laws.RoundTrip.lockstepMismatch
  | .eccError => Laws.RoundTrip.eccError
  | .sensorRead => Laws.RoundTrip.sensorRead
  | .railExcursion => Laws.RoundTrip.railExcursion
  | .railHalt => Laws.RoundTrip.railHalt
  | .watchdog => Laws.RoundTrip.watchdog
  | .tsync => Laws.RoundTrip.tsync
  | .tsynclost => Laws.RoundTrip.tsynclost
  | .gtcslew => Laws.RoundTrip.gtcslew
  | .doorbell => Laws.RoundTrip.doorbell
  | .blobLoad => Laws.RoundTrip.blobLoad
  | .imageLoad => Laws.RoundTrip.imageLoad
  | .registerWrite => Laws.RoundTrip.registerWrite
  | .elog => Laws.RoundTrip.elog
  | .faultclr => Laws.RoundTrip.faultclr
  | .statusFrame => Laws.RoundTrip.statusFrame
  | .moduleReset => Laws.RoundTrip.moduleReset
  | .boot => Laws.RoundTrip.boot
  | .functionLevelReset => Laws.RoundTrip.functionLevelReset
  | .lockInterface => Laws.RoundTrip.lockInterface
  | .getDeviceInterfaceReport => Laws.RoundTrip.getDeviceInterfaceReport
  | .startInterface => Laws.RoundTrip.startInterface
  | .stopInterface => Laws.RoundTrip.stopInterface
  | .getState => Laws.RoundTrip.getState
  | .getMeasurements => Laws.RoundTrip.getMeasurements
  | .keyErasure => Laws.RoundTrip.keyErasure
  | .hostCompletion => Laws.RoundTrip.hostCompletion
  | .pageRequestResponse => Laws.RoundTrip.pageRequestResponse
  | .pageRequestTimeout => Laws.RoundTrip.pageRequestTimeout
  | .accessArrival => Laws.RoundTrip.accessArrival
  | .rootControllerMismatch => Laws.RoundTrip.rootControllerMismatch
  | .clockMonitor => Laws.RoundTrip.clockMonitor
  | .keySwitch => Laws.RoundTrip.keySwitch
  | .configurationRequest => Laws.RoundTrip.configurationRequest

/-- Settles O1: the fields of each kind of word decode (`fieldsDecode`), and unpacking a packed word gives its fields. -/
theorem everyInstructionDecodesFromItsWord : Obligations.EveryInstructionDecodesFromItsWord := by
  intro i wf
  obtain ⟨fields, rec, slice⟩ := fieldsDecode i wf
  refine ⟨fun w h => ?_, fun e o r h => ?_, slice⟩
  · obtain ⟨f, hf, rfl⟩ := Option.map_eq_some_iff.1 h
    rw [decodeCtl_pack, fields f hf]
  · obtain ⟨k, hk, rfl⟩ := rec e o r h
    exact ⟨packRec o r, by rw [encodeRec, h]; rfl, decodeRec_packRec e o r k hk⟩

open BitVec

/-! ## The fields of a word put together again are the word (R30, R35, R40, R47, R56) -/

theorem pack_unpack (w : Word) : pack (unpack w) = w := by
  simp (disch := rfl) only [pack, unpack, extractLsb'_append_extractLsb'_eq_extractLsb']
  exact extractLsb'_eq_self
theorem packSl_unpackSl (w : BitVec 32) :
    packSl (unpackSl w).op (unpackSl w).dst (unpackSl w).a (unpackSl w).b (unpackSl w).imm = w := by
  simp (disch := rfl) only [packSl, unpackSl, extractLsb'_append_extractLsb'_eq_extractLsb']
  exact extractLsb'_eq_self
theorem packDesc_unpackDesc (x : BitVec 128) : packDesc (unpackDesc x) = x := by
  simp (disch := rfl) only [packDesc, unpackDesc, extractLsb'_append_extractLsb'_eq_extractLsb']
  exact extractLsb'_eq_self
theorem packRec_unpackRec (w : BitVec 512) : packRec (recOpc w) (unpackRec w) = w := by
  simp (disch := rfl) only [packRec, unpackRec, recOpc, packDesc_unpackDesc, extractLsb'_append_extractLsb'_eq_extractLsb']
  exact extractLsb'_eq_self
theorem packXM_xm (x : BitVec 30) : packXM (xm x) = x := by
  simp (disch := rfl) only [packXM, xm, extractLsb'_append_extractLsb'_eq_extractLsb']
  exact extractLsb'_eq_self

/-- A field whose high bits are zero is its low bits widened. -/
theorem setWidth_low {n k : Nat} {x : BitVec (n + k)} (h : x.extractLsb' n k = 0) :
    (x.extractLsb' 0 n).setWidth (n + k) = x := by
  apply BitVec.eq_of_getLsbD_eq; intro i hi
  have hb : i - n < k → x.getLsbD (n + (i - n)) = false := fun hk => by
    simpa [hk] using congrArg (·.getLsbD (i - n)) h
  by_cases hn : i < n
  · simp [hi, hn]
  · have := hb (by omega)
    rw [show n + (i - n) = i by omega] at this
    simp [hn, this]

/-- The fields of F-M whose bits MODE leaves unused are zero, so its operand has them all (R35, R36). -/
theorem encM_aMode {f : Fields} (h : modeOk f = true) :
    encM f.op f.pred f.sub f.d f.a (aMode f) (xm f.x).size (xm f.x).sx (xm f.x).scope = f := by
  obtain ⟨op, kn, kp, sub, d, a, b, x⟩ := f
  simp only [modeOk, aMode] at h ⊢
  conv_rhs => rw [← packXM_xm x]
  generalize xm x = m at *
  obtain ⟨mode, size, scale, sx, scope, off⟩ := m
  rcases (show ∀ m : BitVec 2, m = 0 ∨ m = 1 ∨ m = 2 ∨ m = 3 by decide) mode with rfl | rfl | rfl | rfl <;> simp_all [encM, encR, Fields.pred]

theorem bit_bool (b : BitVec 1) : bit (bool b) = b := by revert b; decide
theorem k6_k3 {r : BitVec 6} (h : kOk r = true) : k6 (k3 r) = r := by revert r; decide

/-! ## Parts of X, and of an immediate -/

theorem xC_cReg {f : Fields} (h : f.x.extractLsb' 0 24 = 0) : xC (cReg f) = f.x := by
  rw [xC, cReg, ← h]; exact extractLsb'_append_extractLsb'

theorem xRb_fields {x : BitVec 30} (h : x.extractLsb' 3 9 = 0) : xRb (x.extractLsb' 12 18) (x.extractLsb' 0 3) = x := by
  rw [xRb, ← h]
  simp (disch := rfl) only [extractLsb'_append_extractLsb'_eq_extractLsb']
  exact extractLsb'_eq_self
theorem xSl_fields {x : BitVec 30} (h : x.extractLsb' 5 19 = 0) : xSl (x.extractLsb' 24 6) (x.extractLsb' 0 5) = x := by
  rw [xSl, ← h]
  simp (disch := rfl) only [extractLsb'_append_extractLsb'_eq_extractLsb']
  exact extractLsb'_eq_self

theorem low2 {x : BitVec 4} (h : x.extractLsb' 2 2 = 0) : (x.extractLsb' 0 2).setWidth 4 = x := @setWidth_low 2 2 x h
theorem low6 {x : BitVec 30} (h : x.extractLsb' 6 24 = 0) : (x.extractLsb' 0 6).setWidth 30 = x := @setWidth_low 6 24 x h
theorem low16 {x : BitVec 30} (h : x.extractLsb' 16 14 = 0) : (x.extractLsb' 0 16).setWidth 30 = x :=
  @setWidth_low 16 14 x h

theorem four_fields (d a b : BitVec 6) (x : BitVec 30) :
    (d ++ a ++ b ++ x).extractLsb' 42 6 = d ∧ (d ++ a ++ b ++ x).extractLsb' 36 6 = a ∧ (d ++ a ++ b ++ x).extractLsb' 30 6 = b
      ∧ (d ++ a ++ b ++ x).extractLsb' 0 30 = x := by
  refine ⟨?_, ?_, ?_, extractLsb'_append_eq_right⟩
  · rw [extractLsb'_append_eq_of_le (by decide : 30 ≤ 42), extractLsb'_append_eq_of_le (by decide : 6 ≤ 42 - 30)]
    exact extractLsb'_append_eq_left
  · rw [extractLsb'_append_eq_of_le (by decide : 30 ≤ 36), extractLsb'_append_eq_of_le (by decide : 6 ≤ 36 - 30)]
    exact extractLsb'_append_eq_right
  · rw [extractLsb'_append_eq_of_le (by decide : 30 ≤ 30)]
    exact extractLsb'_append_eq_right

theorem two_fields (b : BitVec 6) (x : BitVec 30) : (b ++ x).extractLsb' 30 6 = b ∧ (b ++ x).extractLsb' 0 30 = x :=
  ⟨extractLsb'_append_eq_left, extractLsb'_append_eq_right⟩

theorem sh_fields (n : BitVec 6) :
    (n.setWidth 36).extractLsb' 30 6 = 0 ∧ (n.setWidth 36).extractLsb' 0 30 = n.setWidth 30 := by revert n; decide

/-! ## What a shape of control words accepts is its own encoding -/

theorem chk_ok {b : Bool} {f : Fields} {i j : Instr} (h : chk b f i = .ok j) : f.pred.ok = true ∧ b = true ∧ i = j := by
  unfold chk at h
  split at h
  · next hb => exact ⟨(Bool.and_eq_true_iff.1 hb).1, (Bool.and_eq_true_iff.1 hb).2, Except.ok.inj h⟩
  · cases h

/-- An instruction is well-formed, and its fields are `f`. -/
def Encodes (f : Fields) (i : Instr) : Prop := i.wf = true ∧ encodeFields i = some f

variable {f : Fields} {i : Instr} {m : Nat}

theorem op_num {o : BitVec 8} (h : o.toNat = m) : o = .ofNat 8 m := by rw [← h, ofNat_toNat, setWidth_eq]

theorem encodes_chk {b : Bool} {j : Instr} (h : chk b f j = .ok i) (wf : f.pred.ok = true → b = true → j.wf = true)
    (he : b = true → encodeFields j = some f) : Encodes f i := by
  obtain ⟨hp, hb, rfl⟩ := chk_ok h
  exact ⟨wf hp hb, he hb⟩

theorem r3_encodes {k : Pred → Reg → Reg → Reg → Instr} (hk : ∀ p d a b, (k p d a b).wf = p.ok)
    (he : ∀ p d a b, encodeFields (k p d a b) = some (encR (.ofNat 8 m) p 0 d a b 0)) (ho : f.op.toNat = m) (h : decR3 k f = .ok i) : Encodes f i := by
  refine encodes_chk h (fun hp _ => (hk ..).trans hp) fun hb => ?_
  obtain ⟨op, kn, kp, sub, d, a, b, x⟩ := f
  replace ho := op_num ho
  subst ho
  simp_all [encR, Fields.pred]
theorem r2_encodes {k : Pred → Reg → Reg → Instr} (hk : ∀ p d a, (k p d a).wf = p.ok)
    (he : ∀ p d a, encodeFields (k p d a) = some (encR (.ofNat 8 m) p 0 d a 0 0)) (ho : f.op.toNat = m) (h : decR2 k f = .ok i) : Encodes f i := by
  refine encodes_chk h (fun hp _ => (hk ..).trans hp) fun hb => ?_
  obtain ⟨op, kn, kp, sub, d, a, b, x⟩ := f
  replace ho := op_num ho
  subst ho
  simp_all [encR, Fields.pred]
theorem r4_encodes {k : Pred → Reg → Reg → Reg → Reg → Instr} (hk : ∀ p d a b c, (k p d a b c).wf = p.ok)
    (he : ∀ p d a b c, encodeFields (k p d a b c) = some (encR (.ofNat 8 m) p 0 d a b (xC c))) (ho : f.op.toNat = m) (h : decR4 k f = .ok i) : Encodes f i := by
  refine encodes_chk h (fun hp _ => (hk ..).trans hp) fun hb => ?_
  obtain ⟨op, kn, kp, sub, d, a, b, x⟩ := f
  replace ho := op_num ho
  subst ho
  simp_all [encR, Fields.pred, xC_cReg]
theorem imm_encodes {k : Pred → Reg → Reg → BitVec 36 → Instr} (hk : ∀ p d a i, (k p d a i).wf = p.ok)
    (he : ∀ p d a i, encodeFields (k p d a i) = some (encI (.ofNat 8 m) p 0 d a i)) (ho : f.op.toNat = m) (h : decImm k f = .ok i) : Encodes f i := by
  refine encodes_chk h (fun hp _ => (hk ..).trans hp) fun hb => ?_
  obtain ⟨op, kn, kp, sub, d, a, b, x⟩ := f
  replace ho := op_num ho
  subst ho
  simp_all [encR, Fields.pred, encI, two_fields]
theorem sh_encodes {k : Pred → Reg → Reg → BitVec 6 → Instr} (hk : ∀ p d a n, (k p d a n).wf = p.ok)
    (he : ∀ p d a n, encodeFields (k p d a n) = some (encI (.ofNat 8 m) p 0 d a (n.setWidth 36))) (ho : f.op.toNat = m) (h : decSh k f = .ok i) : Encodes f i := by
  refine encodes_chk h (fun hp _ => (hk ..).trans hp) fun hb => ?_
  obtain ⟨op, kn, kp, sub, d, a, b, x⟩ := f
  replace ho := op_num ho
  subst ho
  simp_all [encR, Fields.pred, encI, sh_fields, low6]
theorem k3_encodes {k : Pred → KReg → KReg → KReg → Instr} (hk : ∀ p d a b, (k p d a b).wf = p.ok)
    (he : ∀ p d a b, encodeFields (k p d a b) = some (encR (.ofNat 8 m) p 0 (k6 d) (k6 a) (k6 b) 0)) (ho : f.op.toNat = m) (h : decK3 k f = .ok i) : Encodes f i := by
  refine encodes_chk h (fun hp _ => (hk ..).trans hp) fun hb => ?_
  obtain ⟨op, kn, kp, sub, d, a, b, x⟩ := f
  replace ho := op_num ho
  subst ho
  simp_all [encR, Fields.pred, k6_k3]
theorem r0_encodes {k : Pred → Instr} (hk : ∀ p, (k p).wf = p.ok)
    (he : ∀ p, encodeFields (k p) = some (encR (.ofNat 8 m) p 0 0 0 0 0)) (ho : f.op.toNat = m) (h : decR0 k f = .ok i) : Encodes f i := by
  refine encodes_chk h (fun hp _ => (hk ..).trans hp) fun hb => ?_
  obtain ⟨op, kn, kp, sub, d, a, b, x⟩ := f
  replace ho := op_num ho
  subst ho
  simp_all [encR, Fields.pred]
theorem br_encodes {k : Pred → BitVec 48 → Instr} (hk : ∀ p off, (k p off).wf = p.ok)
    (he : ∀ p off, encodeFields (k p off) = some (encB (.ofNat 8 m) p off)) (ho : f.op.toNat = m) (h : decBr k f = .ok i) : Encodes f i := by
  refine encodes_chk h (fun hp _ => (hk ..).trans hp) fun hb => ?_
  obtain ⟨op, kn, kp, sub, d, a, b, x⟩ := f
  replace ho := op_num ho
  subst ho
  simp_all [encR, Fields.pred, encB, four_fields]
theorem rA_encodes {k : Pred → Reg → Instr} (hk : ∀ p a, (k p a).wf = p.ok)
    (he : ∀ p a, encodeFields (k p a) = some (encR (.ofNat 8 m) p 0 0 a 0 0)) (ho : f.op.toNat = m) (h : decA k f = .ok i) : Encodes f i := by
  refine encodes_chk h (fun hp _ => (hk ..).trans hp) fun hb => ?_
  obtain ⟨op, kn, kp, sub, d, a, b, x⟩ := f
  replace ho := op_num ho
  subst ho
  simp_all [encR, Fields.pred]
theorem sem_encodes {k : Pred → BitVec 6 → Reg → Instr} (hk : ∀ p n a, (k p n a).wf = p.ok)
    (he : ∀ p n a, encodeFields (k p n a) = some (encR (.ofNat 8 m) p 0 0 a 0 (n.setWidth 30))) (ho : f.op.toNat = m) (h : decSem k f = .ok i) : Encodes f i := by
  refine encodes_chk h (fun hp _ => (hk ..).trans hp) fun hb => ?_
  obtain ⟨op, kn, kp, sub, d, a, b, x⟩ := f
  replace ho := op_num ho
  subst ho
  simp_all [encR, Fields.pred, low6]
theorem lv_encodes {k : Pred → BitVec 2 → Instr} (hk : ∀ p l, (k p l).wf = p.ok)
    (he : ∀ p l, encodeFields (k p l) = some (encR (.ofNat 8 m) p (l.setWidth 4) 0 0 0 0)) (ho : f.op.toNat = m) (h : decLv k f = .ok i) : Encodes f i := by
  refine encodes_chk h (fun hp _ => (hk ..).trans hp) fun hb => ?_
  obtain ⟨op, kn, kp, sub, d, a, b, x⟩ := f
  replace ho := op_num ho
  subst ho
  simp_all [encR, Fields.pred, low2]
theorem rb_encodes {k : Pred → Reg → BitVec 18 → RbReg → Instr} (hk : ∀ p a off n, (k p a off n).wf = p.ok)
    (he : ∀ p a off n, encodeFields (k p a off n) = some (encR (.ofNat 8 m) p 0 0 a 0 (xRb off n))) (ho : f.op.toNat = m) (h : decRb k f = .ok i) : Encodes f i := by
  refine encodes_chk h (fun hp _ => (hk ..).trans hp) fun hb => ?_
  obtain ⟨op, kn, kp, sub, d, a, b, x⟩ := f
  replace ho := op_num ho
  subst ho
  simp_all [encR, Fields.pred, xRb_fields]
theorem x16_encodes {k : Pred → BitVec 16 → Instr} (hk : ∀ p n, (k p n).wf = p.ok)
    (he : ∀ p n, encodeFields (k p n) = some (encR (.ofNat 8 m) p 0 0 0 0 (n.setWidth 30))) (ho : f.op.toNat = m) (h : dec16 k f = .ok i) : Encodes f i := by
  refine encodes_chk h (fun hp _ => (hk ..).trans hp) fun hb => ?_
  obtain ⟨op, kn, kp, sub, d, a, b, x⟩ := f
  replace ho := op_num ho
  subst ho
  simp_all [encR, Fields.pred, low16]
/-! ## Shapes with a check of their own, engines, services and system registers -/

theorem rD_encodes {k : Pred → Reg → Instr} (he : ∀ p d, encodeFields (k p d) = some (encR (.ofNat 8 m) p 0 d 0 0 0))
    (ho : f.op.toNat = m) (h : decD k f = .ok i) : Encodes f i := by
  refine encodes_chk h (fun _ hb => (Bool.and_eq_true_iff.1 hb).2) fun hb => ?_
  obtain ⟨op, kn, kp, sub, d, a, b, x⟩ := f
  replace ho := op_num ho
  subst ho
  simp_all [encR, Fields.pred]

theorem ofCode_bits {n : BitVec 4} {e : Eng} (h : Eng.ofCode n.toNat = some e) : e.bits = n := by
  revert n e; decide

theorem decEng_ok {k : Eng → Except DecErr Instr} (h : decEng f k = .ok i) : ∃ e : Eng, e.bits = f.sub ∧ k e = .ok i := by
  unfold decEng at h
  split at h
  · next e he => exact ⟨e, ofCode_bits he, h⟩
  · cases h

theorem rE_encodes {k : Pred → Eng → Instr} (he : ∀ p e, encodeFields (k p e) = some (encR (.ofNat 8 m) p e.bits 0 0 0 0))
    (ho : f.op.toNat = m) (h : decE k f = .ok i) : Encodes f i := by
  obtain ⟨e, hs, h⟩ := decEng_ok h
  refine encodes_chk h (fun _ hb => (Bool.and_eq_true_iff.1 hb).2) fun hb => ?_
  obtain ⟨op, kn, kp, sub, d, a, b, x⟩ := f
  replace ho := op_num ho
  subst ho
  simp_all [encR, Fields.pred]
theorem rDE_encodes {k : Pred → Reg → Eng → Instr} (he : ∀ p d e, encodeFields (k p d e) = some (encR (.ofNat 8 m) p e.bits d 0 0 0))
    (ho : f.op.toNat = m) (h : decDE k f = .ok i) : Encodes f i := by
  obtain ⟨e, hs, h⟩ := decEng_ok h
  refine encodes_chk h (fun _ hb => (Bool.and_eq_true_iff.1 hb).2) fun hb => ?_
  obtain ⟨op, kn, kp, sub, d, a, b, x⟩ := f
  replace ho := op_num ho
  subst ho
  simp_all [encR, Fields.pred]

/-- A service by its number is well-formed and has that number as its field (R408, R409). -/
theorem service_encodes (p : Pred) (n : BitVec 16) :
    (service p n).wf = p.ok ∧ encodeFields (service p n) = some (encR 0x82 p 0 0 0 0 (n.setWidth 30)) := by
  by_cases hn : namedService n = true
  · have hm : n ∈ [0x100#16, 0x101, 0x102, 0x103, 0x110, 0x111, 0x120, 0x121, 0x130, 0x140, 0x141] := of_decide_eq_true hn
    simp only [List.mem_cons, List.not_mem_nil, or_false] at hm
    rcases hm with rfl | rfl | rfl | rfl | rfl | rfl | rfl | rfl | rfl | rfl | rfl <;> exact ⟨rfl, rfl⟩
  · rw [Bool.not_eq_true] at hn
    rw [Laws.RoundTrip.service_hvc p n hn]
    exact ⟨by simp [Instr.wf, hn], rfl⟩

theorem ofNum_some {n : Nat} {r : SReg} (h : SReg.ofNum n = some r) : r.num.toNat = n := by
  unfold SReg.ofNum at h
  split at h <;> cases h <;> rfl

/-- The number of a system register stands alone in X (R39). -/
theorem num_eq {x : BitVec 30} {r : SReg} (h : SReg.ofNum (x.extractLsb' 0 12).toNat = some r) (hx : x.extractLsb' 12 18 = 0) :
    r.num = x := by
  have hn := ofNum_some h
  rw [← @setWidth_low 12 18 x hx]
  apply BitVec.eq_of_toNat_eq
  rw [hn, toNat_setWidth_of_le (by decide)]

theorem mtsOf_encodes (p : Pred) (r : SReg) (a : Reg) :
    (mtsOf p r a).wf = p.ok ∧ encodeFields (mtsOf p r a) = some (encR 0x81 p 0 0 a 0 r.num) := by
  cases r <;> exact ⟨by simp [mtsOf, Instr.wf], rfl⟩

/-- X of FENCE from its parts (R38). -/
theorem fence_fields {x : BitVec 30} (h1 : (xm x).mode = 0) (h2 : (xm x).size = 0) (h3 : (xm x).scale = 0) (h4 : (xm x).sx = 0)
    (h5 : x.extractLsb' 16 5 = 0) : (0 : BitVec 7) ++ (xm x).scope ++ (0 : BitVec 5) ++ x.extractLsb' 0 16 = x := by
  have h7 : (0 : BitVec 7) = x.extractLsb' 23 7 := by
    have := congrArg₂ (· ++ ·) (congrArg₂ (· ++ ·) (congrArg₂ (· ++ ·) h1 h2) h3) h4
    simp (disch := rfl) only [xm, extractLsb'_append_extractLsb'_eq_extractLsb'] at this
    exact this.symm
  rw [h7, ← h5]
  simp (disch := rfl) only [xm, extractLsb'_append_extractLsb'_eq_extractLsb']
  exact extractLsb'_eq_self

theorem fcvt_fields {b : BitVec 6} (h : b.extractLsb' 5 1 = 0) :
    (0 : BitVec 1) ++ bit (b.extractLsb' 4 1 == 1) ++ b.extractLsb' 0 4 = b := by revert b; decide

theorem loop_fields {s : BitVec 4} (h : s.extractLsb' 1 3 = 0) : (s.extractLsb' 0 1).setWidth 4 = s := by revert s; decide

theorem movi_fields (a b : BitVec 6) (x : BitVec 30) :
    (a ++ b ++ x).extractLsb' 36 6 = a ∧ (a ++ b ++ x).extractLsb' 30 6 = b ∧ (a ++ b ++ x).extractLsb' 0 30 = x := by
  refine ⟨?_, ?_, extractLsb'_append_eq_right⟩
  · rw [extractLsb'_append_eq_of_le (by decide : 30 ≤ 36)]
    exact extractLsb'_append_eq_left
  · rw [extractLsb'_append_eq_of_le (by decide : 30 ≤ 30)]
    exact extractLsb'_append_eq_right

theorem low3 {x : BitVec 30} (h : x.extractLsb' 3 27 = 0) : (x.extractLsb' 0 3).setWidth 30 = x := @setWidth_low 3 27 x h
theorem low22 {x : BitVec 30} (h : x.extractLsb' 22 8 = 0) : (x.extractLsb' 0 22).setWidth 30 = x := @setWidth_low 22 8 x h

/-- The fields that decode to an instruction are those of its encoding, one case for each opcode (R70-R72, R74). -/
theorem decodeFields_encodes (h : decodeFields f = .ok i) : Encodes f i := by
  unfold decodeFields at h
  split at h
  case h_1 ho | h_2 ho | h_3 ho | h_4 ho | h_5 ho | h_6 ho | h_7 ho | h_8 ho | h_9 ho | h_10 ho | h_11 ho | h_12 ho |
    h_13 ho | h_14 ho | h_15 ho | h_16 ho | h_17 ho | h_18 ho | h_19 ho | h_20 ho | h_21 ho | h_26 ho | h_27 ho | h_49
    ho | h_50 ho | h_51 ho | h_53 ho | h_54 ho | h_73 ho | h_74 ho | h_115 ho =>
    exact r3_encodes (fun _ _ _ _ => rfl) (fun _ _ _ _ => rfl) ho h
  case h_22 ho | h_23 ho | h_24 ho | h_25 ho | h_55 ho | h_56 ho | h_58 ho | h_59 ho | h_60 ho | h_61 ho | h_62 ho |
    h_101 ho | h_103 ho | h_106 ho =>
    exact r2_encodes (fun _ _ _ => rfl) (fun _ _ _ => rfl) ho h
  case h_28 ho | h_29 ho | h_52 ho =>
    exact r4_encodes (fun _ _ _ _ _ => rfl) (fun _ _ _ _ _ => rfl) ho h
  case h_30 ho | h_31 ho | h_32 ho | h_33 ho | h_39 ho =>
    exact imm_encodes (fun _ _ _ _ => rfl) (fun _ _ _ _ => rfl) ho h
  case h_34 ho | h_35 ho | h_36 ho =>
    exact sh_encodes (fun _ _ _ _ => rfl) (fun _ _ _ _ => rfl) ho h
  case h_44 ho | h_45 ho | h_46 ho =>
    exact k3_encodes (fun _ _ _ _ => rfl) (fun _ _ _ _ => rfl) ho h
  case h_75 ho | h_114 ho | h_123 ho | h_126 ho | h_127 ho =>
    exact rD_encodes (fun _ _ => rfl) ho h
  case h_76 ho | h_82 ho | h_86 ho | h_87 ho | h_112 ho | h_113 ho | h_119 ho | h_120 ho | h_121 ho | h_122 ho =>
    exact r0_encodes (fun _ => rfl) (fun _ => rfl) ho h
  case h_77 ho | h_78 ho | h_80 ho =>
    exact br_encodes (fun _ _ => rfl) (fun _ _ => rfl) ho h
  case h_79 ho | h_81 ho | h_102 ho | h_104 ho | h_105 ho | h_111 ho | h_124 ho | h_125 ho =>
    exact rA_encodes (fun _ _ => rfl) (fun _ _ => rfl) ho h
  case h_84 ho | h_85 ho =>
    exact x16_encodes (fun _ _ => rfl) (fun _ _ => rfl) ho h
  case h_88 ho | h_89 ho =>
    exact rb_encodes (fun _ _ _ _ => rfl) (fun _ _ _ _ => rfl) ho h
  case h_93 ho | h_94 ho | h_99 ho | h_110 ho =>
    exact rE_encodes (fun _ _ => rfl) ho h
  case h_95 ho | h_109 ho =>
    exact rDE_encodes (fun _ _ _ => rfl) ho h
  case h_96 ho | h_97 ho | h_98 ho =>
    exact sem_encodes (fun _ _ _ => rfl) (fun _ _ _ => rfl) ho h
  case h_107 ho | h_108 ho =>
    exact lv_encodes (fun _ _ => rfl) (fun _ _ => rfl) ho h
  case h_118 ho =>
    exact x16_encodes (fun p n => (service_encodes p n).1) (fun p n => (service_encodes p n).2) ho h
  case h_40 ho | h_41 ho | h_42 ho | h_43 ho | h_47 ho | h_48 ho | h_90 ho | h_91 ho | h_100 ho =>
    refine encodes_chk h (fun hp hb => by simp_all [Instr.wf]) fun hb => ?_
    obtain ⟨op, kn, kp, sub, d, a, b, x⟩ := f
    replace ho := op_num ho
    subst ho
    simp_all [encodeFields, encR, encI, Fields.pred, k6_k3, low6, two_fields]
  case h_37 ho =>
    refine encodes_chk h (fun hp hb => by simp_all [Instr.wf]) fun hb => ?_
    obtain ⟨op, kn, kp, sub, d, a, b, x⟩ := f
    replace ho := op_num ho
    subst ho
    simp_all [encodeFields, encR, Fields.pred, movi_fields]
  case h_38 ho =>
    refine encodes_chk h (fun hp hb => by simp_all [Instr.wf]) fun hb => ?_
    obtain ⟨op, kn, kp, sub, d, a, b, x⟩ := f
    replace ho := op_num ho
    subst ho
    simp_all [encodeFields, encR, Fields.pred, low22]
  case h_57 ho =>
    refine encodes_chk h (fun hp hb => by simp_all [Instr.wf]) fun hb => ?_
    obtain ⟨op, kn, kp, sub, d, a, b, x⟩ := f
    replace ho := op_num ho
    subst ho
    simp_all [encodeFields, encR, Fields.pred]
    exact fcvt_fields (by simp_all)
  case h_83 ho =>
    refine encodes_chk h (fun hp hb => by simp_all [Instr.wf]) fun hb => ?_
    obtain ⟨op, kn, kp, sub, d, a, b, x⟩ := f
    replace ho := op_num ho
    subst ho
    simp_all [encodeFields, encR, Fields.pred, encI, loop_fields, two_fields]
  case h_70 ho =>
    refine encodes_chk h (fun hp hb => by simp_all [Instr.wf]) fun hb => ?_
    obtain ⟨op, kn, kp, sub, d, a, b, x⟩ := f
    replace ho := op_num ho
    subst ho
    simp_all [encodeFields, encR, Fields.pred]
    exact fence_fields (by simp_all) (by simp_all) (by simp_all) (by simp_all) (by simp_all)
  case h_71 ho | h_72 ho =>
    refine encodes_chk h (fun hp hb => by simp_all [Instr.wf]) fun hb => ?_
    obtain ⟨op, kn, kp, sub, d, a, b, x⟩ := f
    replace ho := op_num ho
    subst ho
    simp_all [encodeFields, encR, Fields.pred, cReg, xSl_fields]
  case h_63 ho | h_64 ho | h_65 ho | h_66 ho | h_67 ho | h_68 ho | h_69 ho =>
    refine encodes_chk h (fun hp hb => by simp_all [Instr.wf, memArg]) fun hb => ?_
    simp only [Bool.and_eq_true, beq_iff_eq] at hb
    replace ho := op_num ho
    have fields := @encM_aMode f (by simp_all)
    simp_all [encodeFields, memArg, bit_bool]
  case h_92 ho =>
    obtain ⟨e, hs, h⟩ := decEng_ok h
    refine encodes_chk h (fun hp _ => hp) fun hb => ?_
    obtain ⟨op, kn, kp, sub, d, a, b, x⟩ := f
    replace ho := op_num ho
    subst ho
    simp_all [encodeFields, encR, Fields.pred, low3]
  case h_116 ho =>
    split at h
    · next r hr =>
      refine encodes_chk h (fun hp _ => hp) fun hb => ?_
      obtain ⟨op, kn, kp, sub, d, a, b, x⟩ := f
      replace ho := op_num ho
      subst ho
      simp_all [encodeFields, encR, Fields.pred, num_eq hr]
    · cases h
  case h_117 ho =>
    split at h
    · next r hr =>
      refine encodes_chk h (fun hp _ => (mtsOf_encodes ..).1.trans hp) fun hb => (mtsOf_encodes ..).2.trans ?_
      obtain ⟨op, kn, kp, sub, d, a, b, x⟩ := f
      replace ho := op_num ho
      subst ho
      simp_all [encR, Fields.pred, num_eq hr]
    · cases h
  case h_128 =>
    cases h

/-! ## Slice words -/

/-- A slice instruction is well-formed, and its word is that of the fields `g`. -/
def EncodesSl (g : SlFields) (i : Instr) : Prop := i.wf = true ∧ encodeSl i = some (packSl g.op g.dst g.a g.b g.imm)

theorem encodesSl_chk {g : SlFields} {b : Bool} {j : Instr} (h : slChk b j = .ok i) (wf : b = true → j.wf = true)
    (he : b = true → encodeSl j = some (packSl g.op g.dst g.a g.b g.imm)) : EncodesSl g i := by
  unfold slChk at h
  split at h
  · next hb => cases h; exact ⟨wf hb, he hb⟩
  · cases h

theorem opSl_num {o : BitVec 6} (h : o.toNat = m) : o = .ofNat 6 m := by rw [← h, ofNat_toNat, setWidth_eq]

theorem sl3_encodes {g : SlFields} {k : SlReg → SlReg → SlReg → Instr}
    (hk : ∀ d a b, (k d a b).wf = (slWrite d && slRead a && slRead b))
    (he : ∀ d a b, encodeSl (k d a b) = some (packSl (.ofNat 6 m) d a b 0)) (ho : g.op.toNat = m) (h : sl3 k g = .ok i) :
    EncodesSl g i := by
  refine encodesSl_chk h (fun hb => ?_) fun hb => ?_
  · simp_all
  · rw [he, ← opSl_num ho]; simp_all

theorem slField_fields {b : BitVec 5} {imm : BitVec 11} (h : b.extractLsb' 1 4 = 0) :
    let wm1 : BitVec 6 := b.extractLsb' 0 1 ++ imm.extractLsb' 6 5
    (wm1.extractLsb' 5 1).setWidth 5 = b ∧ wm1.extractLsb' 0 5 ++ imm.extractLsb' 0 6 = imm := by
  refine ⟨?_, ?_⟩
  · rw [show (b.extractLsb' 0 1 ++ imm.extractLsb' 6 5).extractLsb' 5 1 = b.extractLsb' 0 1 from extractLsb'_append_eq_left]
    exact @setWidth_low 1 4 b h
  · rw [show (b.extractLsb' 0 1 ++ imm.extractLsb' 6 5).extractLsb' 0 5 = imm.extractLsb' 6 5 from extractLsb'_append_eq_right]
    exact extractLsb'_append_extractLsb'

theorem slField_encodes {g : SlFields} {k : SlReg → SlReg → BitVec 6 → BitVec 6 → Instr}
    (hk : ∀ d a pos wm1, (k d a pos wm1).wf = (slWrite d && slRead a && fieldFits pos wm1))
    (he : ∀ d a pos wm1, encodeSl (k d a pos wm1) =
      some (packSl (.ofNat 6 m) d a ((wm1.extractLsb' 5 1).setWidth 5) (wm1.extractLsb' 0 5 ++ pos)))
    (ho : g.op.toNat = m) (h : slField k g = .ok i) : EncodesSl g i := by
  refine encodesSl_chk h (fun hb => ?_) fun hb => ?_
  · simp_all
  · simp only [Bool.and_eq_true, beq_iff_eq] at hb
    obtain ⟨⟨_, high⟩, _⟩ := hb
    obtain ⟨hbits, himm⟩ := @slField_fields g.b g.imm high
    rw [he, ← opSl_num ho, hbits, himm]

/-- The slice fields that decode to an instruction are those of its encoding, one case for each opcode (R58, R80). -/
theorem decodeSlFields_encodes {g : SlFields} (h : decodeSlFields g = .ok i) : EncodesSl g i := by
  unfold decodeSlFields at h
  split at h
  case h_1 ho | h_2 ho | h_3 ho | h_4 ho | h_5 ho | h_6 ho | h_7 ho | h_8 ho | h_9 ho | h_10 ho | h_11 ho | h_13 ho | h_16 ho =>
    exact sl3_encodes (fun _ _ _ => rfl) (fun _ _ _ => rfl) ho h
  case h_17 ho | h_18 ho => exact slField_encodes (fun _ _ _ _ => rfl) (fun _ _ _ _ => rfl) ho h
  case h_12 ho =>
    refine encodesSl_chk h (fun hb => by simp_all [Instr.wf]) fun hb => ?_
    simp only [Bool.and_eq_true, beq_iff_eq, decide_eq_true_eq] at hb
    obtain ⟨⟨⟨⟨hd, _⟩, _⟩, high⟩, _⟩ := hb
    rw [opSl_num ho, hd]
    exact congrArg (fun x => some (packSl 12 0 g.a g.b x)) (@setWidth_low 4 7 g.imm high)
  case h_14 ho =>
    refine encodesSl_chk h (fun hb => ?_) fun hb => ?_
    · simp only [Bool.and_eq_true] at hb
      exact Bool.and_eq_true_iff.2 hb.1.1
    · simp only [Bool.and_eq_true, beq_iff_eq] at hb
      obtain ⟨⟨_, hb⟩, hi⟩ := hb
      rw [hb, hi, opSl_num ho]
      rfl
  case h_15 ho =>
    refine encodesSl_chk h (fun hb => ?_) fun hb => ?_
    · simp only [Bool.and_eq_true] at hb
      exact hb.1.1
    · simp only [Bool.and_eq_true, beq_iff_eq] at hb
      obtain ⟨⟨_, ha⟩, hb⟩ := hb
      rw [ha, hb, opSl_num ho]
      rfl
  case h_19 ho | h_20 ho | h_21 ho =>
    refine encodesSl_chk h (fun _ => rfl) fun hb => ?_
    simp only [Bool.and_eq_true, beq_iff_eq] at hb
    obtain ⟨⟨⟨hd, ha⟩, hb⟩, hi⟩ := hb
    rw [hd, ha, hb, hi, opSl_num ho]
    rfl
  case h_22 => cases h

/-! ## Records -/

/-- The OPC of a record names its operation in the table of its engine alone (R42, R77, R78). -/
theorem recordCtor_parts {e : Eng} {o : BitVec 8} {k : EngRec → Instr} (h : recordCtor e o.toNat = some k) (r : EngRec) :
    (k r).wf = true ∧ recordParts (k r) = some (e, o, r) := by
  unfold recordCtor at h
  cases e <;> dsimp only at h <;> split at h <;> cases h <;> rename_i ho <;> rw [op_num ho] <;> exact ⟨rfl, rfl⟩

/-- Settles O2: each shape of word is the encoding of what it decodes to, and packing a word's fields gives the word back. -/
theorem everyDecodedWordIsTheEncoding : Obligations.EveryDecodedWordIsTheEncoding := by
  refine ⟨fun w i h => ?_, fun w i h => ?_, fun e w i h => ?_⟩
  · obtain ⟨wf, he⟩ := decodeFields_encodes h
    exact ⟨wf, by rw [encodeCtl, he, Option.map_some, pack_unpack]⟩
  · obtain ⟨wf, he⟩ := decodeSlFields_encodes h
    exact ⟨wf, by rw [he, packSl_unpackSl]⟩
  · unfold decodeRec at h
    split at h
    · next k hk =>
      cases h
      obtain ⟨wf, parts⟩ := recordCtor_parts hk (unpackRec w)
      exact ⟨wf, by rw [encodeRec, parts]; exact congrArg some (packRec_unpackRec w)⟩
    · cases h

end Sys2Proof

/-! A step: what it runs (R74, R115, R294, R387), what it does with a word that does not decode or cannot be fetched (R74, R75, R282),
where it stops (R25, R403), and the state after reset (R336, R402, R478). -/

namespace Sys2Proof.Machine

/-! ## Registers, words and reset -/

/-- Settles O13: the register laws of the two register files. -/
theorem registersReadWhatWasWritten : Obligations.RegistersReadWhatWasWritten :=
  ⟨Ctx.rd_wr, fun c v => by rw [Ctx.rd_wr]; simp [Ctx.rd], Ctx.rdk_wrk, fun c v => by rw [Ctx.rdk_wrk]; simp [Ctx.rdk]⟩

/-- Settles O3: each word is decoded. -/
theorem knownWordsDecode : Obligations.KnownWordsDecode := by
  refine ⟨?_, ?_, ?_, ?_, ?_, ?_, ?_, ?_, ?_⟩ <;> decide +kernel

theorem State.reset_core (c : CoreId) : State.reset.core c = Core.reset := by
  simp [State.core, State.reset, Vector.get]

/-- Settles O59: after reset no byte is listed in any memory. -/
theorem resetHasCanonicalMemories : Obligations.ResetHasCanonicalMemories := by
  refine ⟨rfl, ?_⟩
  simp only [State.storesOk, State.reset, Vector.toList_replicate, List.all_eq_true]
  intro k hk
  rw [List.eq_of_mem_replicate hk]; rfl

/-- Settles O60: every core is `Core.reset`, and the other parts of the module are those that reset names. -/
theorem resetLeavesTheModuleEmpty : Obligations.ResetLeavesTheModuleEmpty := by
  refine ⟨?_, ?_, fun p => ⟨rfl, rfl⟩, fun a => rfl, ?_, rfl, rfl, rfl, rfl, rfl, ?_, rfl, rfl, rfl, rfl⟩
  · intro i
    rw [State.ctx, State.reset_core]; cases i.slot <;> rfl
  · intro c
    rw [State.reset_core]; exact ⟨rfl, rfl⟩
  · intro c e
    rw [State.engine, State.reset_core]; cases e <;> rfl
  · intro v
    revert v; decide +kernel

/-! ## What a step runs -/

/-- An act of the agenda comes next where no record stands within a unit of its tensor. -/
theorem step_of_act {s : State} {a : Act} {rest : List Act} (hm : s.midUnit = false) (ha : s.agenda = a :: rest) :
    step s = match prepare { s with agenda := rest } a with
      | .run t i => exec i t
      | .idle t => .next t
      | .fault f => .fault f := by
  unfold step State.nextAct
  rw [hm, ha]; rfl

/-- A context that has nothing issued and may issue fetches the word at its PC. -/
theorem planCtx_fetches {s : State} {i : CtxId} (hl : (s.ctx i).live = true) (hf : (s.ctx i).failing = none)
    (hw : s.awake i.core = true) (ht : ((s.ctx i).trap.isSome && s.trapReady i) = false) (hc : s.canIssue i = true) :
    planCtx s i = match (s.ctx i).issued with
      | some x => .run (s.asCtx i) x
      | none => match s.fetch i with
        | .trap t => .idle (s.raise i t)
        | .stall s => .idle s
        | .word s w => match decodeCtl w with
          | .ok x => .run (s.issue i x) x
          | .error e => .idle (s.raise i { cause := DecErrCause e, einfo := w }) := by
  unfold planCtx
  simp only [hl, hf, hw, ht, hc, Option.isSome_none, Bool.not_true, Bool.or_false, Bool.false_eq_true, if_false] <;> rfl

/-- The turn of an engine whose head walks, and that nothing keeps from its step. -/
theorem planEng_walks {s : State} {e : EngId} {q : QEntry} {qs : List QEntry} {x : Instr} (hq : (s.engine e).queue = q :: qs)
    (hw : (s.engine e).head.st = .walking) (he : e.eng ≠ .xf) (hh : s.held = false) (hs : s.halted = false)
    (hr : (s.cluster (clusterOf e.core)).retention = false)
    (go : (s.xfStops e.core = false ∧ s.cutting ⟨e.core, q.slot⟩ = false) ∨ s.stepHeld e q.slot = true)
    (hd : decodeRec e.eng q.record = .ok x) : planEng s e = .run (s.asEng e) x := by
  unfold planEng
  rcases go with ⟨hx, hc⟩ | hg
  · simp [hq, hw, he, hh, hs, hr, hx, hc, hd]
  · simp [hq, hw, he, hh, hs, hr, hg, hd]

/-- A record stands within a unit only if its engine's turn runs its next step. -/
theorem planEng_midUnit {s : State} {q : QEntry} {qs : List QEntry} {x : Instr} (hm : s.midUnit = true)
    (hq : (s.engine s.myEng).queue = q :: qs) (hd : decodeRec s.cur.eng q.record = .ok x) :
    planEng s s.myEng = .run (s.asEng s.myEng) x := by
  have hd' : decodeRec s.myEng.eng q.record = .ok x := hd
  simp only [State.midUnit, Bool.and_eq_true, decide_eq_true_eq] at hm
  obtain ⟨⟨_, hw⟩, hrun⟩ := hm
  unfold planEng at hrun ⊢
  simp only [hq, hw, hd'] at hrun ⊢
  split_ifs at hrun ⊢
  rfl

/-- Settles O4: the plan of each act that can run is its instruction. -/
theorem aStepRunsTheDecodedInstruction : Obligations.AStepRunsTheDecodedInstruction := by
  refine ⟨fun s i rest s' w x hm ha hl hf hw ht hc hi hft hd => ?_, fun s i rest x hm ha hl hf hw ht hc hi => ?_,
    fun s e rest q qs x hm ha hq hw he hh hs hr go hd => ?_, fun s q qs x hm hq hd => ?_,
    fun s m n rest w ws x hm ha hw hd => ?_, fun s x a rest hm ha hx => ?_⟩
  · rw [step_of_act hm ha, prepare, planCtx_fetches hl hf hw ht hc]
    simp only [hi, hft, hd]
  · rw [step_of_act hm ha, prepare, planCtx_fetches hl hf hw ht hc]
    simp only [hi]
  · rw [step_of_act hm ha, prepare, planEng_walks hq hw he hh hs hr go hd]
  · unfold step State.nextAct
    rw [if_pos hm]
    dsimp only
    rw [prepare, planEng_midUnit hm hq hd]
  · rw [step_of_act hm ha, prepare, planSlice]
    have hw' : ((({ s with agenda := rest } : State).slice m).exec n).words = w :: ws := hw
    simp only [hw', hd]
  · rw [step_of_act hm ha, prepare, planEvent, if_pos hx]

/-- A translation of the PC that fails is FETCH_FAULT. -/
theorem State.fetchPage_error {s : State} {i : CtxId} {t : Trap} (h : s.fetchPage i = .error t) : t.cause = 0x04 := by
  unfold State.fetchPage at h
  dsimp only at h
  split at h
  · cases h; rfl
  split at h
  · cases h; rfl
  split_ifs at h <;> cases h <;> rfl

/-- A fetch that fails traps FETCH_FAULT (R422). -/
theorem State.fetch_trap {s : State} {i : CtxId} {t : Trap} (h : s.fetch i = .trap t) : t.cause = 0x04 := by
  unfold State.fetch at h
  dsimp only at h
  split at h
  · cases h
  split at h
  · next e he =>
    cases h
    exact State.fetchPage_error he
  split_ifs at h
  · cases h; rfl
  · split at h <;> cases h

/-- Settles O5: the plan of a context's turn raises the trap of its fetch or of its decoding. -/
theorem aWordThatDoesNotDecodeTraps : Obligations.AWordThatDoesNotDecodeTraps := by
  intro s i rest hm ha s0 hl hf hw ht hc hi
  have run := step_of_act hm ha
  rw [prepare, planCtx_fetches hl hf hw ht hc, hi] at run
  refine ⟨fun s' w hft hd => ?_, fun s' w hft hd => ?_, fun t hft => ⟨?_, State.fetch_trap hft⟩, fun t hft => ?_⟩
  · rw [run]; simp only [hft, hd]; rfl
  · rw [run]; simp only [hft, hd]; rfl
  · rw [run]; simp only [hft]
  · rw [run]; simp only [hft]

/-! ## Where a step stops -/

/-- Settles O6: each meaning is a next state, or a choice between two. -/
theorem everyInstructionAnswersANextState : Obligations.EveryInstructionAnswersANextState := by
  intro i s
  cases i
  case vcmp r =>
    rw [exec_vcmp, execVcmp]
    split
    · split
      · exact ⟨_, rfl⟩
      · exact ⟨_, rfl⟩
    · exact ⟨_, rfl⟩
  case intervalBoundary =>
    rw [exec_intervalBoundary, execIntervalBoundary]
    split
    · exact ⟨_, rfl⟩
    · exact ⟨_, rfl⟩
  -- Every other meaning begins with its `.next`.
  all_goals exact ⟨_, rfl⟩

/-- Acts that reach past DRAM: the only ones that stop (R25, R403, log 3). -/
def Act.stops (a : Act) : Prop :=
  (∃ pa bs, a = .rootStore pa bs ∧ 2 ^ 38 < pa + bs.length) ∨ (∃ pa w, a = .rootOwner pa w ∧ 2 ^ 26 ≤ pa)
    ∨ ∃ pa n tags, a = .rootRange pa n tags ∧ (2 ^ 26 < pa + n ∨ 2 ^ 26 < tags + (n + 31) / 32)

theorem Act.not_inReach_of_stops {a : Act} (h : a.stops) : a.inReach = false := by
  obtain ⟨pa, bs, rfl, h⟩ | ⟨pa, w, rfl, h⟩ | ⟨pa, n, tags, rfl, h⟩ := h
  · simpa [Act.inReach, inDram] using h
  · simpa [Act.inReach] using h
  · simp only [Act.inReach, Bool.and_eq_false_iff, decide_eq_false_iff_not, not_le]; exact h

theorem planTrap_ne_fault (s : State) (i : CtxId) (f : Fault) : planTrap s i ≠ .fault f := by
  unfold planTrap
  split
  · simp
  · split <;> simp

theorem planCtx_ne_fault (s : State) (i : CtxId) (f : Fault) : planCtx s i ≠ .fault f := by
  unfold planCtx
  dsimp only
  split_ifs
  · simp
  · exact planTrap_ne_fault s i f
  · simp
  · split
    · simp
    · split
      · simp
      · simp
      · split <;> simp

theorem planEng_ne_fault (s : State) (e : EngId) (f : Fault) : planEng s e ≠ .fault f := by
  unfold planEng
  dsimp only
  split
  · simp
  · split
    · simp
    · split
      · simp
      · split
        · simp
        · split <;> simp
      · split <;> simp
      · split <;> simp

theorem planXf_ne_fault (s : State) (c : CoreId) (n : Nat) (f : Fault) : planXf s c n ≠ .fault f := by
  unfold planXf
  dsimp only
  split
  · simp
  · split <;> simp

theorem planSlice_ne_fault (s : State) (m : SliceId) (x : Fin 4) (f : Fault) : planSlice s m x ≠ .fault f := by
  unfold planSlice
  split
  · simp
  · split <;> simp

theorem planEvent_ne_fault (s : State) (i : Instr) (a : EvIn) (f : Fault) : planEvent s i a ≠ .fault f := by
  unfold planEvent
  split <;> simp

/-- An act faults only where the root controller is made to act past DRAM. -/
theorem prepare_fault {s : State} {a : Act} {f : Fault} (h : prepare s a = .fault f) : a.stops := by
  cases a
  case ctx i => exact absurd h (planCtx_ne_fault s i f)
  case eng e => exact absurd h (planEng_ne_fault s e f)
  case xf c n => exact absurd h (planXf_ne_fault s c n f)
  case slice m x => exact absurd h (planSlice_ne_fault s m x f)
  case event i e => exact absurd h (planEvent_ne_fault s i e f)
  case rootStore pa bs =>
    simp only [prepare] at h
    split at h
    · cases h
    · next hb => exact .inl ⟨pa, bs, rfl, by simpa [inDram] using hb⟩
  case rootOwner page w =>
    simp only [prepare] at h
    split at h
    · cases h
    · next hb => exact .inr (.inl ⟨page, w, rfl, not_lt.1 hb⟩)
  case rootRange page pages tags =>
    simp only [prepare] at h
    split at h
    · cases h
    · next hb => exact .inr (.inr ⟨page, pages, tags, rfl, by omega⟩)
  all_goals cases h

/-- A step answers a next state, or its act is one that stops, and stops it. -/
theorem step_next_or_stops (s : State) : (∃ t, step s = .next t) ∨ (∃ f, step s = .fault f) ∧ s.nextAct.1.stops := by
  unfold step
  split
  · next t i _ => exact .inl (everyInstructionAnswersANextState i t)
  · exact .inl ⟨_, rfl⟩
  · next f h => exact .inr ⟨⟨f, rfl⟩, prepare_fault h⟩

/-- An act that stops is the first of the agenda. -/
theorem State.nextAct_stops {s : State} (h : s.nextAct.1.stops) : s.midUnit = false ∧ ∃ rest, s.agenda = s.nextAct.1 :: rest := by
  unfold State.nextAct at h ⊢
  split at h
  · obtain ⟨_, _, h, _⟩ | ⟨_, _, h, _⟩ | ⟨_, _, _, h, _⟩ := h <;> cases h
  · next hm =>
    rw [if_neg hm]
    refine ⟨Bool.eq_false_iff.2 hm, ?_⟩
    split at h
    · obtain ⟨_, _, h, _⟩ | ⟨_, _, h, _⟩ | ⟨_, _, _, h, _⟩ := h <;> cases h
    · next a r ha => exact ⟨r, by simp only [ha]⟩

/-- Settles O7: an act that stops is out of reach, and is the first of the agenda. -/
theorem aStepStopsOnlyPastDram : Obligations.AStepStopsOnlyPastDram := by
  refine ⟨fun s hs => ?_, fun s r h => ?_, fun s f h => ?_⟩
  · obtain ht | ⟨_, hst⟩ := step_next_or_stops s
    · exact ht
    · obtain ⟨_, rest, ha⟩ := State.nextAct_stops hst
      have inReach : s.nextAct.1.inReach = true := by
        rw [State.agendaOk, ha, List.all_cons, Bool.and_eq_true] at hs; exact hs.1
      rw [Act.not_inReach_of_stops hst] at inReach; cases inReach
  · obtain ⟨t, ht⟩ | ⟨⟨f, hf⟩, _⟩ := step_next_or_stops s
    · rw [ht] at h; cases h
    · rw [hf] at h; cases h
  · obtain ⟨t, ht⟩ | ⟨_, hst⟩ := step_next_or_stops s
    · rw [ht] at h; cases h
    · obtain ⟨hm, rest, ha⟩ := State.nextAct_stops hst
      refine ⟨hm, ?_⟩
      obtain ⟨pa, bs, ea, hb⟩ | ⟨pa, w, ea, hb⟩ | ⟨pa, n, tags, ea, hb⟩ := hst
      · exact ⟨pa, bs, 0, 0, 0, rest, .inl ⟨ha.trans (by rw [ea]), hb⟩⟩
      · exact ⟨pa, [], w, 0, 0, rest, .inr (.inl ⟨ha.trans (by rw [ea]), hb⟩)⟩
      · exact ⟨pa, [], 0, n, tags, rest, .inr (.inr ⟨ha.trans (by rw [ea]), hb⟩)⟩

end Sys2Proof.Machine

/-! One control word: predicate and floating-point results (R102, R122, R137-R145), the parts of a context that its completion moves
(R117, R345), landings after a NOP (R120, R121, R346), the checks before an effect (R31, R74, R126), and MOVHI and BCQ (R136, R341). -/

namespace Sys2Proof.Machine

/-! ## The parts of a context that a completion moves -/

/-- A landing or a result moves registers, flags and landings alone. -/
theorem Ctx.landOne_changes (c : Ctx) (l : Landing) : ∃ g k f, c.landOne l = { c with g := g, k := k, fsr := f } := by
  unfold Ctx.landOne Ctx.land Ctx.wr Ctx.wrk
  dsimp only
  split_ifs <;> exact ⟨_, _, _, rfl⟩

theorem Ctx.land_changes (c : Ctx) (n : Nat) (v : Word) : ∃ g k, c.land n v = { c with g := g, k := k } := by
  unfold Ctx.land Ctx.wr Ctx.wrk
  split_ifs <;> exact ⟨_, _, rfl⟩

theorem foldl_landOne_changes (ls : List Landing) (c : Ctx) : ∃ g k f, ls.foldl Ctx.landOne c = { c with g := g, k := k, fsr := f } := by
  induction ls generalizing c with
  | nil => exact ⟨_, _, _, rfl⟩
  | cons l ls ih =>
    obtain ⟨g, k, f, h⟩ := c.landOne_changes l
    obtain ⟨g', k', f', h'⟩ := ih (c.landOne l)
    exact ⟨g', k', f', by rw [List.foldl_cons, h', h]⟩

theorem Ctx.elapse_changes : ∀ (n : Nat) (c : Ctx), ∃ g k f x, Ctx.elapse n c = { c with g := g, k := k, fsr := f, landings := x }
  | 0, _ => ⟨_, _, _, _, rfl⟩
  | n + 1, c => by
    unfold Ctx.elapse
    split
    · exact ⟨_, _, _, _, rfl⟩
    · obtain ⟨g, k, f, x, h⟩ := Ctx.elapse_changes n c.tickOnce
      obtain ⟨g', k', f', h'⟩ := foldl_landOne_changes _ _
      rw [h, Ctx.tickOnce, Ctx.settle]
      dsimp only
      rw [h']
      exact ⟨_, _, _, _, rfl⟩

theorem Ctx.result_changes (c : Ctx) (l : Landing) : ∃ g k f x, c.result l = { c with g := g, k := k, fsr := f, landings := x } := by
  unfold Ctx.result
  split
  · split
    · dsimp only; unfold Ctx.wr; split <;> exact ⟨_, _, _, _, rfl⟩
    · obtain ⟨g, k, f, h⟩ := c.landOne_changes l; exact ⟨g, k, f, _, h⟩
  · exact ⟨_, _, _, _, rfl⟩

theorem foldl_result_changes (w : List Landing) (c : Ctx) :
    ∃ g k f x, w.foldl Ctx.result c = { c with g := g, k := k, fsr := f, landings := x } := by
  induction w generalizing c with
  | nil => exact ⟨_, _, _, _, rfl⟩
  | cons l w ih =>
    obtain ⟨g, k, f, x, h⟩ := c.result_changes l
    obtain ⟨g', k', f', x', h'⟩ := ih (c.result l)
    exact ⟨g', k', f', x', by rw [List.foldl_cons, h', h]⟩

/-- What a completing word keeps of its context, and what it writes besides registers and landings. -/
theorem Ctx.complete_keep (c : Ctx) (w : List Landing) (pc : Option Word) (n : Nat) :
    (c.complete w pc n).last = c.pc ∧ (c.complete w pc n).blocked = c.blocked ∧ (c.complete w pc n).pause = n - 1
      ∧ (c.complete w pc n).stps = c.stps := by
  have before : (c.before w n).last = c.pc ∧ (c.before w n).blocked = c.blocked ∧ (c.before w n).pause = n - 1
      ∧ (c.before w n).stps = c.stps := by
    obtain ⟨g, k, f, x, h⟩ := Ctx.elapse_changes (min n 10) c
    unfold Ctx.before
    obtain ⟨g', k', f', x', h'⟩ := foldl_result_changes w { (Ctx.elapse (min n 10) c) with
      tickFlags := (c.landings.filter fun l => l.rem = n).foldl (fun f l => f ||| l.flags) 0, tick := c.tick + BitVec.ofNat 64 n
      last := c.pc, pause := n - 1, stage := .fresh, issued := none, released := false }
    rw [h', h]
    exact ⟨rfl, rfl, rfl, rfl⟩
  cases pc with
  | some t => rw [Ctx.complete_taken]; exact before
  | none =>
    rw [Ctx.complete_through]
    obtain ⟨l0, l1, h⟩ := (c.before w n).loopNext_loops c.pc
    rw [h]
    exact before

theorem State.finish_last (s : State) (w : List Landing) (pc : Option Word) (n : Nat) :
    ((s.finish w pc n).ctx s.me).last = (s.ctx s.me).pc := by
  obtain ⟨b, v, x, hc⟩ := State.finish_ctx s w pc n
  rw [hc]; exact (Ctx.complete_keep _ w pc n).1
theorem State.finish_blocked (s : State) (w : List Landing) (pc : Option Word) (n : Nat) : ((s.finish w pc n).ctx s.me).blocked = none := by
  obtain ⟨b, v, x, hc⟩ := State.finish_ctx s w pc n
  rw [hc]; exact (Ctx.complete_keep _ w pc n).2.1
theorem State.finish_pause (s : State) (w : List Landing) (pc : Option Word) (n : Nat) :
    ((s.finish w pc n).ctx s.me).pause = n - 1 := by
  obtain ⟨b, v, x, hc⟩ := State.finish_ctx s w pc n
  rw [hc]; exact (Ctx.complete_keep _ w pc n).2.2.1

/-- Settles O14: the parts of a completing word, one law each. -/
theorem aWordCompletesInOneTick : Obligations.AWordCompletesInOneTick := by
  intro s d v lat pc
  refine ⟨State.finish_tick s _ pc 1, State.finish_last s _ pc 1, State.finish_blocked s _ pc 1, fun a ha => ?_, fun hp h0 h1 => ?_,
    fun hl => ?_, fun hl => State.finish_landing s _ hl pc 1⟩
  · subst ha; exact State.finish_pc_taken s _ a 1
  · subst hp
    exact State.finish_nextWord s _ 1 (fun h => by rw [h0] at h; cases h) fun h => by rw [h1] at h; cases h
  · subst hl; exact State.finish_result s d v 0 pc 1

/-! ## Predicate results (R137, R139) -/

theorem Word.ofBool_getLsbD (b : Bool) : (Word.ofBool b).getLsbD 0 = b := by cases b <;> rfl

/-- A control word that issues and answers one predicate result completes with that result. -/
theorem ctl_oneK {i : Instr} {p : Pred} {l : Limit} {ops : List Nat} {body : State → Ctx → Ans} {s : State} {d : KReg} {v : Bool}
    (hp : ctlParts i = some (p, l, ops)) (hi : s.issues i = true) (hb : body s (s.ctx s.me) = oneK s d v 0 0) :
    ctl i p l ops body s = .next (s.finish [⟨kNum d, Word.ofBool v, 0, 0⟩] none 1) := by
  rw [ctl_issued hp hi, hb]; rfl

/-- Every instruction of the table `kResult` that issues completes with its predicate result. -/
theorem exec_kResult {s : State} {i : Instr} {d : KReg} {v : Bool} (h : kResult (s.ctx s.me) i = some (d, v)) (hi : s.issues i = true) :
    exec i s = .next (s.finish [⟨kNum d, Word.ofBool v, 0, 0⟩] none 1) := by
  cases i
  case cmp | cmpi | kand | kor | kxor | knot =>
    unfold exec
    simp only [execCmp, execCmpi, execKand, execKor, execKxor, execKnot]
    cases h
    exact ctl_oneK rfl hi rfl
  case kset p d a =>
    rw [exec_kset, execKset]
    cases h
    have nonzero : ((s.ctx s.me).rd a != 0) = decide ((s.ctx s.me).rd a ≠ 0) := by simp [bne, beq_eq_decide]
    exact ctl_oneK rfl hi (congrArg (fun b => oneK s d b 0 0) nonzero)
  -- No other instruction is in the table.
  all_goals cases h

/-- Settles O9: a word of the table completes with its result, which its register then holds. -/
theorem onePredicateResults : Obligations.OnePredicateResults := by
  intro s i d v h hi
  refine ⟨_, exec_kResult h hi, ?_, State.finish_tick s _ none 1, State.finish_nextWord s _ 1,
    State.finish_regFrame s _ none 1 _ (fun l hl => ?_) fun l hl => ?_⟩
  · rw [State.finish_result_k, Word.ofBool_getLsbD]
  · rw [List.mem_singleton.1 hl]
    exact .inl ⟨by have := d.isLt; simp only [kNum]; omega, List.mem_singleton.2 rfl⟩
  · rw [List.mem_singleton.1 hl]; exact .inr rfl

/-! ## Floating-point results (R102, R122) -/

/-- Every floating-point instruction that issues answers its result, to land or to trap. -/
theorem exec_fResult {s : State} {i : Instr} {reg : Nat} {v : Word} {fl : Flg} {lat : Nat}
    (h : fResult (s.ctx s.me) i = some (reg, v, fl, lat)) (hi : s.issues i = true) :
    exec i s = .next ((fpResult s (s.ctx s.me) reg v fl lat).state s.me) ∧ lat ≠ 0 ∧ reg < 72 := by
  have g72 (r : Reg) : gNum r < 72 := (gNum_lt r).trans (by decide)
  cases i
  case fadd | fsub | fmul | ffma | fmin | fmax | fexp2 | flog2 | frcp | frsq | fsqrt =>
    unfold exec
    simp only [execFadd, execFsub, execFmul, execFfma, execFmin, execFmax, execFexp2, execFlog2, execFrcp, execFrsq, execFsqrt, special]
    cases h
    exact ⟨ctl_issued rfl hi, by decide, g72 _⟩
  case fcmp p cc d a b =>
    rw [exec_fcmp, execFcmp]
    cases h
    exact ⟨ctl_issued rfl hi, by decide, by have := d.isLt; simp only [kNum]; omega⟩
  case fcvt p d a ty dir =>
    rw [exec_fcvt, execFcvt]
    obtain ⟨t, ht, hr⟩ := Option.map_eq_some_iff.1 h
    cases hr
    refine ⟨?_, by decide, g72 _⟩
    rw [ctl_issued rfl hi]
    simp only [ht]
  -- No other instruction is in the table.
  all_goals cases h

/-- Settles O10: `exec_fResult` gives the result, which lands where none of its flags is enabled and traps otherwise. -/
theorem floatResults : Obligations.FloatResults := by
  intro s i reg v fl lat h hi
  obtain ⟨run, hlat, hreg⟩ := exec_fResult h hi
  unfold fpResult at run
  refine ⟨fun quiet => ?_, fun raised => ?_⟩
  · rw [if_neg (not_not.2 quiet)] at run
    refine ⟨_, run, State.finish_landing s _ hlat none 1, State.finish_tick s _ none 1, State.finish_nextWord s _ 1,
      State.finish_regFrame s _ none 1 _ (fun l hl => ?_) fun l hl => ?_⟩
    · rw [List.mem_singleton.1 hl]; exact .inl ⟨hreg, List.mem_singleton.2 rfl⟩
    · rw [List.mem_singleton.1 hl]; exact .inl hlat
  · rw [if_pos raised] at run; exact run

/-! ## One landing to come (R117, R120, R121) -/

/-- The one landing to come of a context, as ticks pass: it takes effect when they are over, and is nearer until then. -/
theorem Ctx.elapse_one {r : Nat} {v : Word} {fl : Flg} : ∀ (m : Nat) {k : Nat} {c : Ctx}, c.landings = [⟨r, v, fl, k⟩] → 1 ≤ k →
    Ctx.elapse m c = if k ≤ m then ({ c with landings := [] } : Ctx).landOne ⟨r, v, fl, 0⟩ else { c with landings := [⟨r, v, fl, k - m⟩] }
  | 0, k, c, h, hk => by rw [if_neg (by omega), Nat.sub_zero, ← h]; rfl
  | m + 1, k, c, h, hk => by
    unfold Ctx.elapse
    rw [h, List.isEmpty_cons, if_neg Bool.false_ne_true]
    by_cases now : k = 1
    · subst now
      have once : c.tickOnce = ({ c with landings := [] } : Ctx).landOne ⟨r, v, fl, 0⟩ := by
        simp only [Ctx.tickOnce, Ctx.settle, h]; rfl
      rw [once, if_pos (by omega), Ctx.elapse_none]
      obtain ⟨g, k, f, e⟩ := ({ c with landings := [] } : Ctx).landOne_changes ⟨r, v, fl, 0⟩
      rw [e]
    · have once : c.tickOnce = { c with landings := [⟨r, v, fl, k - 1⟩] } := by
        have later : k - 1 ≠ 0 := by omega
        simp [Ctx.tickOnce, Ctx.settle, h, later]
      rw [once, Ctx.elapse_one m rfl (by omega)]
      by_cases hm : k ≤ m + 1
      · rw [if_pos hm, if_pos (by omega)]
      · rw [if_neg hm, if_neg (by omega), show k - 1 - m = k - (m + 1) by omega]

theorem exec_nop_issued {s : State} {p : Pred} {n : BitVec 16} (hi : s.issues (.nop p n) = true) :
    exec (.nop p n) s = .next (s.finish [] none (n.toNat + 1)) := by
  rw [exec_nop, execNop, ctl_issued rfl hi]; rfl

/-- A NOP leaves the landings, the registers and the flags that its ticks leave. -/
theorem State.finish_nop (s : State) (n : Nat) : ∃ a : Ctx, a.agrees (s.ctx s.me)
    ∧ (∀ d, ((s.finish [] none n).ctx s.me).rd d = (Ctx.elapse (min n 10) a).rd d)
    ∧ ((s.finish [] none n).ctx s.me).fsr = (Ctx.elapse (min n 10) a).fsr
    ∧ ((s.finish [] none n).ctx s.me).landings = (Ctx.elapse (min n 10) a).landings := by
  obtain ⟨a, hc, ha⟩ := State.finish_agrees s [] none n
  refine ⟨a, ha, fun d => ?_, ?_, ?_⟩
  · rw [hc, Ctx.complete_rd]; rfl
  · rw [hc, Ctx.complete_fsr]; rfl
  · rw [hc, Ctx.complete_landings]; rfl

/-- Settles O11: the ticks of the NOP pass for the one landing (`Ctx.elapse_one`). -/
theorem aLandingComesAtItsTick : Obligations.ALandingComesAtItsTick := by
  intro s p n d v fl k hi hl h1 h10
  obtain ⟨a, ⟨al, ar, _, af, _⟩, hr, hf, hx⟩ := State.finish_nop s (n.toNat + 1)
  have el := Ctx.elapse_one (min (n.toNat + 1) 10) (al.trans hl) h1
  refine ⟨_, exec_nop_issued hi, State.finish_tick s _ none _, State.finish_nextWord s _ _, fun hk => ?_, fun hk => ?_⟩
  · rw [if_pos (by omega)] at el
    refine ⟨?_, ?_, ?_⟩
    · rw [hr, el]; exact Ctx.rd_land_self _ d v
    · rw [hf, el, ← af, Ctx.landOne]
      obtain ⟨g, k, e⟩ := Ctx.land_changes { a with landings := [] } (gNum d) v
      rw [e]
    · rw [hx, el]
      obtain ⟨g, k, f, e⟩ := Ctx.landOne_changes { a with landings := [] } ⟨gNum d, v, fl, 0⟩
      rw [e]
  · rw [if_neg (by omega)] at el
    refine ⟨?_, ?_, ?_⟩
    · rw [hr, el]; exact ar d
    · rw [hf, el]; exact af
    · rw [hx, el, show k - min (n.toNat + 1) 10 = k - (n.toNat + 1) by omega]

/-! ## The checks before an effect (R31, R74, R126) -/

theorem Ctx.early_append (c : Ctx) (a b : List Nat) : c.early (a ++ b) = (c.early a).or (c.early b) := by
  unfold Ctx.early
  split
  · rfl
  · rw [List.filter_append, List.findSome?_append]

/-- A register that can be read early and has a landing to come is. -/
theorem Ctx.early_cons {c : Ctx} {r n : Nat} (ops : List Nat) (hd : tb c.debug 0 = true) (hp : c.pendingOn r = some n) (h0 : r ≠ 0)
    (h64 : r ≠ 64) : c.early (r :: ops) = some { cause := 0x0B, einfo := BitVec.ofNat 64 (r + n * 256) } := by
  simp [Ctx.early, hd, h0, h64, hp]

/-- Settles O12: every control word is one `ctl`, whose checks are taken in their order. -/
theorem theChecksBeforeAnEffect : Obligations.TheChecksBeforeAnEffect := by
  intro s i p l ops hp
  obtain ⟨body, run⟩ := exec_ctl hp
  refine ⟨fun hl => ?_, fun hl he hk => ⟨_, (run s).trans (ctl_falls hl he hk), rfl, State.finish_tick s _ none 1,
    State.finish_nextWord s _ 1, State.finish_regFrame s _ none 1 _ (by simp [resultsIn]) (by simp)⟩, fun r n hl hd hn h0 h64 => ⟨fun hr => ?_,
    fun he hk ⟨pre, post, ho, hpre⟩ => ?_⟩⟩
  · rw [run]; simp only [ctl, hl]; rfl
  · have early : (s.ctx s.me).early [kNum p.kp] = some { cause := 0x0B, einfo := BitVec.ofNat 64 (r + n * 256) } := by
      rw [hr]; exact Ctx.early_cons [] hd hn h0 h64
    rw [run]
    simp only [ctl, hl, early, Bool.not_true, Bool.false_eq_true, if_false]
  · have early : (s.ctx s.me).early ops = some { cause := 0x0B, einfo := BitVec.ofNat 64 (r + n * 256) } := by
      rw [ho, Ctx.early_append, hpre, Option.none_or, Ctx.early_cons post hd hn h0 h64]
    rw [run]
    simp only [ctl, hl, he, hk, early, Bool.not_true, Bool.false_eq_true, if_false]

/-! ## BCQ, NOP and MOVHI (R136, R341, R346) -/

/-- Settles O16: the wait on the condition queue is over where it holds a bit. -/
theorem bcqPopsTheOldestBit : Obligations.BcqPopsTheOldestBit := by
  intro s p off hi
  refine ⟨fun b r hq => Completes.of_finish ?_ fun _ h => (nomatch h), fun hq => ?_⟩
  · rw [exec_bcq, execBcq, ctl_issued rfl hi, hq, ← branchTo_eq]; rfl
  · rw [exec_bcq, execBcq, ctl_issued rfl hi, hq]; rfl

/-- The result of a MOVHI keeps bits 41:0 of its register as they stand. -/
theorem Ctx.rd_result_movhi (c : Ctx) (d : Reg) (v : BitVec 22) :
    (c.result ⟨128 + gNum d, v.setWidth 64 <<< 42, 0, 0⟩).rd d
      = if d = 0 then 0 else BitVec.ofNat 64 (v.toNat * 2 ^ 42 + (c.rd d).toNat % 2 ^ 42) := by
  have reg : (BitVec.ofNat 6 (128 + gNum d) : Reg) = d := by
    have := gNum_lt d
    apply BitVec.eq_of_toNat_eq
    simp only [gNum, BitVec.toNat_ofNat] at *
    omega
  have high : fld (v.setWidth 64 <<< 42) 63 42 = v.toNat := by
    have := v.isLt
    simp only [fld, bits, BitVec.toNat_shiftLeft, BitVec.toNat_setWidth, Nat.shiftLeft_eq]
    omega
  have low : fld (c.rd d) 41 0 = (c.rd d).toNat % 2 ^ 42 := by simp [fld, bits]
  unfold Ctx.result
  dsimp only
  rw [if_pos rfl, if_pos (by omega), reg, high, low, Ctx.rd_wr]
  by_cases hd : d = 0
  · rw [if_neg (by simp [hd]), if_pos hd, hd]; rfl
  · rw [if_pos ⟨rfl, hd⟩, if_neg hd]

/-- Settles O18: a NOP takes its ticks alone, and MOVHI lands bits 63:42 on the register as it stands. -/
theorem nopAndMovhi : Obligations.NopAndMovhi := by
  refine ⟨fun s p n hi => ⟨_, exec_nop_issued hi, State.finish_tick s _ none _, ?_, State.finish_nextWord s _ _,
    State.finish_regFrame s _ none _ _ (by simp [resultsIn]) (by simp)⟩, fun s p d v hi hd => ?_⟩
  · exact State.finish_pause s [] none (n.toNat + 1)
  · have run : exec (.movhi p d v) s = .next (s.finish [⟨128 + gNum d, v.setWidth 64 <<< 42, 0, 0⟩] none 1) := by
      rw [exec_movhi, execMovhi, ctl_issued rfl hi]; rfl
    refine ⟨_, run, ?_, State.finish_tick s _ none 1, State.finish_nextWord s _ 1,
      State.finish_regFrame s _ none 1 _ (fun l hl => ?_) fun l hl => ?_⟩
    · obtain ⟨a, hc, ⟨al, ar, _⟩⟩ := State.finish_agrees s [⟨128 + gNum d, v.setWidth 64 <<< 42, 0, 0⟩] none 1
      have before : (Ctx.elapse (min 1 10) a).rd d = (s.ctx s.me).rd d :=
        (Ctx.elapse_rd _ a d fun l h => (hd l (al ▸ h)).2).trans (ar d)
      rw [hc, Ctx.complete_rd, Ctx.before, List.foldl_cons, List.foldl_nil, Ctx.rd_result_movhi, ← before]
      rfl
    · rw [List.mem_singleton.1 hl]; exact .inr ⟨d, rfl, List.mem_singleton.2 rfl⟩
    · rw [List.mem_singleton.1 hl]; exact .inr rfl

end Sys2Proof.Machine

/-! Words of one effect, words that wait, words that close a phase, and the wait-for table (R227, R228, R251-R266, R325-R328, R351-R366). -/

namespace Sys2Proof.Machine

/-! ## Words that take one effect (R251-R266) -/

/-- A control word that issues and whose meaning is done completes with what it gives. -/
theorem Completes.of_done {i : Instr} {p : Pred} {l : Limit} {ops : List Nat} {body : State → Ctx → Ans} {s u : State} {w : List Landing}
    {pc : Option Word} (run : exec i s = ctl i p l ops body s) (hp : ctlParts i = some (p, l, ops)) (hi : s.issues i = true)
    (hb : body s (s.ctx s.me) = .done u w pc 1) (hw : ∀ l ∈ w, l.reg < 72 ∧ l.flags = 0) : Completes i s u w pc :=
  Completes.of_finish (by rw [run, ctl_issued hp hi, hb]; rfl) hw

theorem no_results : ∀ l ∈ ([] : List Landing), l.reg < 72 ∧ l.flags = 0 := fun _ h => (nomatch h)

theorem res_plain (d : Reg) (v : Word) : ∀ l ∈ [res d v], l.reg < 72 ∧ l.flags = 0 := by
  intro l h
  rw [List.mem_singleton.1 h]
  exact ⟨(gNum_lt d).trans (by decide), rfl⟩

theorem State.await_ready {s : State} {b : Bool} {o : BitVec 32} {k : State → Ans} (h : b = true) : s.await b o k = k s.ended := by
  rw [State.await, if_pos h]; rfl
theorem State.await_waits {s : State} {b : Bool} {o : BitVec 32} {k : State → Ans} (h : b = false) :
    s.await b o k = .stall (s.blockCtx s.me o) := by
  rw [State.await, h]; rfl

theorem State.ended_cur (s : State) : s.ended.cur = s.cur := State.unblockCtx_cur s s.me
theorem State.ended_me (s : State) : s.ended.me = s.me := by rw [State.me, State.ended_cur]; rfl

theorem State.rsmark_goes {s : State} {k : State → Ans}
    (free : (s.wft.any fun e => e.holder && decide (e.agent = .ctx s.me) && decide (e.leaf = s.ctxLeaf s.me)) = false)
    (done : s.drained s.me = true) (sent : s.slxnOpen s.me = false) : s.rsmark k = k s := by
  have none : s.wft.find? (fun e => e.holder && decide (e.agent = .ctx s.me) && decide (e.leaf = s.ctxLeaf s.me)) = none :=
    List.find?_eq_none.2 fun e he => by rw [List.any_eq_false] at free; exact free e he
  simp only [State.rsmark, none, done, sent, Bool.not_true, Bool.or_false, Bool.false_eq_true, if_false]

theorem fld_high_eq_zero_iff (w : Word) : fld w 63 5 = 0 ↔ w.toNat < 32 := by
  have := w.isLt
  simp only [fld, bits]
  omega

/-- Settles O19: the effect of the table is the state in which the meaning of each word is done. -/
theorem wordsTakeTheirEffect : Obligations.WordsTakeTheirEffect := by
  intro s i u w h hi
  cases i
  case rbset p n a id => cases h; exact Completes.of_done (exec_rbset p n a id s) rfl hi rfl no_results
  case tkwait p e =>
    simp only [effectOf] at h
    split_ifs at h with hn
    rw [Bool.or_eq_true, decide_eq_true_eq, not_or, Bool.not_eq_true] at hn
    cases h
    refine Completes.of_done (exec_tkwait p e s) rfl hi ?_ no_results
    simp only [hn.1, Bool.false_eq_true, if_false]
    exact State.await_ready (decide_eq_true (Nat.pos_of_ne_zero hn.2))
  case tkpoll p d e =>
    simp only [effectOf] at h
    split_ifs at h with hn he <;> cases h
    · refine Completes.of_done (exec_tkpoll p d e s) rfl hi ?_ (res_plain d 0)
      simp only [hn, he, if_false, Nat.lt_irrefl]; rfl
    · refine Completes.of_done (exec_tkpoll p d e s) rfl hi ?_ (res_plain d 1)
      simp only [hn, if_pos (Nat.pos_of_ne_zero he)]; rfl
  case semwait p n a =>
    simp only [effectOf] at h
    obtain ⟨x, hx, h⟩ := Option.bind_eq_some_iff.1 h
    split_ifs at h with hv
    cases h
    refine Completes.of_done (exec_semwait p n a s) rfl hi ?_ no_results
    simp only [hx]
    refine (State.await_ready (decide_eq_true (BitVec.le_def.1 hv))).trans ?_
    rw [State.ended_cur]; rfl
  case qdrain p e =>
    simp only [effectOf] at h
    split_ifs at h with he
    cases h
    refine Completes.of_done (exec_qdrain p e s) rfl hi ?_ no_results
    exact State.await_ready (by rw [Bool.not_eq_true] at he; rw [he]; rfl)
  case accver p d t =>
    simp only [effectOf] at h
    split_ifs at h with hn
    cases h
    refine Completes.of_done (exec_accver p d t s) rfl hi ?_ (res_plain d _)
    rw [if_neg (by simpa using hn)]; rfl
  case eqpop p d =>
    simp only [effectOf] at h
    cases he : (s.ctx s.me).events with
    | nil => rw [he] at h; cases h
    | cons e r =>
      rw [he] at h
      cases h
      refine Completes.of_done (exec_eqpop p d s) rfl hi ?_ fun l hl => ?_
      · simp only [he]
        exact State.await_ready rfl
      · have := gNum_lt d
        simp only [List.mem_cons, List.not_mem_nil, or_false] at hl
        rcases hl with rfl | rfl
        · exact ⟨by simp only [res]; omega, rfl⟩
        · exact ⟨by simp only; omega, rfl⟩
  case wfe p =>
    simp only [effectOf] at h
    split_ifs at h with hw
    cases h
    refine Completes.of_done (exec_wfe p s) rfl hi ?_ no_results
    simp only [hw, if_true]
    rw [show (s.unblockCtx s.me).modCtx s.me _ = s.ended.upd _ by rw [State.upd, State.ended_me]; rfl]
    rfl
  case lease p d e =>
    simp only [effectOf] at h
    split_ifs at h with hl hq <;> cases h
    · refine Completes.of_done (exec_lease p d e s) rfl hi ?_ (res_plain d _)
      simp only [hl, if_true]; rfl
    · refine Completes.of_done (exec_lease p d e s) rfl hi ?_ (res_plain d _)
      simp only [hl, hq, Bool.false_eq_true, if_false, if_true]; rfl
    · refine Completes.of_done (exec_lease p d e s) rfl hi ?_ (res_plain d _)
      simp only [hl, hq, Bool.false_eq_true, if_false]; rfl
  case leaserel p e =>
    simp only [effectOf] at h
    split_ifs at h with he
    cases h
    refine Completes.of_done (exec_leaserel p e s) rfl hi ?_ no_results
    simp only [he, Bool.false_eq_true, if_false]; rfl
  case defer p =>
    cases h
    refine Completes.of_done (exec_defer p s) rfl hi ?_ no_results
    simp only [Bool.or_eq_true, decide_eq_true_eq]
    split_ifs <;> rfl
  case undefer p =>
    cases h
    refine Completes.of_done (exec_undefer p s) rfl hi ?_ no_results
    simp only [State.endDefer, Bool.and_eq_true, Option.isNone_iff_eq_none, and_assoc]
    split_ifs <;> rfl
  case opbnd p =>
    simp only [effectOf] at h
    split_ifs at h with hq
    cases h
    refine Completes.of_done (exec_opbnd p s) rfl hi ?_ no_results
    simp only [hq, Bool.not_false, if_true]; rfl
  case rsmark p =>
    simp only [effectOf] at h
    split_ifs at h with ho hw <;> cases h
    · refine Completes.of_done (exec_rsmark p s) rfl hi ?_ no_results
      simp only [ho, if_true]; rfl
    · refine Completes.of_done (exec_rsmark p s) rfl hi ?_ no_results
      simp only [Bool.or_eq_true, not_or, Bool.not_eq_true, Bool.not_eq_false'] at hw
      obtain ⟨⟨free, done⟩, sent⟩ := hw
      simp only [ho, if_false]
      rw [State.rsmark_goes free done sent]; rfl
  case rtmap p d a b =>
    have number := fld_high_eq_zero_iff ((s.ctx s.me).rd a)
    have word (n : Nat) : rtWord 0 0 n false = BitVec.ofNat 64 (n * 2 ^ 16) := by simp [rtWord]
    simp only [effectOf] at h
    split at h <;> rename_i hb <;> cases h
    · refine Completes.of_done (exec_rtmap p d a b s) rfl hi ?_ (res_plain d _)
      simp only [Bool.or_eq_true, decide_eq_true_eq, bne_iff_ne] at hb
      simp only [Bool.or_eq_true, decide_eq_true_eq]
      rcases hb with (hn | hf) | hk
      · rw [if_pos (.inl (by omega))]; rfl
      · rw [if_pos (.inr hf)]; rfl
      · rw [if_pos hk]; split_ifs <;> rfl
    · refine Completes.of_done (exec_rtmap p d a b s) rfl hi ?_ (res_plain d _)
      simp only [Bool.or_eq_true, decide_eq_true_eq, bne_iff_ne, not_or] at hb
      obtain ⟨⟨hn, hf⟩, hk⟩ := hb
      have range : ¬(fld ((s.ctx s.me).rd a) 63 5 ≠ 0 ∨ fld ((s.ctx s.me).rd b) 62 8 ≠ 0) := by
        rw [not_or, not_not, not_not, number]
        exact ⟨by omega, not_not.1 hf⟩
      simp only [Bool.or_eq_true, decide_eq_true_eq]
      rw [if_neg range, if_neg hk]
      cases ho : (s.vnpu (s.ctx s.me).vnpu).rtMap.get ⟨((s.ctx s.me).rd a).toNat % 32, Nat.mod_lt _ (by decide)⟩ with
      | none => rfl
      | some o => simp only [word]; rfl
  -- No other instruction is in the table.
  all_goals cases h

/-! ## Words that wait for an object (R301, R353, R366) -/

theorem State.ctx_queue (s : State) (q : List WftReq) (i : CtxId) : ({ s with wftQueue := q } : State).ctx i = s.ctx i := rfl

/-- What a context that is not blocked on an object does to be. -/
theorem State.blockCtx_new (s : State) (i : CtxId) (o : BitVec 32) (h : (s.ctx i).blocked ≠ some o) :
    s.blockCtx i o = { (s.unblockCtx i).modCtx i fun c => { c with blocked := some o, released := false, inWowait := false } with
      wftQueue := (s.unblockCtx i).wftQueue ++ [.block (.ctx i) o] } := by
  rw [State.blockCtx, if_neg h]; rfl

theorem State.blockCtx_ctx (s : State) (i : CtxId) (o : BitVec 32) :
    ∃ r b w, (s.blockCtx i o).ctx i = { s.ctx i with blocked := some o, released := r, inWfe := b, inWowait := w } := by
  by_cases h : (s.ctx i).blocked = some o
  · rw [State.blockCtx, if_pos h, ← h]
    exact ⟨(s.ctx i).released, (s.ctx i).inWfe, (s.ctx i).inWowait, rfl⟩
  · obtain ⟨b, w, hc⟩ := s.unblockCtx_ctx i
    refine ⟨false, b, false, ?_⟩
    rw [State.blockCtx_new s i o h, State.ctx_queue, State.ctx_modCtx, hc]

theorem State.mem_blockCtx_wftQueue (s : State) (i : CtxId) (o : BitVec 32) (h : (s.ctx i).blocked ≠ some o) :
    WftReq.block (.ctx i) o ∈ (s.blockCtx i o).wftQueue := by
  rw [State.blockCtx_new s i o h]
  exact List.mem_append_right _ (List.mem_singleton_self _)

theorem State.blockCtx_dbyte (s : State) (i : CtxId) (o : BitVec 32) (a : Nat) : (s.blockCtx i o).dbyte a = s.dbyte a := by
  by_cases h : (s.ctx i).blocked = some o
  · rw [State.blockCtx, if_pos h]
  · obtain ⟨hd, hz, -⟩ := State.frame_dram (s.unblockCtx_frame i)
    rw [State.blockCtx_new s i o h]
    simp only [State.dbyte, State.filled, State.modCtx_dram, State.modCtx_zeroed, hd, hz]
    rfl

theorem State.blockCtx_cur (s : State) (i : CtxId) (o : BitVec 32) : (s.blockCtx i o).cur = s.cur := by
  by_cases h : (s.ctx i).blocked = some o
  · rw [State.blockCtx, if_pos h]
  · rw [State.blockCtx_new s i o h]; exact s.unblockCtx_cur i
theorem State.blockCtx_me (s : State) (i : CtxId) (o : BitVec 32) : (s.blockCtx i o).me = s.me := by
  rw [State.me, s.blockCtx_cur i o]; rfl

/-- The parts of O20 that hold of a state in which the context of a word is blocked. -/
theorem State.blockCtx_waits (s : State) (i : CtxId) (o : BitVec 32) :
    ((s.blockCtx i o).ctx i).blocked = some o ∧ ((s.blockCtx i o).ctx i).pc = (s.ctx i).pc
      ∧ ((s.blockCtx i o).ctx i).tick = (s.ctx i).tick
      ∧ ((s.ctx i).blocked ≠ some o → WftReq.block (.ctx i) o ∈ (s.blockCtx i o).wftQueue)
      ∧ ∀ a, (s.blockCtx i o).dbyte a = s.dbyte a := by
  obtain ⟨r, b, w, hc⟩ := s.blockCtx_ctx i o
  rw [hc]
  exact ⟨rfl, rfl, rfl, s.mem_blockCtx_wftQueue i o, s.blockCtx_dbyte i o⟩

theorem State.drain_waits {s : State} {e : Eng} {k : State → Ans} (h : s.undrained s.me = some e) :
    s.drain k = .stall (s.blockCtx s.me (queueObj s.cur.core s.cur.slot e)) := by
  simp only [State.drain, h]; rfl

/-- The state in which a WFE sleeps: its context blocked on an object, the waits on some others queued. -/
def State.sleeps (s : State) (o : BitVec 32) (r : List (BitVec 32)) : State :=
  let u := s.blockCtx s.me o
  ({ u with wftQueue := u.wftQueue ++ r.map fun o => .block (.ctx u.me) o } : State).modCtx u.me fun c => { c with inWfe := true }

/-- A WFE goes to sleep on the objects that its context has registered. -/
theorem exec_wfe_sleeps {s : State} {p : Pred} (hi : s.issues (.wfe p) = true) (hw : (s.ctx s.me).wake = false)
    (hn : (s.ctx s.me).inWfe = false) :
    exec (.wfe p) s = .next (s.sleeps ((s.woregs s.me).headD (evObj s.cur.core s.cur.slot)) ((s.woregs s.me).drop 1)) := by
  rw [exec_wfe, execWfe, ctl_issued rfl hi]
  simp only [hw, hn, Bool.false_eq_true, if_false]
  unfold State.woregs
  cases (s.wft.filter fun e => decide (e.agent = .ctx s.me) && decide (e.leaf = s.ctxLeaf s.me) && !e.holder && e.explicit).map (·.obj) with
  | nil => simp only [State.sleeps, List.drop_nil, List.map_nil, List.append_nil]; rfl
  | cons o r => rfl

/-- Settles O20: a word in a wait of the table answers the state with its context blocked. -/
theorem wordsWaitOnTheirObject : Obligations.WordsWaitOnTheirObject := by
  refine ⟨fun s i h hi => ?_, fun s i o h hi => ?_⟩
  · cases i
    case wfe p =>
      simp only [staysFor, Bool.and_eq_true, Bool.not_eq_true'] at h
      rw [exec_wfe, execWfe, ctl_issued rfl hi]
      simp only [h.1, h.2, Bool.false_eq_true, if_false, if_true]; rfl
    case leaserel p e =>
      simp only [staysFor] at h
      rw [exec_leaserel, execLeaserel, ctl_issued rfl hi]
      simp only [h, if_true]; rfl
    case lend p a =>
      simp only [staysFor, Bool.and_eq_true, Bool.not_eq_true', decide_eq_true_eq] at h
      rw [exec_lend, execLend, ctl_issued rfl hi]
      simp only [h.1, h.2, ne_eq, not_true_eq_false, Bool.not_false, if_false, if_true]; rfl
    -- No other instruction is in the table.
    all_goals cases h
  · by_cases wfe : ∃ p, i = .wfe p
    · obtain ⟨p, rfl⟩ := wfe
      simp only [blocksOn] at h
      split_ifs at h with hw
      obtain rfl := Option.some.inj h
      rw [not_or, Bool.not_eq_true, Bool.not_eq_true] at hw
      obtain ⟨hb, hp, ht, hq, hd⟩ := s.blockCtx_waits s.me ((s.woregs s.me).headD (evObj s.cur.core s.cur.slot))
      refine ⟨_, exec_wfe_sleeps hi hw.1 hw.2, ?_⟩
      simp only [State.sleeps, State.blockCtx_me, State.ctx_modCtx, State.ctx_queue, State.modCtx_wftQueue]
      exact ⟨hb, hp, ht, fun h => List.mem_append_left _ (hq h), hd,
        fun _ _ => ⟨trivial, fun o ho => List.mem_append_right _ (List.mem_map.2 ⟨o, ho, rfl⟩)⟩⟩
    · suffices run : exec i s = .next (s.blockCtx s.me o) by
        obtain ⟨hb, hp, ht, hq, hd⟩ := s.blockCtx_waits s.me o
        exact ⟨_, run, hb, hp, ht, hq, hd, fun p hp => absurd ⟨p, hp⟩ wfe⟩
      cases i
      case tkwait p e =>
        simp only [blocksOn] at h
        split_ifs at h with he
        obtain rfl := Option.some.inj h
        rw [exec_tkwait, execTkwait, ctl_issued rfl hi]
        simp only [he.1, Bool.false_eq_true, if_false]
        rw [State.await_waits (by simp [he.2])]; rfl
      case semwait p n a =>
        simp only [blocksOn] at h
        obtain ⟨x, hx, h⟩ := Option.bind_eq_some_iff.1 h
        split_ifs at h with hv
        obtain rfl := Option.some.inj h
        rw [exec_semwait, execSemwait, ctl_issued rfl hi]
        simp only [hx]
        rw [State.await_waits (decide_eq_false (Nat.not_le.2 (BitVec.lt_def.1 hv)))]; rfl
      case qdrain p e =>
        simp only [blocksOn] at h
        split_ifs at h with he
        obtain rfl := Option.some.inj h
        rw [exec_qdrain, execQdrain, ctl_issued rfl hi]
        rw [State.await_waits (by rw [he]; rfl)]; rfl
      case eqpop p d =>
        simp only [blocksOn] at h
        split_ifs at h with he
        obtain rfl := Option.some.inj h
        rw [exec_eqpop, execEqpop, ctl_issued rfl hi]
        rw [State.await_waits (by rw [he]; rfl)]; rfl
      case wfe p => exact absurd ⟨p, rfl⟩ wfe
      case endUnit p =>
        obtain ⟨e, he, ho⟩ := Option.map_eq_some_iff.1 h
        cases ho
        rw [exec_endUnit, execEndUnit, ctl_issued rfl hi, State.drain_waits he]; rfl
      case eret p =>
        obtain ⟨e, he, ho⟩ := Option.map_eq_some_iff.1 h
        cases ho
        rw [exec_eret, execEret, ctl_issued rfl hi, State.drain_waits he]; rfl
      -- No other instruction is in the table.
      all_goals cases h

/-! ## Words that close a phase (R227, R228, R231) -/

/-- A closed phase moves the phases of its source and posts markers. -/
theorem State.closePhase_changes {s u : State} {r : Src} {v : VnpuId} (h : s.closePhase r v = some u) :
    ∃ p net n, u = { s.setPhases r p with net := net, msgs := n } := by
  have posts (l : List (Nat × Nat)) (ph : Nat) (s : State) : ∃ net n,
      l.foldl (fun s t => s.post (s.mkMsg r 0 t.1 ph v (.marker ph t.2))) s = { s with net := net, msgs := n } := by
    induction l generalizing s with
    | nil => exact ⟨_, _, rfl⟩
    | cons t l ih =>
      obtain ⟨net, n, e⟩ := ih (s.post (s.mkMsg r 0 t.1 ph v (.marker ph t.2)))
      exact ⟨net, n, by rw [List.foldl_cons, e]; rfl⟩
  unfold State.closePhase at h
  dsimp only at h
  split at h
  · cases h
  · obtain ⟨net, n, e⟩ := posts (s.phases r).counts (s.phases r).closed (s.setPhases r _)
    obtain rfl := Option.some.inj h
    exact ⟨_, net, n, e⟩

theorem State.ctx_modCore (s : State) (c : CoreId) (f : Core → Core) (i : CtxId) (h : ∀ k, (f k).ctx i.slot = k.ctx i.slot) :
    (s.modCore c f).ctx i = s.ctx i := by
  unfold State.ctx
  by_cases hc : i.core = c
  · subst hc; rw [State.core_modCore, h]
  · rw [State.core_modCore_other _ _ _ _ hc]

theorem State.ctx_setPhases (s : State) (r : Src) (p : Phases) (i : CtxId) : (s.setPhases r p).ctx i = s.ctx i := by
  unfold State.setPhases
  split
  · exact s.ctx_modCore _ _ i fun k => by cases i.slot <;> rfl
  · rfl
theorem State.setPhases_dram (s : State) (r : Src) (p : Phases) : (s.setPhases r p).dram = s.dram := by
  unfold State.setPhases; split <;> rfl
theorem State.setPhases_cur (s : State) (r : Src) (p : Phases) : (s.setPhases r p).cur = s.cur := by
  unfold State.setPhases; split <;> rfl
theorem State.setPhases_net (s : State) (r : Src) (p : Phases) : (s.setPhases r p).net = s.net := by
  unfold State.setPhases; split <;> rfl

/-- A state that differs from `s` by the closing of a phase of the acting context agrees with it on who acts and on the context but for
its stage. -/
def State.Closes (s t : State) : Prop := t.cur = s.cur ∧ ∃ x, t.ctx s.me = { s.ctx s.me with stage := x }

theorem State.Closes.me {s t : State} (h : s.Closes t) : t.me = s.me := by rw [State.me, h.1]; rfl

theorem State.Closes.refl (s : State) : s.Closes s := ⟨rfl, (s.ctx s.me).stage, rfl⟩

theorem State.Closes.of_closePhase {s u : State} {v : VnpuId} (h : s.closePhase (.ctx s.me) v = some u) (x : Stage) :
    s.Closes (u.modCtx s.me fun c => { c with stage := x }) := by
  obtain ⟨p, net, n, rfl⟩ := State.closePhase_changes h
  refine ⟨s.setPhases_cur _ p, x, ?_⟩
  rw [State.ctx_modCtx]
  show { (s.setPhases (.ctx s.me) p).ctx s.me with stage := x } = _
  rw [State.ctx_setPhases]

/-- The closing of a phase that is not closed yet. -/
def State.closingNow (s : State) (k : State → Ans) : Ans :=
  match s.closePhase (.ctx s.me) (s.ctx s.me).vnpu with
  | none => .stall s
  | some u =>
    let n := (u.phases (.ctx s.me)).closed
    let u := u.modCtx s.me fun c => { c with stage := .closed n }
    if u.phaseDone (.ctx s.me) n then k u else .stall u

theorem State.closing_fresh {s : State} {k : State → Ans} (h : ∀ n, (s.ctx s.me).stage ≠ .closed n) : s.closing k = s.closingNow k := by
  unfold State.closing
  dsimp only
  split
  · next n hn => exact absurd hn (h n)
  · rfl

/-- The closing of a phase waits, or goes on in one state, whatever follows. -/
theorem State.closing_cases (s : State) :
    (∃ u, (∀ k, s.closing k = k u) ∧ s.Closes u) ∨ ∃ t, (∀ k, s.closing k = .stall t) ∧ s.Closes t := by
  by_cases closed : ∃ n, (s.ctx s.me).stage = .closed n
  · obtain ⟨n, hn⟩ := closed
    cases hd : s.phaseDone (.ctx s.me) n with
    | true => exact .inl ⟨s, fun k => by simp only [State.closing, hn, hd, if_true], .refl s⟩
    | false => exact .inr ⟨s, fun k => by simp only [State.closing, hn, hd]; rfl, .refl s⟩
  · have fresh (k : State → Ans) := @State.closing_fresh s k fun n hn => closed ⟨n, hn⟩
    cases hp : s.closePhase (.ctx s.me) (s.ctx s.me).vnpu with
    | none => exact .inr ⟨s, fun k => by simp only [fresh, State.closingNow, hp], .refl s⟩
    | some u =>
      have keeps := State.Closes.of_closePhase hp (.closed (u.phases (.ctx s.me)).closed)
      cases hd : (u.modCtx s.me fun c => { c with stage := .closed (u.phases (.ctx s.me)).closed }).phaseDone (.ctx s.me)
          (u.phases (.ctx s.me)).closed with
      | true => exact .inl ⟨_, fun k => by simp only [fresh, State.closingNow, hp, hd, if_true], keeps⟩
      | false => exact .inr ⟨_, fun k => by simp only [fresh, State.closingNow, hp, hd]; rfl, keeps⟩

/-- Where every closed phase is complete, what follows runs in that state. -/
theorem State.closing_quiet {s u : State} (h : s.quiet = some u) : (∀ k, s.closing k = k u) ∧ s.Closes u := by
  rcases s.closing_cases with ⟨v, goes, keeps⟩ | ⟨t, waits, -⟩
  · have same : v = u := by rw [State.quiet, goes] at h; exact Option.some.inj h
    exact same ▸ ⟨goes, keeps⟩
  · rw [State.quiet, waits] at h; cases h

/-- Where one is not, the word waits for it. -/
theorem State.closing_waits {s : State} (h : s.quiet = none) : ∃ t, (∀ k, s.closing k = .stall t) ∧ s.Closes t := by
  rcases s.closing_cases with ⟨v, goes, -⟩ | waits
  · rw [State.quiet, goes] at h; cases h
  · exact waits

theorem service_eq (x : Instr) (p : Pred) (sup : Bool) (ops : List Nat) (body : State → Ctx → Ans) (s : State) :
    service x p sup ops body s
      = ctl x p .none ops (fun s c => s.closing fun s => if sup && !c.sup then served s 1 0 else body s c) s := rfl

/-- The results of an answer of the Strongroom (R408). -/
theorem results_plain {w : List Landing} (status value : Word) (h : w = [res 1 status, res 2 value]) : ∀ l ∈ w, l.reg < 72 ∧ l.flags = 0 := by
  subst h
  intro l hl
  simp only [List.mem_cons, List.not_mem_nil, or_false] at hl
  rcases hl with rfl | rfl <;> exact ⟨(gNum_lt _).trans (by decide), rfl⟩

/-- A word whose meaning closes a phase completes with what follows, once every closed phase is complete. -/
theorem Completes.of_quiet {i : Instr} {p : Pred} {l : Limit} {ops : List Nat} {body : State → Ctx → Ans} {s u t : State}
    {w : List Landing} {pc : Option Word} {k : State → Ans} (run : exec i s = ctl i p l ops body s) (hp : ctlParts i = some (p, l, ops))
    (hi : s.issues i = true) (hq : s.quiet = some u) (hb : body s (s.ctx s.me) = s.closing k) (hk : k u = .done t w pc 1)
    (hw : ∀ l ∈ w, l.reg < 72 ∧ l.flags = 0) : Completes i s t w pc :=
  Completes.of_done run hp hi (hb.trans (((State.closing_quiet hq).1 k).trans hk)) hw

/-- Such a word moves no register while it waits. -/
theorem exec_of_waits {i : Instr} {p : Pred} {l : Limit} {ops : List Nat} {body : State → Ctx → Ans} {s : State} {k : State → Ans}
    (run : exec i s = ctl i p l ops body s) (hp : ctlParts i = some (p, l, ops)) (hi : s.issues i = true) (hq : s.quiet = none)
    (hb : body s (s.ctx s.me) = s.closing k) :
    ∃ t, exec i s = .next t ∧ (t.ctx s.me).pc = (s.ctx s.me).pc ∧ (t.ctx s.me).tick = (s.ctx s.me).tick
      ∧ (t.ctx s.me).k = (s.ctx s.me).k ∧ (t.ctx s.me).g = (s.ctx s.me).g := by
  obtain ⟨t, waits, -, x, hc⟩ := State.closing_waits hq
  refine ⟨t, by rw [run, ctl_issued hp hi, hb, waits]; rfl, ?_⟩
  rw [hc]
  exact ⟨rfl, rfl, rfl, rfl⟩

/-- Settles O21: each of the words closes its phase and then takes its effect. -/
theorem wordsThatCloseAPhaseTakeTheirEffect : Obligations.WordsThatCloseAPhaseTakeTheirEffect := by
  refine ⟨fun s i u t w hq h hi => ?_, fun s i h hq hi => ?_, fun s p e u hq hn hf hi => ?_⟩
  · obtain ⟨-, keeps⟩ := State.closing_quiet hq
    cases i
    case fence p mask scope =>
      simp only [orderedEffect] at h
      split_ifs at h with hp
      cases h
      exact Completes.of_quiet (exec_fence p mask scope s) rfl hi hq rfl (by simp only [hp, Bool.not_true, Bool.false_eq_true, if_false]; rfl)
        no_results
    case tkpost p e =>
      simp only [orderedEffect] at h
      split_ifs at h with hp
      cases h
      rw [Bool.or_eq_true, decide_eq_true_eq, not_or, Bool.not_eq_true, Nat.not_le] at hp
      refine Completes.of_quiet (exec_tkpost p e s) rfl hi hq (by simp only [hp.1, Bool.false_eq_true, if_false]; rfl) ?_ no_results
      refine (State.await_ready (decide_eq_true hp.2)).trans ?_
      simp only [State.upd, State.ended_me, State.ended_cur, keeps.me, keeps.1]; rfl
    case seminc p n a =>
      obtain ⟨x, hx, h⟩ := Option.map_eq_some_iff.1 h
      cases h
      refine Completes.of_quiet (exec_seminc p n a s) rfl hi hq (by simp only [hx]; rfl) ?_ no_results
      rw [← keeps.1]; rfl
    case worel p a =>
      simp only [orderedEffect] at h
      cases h
      refine Completes.of_quiet (exec_worel p a s) rfl hi hq rfl ?_ no_results
      split_ifs <;> rfl
    case hvc p e => cases h; exact Completes.of_quiet (exec_hvc p e s) rfl hi hq rfl rfl (results_plain _ _ rfl)
    case partquery p => cases h; exact Completes.of_quiet ((exec_partquery p s).trans (service_eq ..)) rfl hi hq rfl rfl (results_plain _ _ rfl)
    case recquery p => cases h; exact Completes.of_quiet ((exec_recquery p s).trans (service_eq ..)) rfl hi hq rfl rfl (results_plain _ _ rfl)
    case regquery p =>
      simp only [orderedEffect] at h
      split_ifs at h with hr <;> cases h
      · exact Completes.of_quiet ((exec_regquery p s).trans (service_eq ..)) rfl hi hq rfl (if_pos hr) (results_plain _ _ rfl)
      · exact Completes.of_quiet ((exec_regquery p s).trans (service_eq ..)) rfl hi hq rfl (if_neg hr) (results_plain _ _ rfl)
    case tquery p =>
      simp only [orderedEffect] at h
      obtain ⟨rfl, rfl⟩ := Prod.mk.inj (Option.some.inj h)
      by_cases hr : (s.ctx s.me).slots ≤ ((s.ctx s.me).rd 1).toNat
      · rw [if_pos hr]
        exact Completes.of_quiet ((exec_tquery p s).trans (service_eq ..)) rfl hi hq rfl (if_pos hr) (results_plain _ _ rfl)
      · rw [if_neg hr]
        exact Completes.of_quiet ((exec_tquery p s).trans (service_eq ..)) rfl hi hq rfl (if_neg hr) (results_plain _ _ rfl)
    -- No other instruction is in the table.
    all_goals cases h
  · cases i
    case fence p mask scope => exact exec_of_waits (exec_fence p mask scope s) rfl hi hq rfl
    case tkpost p e =>
      simp only [orderedEffect] at h
      split_ifs at h with hp
      · exact absurd rfl h
      · rw [Bool.or_eq_true, not_or, Bool.not_eq_true] at hp
        exact exec_of_waits (exec_tkpost p e s) rfl hi hq (by simp only [hp.1, Bool.false_eq_true, if_false]; rfl)
    case seminc p n a =>
      obtain ⟨x, hx⟩ := Option.ne_none_iff_exists'.1 fun hn => h (congrArg (Option.map _) hn)
      exact exec_of_waits (exec_seminc p n a s) rfl hi hq (by simp only [hx]; rfl)
    case worel p a => exact exec_of_waits (exec_worel p a s) rfl hi hq rfl
    case hvc p e => exact exec_of_waits (exec_hvc p e s) rfl hi hq rfl
    case partquery p => exact exec_of_waits ((exec_partquery p s).trans (service_eq ..)) rfl hi hq rfl
    case recquery p => exact exec_of_waits ((exec_recquery p s).trans (service_eq ..)) rfl hi hq rfl
    case regquery p => exact exec_of_waits ((exec_regquery p s).trans (service_eq ..)) rfl hi hq rfl
    case tquery p => exact exec_of_waits ((exec_tquery p s).trans (service_eq ..)) rfl hi hq rfl
    -- No other instruction is in the table.
    all_goals exact absurd rfl h
  · obtain ⟨goes, keeps⟩ := State.closing_quiet hq
    rw [exec_tkpost, execTkpost, ctl_issued rfl hi]
    simp only [hn, Bool.false_eq_true, if_false]
    rw [goes, keeps.me, keeps.1, State.await_waits (decide_eq_false (Nat.not_lt.2 hf)), keeps.me]; rfl

/-! ## An empty phase (R227, R231, R297) -/

theorem State.core_ctx_phases (s : State) (i : CtxId) (f : Ctx → Ctx) (c : CoreId) : ((s.modCtx i f).core c).phases = (s.core c).phases := by
  by_cases h : c = i.core
  · subst h; rw [State.modCtx, State.core_setCtx]; cases i.slot <;> rfl
  · rw [State.modCtx, State.core_setCtx_other _ _ _ _ h]

theorem State.phases_modCtx (s : State) (i : CtxId) (f : Ctx → Ctx) (r : Src) : (s.modCtx i f).phases r = s.phases r := by
  unfold State.phases
  split
  · rw [State.core_ctx_phases]
  · rfl

theorem State.phases_setPhases (s : State) (i : CtxId) (p : Phases) : (s.setPhases (.ctx i) p).phases (.ctx i) = p := by
  show ((s.modCore i.core fun k => { k with phases := k.phases.set (srcSlot (.ctx i)) p }).core i.core).phases.get (srcSlot (.ctx i)) = p
  rw [State.core_modCore]
  exact getSetSelf _ _ _

/-- The phases of a source once an empty one is closed. -/
def Phases.pastEmpty (p : Phases) : Phases := ⟨p.closed + 1, p.completed + 1, [], []⟩

/-- A phase in which nothing was sent is complete as it is closed. -/
theorem State.closePhase_empty {s : State} {r : Src} (v : VnpuId) (ho : (s.phases r).opens = []) (hc : (s.phases r).counts = [])
    (hw : s.recordWaits r = false) : s.closePhase r v = some (s.setPhases r (s.phases r).pastEmpty) := by
  simp only [State.closePhase, ho, hc, hw]
  rfl

/-- The state in which the acting context has closed a phase in which it sent nothing. -/
def State.pastEmpty (s : State) : State :=
  (s.setPhases (.ctx s.me) (s.phases (.ctx s.me)).pastEmpty).modCtx s.me fun c => { c with stage := .closed ((s.phases (.ctx s.me)).closed + 1) }

theorem State.quiet_empty {s : State} (h : s.sentNothing) : s.quiet = some s.pastEmpty := by
  obtain ⟨ho, hc, he, hw, hs⟩ := h
  unfold State.pastEmpty
  simp only [State.quiet, State.closing_fresh hs, State.closingNow, State.closePhase_empty _ ho hc hw, State.phaseDone, State.phases_modCtx,
    State.phases_setPhases, Phases.pastEmpty, he, Nat.le_refl, decide_true, if_true]

/-- Settles O22: such a phase is closed and complete at once (`State.closePhase_empty`), so what waits for it goes on. -/
theorem anEmptyPhaseIsCompleteAtOnce : Obligations.AnEmptyPhaseIsCompleteAtOnce := by
  intro s ho hc he hw hs
  refine ⟨_, State.quiet_empty ⟨ho, hc, he, hw, hs⟩, ?_⟩
  simp only [State.pastEmpty, State.phases_modCtx, State.phases_setPhases, State.modCtx_net, State.modCtx_dram, State.setPhases_net,
    State.setPhases_dram, State.ctx_modCtx, State.ctx_setPhases, Phases.pastEmpty, and_self]

end Sys2Proof.Machine

/-! The words that ask the wait-for table, and its answers (R222, R351, R363-R366). -/

namespace Sys2Proof.Machine

/-! ## Asking the table (R363) -/

/-- A word that asks the table: a bad operand is answered at once by its status, where nothing has been asked. -/
def State.askTable (s : State) (st : Nat) (q : WftReq) (k : State → Word → Ans) : Ans :=
  if !(s.ctx s.me).requested && decide (st ≠ 0) then k s (BitVec.ofNat 64 st) else s.request q k

theorem State.askTable_answered {s : State} {st : Nat} {q : WftReq} {k : State → Word → Ans} {f : Word → State × List Landing}
    {r : State × List Landing} (h : tableResult.answered s st f = some r) : ∃ v, r = f v ∧ s.askTable st q k = k s v := by
  unfold tableResult.answered at h
  unfold State.askTable Ctx.requested State.request
  cases hs : (s.ctx s.me).stage
  case replied v =>
    simp only [hs, Option.some.injEq] at h
    exact ⟨v, h.symm, by simp only [Bool.not_true, Bool.false_and, Bool.false_eq_true, if_false]⟩
  case asked => simp only [hs, reduceCtorEq] at h
  -- In every other stage nothing has been asked.
  all_goals
    simp only [hs] at h
    split_ifs at h with h0
    exact ⟨BitVec.ofNat 64 st, (Option.some.inj h).symm,
      by simp only [h0, ne_eq, not_false_eq_true, decide_true, Bool.not_false, Bool.and_true, if_true]⟩

theorem State.askTable_fresh {s : State} {st : Nat} {q : WftReq} {k : State → Word → Ans} (hs : (s.ctx s.me).stage = .fresh) (h : st = 0) :
    s.askTable st q k = .stall (({ s with wftQueue := s.wftQueue ++ [q] } : State).upd fun c => { c with stage := .asked }) := by
  simp only [State.askTable, h, ne_eq, not_true_eq_false, decide_false, Bool.and_false, Bool.false_eq_true, if_false,
    State.request_fresh s q _ hs]
  rfl

/-- A word that asks the table for a result completes with the answer. -/
theorem Completes.of_answer {i : Instr} {p : Pred} {l : Limit} {ops : List Nat} {body : State → Ctx → Ans} {s u : State} {st : Nat}
    {q : WftReq} {d : Reg} {w : List Landing} (run : exec i s = ctl i p l ops body s) (hp : ctlParts i = some (p, l, ops))
    (hi : s.issues i = true) (hb : body s (s.ctx s.me) = s.askTable st q fun s v => one s d v 0)
    (h : tableResult.answered s st (fun v => (s, [res d v])) = some (u, w)) : Completes i s u w none := by
  obtain ⟨v, e, he⟩ := @State.askTable_answered s st q (fun s v => one s d v 0) _ _ h
  cases e
  exact Completes.of_done run hp hi (hb.trans he) (res_plain d v)

/-- The operand of a WOPOLL is refused at once where it is no id. -/
theorem wopoll_asks (s : State) (d a : Reg) : (if !(s.ctx s.me).requested && decide (fld ((s.ctx s.me).rd a) 63 32 ≠ 0)
      then one s d (BitVec.ofNat 64 (3 * 2 ^ 56)) 0
      else s.request (.wopoll s.me (((s.ctx s.me).rd a).setWidth 32)) fun s v => one s d v 0)
    = s.askTable (if fld ((s.ctx s.me).rd a) 63 32 = 0 then 0 else 3 * 2 ^ 56) (.wopoll s.me (((s.ctx s.me).rd a).setWidth 32))
        fun s v => one s d v 0 := by
  by_cases h : fld ((s.ctx s.me).rd a) 63 32 = 0 <;> simp [State.askTable, h]

/-- Settles O23: what each of the words asks, and what the reply leaves. -/
theorem tableWordsAskAndComplete : Obligations.TableWordsAskAndComplete := by
  refine ⟨fun s i u w h hi => ?_, fun s p a hb hw hr hi => ?_, fun s => ?_, fun s p a hb hw hr hi => ?_, fun s i q hq hs hb hi => ?_⟩
  · cases i
    case woreg p d a => exact Completes.of_answer (exec_woreg p d a s) rfl hi rfl h
    case wohold p d a => exact Completes.of_answer (exec_wohold p d a s) rfl hi rfl h
    case wopoll p d a =>
      exact Completes.of_answer (exec_wopoll p d a s) rfl hi (wopoll_asks s d a) h
    case wodereg p a =>
      obtain ⟨v, e, he⟩ := @State.askTable_answered s _ (.wodereg s.me (((s.ctx s.me).rd a).setWidth 32)) (fun s _ => plain s) _ _ h
      cases e
      exact Completes.of_done (exec_wodereg p a s) rfl hi he no_results
    case wowait p a =>
      unfold tableResult at h
      dsimp only at h
      split at h
      · cases h
      · next hb =>
        have body : exec (.wowait p a) s = ctl (.wowait p a) p .none [gNum a] _ s := exec_wowait p a s
        have first : ((decide ((s.ctx s.me).blocked = some (((s.ctx s.me).rd a).setWidth 32)) && (s.ctx s.me).inWowait) = true) = False := by
          rw [Bool.and_eq_true, decide_eq_true_eq]; exact eq_false hb
        cases hs : (s.ctx s.me).stage
        case replied v =>
          simp only [hs] at h
          cases h
          refine Completes.of_done body rfl hi ?_ no_results
          simp only [first, Ctx.requested, State.request, hs, Bool.not_true, Bool.false_and, Bool.false_eq_true, if_false]; rfl
        case asked => simp only [hs, reduceCtorEq] at h
        -- In every other stage nothing has been asked.
        all_goals
          simp only [hs] at h
          split_ifs at h with h0
          cases h
          refine Completes.of_done body rfl hi ?_ no_results
          simp only [first, Ctx.requested, hs, h0, ne_eq, not_false_eq_true, decide_true, Bool.not_false, Bool.and_true, if_false, if_true]
          rfl
    -- No other instruction is in the table.
    all_goals cases h
  · refine Completes.of_done (exec_wowait p a s) rfl hi ?_ no_results
    simp only [hb, hw, hr, decide_true, Bool.and_true, if_true]; rfl
  · simp only [State.acquired, State.inSlotO, decide_eq_true_eq]; rfl
  · rw [exec_wowait, execWowait, ctl_issued rfl hi]
    simp only [hb, hw, hr, decide_true, Bool.and_true, Bool.false_eq_true, if_true, if_false]; rfl
  · cases i
    case woreg p d a =>
      simp only [tableRequest] at hq
      split_ifs at hq with h0
      cases hq
      rw [exec_woreg, execWoreg, ctl_issued rfl hi]
      exact congrArg (fun b : Ans => Host.Outcome.next (b.state s.me)) (State.askTable_fresh hs h0)
    case wohold p d a =>
      simp only [tableRequest] at hq
      split_ifs at hq with h0
      cases hq
      rw [exec_wohold, execWohold, ctl_issued rfl hi]
      exact congrArg (fun b : Ans => Host.Outcome.next (b.state s.me)) (State.askTable_fresh hs h0)
    case wopoll p d a =>
      simp only [tableRequest] at hq
      split_ifs at hq with h0
      cases hq
      rw [exec_wopoll, execWopoll, ctl_issued rfl hi, wopoll_asks, State.askTable_fresh hs (if_pos h0)]; rfl
    case wodereg p a =>
      simp only [tableRequest] at hq
      split_ifs at hq with h0
      cases hq
      rw [exec_wodereg, execWodereg, ctl_issued rfl hi]
      exact congrArg (fun b : Ans => Host.Outcome.next (b.state s.me)) (State.askTable_fresh hs h0)
    case wowait p a =>
      simp only [tableRequest] at hq
      split_ifs at hq with h0
      cases hq
      rw [exec_wowait, execWowait, ctl_issued rfl hi]
      simp only [hb, reduceCtorEq, decide_false, Bool.false_and, Bool.false_eq_true, if_false, h0, ne_eq, not_true_eq_false, Bool.and_false]
      rw [State.request_fresh s _ _ hs]; rfl
    -- No other instruction is in the table.
    all_goals cases hq

/-! ## The answers of the table (R351, R363, R364) -/

theorem State.reply_asked {s : State} {i : CtxId} (h : (s.ctx i).stage = .asked) (v : Word) :
    s.reply i v = s.modCtx i fun c => { c with stage := .replied v } := by
  simp only [State.reply, State.modCtx, h]

/-- The registrations of WOREG that an agent of a leaf holds on an object. -/
def WftEntry.registers (i : CtxId) (l : LeafId) (o : BitVec 32) (e : WftEntry) : Bool :=
  decide (e.agent = .ctx i) && decide (e.leaf = l) && decide (e.obj = o) && !e.holder && e.explicit

theorem State.processReq_woreg_held {s : State} {i : CtxId} {o : BitVec 32} (h : s.wft.any (WftEntry.registers i (s.ctxLeaf i) o) = true) :
    s.processReq (.woreg i o) = s.reply i 0 := if_pos h
theorem State.processReq_woreg_full {s : State} {i : CtxId} {o : BitVec 32} (h : s.wft.any (WftEntry.registers i (s.ctxLeaf i) o) = false)
    (hr : s.wftRoom (s.ctxLeaf i) = false) : s.processReq (.woreg i o) = s.reply i 1 :=
  (if_neg (fun e => Bool.false_ne_true (h.symm.trans e))).trans (if_pos (by rw [hr]; rfl))
theorem State.processReq_woreg_new {s : State} {i : CtxId} {o : BitVec 32} (h : s.wft.any (WftEntry.registers i (s.ctxLeaf i) o) = false)
    (hr : s.wftRoom (s.ctxLeaf i) = true) : s.processReq (.woreg i o) = (s.wftAdd ⟨o, .ctx i, false, true, s.ctxLeaf i⟩).reply i 0 :=
  (if_neg (fun e => Bool.false_ne_true (h.symm.trans e))).trans (if_neg (by rw [hr]; exact Bool.false_ne_true))
theorem State.processReq_wodereg_held {s : State} {i : CtxId} {o : BitVec 32} (h : s.wft.any (WftEntry.registers i (s.ctxLeaf i) o) = true) :
    s.processReq (.wodereg i o)
      = ((s.wftDrop (.ctx i) (s.ctxLeaf i) fun e => e.obj = o && !e.holder && e.explicit).modCtx i fun c => { c with wake := true }).reply i 0 :=
  congrArg (fun u : State => u.reply i 0) (if_pos h)

/-- No registration stays once WODEREG has removed those it names. -/
theorem State.wftDrop_registers (s : State) (i : CtxId) (l : LeafId) (o : BitVec 32) :
    (s.wftDrop (.ctx i) l fun e => e.obj = o && !e.holder && e.explicit).wft.any (WftEntry.registers i l o) = false := by
  rw [List.any_eq_false]
  intro e he
  have kept := (List.mem_filter.1 he).2
  simp only [← Bool.and_assoc, Bool.not_eq_true'] at kept
  exact fun mine => Bool.false_ne_true (kept.symm.trans mine)

/-- Settles O24: one law of the table for each request. -/
theorem theTableAnswers : Obligations.TheTableAnswers := by
  intro s i o hs l mine
  refine ⟨fun h => ?_, fun h hr => ?_, fun h hr => ?_, fun h => ?_, State.reply_asked hs _⟩
  · rw [State.processReq_woreg_held h, State.reply_asked hs]
  · rw [State.processReq_woreg_full h hr, State.reply_asked hs]
  · have asked : ((s.wftAdd ⟨o, .ctx i, false, true, s.ctxLeaf i⟩).ctx i).stage = .asked := hs
    rw [State.processReq_woreg_new h hr, State.reply_asked asked, State.ctx_modCtx]
    exact ⟨rfl, List.mem_append_right _ (List.mem_singleton_self _)⟩
  · rw [State.processReq_wodereg_held h, State.reply_asked (by rw [State.ctx_modCtx]; exact hs), State.ctx_modCtx, State.ctx_modCtx]
    exact ⟨rfl, s.wftDrop_registers i l o⟩

end Sys2Proof.Machine

/-! Global memory: what an access charges and brings in, loads, stores, prefetch and the Pantry (R25, R226-R248, R385, R386, R402). -/

namespace Sys2Proof.Machine

/-! ## Bytes of DRAM -/

/-- A canonical memory of which the cells of some addresses alone are kept. -/
theorem Mem.get_filter : ∀ {m : Mem} {p : Nat × Byte → Bool} {q : Nat → Bool} (a : Nat), m.wf = true → (∀ e, p e = q e.1) →
    Mem.get (m.filter p) a = if q a then m.get a else 0
  | [], _, _, a, _, _ => by simp [Mem.get]
  | (x, v) :: r, p, q, a, h, hp => by
    have ih := @Mem.get_filter r p q a (wf_of_okAfter (wf_tail h)) hp
    have below (ha : a ≤ x) : Mem.get r a = 0 := get_below (wf_tail h) ha
    cases hq : q x with
    | true =>
      rw [List.filter_cons_of_pos (by rw [hp, hq]), Mem.get, Mem.get, ih]
      split_ifs with e <;> simp_all
    | false =>
      rw [List.filter_cons_of_neg (by rw [hp, hq]; exact Bool.false_ne_true), ih, Mem.get]
      by_cases e : x = a
      · subst e; simp [hq]
      · by_cases l : a < x
        · simp [e, l, below l.le]
        · simp [e, l]

theorem Mem.get_clear {m : Mem} {lo hi a : Nat} (h : m.wf = true) : (m.clear lo hi).get a = if lo ≤ a ∧ a < hi then 0 else m.get a := by
  rw [Mem.clear, @Mem.get_filter m _ (fun x => decide (x < lo ∨ hi ≤ x)) a h (by simp)]
  by_cases h1 : lo ≤ a ∧ a < hi
  · rw [if_pos h1, if_neg (by simp; omega)]
  · rw [if_neg h1, if_pos (by simp; omega)]

theorem Mem.read_eq (m : Mem) : ∀ (n a : Nat), m.read a n = (List.range n).map fun k => m.get (a + k)
  | 0, _ => rfl
  | n + 1, a => by
    rw [Mem.read, Mem.read_eq m n, List.range_succ_eq_map, List.map_cons, List.map_map]
    simp [Function.comp_def, Nat.add_assoc, Nat.add_comm 1]

/-- The bytes of a piece of one page, one by one. -/
theorem State.dbytes_eq (s : State) (pa n : Nat) (h : pa % 4096 + n ≤ 4096) : s.dbytes pa n = (List.range n).map fun k => s.dbyte (pa + k) := by
  have page : ∀ k ∈ List.range n, (pa + k) / 4096 = pa / 4096 := fun k hk => by
    have := List.mem_range.1 hk
    omega
  unfold State.dbytes
  cases hf : s.filled (pa / 4096) with
  | true =>
    rw [if_pos rfl, Mem.read_eq]
    exact List.map_congr_left fun k hk => by rw [State.dbyte, page k hk, hf, if_pos rfl]
  | false =>
    rw [if_neg Bool.false_ne_true]
    refine (List.eq_replicate_iff.2 ⟨by rw [List.length_map, List.length_range], fun b hb => ?_⟩).symm
    obtain ⟨k, hk, rfl⟩ := List.mem_map.1 hb
    rw [State.dbyte, page k hk, hf, if_neg Bool.false_ne_true]

theorem State.memoriesOk_iff (s : State) : s.memoriesOk = true ↔ s.dram.wf = true ∧ s.host.wf = true := Bool.and_eq_true _ _ ▸ Iff.rfl

theorem State.touch_dbyte {s : State} (p a : Nat) (h : s.dram.wf = true) : (s.touch p).dbyte a = s.dbyte a := by
  unfold State.touch
  cases hf : s.filled p with
  | true => rfl
  | false =>
    rw [if_neg Bool.false_ne_true]
    by_cases own : a / 4096 = p
    · subst own
      have inside : a / 4096 * 4096 ≤ a ∧ a < a / 4096 * 4096 + 4096 := by omega
      simp only [State.dbyte, hf, Mem.get_clear h, if_pos inside, ite_self, Bool.false_eq_true, if_false]
    · have outside : ¬(p * 4096 ≤ a ∧ a < p * 4096 + 4096) := by omega
      simp only [State.dbyte, State.filled, List.contains_cons, Mem.get_clear h, if_neg outside, beq_false_of_ne own, Bool.false_or]
      rfl

theorem State.touch_wf {s : State} (p : Nat) (h : s.dram.wf = true) : (s.touch p).dram.wf = true := by
  unfold State.touch
  split
  · exact h
  · exact wf_clear h

theorem State.touch_host (s : State) (p : Nat) : (s.touch p).host = s.host := by unfold State.touch; split <;> rfl
theorem State.touch_net (s : State) (p : Nat) : (s.touch p).net = s.net := by unfold State.touch; split <;> rfl
theorem State.touch_cores (s : State) (p : Nat) : (s.touch p).cores = s.cores := by unfold State.touch; split <;> rfl
theorem State.touch_filled (s : State) (p : Nat) : (s.touch p).filled p = true := by
  unfold State.touch
  split
  · assumption
  · simp [State.filled]

/-- Settles O29: the page is zeroed where it is pending, and the bytes are written over it. -/
theorem storedBytesAreReadBack : Obligations.StoredBytesAreReadBack := by
  intro s pa bs hok hpage
  obtain ⟨hd, hh⟩ := s.memoriesOk_iff.1 hok
  have hd' := State.touch_wf (pa / 4096) hd
  refine ⟨(State.memoriesOk_iff _).2 ⟨wf_write hd', ((State.touch_host s _).symm ▸ hh :)⟩, fun a => ?_⟩
  show (if (s.touch (pa / 4096)).filled (a / 4096) then ((s.touch (pa / 4096)).dram.write pa bs).get a else 0) = _
  by_cases inside : pa ≤ a ∧ a < pa + bs.length
  · have page : a / 4096 = pa / 4096 := by omega
    have byte := @get_write_inside bs (s.touch (pa / 4096)).dram pa (a - pa) hd' (by omega)
    rw [dif_pos inside, page, State.touch_filled, if_pos rfl, ← byte, Nat.add_sub_cancel' inside.1]
  · rw [dif_neg inside, get_write_outside hd' (by omega)]
    exact State.touch_dbyte _ a hd

/-! ## What an access charges and brings in (R27, R385, R386) -/

theorem State.charge_changes (s : State) (l : LeafId) (w : Asker) (rs : List (Nat × Nat)) : ∃ r, s.charge l w rs = { s with regs := r } := by
  have takes (u : State) : ∃ r, rs.foldl (fun s r => let x := s.reg l r.1; s.setReg { x with lvl := x.lvl - 8 * (r.2 : Int) }) u
      = { u with regs := r } := by
    induction rs generalizing u with
    | nil => exact ⟨_, rfl⟩
    | cons p rs ih =>
      obtain ⟨r, e⟩ := ih (u.setReg { u.reg l p.1 with lvl := (u.reg l p.1).lvl - 8 * (p.2 : Int) })
      exact ⟨r, e⟩
  obtain ⟨r, e⟩ := takes (s.unhold l w fun _ => false)
  exact ⟨r, e⟩

theorem State.admitFrom_changes (v : VnpuId) (w : Asker) :
    ∀ (rs : List (List (Nat × Nat))) (n : Nat) (s : State), ∃ b r, State.admitFrom v w n rs s = (b, { s with regs := r })
  | [], _, _ => ⟨true, _, rfl⟩
  | q :: rs, n, s => by
    unfold State.admitFrom
    dsimp only
    split
    · exact ⟨false, _, rfl⟩
    · obtain ⟨r, e⟩ := s.charge_changes (s.leafOf v) w q
      obtain ⟨b, r', e'⟩ := State.admitFrom_changes v w rs (n + 1) (s.charge (s.leafOf v) w q)
      exact ⟨b, r', by rw [e', e]⟩

/-- Regulators move as an access asks them, and nothing else does. -/
theorem State.admitSeq_changes (s : State) (v : VnpuId) (w : Asker) (rs : List (List (Nat × Nat))) :
    ∃ b r, s.admitSeq v w rs = (b, { s with regs := r }) := State.admitFrom_changes v w _ _ s

theorem State.admitPart_changes (s : State) (rest : Bool) (v : VnpuId) (w : Asker) (rs : List (List (Nat × Nat))) :
    ∃ b r, s.admitPart rest v w rs = (b, { s with regs := r }) := by
  unfold State.admitPart
  split
  · obtain ⟨r, e⟩ := s.charge_changes (s.leafOf v) w (rs.flatten.filter fun r => decide (r.1 < 96))
    exact ⟨true, r, by rw [e]⟩
  · exact s.admitSeq_changes v w rs

theorem foldl_fillTlb_changes (pages : List (Nat × TlbEntry)) (k : Core) : ∃ t, pages.foldl (fun k e => k.fillTlb e.2) k = { k with tlb := t } := by
  induction pages generalizing k with
  | nil => exact ⟨_, rfl⟩
  | cons p pages ih =>
    obtain ⟨t, e⟩ := ih (k.fillTlb p.2)
    exact ⟨t, e⟩

theorem State.fillTlbs_ctx (s : State) (c : CoreId) (pages : List (Nat × TlbEntry)) (i : CtxId) : (s.fillTlbs c pages).ctx i = s.ctx i :=
  s.ctx_modCore c (fun k => pages.foldl (fun k (e : Nat × TlbEntry) => k.fillTlb e.2) k) i fun k => by
    obtain ⟨t, e⟩ := foldl_fillTlb_changes pages k
    rw [e]; cases i.slot <;> rfl

/-! ## Reads (R4, R234, R244) -/

/-- The state `u` has the memory, the contexts and the messages of `s`. -/
structure State.SameMemory (s u : State) : Prop where
  bytes : ∀ x, u.dbyte x = s.dbyte x
  host : u.host = s.host
  net : u.net = s.net
  ctx : ∀ c, u.ctx c = s.ctx c
  dram : s.dram.wf = true → u.dram.wf = true

theorem State.SameMemory.refl (s : State) : s.SameMemory s := ⟨fun _ => rfl, rfl, rfl, fun _ => rfl, id⟩

theorem State.SameMemory.trans {s u v : State} (a : s.SameMemory u) (b : u.SameMemory v) : s.SameMemory v :=
  ⟨fun x => (b.bytes x).trans (a.bytes x), b.host.trans a.host, b.net.trans a.net, fun c => (b.ctx c).trans (a.ctx c), b.dram ∘ a.dram⟩

/-- A step that leaves memories, pages, messages and contexts alone. -/
theorem State.SameMemory.of_eq {s u : State} (hd : u.dram = s.dram) (hz : u.zeroed = s.zeroed) (hh : u.host = s.host) (hn : u.net = s.net)
    (hc : ∀ c, u.ctx c = s.ctx c) : s.SameMemory u :=
  ⟨fun x => by unfold State.dbyte State.filled; rw [hd, hz], hh, hn, hc, fun h => hd ▸ h⟩

theorem State.SameMemory.touch {s : State} (p : Nat) (h : s.dram.wf = true) : s.SameMemory (s.touch p) :=
  ⟨fun x => State.touch_dbyte p x h, s.touch_host p, s.touch_net p, fun c => by rw [State.ctx, State.core, s.touch_cores p]; rfl,
    fun _ => State.touch_wf p h⟩

theorem State.SameMemory.sliceAccess (s : State) (l : Option LeafId) (line : Nat) (w a : Bool) : s.SameMemory (s.sliceAccess l line w a) :=
  .of_eq rfl rfl rfl rfl fun _ => rfl

theorem State.SameMemory.l1Fill (s : State) (c : CoreId) (line : Nat) : s.SameMemory (s.l1Fill c line) :=
  .of_eq rfl rfl rfl rfl fun i => s.ctx_modCore _ _ i fun k => by cases i.slot <;> rfl
theorem State.SameMemory.l1Evict (s : State) (c : CoreId) (line : Nat) : s.SameMemory (s.l1Evict c line) :=
  .of_eq rfl rfl rfl rfl fun i => s.ctx_modCore _ _ i fun k => by cases i.slot <;> rfl

/-- One line of a read that misses. -/
theorem State.SameMemory.fillLine {s : State} (l : Option LeafId) (c : CoreId) (pa : Nat) (l1 : Bool) (h : s.dram.wf = true) :
    s.SameMemory (let u := (s.touch (pa / 4096)).sliceAccess l (pa / 128) false true
      if l1 then u.l1Fill c (pa / 128) else u.l1Evict c (pa / 128)) := by
  refine (State.SameMemory.touch (pa / 4096) h).trans ((State.SameMemory.sliceAccess _ l (pa / 128) false true).trans ?_)
  split
  · exact .l1Fill _ _ _
  · exact .l1Evict _ _ _

theorem State.SameMemory.fillLines (l : Option LeafId) (c : CoreId) (l1 : Bool) : ∀ (ps : List (Nat × Nat × Nat)) (s : State),
    s.dram.wf = true → s.SameMemory (ps.foldl (fun s p =>
      let u := (s.touch (p.2.1 / 4096)).sliceAccess l (p.2.1 / 128) false true
      if l1 then u.l1Fill c (p.2.1 / 128) else u.l1Evict c (p.2.1 / 128)) s)
  | [], s, _ => .refl s
  | p :: ps, s, h => by
    have head := State.SameMemory.fillLine l c p.2.1 l1 h
    exact head.trans (State.SameMemory.fillLines l c l1 ps _ (head.dram h))

theorem State.SameMemory.charged {s u : State} {b : Bool} {p : Bool × State} (hp : p = (b, u)) (h : ∃ b r, p = (b, { s with regs := r })) :
    s.SameMemory u := by
  obtain ⟨b', r, e⟩ := h
  cases e.symm.trans hp
  exact .of_eq rfl rfl rfl rfl fun _ => rfl

/-- A read that goes through: the state it leaves, and the bytes it takes there. -/
theorem State.loadPart_ok {s u : State} {r : Src} {a : Acc} {cls va n : Nat} {l1 engine rest : Bool} {bs : List Byte}
    (h : s.loadPart r a cls va n l1 engine rest = .ok u bs) (hd : s.dram.wf = true) :
    s.SameMemory u ∧ ∃ pages, s.checkPages a va n = .ok pages
      ∧ (l1 = false → bs = (physPieces pages va n).flatMap fun p => u.dbytes p.2.1 p.2.2) := by
  unfold State.loadPart at h
  split at h
  · cases h
  split at h
  · cases h
  next pages hp =>
  dsimp only at h
  split at h
  · cases h
  split at h
  · cases h
  split at h
  · cases h
  next v hv =>
  cases h
  have charged := State.SameMemory.charged hv (s.admitPart_changes ..)
  have filled : v.SameMemory (v.fillTlbs a.core pages) := .of_eq rfl rfl rfl rfl (v.fillTlbs_ctx a.core pages)
  refine ⟨charged.trans (filled.trans (.fillLines (some (s.leafOf a.vnpu)) a.core l1 _ _ (filled.dram (charged.dram hd)))), pages, hp,
    fun hl => ?_⟩
  subst hl
  rfl

/-- A piece of an access lies within one line. -/
theorem pieces_within : ∀ (k a n : Nat), ∀ p ∈ pieces k a n, p.1 % 128 + p.2 ≤ 128
  | 0, _, _, _, h => by cases h
  | k + 1, a, n, p, h => by
    unfold pieces at h
    split_ifs at h with h0
    · cases h
    · rcases List.mem_cons.1 h with rfl | h
      · dsimp only; omega
      · exact pieces_within k _ _ p h

theorem physPieces_within {pages : List (Nat × TlbEntry)} {va n : Nat} {p : Nat × Nat × Nat} (h : p ∈ physPieces pages va n) :
    p.2.1 % 4096 + p.2.2 ≤ 4096 := by
  obtain ⟨q, hq, hp⟩ := List.mem_filterMap.1 h
  obtain ⟨e, -, rfl⟩ := Option.map_eq_some_iff.1 hp
  have := pieces_within 3 va n q hq
  dsimp only
  omega

theorem State.SameMemory.dbytes {s u : State} (h : s.SameMemory u) {pa n : Nat} (hp : pa % 4096 + n ≤ 4096) : u.dbytes pa n = s.dbytes pa n := by
  rw [State.dbytes_eq _ _ _ hp, State.dbytes_eq _ _ _ hp]
  exact List.map_congr_left fun k _ => h.bytes _

theorem leNat_lt : ∀ bs : List Byte, leNat bs < 256 ^ bs.length
  | [] => by decide
  | b :: bs => by
    have := leNat_lt bs
    have := b.isLt
    rw [leNat, List.length_cons, pow_succ]
    omega

theorem sextAt_toInt (w : Word) (b : Nat) : (sextAt w b).toInt = (((w.toNat <<< (63 - b) : Nat) : Int).bmod (2 ^ 64)) / 2 ^ (63 - b) := by
  rw [sextAt, BitVec.toInt_sshiftRight, BitVec.toInt_shiftLeft, Int.shiftRight_eq_div_pow]
  norm_cast

theorem sizeBytes_cases (z : BitVec 2) : sizeBytes z = 1 ∨ sizeBytes z = 2 ∨ sizeBytes z = 4 ∨ sizeBytes z = 8 := by
  revert z; decide

/-- A loaded value of `n` bytes with SX is their two's complement. -/
theorem loadValue_sext {n v : Nat} (hn : n = 1 ∨ n = 2 ∨ n = 4 ∨ n = 8) (hv : v < 256 ^ n) :
    (if decide (2 ^ (8 * n - 1) ≤ v) then BitVec.ofInt 64 ((v : Int) - 2 ^ (8 * n)) else BitVec.ofNat 64 v : Word)
      = sextAt (BitVec.ofNat 64 v) (8 * n - 1) := by
  apply BitVec.eq_of_toInt_eq
  rw [sextAt_toInt]
  rcases hn with rfl | rfl | rfl | rfl <;>
    norm_num [Nat.shiftLeft_eq, Int.bmod_def, apply_ite BitVec.toInt, BitVec.toInt_ofInt, BitVec.toInt_ofNat'] at hv ⊢ <;>
    split_ifs <;> omega
/-- Settles O26: a read brings lines in (`State.loadPart_ok`), which moves no byte. -/
theorem aLoadReadsAndKeepsMemory : Obligations.ALoadReadsAndKeepsMemory := by
  refine ⟨fun s u r a cls va n l1 bs h hok => ?_, fun z sx bs hl => ⟨fun hs => ?_, fun hs => ?_⟩⟩
  · obtain ⟨hd, hh⟩ := s.memoriesOk_iff.1 hok
    obtain ⟨same, pages, hp, hb⟩ := State.loadPart_ok h hd
    refine ⟨same.bytes, same.host, same.net, same.ctx, u.memoriesOk_iff.2 ⟨same.dram hd, same.host ▸ hh⟩, fun pages' hp' h1 => ?_⟩
    cases hp.symm.trans hp'
    rw [hb h1, List.flatMap_def, List.flatMap_def]
    exact congrArg List.flatten (List.map_congr_left fun p hp => same.dbytes (physPieces_within hp))
  · have width := sizeBytes_cases z
    have bound := leNat_lt bs
    have small : leNat bs < 2 ^ 64 := by
      rw [hl] at bound
      rcases width with e | e | e | e <;> rw [e] at bound <;> omega
    rw [loadValue, hs, Bool.false_and, if_neg Bool.false_ne_true, BitVec.toNat_ofNat, Nat.mod_eq_of_lt small]
  · rw [loadValue, hs, Bool.true_and]
    exact loadValue_sext (sizeBytes_cases z) (hl ▸ leNat_lt bs)

/-! ## Loads and stores (R36, R226, R227, R244, R250) -/

theorem baseUpdate_plain (a : Reg) (wb : Option Word) : ∀ l ∈ baseUpdate a wb, l.reg < 72 ∧ l.flags = 0 := by
  cases wb with
  | none => exact no_results
  | some v =>
    intro l hl
    rw [List.mem_singleton.1 hl]
    exact ⟨(gNum_lt a).trans (by decide), rfl⟩

theorem results_append {u w : List Landing} (hu : ∀ l ∈ u, l.reg < 72 ∧ l.flags = 0) (hw : ∀ l ∈ w, l.reg < 72 ∧ l.flags = 0) :
    ∀ l ∈ u ++ w, l.reg < 72 ∧ l.flags = 0 := fun l hl => (List.mem_append.1 hl).elim (hu l) (hw l)

/-- A control word whose meaning is one access: it completes with what follows, traps, or waits. -/
theorem exec_of_access {i : Instr} {p : Pred} {l : Limit} {ops : List Nat} {body : State → Ctx → Ans} {s : State} {α : Type} {r : AccRes α}
    {k : State → α → Ans} (run : exec i s = ctl i p l ops body s) (hp : ctlParts i = some (p, l, ops)) (hi : s.issues i = true)
    (hb : body s (s.ctx s.me) = r.then s k) :
    (∀ u v t w pc, r = .ok u v → k u v = .done t w pc 1 → (∀ l ∈ w, l.reg < 72 ∧ l.flags = 0) → Completes i s t w pc)
      ∧ (∀ t, r = .trap t → exec i s = .next (s.raise s.me t)) ∧ (∀ u, r = .stall u → exec i s = .next u) := by
  refine ⟨fun u v t w pc hr hk hw => ?_, fun t hr => ?_, fun u hr => ?_⟩
  · exact Completes.of_done run hp hi (by rw [hb, hr]; exact hk) hw
  · rw [run, ctl_issued hp hi, hb, hr]; rfl
  · rw [run, ctl_issued hp hi, hb, hr]; rfl

/-- Settles O25: each of the loads is one read, whose bytes it takes. -/
theorem loadsTakeTheBytesRead : Obligations.LoadsTakeTheBytesRead := by
  intro s i cls ea n l1 h hi
  cases i
  case ld p d m sx =>
    cases h
    obtain ⟨done, traps, waits⟩ := exec_of_access (exec_ld p d m sx s) rfl hi rfl
    exact ⟨fun u bs hl => done u bs _ _ _ hl rfl (results_append (baseUpdate_plain _ _) (res_plain d _)), traps, waits⟩
  case ldAcq p d m sx scope =>
    cases h
    obtain ⟨done, traps, waits⟩ := exec_of_access (exec_ldAcq p d m sx scope s) rfl hi rfl
    exact ⟨fun u bs hl => done u bs _ _ _ hl rfl (results_append (baseUpdate_plain _ _) (res_plain d _)), traps, waits⟩
  case rbld p a off b =>
    simp only [loadOf] at h
    split_ifs at h with h64
    cases h
    obtain ⟨done, traps, waits⟩ := exec_of_access (exec_rbld p a off b s) rfl hi (if_neg (not_not.2 h64))
    exact ⟨fun u bs hl => done u bs _ _ _ hl rfl no_results, traps, waits⟩
  -- No other instruction is in the table.
  all_goals cases h

theorem State.Closes.myAcc {s t : State} (h : s.Closes t) (w : Bool) : t.myAcc w = s.myAcc w := by
  obtain ⟨x, hx⟩ := h.2
  simp only [State.myAcc, h.me, h.1, hx]

/-- The phase of a word that has not closed it is closed, and what follows goes on at once. -/
theorem State.closeOnce_fresh {s u : State} (hf : ∀ n, (s.ctx s.me).stage ≠ .closed n)
    (hc : s.closePhase (.ctx s.me) (s.ctx s.me).vnpu = some u) :
    s.Closes (u.upd fun c => { c with stage := .closed (u.phases (.ctx s.me)).closed })
      ∧ ∀ k, s.closeOnce k = k (u.upd fun c => { c with stage := .closed (u.phases (.ctx s.me)).closed }) (u.phases (.ctx s.me)).closed := by
  have me : u.me = s.me := by
    obtain ⟨p, net, n, rfl⟩ := State.closePhase_changes hc
    exact congrArg (fun a : Cur => (⟨a.core, a.slot⟩ : CtxId)) (s.setPhases_cur _ p)
  have keeps := State.Closes.of_closePhase hc (.closed (u.phases (.ctx s.me)).closed)
  rw [State.upd, me]
  refine ⟨keeps, fun k => ?_⟩
  unfold State.closeOnce
  split
  · next n hn => exact absurd hn (hf n)
  · rw [State.closeOnly, hc]
    dsimp only
    rw [me]

/-- Settles O27: ST and RBST are one access; ST.REL checks its pages, closes its phase and then is one. -/
theorem storesSendTheirBytes : Obligations.StoresSendTheirBytes := by
  intro s i cls ea bs h hi
  cases i
  case st p d m =>
    cases h
    obtain ⟨done, traps, -⟩ := exec_of_access (exec_st p d m s) rfl hi rfl
    exact ⟨fun _ => ⟨fun u hl => done u () _ _ _ hl rfl (baseUpdate_plain _ _), traps⟩, fun ⟨_, _, _, _, e⟩ => by cases e⟩
  case rbst p a off b =>
    simp only [storeOf] at h
    split_ifs at h with h64
    cases h
    obtain ⟨done, traps, -⟩ := exec_of_access (exec_rbst p a off b s) rfl hi (if_neg (not_not.2 h64))
    exact ⟨fun _ => ⟨fun u hl => done u () _ _ _ hl rfl no_results, traps⟩, fun ⟨_, _, _, _, e⟩ => by cases e⟩
  case stRel p d m sc =>
    cases h
    refine ⟨fun e => absurd rfl (e p d m sc), fun _ => ⟨fun hh => ?_, fun pages u t hh hp hf hc hs => ?_, fun e hh hp => ?_⟩⟩
    · rw [exec_stRel, execStRel, ctl_issued rfl hi]
      exact congrArg (fun b : Ans => Host.Outcome.next (b.state s.me)) (if_pos hh)
    · obtain ⟨keeps, run⟩ := State.closeOnce_fresh hf hc
      refine Completes.of_done (exec_stRel p d m sc s) rfl hi ?_ (baseUpdate_plain _ _)
      simp only [wordBytes, hh, hp, Bool.false_eq_true, if_false]
      rw [run, keeps.me, keeps.myAcc, hs]; rfl
    · rw [exec_stRel, execStRel, ctl_issued rfl hi]
      simp only [wordBytes, hh, hp, Bool.false_eq_true, if_false]; rfl
  -- No other instruction is in the table.
  all_goals cases h

theorem State.prefetch_ne_trap (s : State) (ea : Nat) (t : Trap) : s.prefetch ea ≠ .trap t := by
  intro h
  unfold State.prefetch at h
  dsimp only at h
  split at h
  · cases h
  split at h
  · cases h
  split at h
  · cases h
  split at h
  · cases h
  split at h
  · cases h
  split at h <;> cases h

/-- Settles O30: a prefetch answers or waits, and traps in no case. -/
theorem prefetchNeverTraps : Obligations.PrefetchNeverTraps := by
  intro s p a mode cls hi
  obtain ⟨done, -, waits⟩ := exec_of_access (exec_pf p a mode cls s) rfl hi rfl
  refine ⟨fun u h => done u () _ _ _ h rfl (baseUpdate_plain _ _), fun t h => ?_, waits, fun e he hw => ?_⟩
  · exact s.prefetch_ne_trap _ t h
  · simp only [State.prefetch, hw, he, Bool.false_eq_true, if_false]

/-! ## The messages of a store (R25, R226, R244) -/

theorem getKey_putKey {β : Type} (k n : Nat) (v : β) (l : List (Nat × β)) : getKey n (putKey k v l) = if n = k then some v else getKey n l := by
  unfold getKey putKey
  by_cases h : n = k
  · subst h; simp
  · have other : ∀ e ∈ l, decide ((!(e.1 == k)) = true ∧ (e.1 == n) = true) = (e.1 == n) := fun e _ => by
      by_cases hn : e.1 = n
      · simp [hn, h]
      · simp [hn]
    rw [if_neg h, List.find?_cons_of_neg (by simpa using fun e => h e.symm), List.find?_filter]
    exact congrArg (Option.map _) (List.find?_congr other)

theorem State.phases_setPhases_self (s : State) (r : Src) (p : Phases) : (s.setPhases r p).phases r = p := by
  unfold State.setPhases State.phases
  cases srcCore r with
  | none => rfl
  | some c =>
    dsimp only
    rw [State.core_modCore]
    exact getSetSelf _ _ _

/-- The phases of a source once a write to a target is counted. -/
def Phases.counted (p : Phases) (target : Nat) : Phases :=
  { p with counts := putKey target ((getKey target p.counts).getD 0 + 1) p.counts }

/-- A counted message that finds room in its phase. -/
theorem State.sendCounted_room {s : State} {r : Src} {cls target : Nat} {v : VnpuId} {body : Nat → Payload}
    (h : (getKey target (s.phases r).counts).getD 0 < 65535) :
    s.sendCounted r cls target v body = some ((s.setPhases r ((s.phases r).counted target)).post
      ((s.setPhases r ((s.phases r).counted target)).mkMsg r cls target (s.phases r).closed v (body (s.phases r).closed))) := by
  simp only [State.sendCounted, State.countSent, decide_eq_false (Nat.not_le.2 h), Bool.false_eq_true, if_false, Option.map_some,
    State.phases_setPhases_self, Phases.counted]

/-- The bytes that a message writes. -/
def Msg.bytes (m : Msg) : List Byte := match m.body with | .write ps _ _ _ => ps.flatMap (·.2) | _ => []

/-- Where a message of one part writes, and how many bytes. -/
def Msg.span (m : Msg) : Nat × Nat := match m.body with | .write [(pa, b)] _ _ _ => (pa, b.length) | _ => (0, 0)

/-- The message is a write of one part of the class and phase, at the home slice of its line. -/
def Msg.writesPart (m : Msg) (r : Src) (cls phase after : Nat) (alloc : Bool) (tag : Option LineTag) : Prop :=
  m.src = r ∧ m.cls = cls ∧ m.phase = phase
    ∧ ∃ pa b, m.body = .write [(pa, b)] after alloc tag ∧ m.target = (homeSlice (pa / 128)).val

/-- One piece of a store sent: the messages so far, and the bytes that are left. -/
def sendPiece (r : Src) (cls : Nat) (v : VnpuId) (after : Nat) (alloc : Bool) (tag : Option LineTag) (x : Option State × List Byte)
    (p : Nat × Nat × Nat) : Option State × List Byte :=
  (x.1.bind fun s => s.sendCounted r cls (homeSlice (p.2.1 / 128)).val v fun _ => .write [(p.2.1, x.2.take p.2.2)] after alloc tag,
    x.2.drop p.2.2)

/-- The state in which a part of a write is sent in the current phase of its source. -/
def State.sentPart (s : State) (r : Src) (cls : Nat) (v : VnpuId) (after : Nat) (alloc : Bool) (tag : Option LineTag) (pa : Nat)
    (b : List Byte) : State :=
  let u := s.setPhases r ((s.phases r).counted (homeSlice (pa / 128)).val)
  u.post (u.mkMsg r cls (homeSlice (pa / 128)).val (s.phases r).closed v (.write [(pa, b)] after alloc tag))

theorem State.sentPart_phases (s : State) (r : Src) (cls : Nat) (v : VnpuId) (after : Nat) (alloc : Bool) (tag : Option LineTag) (pa : Nat)
    (b : List Byte) : (s.sentPart r cls v after alloc tag pa b).phases r = (s.phases r).counted (homeSlice (pa / 128)).val :=
  State.phases_setPhases_self s r _

theorem State.sentPart_keeps (s : State) (r : Src) (cls : Nat) (v : VnpuId) (after : Nat) (alloc : Bool) (tag : Option LineTag) (pa : Nat)
    (b : List Byte) : (s.sentPart r cls v after alloc tag pa b).dram = s.dram ∧ (s.sentPart r cls v after alloc tag pa b).zeroed = s.zeroed
      ∧ (s.sentPart r cls v after alloc tag pa b).host = s.host := by
  unfold State.sentPart State.setPhases
  split <;> exact ⟨rfl, rfl, rfl⟩

theorem State.sentPart_net (s : State) (r : Src) (cls : Nat) (v : VnpuId) (after : Nat) (alloc : Bool) (tag : Option LineTag) (pa : Nat)
    (b : List Byte) : ∃ m, (s.sentPart r cls v after alloc tag pa b).net = s.net ++ [m] ∧ m.bytes = b ∧ m.span = (pa, b.length)
      ∧ m.writesPart r cls (s.phases r).closed after alloc tag := by
  refine ⟨_, congrArg (· ++ [_]) (s.setPhases_net r _), ?_, rfl, rfl, rfl, rfl, pa, b, rfl, rfl⟩
  exact List.append_nil b

theorem sendPieces_sent (r : Src) (cls : Nat) (v : VnpuId) (after : Nat) (alloc : Bool) (tag : Option LineTag) :
    ∀ (ps : List (Nat × Nat × Nat)) (bs : List Byte) (s u : State), (ps.foldl (sendPiece r cls v after alloc tag) (some s, bs)).1 = some u →
      (ps.map fun p => p.2.2).sum = bs.length → (∀ t, (getKey t (s.phases r).counts).getD 0 + ps.length ≤ 65535) →
      ∃ sent, u.net = s.net ++ sent ∧ sent.flatMap Msg.bytes = bs ∧ sent.map Msg.span = ps.map (fun p => (p.2.1, p.2.2))
        ∧ (∀ m ∈ sent, m.writesPart r cls (s.phases r).closed after alloc tag)
        ∧ u.dram = s.dram ∧ u.zeroed = s.zeroed ∧ u.host = s.host
  | [], bs, s, u, h, hs, _ => by
    cases h
    have none : bs = [] := List.length_eq_zero_iff.1 (by simpa using hs.symm)
    exact ⟨[], (List.append_nil _).symm, by rw [none]; rfl, rfl, by simp, rfl, rfl, rfl⟩
  | p :: ps, bs, s, u, h, hs, hc => by
    have room : (getKey (homeSlice (p.2.1 / 128)).val (s.phases r).counts).getD 0 < 65535 := by
      have := hc (homeSlice (p.2.1 / 128)).val
      rw [List.length_cons] at this
      omega
    rw [List.map_cons, List.sum_cons] at hs
    have first : sendPiece r cls v after alloc tag (some s, bs) p
        = (some (s.sentPart r cls v after alloc tag p.2.1 (bs.take p.2.2)), bs.drop p.2.2) :=
      Prod.ext (@State.sendCounted_room s r cls _ v (fun _ => .write [(p.2.1, bs.take p.2.2)] after alloc tag) room) rfl
    rw [List.foldl_cons, first] at h
    have phases := s.sentPart_phases r cls v after alloc tag p.2.1 (bs.take p.2.2)
    obtain ⟨sent, hn, hb, hp, hm, hd, hz, hh⟩ := sendPieces_sent r cls v after alloc tag ps _ _ u h (by rw [List.length_drop]; omega) (by
      intro t
      have := hc t
      rw [List.length_cons] at this
      rw [phases, Phases.counted, getKey_putKey]
      split_ifs with e
      · subst e; rw [Option.getD_some]; omega
      · omega)
    obtain ⟨m, mn, mb, mp, mw⟩ := s.sentPart_net r cls v after alloc tag p.2.1 (bs.take p.2.2)
    obtain ⟨kd, kz, kh⟩ := s.sentPart_keeps r cls v after alloc tag p.2.1 (bs.take p.2.2)
    refine ⟨m :: sent, by rw [hn, mn, List.append_assoc]; rfl, ?_, ?_, ?_, hd.trans kd, hz.trans kz, hh.trans kh⟩
    · rw [List.flatMap_cons, mb, hb, List.take_append_drop]
    · rw [List.map_cons, List.map_cons, mp, hp, List.length_take, Nat.min_eq_left (by omega)]
    · intro x hx
      rcases List.mem_cons.1 hx with rfl | hx
      · exact mw
      · have := hm x hx
        rwa [phases] at this

theorem State.phases_modCore (s : State) (c : CoreId) (f : Core → Core) (r : Src) (h : ∀ k, (f k).phases = k.phases) :
    (s.modCore c f).phases r = s.phases r := by
  unfold State.phases
  split
  · next d _ =>
    by_cases hd : d = c
    · subst hd; rw [State.core_modCore, h]
    · rw [State.core_modCore_other _ _ _ _ hd]
  · rfl

theorem State.fillTlbs_phases (s : State) (c : CoreId) (pages : List (Nat × TlbEntry)) (r : Src) :
    (s.fillTlbs c pages).phases r = s.phases r :=
  s.phases_modCore c (fun k => pages.foldl (fun k (e : Nat × TlbEntry) => k.fillTlb e.2) k) r fun k => by
    obtain ⟨t, e⟩ := foldl_fillTlb_changes pages k
    rw [e]

theorem pieces_length : ∀ k a n : Nat, (pieces k a n).length ≤ k
  | 0, _, _ => Nat.le_refl 0
  | k + 1, a, n => by
    unfold pieces
    split_ifs
    · exact Nat.zero_le _
    · exact Nat.succ_le_succ (pieces_length k _ _)

theorem physPieces_length (pages : List (Nat × TlbEntry)) (va n : Nat) : (physPieces pages va n).length ≤ 3 :=
  (List.length_filterMap_le _ _).trans (pieces_length 3 va n)

/-- Settles O28: the pieces of a store are sent one by one (`sendPieces_sent`). -/
theorem messagesCarryTheStoredBytes : Obligations.MessagesCarryTheStoredBytes := by
  intro s u r a cls va bs after alloc tag pages h hp hs _ hc
  unfold State.storeMsg at h
  split at h
  · cases h
  rw [hp] at h
  dsimp only at h
  split at h
  · cases h
  split at h
  · cases h
  next v hv =>
  split at h
  next w hw =>
    cases h
    obtain ⟨b, regs, admitted⟩ := s.admitSeq_changes a.vnpu (s.asker r) ((physPieces pages va bs.length).map fun p => [(a.core.val, p.2.2)])
    obtain rfl : v = { s with regs := regs } := congrArg Prod.snd (hv.symm.trans admitted)
    have phases : (({ s with regs := regs } : State).fillTlbs a.core pages).phases r = s.phases r := State.fillTlbs_phases _ _ _ _
    obtain ⟨sent, hn, hb, hp, hm, hd, hz, hh⟩ := sendPieces_sent r cls a.vnpu after alloc tag _ _ _ _ hw hs fun t => by
      have := hc t
      have := physPieces_length pages va bs.length
      rw [phases]
      omega
    refine ⟨⟨sent, hn, hb, hp, fun m hx => ?_⟩, fun x => ?_, hh⟩
    · obtain ⟨h1, h2, h3, h4⟩ := hm m hx
      exact ⟨h1, h2, h3.trans (congrArg Phases.closed phases), h4⟩
    · unfold State.dbyte State.filled
      rw [hd, hz]; rfl
  next => cases h

/-! ## The Pantry (R118, R208, R213, R248) -/

theorem State.pantryTrap_none {s : State} {ea n : Nat} (h : ea + n ≤ 0x100000) (hf : (s.core s.cur.core).firstNotHeld s.cur.slot ea n = none) :
    s.pantryTrap ea n = none := by
  rw [State.pantryTrap, if_neg (Nat.not_lt.2 h), hf]; rfl
theorem State.pantryTrap_outside {s : State} {ea n : Nat} (h : 0x100000 < ea + n) :
    s.pantryTrap ea n = some { cause := 0x05, eaddr := BitVec.ofNat 64 ea } := if_pos h
theorem State.pantryTrap_notHeld {s : State} {ea n b : Nat} (h : ea + n ≤ 0x100000)
    (hf : (s.core s.cur.core).firstNotHeld s.cur.slot ea n = some b) :
    s.pantryTrap ea n = some { cause := 0x05, eaddr := BitVec.ofNat 64 b } := by
  rw [State.pantryTrap, if_neg (Nat.not_lt.2 h), hf]; rfl

theorem leBytes_length : ∀ n v : Nat, (leBytes n v).length = n
  | 0, _ => rfl
  | n + 1, v => by rw [leBytes, List.length_cons, leBytes_length n]

theorem Mem.read_length (m : Mem) (a n : Nat) : (m.read a n).length = n := by rw [Mem.read_eq, List.length_map, List.length_range]

/-- The bytes that an STP replaced, seen in their place. -/
theorem PendStore.over_self (ea k : Nat) (old bs : List Byte) (h : bs.length = old.length) : PendStore.over ⟨ea, old, k⟩ ea bs = old := by
  refine List.ext_getElem (by rw [PendStore.over, List.length_mapIdx, h]) fun i h1 h2 => ?_
  simp only [PendStore.over, List.getElem_mapIdx, Nat.le_add_right, if_true, Nat.add_sub_cancel_left, List.getElem?_eq_getElem h2,
    Option.getD_some]

theorem State.finish_stps (s : State) (w : List Landing) (pc : Option Word) (n : Nat) :
    ((s.finish w pc n).ctx s.me).stps = ((s.ctx s.me).ageStps n).stps := by
  obtain ⟨b, v, h⟩ := State.unblockCtx_ctx s s.me
  rw [State.finish, State.ctx_modCtx, (Ctx.complete_keep _ w pc n).2.2.2, h]
  rfl

theorem State.store_wf {s : State} (h : s.storesOk = true) (c : CoreId) : (s.core c).store.wf = true :=
  List.all_eq_true.1 h _ (Vector.getElem_mem _ |> Vector.mem_toList_iff.2)

theorem State.pantryWrite_ctx_stps (s : State) (i : CtxId) (ea : Nat) (bs : List Byte) :
    ((s.pantryWrite i ea bs).ctx i).stps = (s.ctx i).stps ++ [⟨ea, (s.core i.core).store.read ea bs.length, 2⟩] := by
  rw [State.pantryWrite, State.ctx_modCtx]
  show ((s.modCore i.core fun k => k.lstore ea bs).ctx i).stps ++ _ = _
  rw [s.ctx_modCore i.core _ i fun k => by cases i.slot <;> rfl]

theorem State.pantryWrite_store (s : State) (i : CtxId) (ea : Nat) (bs : List Byte) :
    ((s.pantryWrite i ea bs).core i.core).store = (s.core i.core).store.write ea bs := by
  rw [State.pantryWrite, State.modCtx, State.core_setCtx, Core.setCtx_store, State.core_modCore]; rfl

/-- The bytes of an STP are in the store as it completes; the next LDP reads those before it, and any later one its own (R118). -/
theorem State.pantryWrite_seen (s : State) (ea : Nat) (w : List Landing) {n : Nat} {bs : List Byte} (hn : bs.length = n)
    (hw : (s.core s.cur.core).store.wf = true) (hs : (s.ctx s.me).stps = []) :
    (((s.pantryWrite s.me ea bs).finish w none 1).core s.cur.core).store.read ea n = bs
      ∧ (∀ x, (x < ea ∨ ea + n ≤ x) → (((s.pantryWrite s.me ea bs).finish w none 1).core s.cur.core).store.get x
          = (s.core s.cur.core).store.get x)
      ∧ ((s.pantryWrite s.me ea bs).finish w none 1).pantryRead s.me ea n = (s.core s.cur.core).store.read ea n
      ∧ ∀ v pc j, (((s.pantryWrite s.me ea bs).finish w none 1).finish v pc (j + 1)).pantryRead s.me ea n = bs := by
  subst hn
  have stps : (((s.pantryWrite s.me ea bs).finish w none 1).ctx s.me).stps = [⟨ea, (s.core s.cur.core).store.read ea bs.length, 1⟩] := by
    refine (State.finish_stps (s.pantryWrite s.me ea bs) w none 1).trans ?_
    rw [Ctx.ageStps]
    show ((((s.pantryWrite s.me ea bs).ctx s.me).stps.map _).filter _) = _
    rw [s.pantryWrite_ctx_stps, hs]; rfl
  have store : (((s.pantryWrite s.me ea bs).finish w none 1).core s.cur.core).store = (s.core s.cur.core).store.write ea bs :=
    (State.finish_store _ _ _ _ _).trans (s.pantryWrite_store s.me ea bs)
  refine ⟨by rw [store, read_write hw], fun x hx => by rw [store, get_write_outside hw hx], ?_, fun v pc j => ?_⟩
  · rw [State.pantryRead, stps, List.foldr_cons, List.foldr_nil]
    exact PendStore.over_self ea 1 _ _ (by rw [Mem.read_length, Mem.read_length])
  · have me : ((s.pantryWrite s.me ea bs).finish w none 1).me = s.me := State.finish_me _ _ _ _
    have later := State.finish_stps ((s.pantryWrite s.me ea bs).finish w none 1) v pc (j + 1)
    rw [me, Ctx.ageStps, stps] at later
    rw [State.pantryRead, later]
    simp only [List.map_cons, List.map_nil, Nat.le_add_left, Nat.sub_eq_zero_of_le]
    show ((((s.pantryWrite s.me ea bs).finish w none 1).finish v pc (j + 1)).core s.cur.core).store.read ea bs.length = bs
    rw [State.finish_store, store, read_write hw]

/-- Settles O31: an LDP reads the store but for the STPs of the tick before, and an STP writes it. -/
theorem pantryWords : Obligations.PantryWords := by
  refine ⟨fun s p d a mode z sx hi => ?_, fun s p d a mode z hi => ?_⟩
  · dsimp only
    refine ⟨fun h hf hp hl => ?_, fun h hf hp hl => ⟨?_, fun hs => ?_⟩, fun h => ?_, fun b h hf => ?_, fun b h hf hp => ?_⟩
    · rw [exec_ldp, execLdp, ctl_issued rfl hi]
      simp only [State.pantryTrap_none h hf, hp, hl, if_true]; rfl
    · refine Completes.of_done (exec_ldp p d a mode z sx s) rfl hi ?_ (results_append (baseUpdate_plain _ _) fun l hl => ?_)
      · simp only [State.pantryTrap_none h hf, hp, hl, Bool.false_eq_true, if_false]
      · rw [List.mem_singleton.1 hl]
        exact ⟨(gNum_lt d).trans (by decide), rfl⟩
    · rw [State.pantryRead, hs]; rfl
    · rw [exec_ldp, execLdp, ctl_issued rfl hi]
      simp only [State.pantryTrap_outside h]; rfl
    · rw [exec_ldp, execLdp, ctl_issued rfl hi]
      simp only [State.pantryTrap_notHeld h hf]; rfl
    · rw [exec_ldp, execLdp, ctl_issued rfl hi]
      simp only [State.pantryTrap_none h hf, hp]; rfl
  · dsimp only
    have run (h : ((s.ctx s.me).ea a mode).1.toNat + sizeBytes z ≤ 0x100000)
        (hf : (s.core s.cur.core).firstNotHeld s.cur.slot ((s.ctx s.me).ea a mode).1.toNat (sizeBytes z) = none)
        (hl : s.lateClass (.ctx s.me) 0 = false) : Completes (.stp p d a mode z) s
          (s.pantryWrite s.me ((s.ctx s.me).ea a mode).1.toNat (leBytes (sizeBytes z) ((s.ctx s.me).rd d).toNat))
          (baseUpdate a ((s.ctx s.me).ea a mode).2) none := by
      refine Completes.of_done (exec_stp p d a mode z s) rfl hi ?_ (baseUpdate_plain _ _)
      simp only [State.pantryTrap_none h hf, hl, Bool.false_eq_true, if_false]; rfl
    refine ⟨fun h hf hl => ?_, run, fun h hf hl hok hs => ?_, fun h => ?_, fun b h hf => ?_⟩
    · rw [exec_stp, execStp, ctl_issued rfl hi]
      simp only [State.pantryTrap_none h hf, hl, if_true]; rfl
    · exact ⟨_, (run h hf hl).1, s.pantryWrite_seen _ _ (leBytes_length _ _) (State.store_wf hok _) hs⟩
    · rw [exec_stp, execStp, ctl_issued rfl hi]
      simp only [State.pantryTrap_outside h]; rfl
    · rw [exec_stp, execStp, ctl_issued rfl hi]
      simp only [State.pantryTrap_notHeld h hf]; rfl

end Sys2Proof.Machine

/-! Queues, system registers, the semaphore map, and operands that a rule refuses (R45, R76, R252, R253, R259-R262, R433). -/

namespace Sys2Proof.Machine

/-! ## System registers (R76, R433) -/

/-- A system register keeps what MTS gives it. -/
theorem State.sysWrite_written (s : State) (n : SReg) (w : Word) : sysWritten (s.sysWrite s.me n w) n w := by
  have own (c : Ctx) : ((s.setCtx s.me c).ctx s.me) = c := State.ctx_setCtx s s.me c
  cases n
  case pace e => exact (congrArg (fun c : Ctx => c.pace.get (Eng.fin e)) (own _)).trans (getSetSelf _ _ _)
  case fsr =>
    show ((s.setCtx s.me _).ctx s.me).fsr = w ||| ((s.setCtx s.me _).ctx s.me).tickFlags.setWidth 64
    rw [own]
  case evec => exact congrArg Vnpu.evec (State.vnpu_modVnpu s _ _)
  case ctxsave => exact congrArg Vnpu.ctxsave (State.vnpu_modVnpu s _ _)
  case wftstat => exact congrArg LeafState.wftstat (State.leaf_modLeaf s _ _)
  case prio => exact congrArg Ctx.prioBase (own _)
  case liveset => exact congrArg Ctx.liveset (own _)
  case fcr => exact congrArg Ctx.fcr (own _)
  case debug => exact congrArg Ctx.debug (own _)
  case boost => exact congrArg Ctx.boost (own _)
  case epc => exact congrArg Ctx.epc (own _)
  case efrom => exact congrArg Ctx.efrom (own _)
  case ecause => exact congrArg Ctx.ecause (own _)
  case eaddr => exact congrArg Ctx.eaddr (own _)
  case einfo => exact congrArg Ctx.einfo (own _)
  case estat => exact congrArg Ctx.estat (own _)
  case sscratch => exact congrArg Ctx.sscratch (own _)
  case tentab => exact congrArg Ctx.tentab (own _)
  case tenlim => exact congrArg Ctx.tenlim (own _)
  -- The rest are read-only.
  all_goals trivial

/-- What an MTS of any form does. -/
theorem exec_of_mts {i : Instr} {p : Pred} {l : Limit} {ops : List Nat} {body : State → Ctx → Ans} {s : State} {n : SReg} {a : Reg}
    (run : exec i s = ctl i p l ops body s) (hp : ctlParts i = some (p, l, ops)) (hi : s.issues i = true)
    (hb : body s (s.ctx s.me) = mts i n a s (s.ctx s.me)) :
    (sysOk n ((s.ctx s.me).rd a) = true → Completes i s (s.sysWrite s.me n ((s.ctx s.me).rd a)) [] none)
      ∧ (sysOk n ((s.ctx s.me).rd a) = false → exec i s = .next (s.raise s.me { cause := 0x02, einfo := (encodeCtl i).getD 0 })) := by
  refine ⟨fun h => Completes.of_done run hp hi (hb.trans (if_pos h)) no_results, fun h => ?_⟩
  rw [run, ctl_issued hp hi, hb, mts, h]; rfl

/-- Settles O33: the three forms of MTS take one effect. -/
theorem mtsWritesTheRegister : Obligations.MtsWritesTheRegister := by
  intro s i n w h hi
  cases i
  case mts p m a =>
    cases h
    obtain ⟨done, traps⟩ := exec_of_mts (exec_mts p n a s) rfl hi rfl
    exact ⟨fun hok => ⟨done hok, s.sysWrite_written n _⟩, traps⟩
  case evecWrite p a =>
    cases h
    obtain ⟨done, traps⟩ := exec_of_mts (exec_evecWrite p a s) rfl hi rfl
    exact ⟨fun hok => ⟨done hok, s.sysWrite_written .evec _⟩, traps⟩
  case ctxsaveWrite p a =>
    cases h
    obtain ⟨done, traps⟩ := exec_of_mts (exec_ctxsaveWrite p a s) rfl hi rfl
    exact ⟨fun hok => ⟨done hok, s.sysWrite_written .ctxsave _⟩, traps⟩
  -- No other instruction is in the table.
  all_goals cases h

/-! ## The semaphore map (R259-R262) -/

theorem fld_low (w : Word) : fld w 5 0 = w.toNat % 64 := by simp [fld, bits]

/-- Settles O34: the checks of SEMMAP in their order. -/
theorem semmapWritesTheMap : Obligations.SemmapWritesTheMap := by
  refine ⟨fun s p n a hi => ?_, fun s p n a hn => ⟨fun hi => ?_, fun hi => ?_⟩⟩
  · dsimp only
    refine ⟨fun h0 h1 => ?_, fun h0 h1 h2 => ?_, fun h0 h1 h2 => ?_, fun h0 => ?_⟩
    · refine Completes.of_done (exec_semmap p n a s) rfl hi ?_ no_results
      simp only [h0, h1, ne_eq, not_true_eq_false, if_false, if_true]; rfl
    · refine Completes.of_done (exec_semmap p n a s) rfl hi ?_ no_results
      rw [← fld_low]
      simp only [h0, h1, h2, ne_eq, not_true_eq_false, Bool.not_true, Bool.false_eq_true, if_false]; rfl
    · rw [exec_semmap, execSemmap, ctl_issued rfl hi, ← fld_low]
      simp only [h0, h1, h2, ne_eq, not_true_eq_false, Bool.not_false, Bool.false_eq_true, if_false, if_true]; rfl
    · rw [exec_semmap, execSemmap, ctl_issued rfl hi]
      simp only [h0, ne_eq, not_false_eq_true, if_true]; rfl
  · rw [exec_seminc, execSeminc, ctl_issued rfl hi]
    simp only [hn]; rfl
  · rw [exec_semwait, execSemwait, ctl_issued rfl hi]
    simp only [hn]; rfl

/-! ## Operands that a rule refuses -/

/-- A control word whose meaning traps. -/
theorem exec_of_trap {i : Instr} {p : Pred} {l : Limit} {ops : List Nat} {body : State → Ctx → Ans} {s : State} {t : Trap}
    (run : exec i s = ctl i p l ops body s) (hp : ctlParts i = some (p, l, ops)) (hi : s.issues i = true)
    (hb : body s (s.ctx s.me) = .trap s t) : exec i s = .next (s.raise s.me t) := by
  rw [run, ctl_issued hp hi, hb]; rfl

theorem State.noTokens_of {s : State} {e : Eng} (h : e = .xf ∧ s.cur.slot = .h) : s.noTokens e = true := by
  rw [State.noTokens, decide_eq_true h.1, decide_eq_true h.2]; rfl

/-- Settles O35: the check of each of the words comes before its effect. -/
theorem wordsTrapOnTheirOperands : Obligations.WordsTrapOnTheirOperands := by
  intro s i t h hi
  cases i
  case tkpost p e =>
    obtain ⟨hx, ht⟩ := Option.ite_none_right_eq_some.1 h
    cases ht
    exact exec_of_trap (exec_tkpost p e s) rfl hi (if_pos (State.noTokens_of hx))
  case tkwait p e =>
    obtain ⟨hx, ht⟩ := Option.ite_none_right_eq_some.1 h
    cases ht
    exact exec_of_trap (exec_tkwait p e s) rfl hi (if_pos (State.noTokens_of hx))
  case tkpoll p d e =>
    obtain ⟨hx, ht⟩ := Option.ite_none_right_eq_some.1 h
    cases ht
    exact exec_of_trap (exec_tkpoll p d e s) rfl hi (if_pos (State.noTokens_of hx))
  case accver p d t =>
    obtain ⟨hx, ht⟩ := Option.ite_none_right_eq_some.1 h
    cases ht
    exact exec_of_trap (exec_accver p d t s) rfl hi (if_pos (by simp only [hx, decide_true, Bool.not_false, Bool.and_true]))
  case bar p level =>
    obtain ⟨hx, ht⟩ := Option.ite_none_right_eq_some.1 h
    cases ht
    exact exec_of_trap (exec_bar p level s) rfl hi (if_pos (by simp only [hx, ne_eq, not_false_eq_true, decide_true, Bool.and_true]))
  case barxf p level =>
    simp only [trapOf] at h
    split_ifs at h with h0 hs hp <;> cases h
    · exact exec_of_trap (exec_barxf p level s) rfl hi (if_pos h0)
    · exact exec_of_trap (exec_barxf p level s) rfl hi ((if_neg h0).trans (if_pos hs))
    · refine exec_of_trap (exec_barxf p level s) rfl hi ?_
      simp only [h0, hs, if_false, hp.1, hp.2]; rfl
  case ctxsv p a =>
    obtain ⟨hx, ht⟩ := Option.ite_none_right_eq_some.1 h
    cases ht
    exact exec_of_trap (exec_ctxsv p a s) rfl hi (if_pos (by rwa [fld_low]))
  case ctxld p a =>
    obtain ⟨hx, ht⟩ := Option.ite_none_right_eq_some.1 h
    cases ht
    exact exec_of_trap (exec_ctxld p a s) rfl hi (if_pos (by rwa [fld_low]))
  case rbld p a off n =>
    obtain ⟨hx, ht⟩ := Option.ite_none_right_eq_some.1 h
    cases ht
    exact exec_of_trap (exec_rbld p a off n s) rfl hi (if_pos hx)
  case rbst p a off n =>
    obtain ⟨hx, ht⟩ := Option.ite_none_right_eq_some.1 h
    cases ht
    exact exec_of_trap (exec_rbst p a off n s) rfl hi (if_pos hx)
  case lend p a =>
    obtain ⟨hx, ht⟩ := Option.ite_none_right_eq_some.1 h
    cases ht
    exact exec_of_trap (exec_lend p a s) rfl hi (if_pos hx)
  case rsmark p =>
    simp only [trapOf] at h
    split_ifs at h with hx
    obtain ⟨e, he, ht⟩ := Option.map_eq_some_iff.1 h
    cases ht
    refine exec_of_trap (exec_rsmark p s) rfl hi ?_
    simp only [hx, reduceCtorEq, if_false, State.rsmark, he]
  -- No other instruction is in the table.
  all_goals cases h

/-! ## ENQ (R45, R207, R252, R253, R328, R330) -/

theorem State.core_setPhases (s : State) (r : Src) (p : Phases) (c : CoreId) : ∃ x, (s.setPhases r p).core c = { s.core c with phases := x } := by
  unfold State.setPhases
  split
  · next d _ =>
    by_cases h : c = d
    · subst h; exact ⟨_, State.core_modCore ..⟩
    · exact ⟨_, State.core_modCore_other _ _ _ _ h⟩
  · exact ⟨_, rfl⟩

theorem State.closePhase_core {s u : State} {r : Src} {v : VnpuId} (h : s.closePhase r v = some u) (c : CoreId) :
    ∃ x, u.core c = { s.core c with phases := x } := by
  obtain ⟨p, net, n, rfl⟩ := State.closePhase_changes h
  exact s.core_setPhases r p c

theorem State.closePhase_engine {s u : State} {r : Src} {v : VnpuId} (h : s.closePhase r v = some u) (e : EngId) : u.engine e = s.engine e := by
  obtain ⟨x, hx⟩ := State.closePhase_core h e.core
  rw [State.engine, hx]; rfl

theorem State.closePhase_cur {s u : State} {r : Src} {v : VnpuId} (h : s.closePhase r v = some u) : u.cur = s.cur := by
  obtain ⟨p, net, n, rfl⟩ := State.closePhase_changes h
  exact s.setPhases_cur r p

theorem State.closePhase_ctx {s u : State} {r : Src} {v : VnpuId} (h : s.closePhase r v = some u) (i : CtxId) : u.ctx i = s.ctx i := by
  obtain ⟨p, net, n, rfl⟩ := State.closePhase_changes h
  exact s.ctx_setPhases r p i

theorem State.unblockCtx_engine (s : State) (i : CtxId) (e : EngId) : (s.unblockCtx i).engine e = s.engine e := by
  cases h : (s.ctx i).blocked with
  | none => rw [State.unblockCtx_none _ _ h]
  | some o =>
    obtain ⟨w, q, e⟩ := State.unblockCtx_some s i o h
    rw [e, State.engine_modCtx]; rfl

theorem State.revoke_setCtx (s : State) (i : CtxId) (x : Ctx) (c : CoreId) : ((s.setCtx i x).core c).revoke = (s.core c).revoke := by
  by_cases h : c = i.core
  · subst h; rw [State.core_setCtx]; cases i.slot <;> rfl
  · rw [State.core_setCtx_other _ _ _ _ h]

theorem State.unblockCtx_revoke (s : State) (i : CtxId) (c : CoreId) : ((s.unblockCtx i).core c).revoke = (s.core c).revoke := by
  cases h : (s.ctx i).blocked with
  | none => rw [State.unblockCtx_none _ _ h]
  | some o =>
    obtain ⟨w, q, e⟩ := State.unblockCtx_some s i o h
    rw [e]
    exact State.revoke_setCtx _ i _ c

/-- What an ENQ does first: in slot O a revocation may begin. -/
def State.entering (s : State) (e : Eng) : State := if s.cur.slot = .o then s.ownerEnters s.cur.core e else s

theorem State.askRevoke_core (s : State) (c d : CoreId) (b : Bool) :
    ∃ r h, (s.askRevoke c b).core d = { s.core d with revoke := r, revokeHard := h } := by
  unfold State.askRevoke
  split
  · by_cases h : d = c
    · subst h; exact ⟨_, _, State.core_modCore ..⟩
    · exact ⟨_, _, State.core_modCore_other _ _ _ _ h⟩
  · exact ⟨_, _, rfl⟩

theorem State.entering_core (s : State) (e : Eng) (c : CoreId) : ∃ r h, (s.entering e).core c = { s.core c with revoke := r, revokeHard := h } := by
  unfold State.entering State.ownerEnters
  split_ifs
  · exact s.askRevoke_core _ _ _
  all_goals exact ⟨_, _, rfl⟩

theorem State.entering_cur (s : State) (e : Eng) : (s.entering e).cur = s.cur := by
  unfold State.entering State.ownerEnters State.askRevoke
  split_ifs <;> rfl

theorem State.entering_me (s : State) (e : Eng) : (s.entering e).me = s.me := by rw [State.me, State.entering_cur]; rfl

theorem State.entering_ctx (s : State) (e : Eng) (i : CtxId) : (s.entering e).ctx i = s.ctx i := by
  obtain ⟨r, h, hc⟩ := s.entering_core e i.core
  rw [State.ctx, hc]
  obtain ⟨c, sl⟩ := i
  cases sl <;> rfl

theorem State.entering_engine (s : State) (e : Eng) (i : EngId) : (s.entering e).engine i = s.engine i := by
  obtain ⟨r, h, hc⟩ := s.entering_core e i.core
  rw [State.engine, hc]; rfl

/-- An owner's ENQ asks for the revocation of an occupied slot H where harvest uses the engine (R330). -/
theorem State.entering_revokes {s : State} {e : Eng} (ho : s.cur.slot = .o)
    (hu : (s.core s.cur.core).leased e = true ∨ s.harvestIn s.cur.core e = true) (hl : (s.core s.cur.core).ctxH.live = true) :
    ((s.entering e).core s.cur.core).revoke = true := by
  rw [State.entering, if_pos ho, State.ownerEnters, if_pos (by simpa using hu), State.askRevoke, if_pos hl, State.core_modCore]

theorem State.entering_quiet {s : State} {e : Eng} (hl : (s.core s.cur.core).leased e = false) (hh : s.harvestIn s.cur.core e = false) :
    s.entering e = s := by
  unfold State.entering State.ownerEnters
  rw [hl, hh]
  exact ite_self s

theorem State.engine_modCore (s : State) (c : CoreId) (f : Core → Core) (e : EngId) (h : ∀ k, (f k).engine e.eng = k.engine e.eng) :
    (s.modCore c f).engine e = s.engine e := by
  unfold State.engine
  by_cases hc : e.core = c
  · subst hc; rw [State.core_modCore, h]
  · rw [State.core_modCore_other _ _ _ _ hc]

/-- A record enters the queue at its tail. -/
theorem State.enqueue_queue (s : State) (i : CtxId) (e : Eng) (w : BitVec 512) :
    ((s.enqueue i e w).engine ⟨i.core, e⟩).queue = (s.engine ⟨i.core, e⟩).queue ++ [s.newEntry i e w] := by
  have before (u : State) (f : Ctx → Ctx) (a b : Fin 7) :
      ((u.modCtx i f).modCore i.core fun k => k.passStamp a b).engine ⟨i.core, e⟩ = u.engine ⟨i.core, e⟩ :=
    (State.engine_modCore _ _ (fun k => k.passStamp a b) _ fun k => by cases e <;> rfl).trans (State.engine_modCtx ..)
  unfold State.enqueue
  rw [State.engine_modEngine]
  dsimp only
  rw [before]

/-- An ENQ that may queue its record waits for room, closes its phase and queues it. -/
theorem exec_enq_may {s : State} {p : Pred} {e : Eng} {n : RbReg} (hi : s.issues (.enq p e n) = true)
    (hm : s.cur.slot = .o ∨ (e ≠ .xf ∧ (s.core s.cur.core).leased e = true)) :
    exec (.enq p e n) s = .next (((s.entering e).await (decide ((s.engine ⟨s.cur.core, e⟩).queue.length < 8))
      (queueObj s.cur.core s.cur.slot e) fun u => u.closeOnly fun u => plain (u.enqueue s.me e ((s.ctx s.me).buf n))).state s.me) := by
  have may : (decide (s.me.slot = .h) && (decide (e = .xf) || !(s.core s.me.core).leased e)) = false := by
    rcases hm with ho | ⟨hx, hl⟩
    · rw [show s.me.slot = .o from ho]; rfl
    · rw [decide_eq_false hx, show (s.core s.me.core).leased e = true from hl, Bool.not_true, Bool.or_false, Bool.and_false]
  rw [exec_enq, execEnq, ctl_issued rfl hi]
  simp only [may, Bool.false_eq_true, if_false]
  rw [← s.entering_engine e]; rfl

/-- Settles O32: the parts of an ENQ in their order, and the record at the tail of the queue. -/
theorem enqAppendsTheRecord : Obligations.EnqAppendsTheRecord := by
  intro s p e n hi
  dsimp only
  have me : (s.entering e).ended.me = s.me := (s.entering e).ended_me.trans (s.entering_me e)
  have ctx : ∃ b w, (s.entering e).ended.ctx s.me = { s.ctx s.me with blocked := none, inWfe := b, inWowait := w } := by
    have h := (s.entering e).unblockCtx_ctx (s.entering e).me
    rw [s.entering_ctx e] at h
    rwa [State.ended, s.entering_me e] at *
  obtain ⟨b, w, ctx⟩ := ctx
  have vnpu : ((s.entering e).ended.ctx s.me).vnpu = (s.ctx s.me).vnpu := by rw [ctx]
  refine ⟨fun hs hx => ?_, fun hm hq => ?_, fun hm hq hc => ?_, fun u hm hq hc => ?_⟩
  · refine exec_of_trap (exec_enq p e n s) rfl hi (if_pos ?_)
    rw [show s.me.slot = .h from hs]
    rcases hx with hx | hx
    · rw [decide_eq_true hx]; rfl
    · rw [show (s.core s.me.core).leased e = false from hx, Bool.not_false, Bool.or_true]; rfl
  · rw [exec_enq_may hi hm, State.await_waits (decide_eq_false (Nat.not_lt.2 hq)), State.entering_me]; rfl
  · rw [exec_enq_may hi hm, State.await_ready (decide_eq_true hq), State.closeOnly, me, vnpu]
    rw [show (s.entering e).ended.closePhase _ _ = none from hc]; rfl
  · replace hc : (s.entering e).ended.closePhase (.ctx s.me) (s.ctx s.me).vnpu = some u := hc
    have own : u.ctx s.me = { s.ctx s.me with blocked := none, inWfe := b, inWowait := w } := (State.closePhase_ctx hc s.me).trans ctx
    have revoke : (u.core s.cur.core).revoke = ((s.entering e).core s.cur.core).revoke := by
      obtain ⟨x, hx⟩ := State.closePhase_core hc s.cur.core
      rw [hx]
      exact State.unblockCtx_revoke _ _ _
    refine ⟨Completes.of_finish ?_ no_results, u.newEntry s.me e ((s.ctx s.me).buf n), ?_, ?_, rfl, ?_, ?_, ?_, fun ho hu hl => ?_, fun hx => ?_⟩
    · rw [exec_enq_may hi hm, State.await_ready (decide_eq_true hq), State.closeOnly, me, vnpu, hc]; rfl
    · refine (u.enqueue_queue s.me e _).trans (congrArg (fun x : Engine => x.queue ++ [u.newEntry s.me e _]) ?_)
      rw [State.closePhase_engine hc, State.ended, State.unblockCtx_engine, State.entering_engine]; rfl
    · rw [State.newEntry, own]
    · rw [State.newEntry, own]
    · rw [State.newEntry, own]
    · rw [State.newEntry, own]
    · have begun := revoke.trans (State.entering_revokes ho hu hl)
      refine ⟨?_, begun⟩
      show (decide (s.cur.slot = .o) && (u.core s.cur.core).revoke) = true
      rw [ho, begun]; rfl
    · show (decide (s.cur.slot = .o) && (u.core s.cur.core).revoke) = false
      rcases hx with hx | ⟨hr, hl, hh⟩
      · rw [hx]; rfl
      · rw [revoke, State.entering_quiet hl hh, hr, Bool.and_false]

end Sys2Proof.Machine

/-! Traps: what holds an entry, what it saves, and where it goes (R242, R282, R347, R420, R421, R423). -/

namespace Sys2Proof.Machine

/-! ## The queues of a bank that an entry empties (R420) -/

/-- A queue of which the records of one bank are gone. -/
def Engine.without (x : Engine) (sl : Slot) : Engine :=
  if x.headIs sl then x.withQueue (x.queue.filter fun q => q.slot ≠ sl)
  else { x with queue := (if x.head.orphan then x.queue.take 1 else []) ++
          (if x.head.orphan then x.queue.drop 1 else x.queue).filter fun q => q.slot ≠ sl }

theorem Engine.bankQueue_eq_nil {x : Engine} {sl : Slot} (h : ∀ q ∈ x.queue, q.slot ≠ sl) : x.bankQueue sl = [] := by
  refine List.filter_eq_nil_iff.2 fun q hq => by
    have listed : q ∈ x.queue := by
      split at hq
      · exact List.mem_of_mem_drop hq
      · exact hq
    simp [h q listed]

theorem Engine.bankQueue_without (x : Engine) (sl : Slot) : (x.without sl).bankQueue sl = [] := by
  have other (l : List QEntry) : ∀ q ∈ l.filter fun q => decide (q.slot ≠ sl), q.slot ≠ sl := fun q hq => by
    simpa using (List.mem_filter.1 hq).2
  unfold Engine.without
  split
  · exact Engine.bankQueue_eq_nil (other _)
  · cases ho : x.head.orphan with
    | false => exact Engine.bankQueue_eq_nil (by simp)
    | true =>
      -- The orphan at the head belongs to no bank.
      unfold Engine.bankQueue
      simp only [ho, if_true]
      cases x.queue with
      | nil => rfl
      | cons q r =>
        refine List.filter_eq_nil_iff.2 fun q hq => ?_
        simpa using other r q (by simpa using hq)

theorem Eng.fin_injective {a b : Eng} : Eng.fin a = Eng.fin b → a = b := by cases a <;> cases b <;> decide

theorem State.engine_modEngine_other (s : State) {i e : EngId} (f : Engine → Engine) (h : e ≠ i) : (s.modEngine i f).engine e = s.engine e := by
  obtain ⟨ic, ie⟩ := i
  obtain ⟨ec, ee⟩ := e
  by_cases hc : ec = ic
  · subst hc
    have fin : Eng.fin ee ≠ Eng.fin ie := fun he => h (by rw [Eng.fin_injective he])
    show ((s.modCore ec fun k => k.setEngine ie _).core ec).engine ee = _
    rw [State.core_modCore]
    exact getSetOther _ _ _ _ fin
  · show ((s.modCore ic fun k => k.setEngine ie _).core ec).engine ee = _
    rw [State.core_modCore_other _ _ _ _ hc]; rfl

theorem State.unblockEng_engine (s : State) (i : EngId) (sl : Slot) (e : EngId) :
    ∃ b, (s.unblockEng i sl).engine e = { s.engine e with blocked := b } := by
  unfold State.unblockEng
  split
  · exact ⟨_, rfl⟩
  · by_cases h : e = i
    · subst h; exact ⟨_, State.engine_modEngine ..⟩
    · exact ⟨_, State.engine_modEngine_other _ _ h⟩

/-- A bank leaves one engine of its core. -/
def State.emptied (s : State) (i : CtxId) (e : Eng) : State :=
  let id : EngId := ⟨i.core, e⟩
  let mine := (s.engine id).headIs i.slot
  let s := if mine then ((s.unblockEng id i.slot).dropReads id).giveUp (Asker.ofEng id) else s
  s.modEngine id fun x => if mine then x.withQueue (x.queue.filter fun q => q.slot ≠ i.slot)
    else { x with queue := (if x.head.orphan then x.queue.take 1 else []) ++
            (if x.head.orphan then x.queue.drop 1 else x.queue).filter fun q => q.slot ≠ i.slot }

theorem State.clearQueues_eq (s : State) (i : CtxId) : s.clearQueues i = engs.foldl (fun s e => s.emptied i e) s := rfl

theorem State.emptied_engHolds (s : State) (i : CtxId) (e : Eng) : (s.emptied i e).engHolds i.core e i.slot = false := by
  have queue : ((s.emptied i e).engine ⟨i.core, e⟩).bankQueue i.slot = [] := by
    unfold State.emptied
    dsimp only
    rw [State.engine_modEngine]
    cases hm : (s.engine ⟨i.core, e⟩).headIs i.slot with
    | true =>
      obtain ⟨b, h⟩ := s.unblockEng_engine ⟨i.core, e⟩ i.slot ⟨i.core, e⟩
      simp only [if_true]
      exact Engine.bankQueue_eq_nil fun q hq => by simpa using (List.mem_filter.1 hq).2
    | false =>
      have := (s.engine ⟨i.core, e⟩).bankQueue_without i.slot
      rwa [Engine.without, hm] at this
  show (!(((s.emptied i e).engine ⟨i.core, e⟩).bankQueue i.slot).isEmpty) = false
  rw [queue]; rfl

theorem State.emptied_engine_other (s : State) (i : CtxId) {e f : Eng} (h : f ≠ e) :
    ∃ b, (s.emptied i e).engine ⟨i.core, f⟩ = { s.engine ⟨i.core, f⟩ with blocked := b } := by
  unfold State.emptied
  dsimp only
  rw [State.engine_modEngine_other _ _ fun he => h (by simpa using he)]
  split
  · exact s.unblockEng_engine _ _ _
  · exact ⟨_, rfl⟩

theorem State.emptied_engHolds_other (s : State) (i : CtxId) {e f : Eng} (h : f ≠ e) (hf : s.engHolds i.core f i.slot = false) :
    (s.emptied i e).engHolds i.core f i.slot = false := by
  obtain ⟨b, hb⟩ := s.emptied_engine_other i h
  show (!(((s.emptied i e).engine ⟨i.core, f⟩).bankQueue i.slot).isEmpty) = false
  rw [hb]
  exact hf

/-- No engine of the core holds a record of the bank once its queues are cleared. -/
theorem State.clearQueues_engHolds (s : State) (i : CtxId) (e : Eng) : (s.clearQueues i).engHolds i.core e i.slot = false := by
  have keeps : ∀ (l : List Eng) (t : State), (e ∈ l ∨ t.engHolds i.core e i.slot = false) →
      (l.foldl (fun s e => s.emptied i e) t).engHolds i.core e i.slot = false := by
    intro l
    induction l with
    | nil => exact fun t h => h.resolve_left List.not_mem_nil
    | cons f l ih =>
      intro t h
      refine ih _ ?_
      by_cases he : e = f
      · subst he; exact .inr (t.emptied_engHolds i e)
      · rcases h with h | h
        · exact .inl ((List.mem_cons.1 h).resolve_left he)
        · exact .inr (t.emptied_engHolds_other i he h)
  exact keeps engs s (.inl (by cases e <;> decide))

/-! ## A trap that nothing holds (R420, R421) -/

/-- A state stands as `s` does in all that the entry of a trap of a context reads. -/
structure State.Stands (s w : State) (i : CtxId) : Prop where
  ctx : (w.ctx i).standsAs (s.ctx i)
  vnpu : (w.ctx i).vnpu = (s.ctx i).vnpu
  failing : (w.ctx i).failing = (s.ctx i).failing
  eventsHeld : (w.ctx i).eventsHeld = (s.ctx i).eventsHeld
  vnpus : w.vnpus = s.vnpus
  dram : w.dram = s.dram
  slices : w.slices = s.slices
  xphases : w.xphases = s.xphases
  cycle : w.cycle = s.cycle
  engine : ∀ e, w.engine e = s.engine e
  stamps : (w.core i.core).stamps = (s.core i.core).stamps
  phases : w.phases (.ctx i) = s.phases (.ctx i)

theorem Ctx.standsAs_refl (c : Ctx) : c.standsAs c := ⟨rfl, rfl, rfl, rfl, rfl, rfl, rfl⟩

theorem State.Stands.refl (s : State) (i : CtxId) : s.Stands s i :=
  ⟨Ctx.standsAs_refl _, rfl, rfl, rfl, rfl, rfl, rfl, rfl, rfl, fun _ => rfl, rfl, rfl⟩

theorem State.Stands.trans {s w x : State} {i : CtxId} (a : s.Stands w i) (b : w.Stands x i) : s.Stands x i := by
  obtain ⟨a1, a2, a3, a4, a5, a6, a7⟩ := a.ctx
  obtain ⟨b1, b2, b3, b4, b5, b6, b7⟩ := b.ctx
  exact ⟨⟨b1.trans a1, b2.trans a2, b3.trans a3, b4.trans a4, b5.trans a5, b6.trans a6, b7.trans a7⟩, b.vnpu.trans a.vnpu,
    b.failing.trans a.failing, b.eventsHeld.trans a.eventsHeld, b.vnpus.trans a.vnpus, b.dram.trans a.dram, b.slices.trans a.slices,
    b.xphases.trans a.xphases, b.cycle.trans a.cycle, fun e => (b.engine e).trans (a.engine e), b.stamps.trans a.stamps,
    b.phases.trans a.phases⟩

theorem State.stamps_setCtx (s : State) (i : CtxId) (x : Ctx) (c : CoreId) : ((s.setCtx i x).core c).stamps = (s.core c).stamps := by
  by_cases h : c = i.core
  · subst h; rw [State.core_setCtx]; cases i.slot <;> rfl
  · rw [State.core_setCtx_other _ _ _ _ h]

/-- A change of the context that leaves what an entry reads. -/
theorem State.Stands.modCtx (s : State) (i : CtxId) {f : Ctx → Ctx} (h : (f (s.ctx i)).standsAs (s.ctx i)) (hv : (f (s.ctx i)).vnpu = (s.ctx i).vnpu)
    (hf : (f (s.ctx i)).failing = (s.ctx i).failing) (he : (f (s.ctx i)).eventsHeld = (s.ctx i).eventsHeld) : s.Stands (s.modCtx i f) i where
  ctx := by rw [State.ctx_modCtx]; exact h
  vnpu := by rw [State.ctx_modCtx]; exact hv
  failing := by rw [State.ctx_modCtx]; exact hf
  eventsHeld := by rw [State.ctx_modCtx]; exact he
  vnpus := rfl
  dram := rfl
  slices := rfl
  xphases := rfl
  cycle := rfl
  engine := fun e => State.engine_modCtx s i f e
  stamps := State.stamps_setCtx s i _ _
  phases := State.phases_modCtx s i f _

theorem State.Stands.giveUp (s : State) (i : CtxId) (p : Asker → Bool) : s.Stands (s.giveUp p) i :=
  ⟨Ctx.standsAs_refl _, rfl, rfl, rfl, rfl, rfl, rfl, rfl, rfl, fun _ => rfl, rfl, rfl⟩

theorem State.Stands.table (s : State) (i : CtxId) (w : List WftEntry) (q : List WftReq) :
    s.Stands ({ s with wft := w, wftQueue := q } : State) i :=
  ⟨Ctx.standsAs_refl _, rfl, rfl, rfl, rfl, rfl, rfl, rfl, rfl, fun _ => rfl, rfl, rfl⟩

theorem State.Stands.barriers (s : State) (i : CtxId) (b : List Barrier) : s.Stands ({ s with barriers := b } : State) i :=
  ⟨Ctx.standsAs_refl _, rfl, rfl, rfl, rfl, rfl, rfl, rfl, rfl, fun _ => rfl, rfl, rfl⟩

theorem State.Stands.unblockCtx (s : State) (i : CtxId) : s.Stands (s.unblockCtx i) i := by
  cases h : (s.ctx i).blocked with
  | none => rw [State.unblockCtx_none _ _ h]; exact .refl s i
  | some o =>
    obtain ⟨w, q, e⟩ := State.unblockCtx_some s i o h
    rw [e]
    exact (State.Stands.table s i w q).trans (.modCtx _ i (Ctx.standsAs_refl _) rfl rfl rfl)

/-- The ports alone change as tokens are put back. -/
theorem Ctx.putBack_changes (c : Ctx) (n : Fin 4 → Nat) : ∃ p, c.putBack n = { c with ports := p } := by
  unfold Ctx.putBack
  generalize List.finRange 4 = l
  induction l generalizing c with
  | nil => exact ⟨_, rfl⟩
  | cons x l ih =>
    obtain ⟨p, h⟩ := ih (c.setPort .xf x (c.port .xf x + n x))
    exact ⟨p, h⟩

/-- What leaving a meeting changes of the context: ports, tokens taken and stage. -/
theorem State.unarrive_changes (s : State) (i : CtxId) : s.Stands (s.unarrive i) i ∧ ∃ p x g, (s.unarrive i).ctx i
    = { s.ctx i with ports := p, xpops := x, stage := g } := by
  unfold State.unarrive
  split
  · obtain ⟨p, h⟩ := (s.ctx i).putBack_changes (s.ctx i).xpops.get
    have unpop : (s.ctx i).unpop = { s.ctx i with ports := p, xpops := Vector.replicate 4 0 } := by rw [Ctx.unpop, h]
    dsimp only
    refine ⟨(State.Stands.barriers s i _).trans (.modCtx _ i ?_ ?_ ?_ ?_), p, Vector.replicate 4 0, .fresh, ?_⟩
    · show ({ (s.ctx i).unpop with stage := .fresh } : Ctx).standsAs (s.ctx i)
      rw [unpop]; exact Ctx.standsAs_refl _
    · show (s.ctx i).unpop.vnpu = (s.ctx i).vnpu
      rw [unpop]
    · show (s.ctx i).unpop.failing = (s.ctx i).failing
      rw [unpop]
    · show (s.ctx i).unpop.eventsHeld = (s.ctx i).eventsHeld
      rw [unpop]
    · rw [State.ctx_modCtx]
      show ({ (s.ctx i).unpop with stage := .fresh } : Ctx) = _
      rw [unpop]
  · exact ⟨.refl s i, (s.ctx i).ports, (s.ctx i).xpops, (s.ctx i).stage, rfl⟩

theorem State.engHolds_of_headIs {s : State} {i : CtxId} {e : Eng} (h : s.engHolds i.core e i.slot = false) :
    (s.engine ⟨i.core, e⟩).headIs i.slot = false := by
  have none : (s.engine ⟨i.core, e⟩).bankQueue i.slot = [] :=
    List.isEmpty_iff.1 (by rw [State.engHolds, Bool.not_eq_false'] at h; exact h)
  unfold Engine.bankQueue at none
  unfold Engine.headIs
  split
  · next q r hq =>
    rw [hq] at none
    cases ho : (s.engine ⟨i.core, e⟩).head.orphan with
    | true => simp
    | false =>
      have := List.filter_eq_nil_iff.1 none q (by simp [ho])
      simp_all
  · rfl

theorem State.cutStep_empty {s : State} {i : CtxId} (h : ∀ e ∈ engs, s.engHolds i.core e i.slot = false) : s.cutStep i = s := by
  have head (e : Eng) (he : e ∈ engs) : (!(s.engine ⟨i.core, e⟩).headIs i.slot || s.stepHeld ⟨i.core, e⟩ i.slot) = true := by
    rw [State.engHolds_of_headIs (h e he)]; rfl
  unfold State.cutStep
  revert head
  generalize engs = l
  intro head
  induction l with
  | nil => rfl
  | cons e l ih =>
    rw [List.foldl_cons]
    dsimp only
    rw [if_pos (head e List.mem_cons_self)]
    exact ih fun f hf => head f (List.mem_cons_of_mem e hf)

theorem State.atCut_empty {s : State} {i : CtxId} (h : ∀ e ∈ engs, s.engHolds i.core e i.slot = false) : s.atCut i = true :=
  List.all_eq_true.2 fun e he => by
    dsimp only
    rw [State.engHolds_of_headIs (h e he)]; rfl

theorem State.engPhasesQuiet_empty {s : State} {i : CtxId} (h : ∀ e ∈ engs, s.engHolds i.core e i.slot = false) : s.engPhasesQuiet i = true :=
  List.all_eq_true.2 fun e he => by rw [h e he]; rfl

theorem State.imageHeld_free {s : State} (h : ∀ line, s.lineHeld line = false) (a : Acc) (ps : List (Nat × Nat × Nat)) :
    s.imageHeld a ps = false := by
  have walk (va n : Nat) : s.walkHeld a va n = false := by
    simp [State.walkHeld, h]
  simp [State.imageHeld, walk, h]

theorem State.entryFree_iff (s : State) (i : CtxId) : s.entryFree i = true ↔ s.inPhase i = false ∧ tb (s.ctx i).estat 0 = false
    ∧ (s.ctx i).failing = none ∧ s.recordWaits (.ctx i) = false ∧ s.vectored i = true ∧ (∀ e ∈ engs, s.engHolds i.core e i.slot = false)
    ∧ (s.phases (.ctx i)).opens = [] ∧ (s.phases (.ctx i)).counts = [] ∧ (s.phases (.ctx i)).completed = (s.phases (.ctx i)).closed := by
  simp only [State.entryFree, Bool.and_eq_true, Bool.not_eq_true', Option.isNone_iff_eq_none, List.all_eq_true, List.isEmpty_iff,
    beq_iff_eq, and_assoc]

theorem State.Stands.engHolds {s w : State} {i : CtxId} (h : s.Stands w i) (e : Eng) :
    w.engHolds i.core e i.slot = s.engHolds i.core e i.slot := by
  have : (w.core i.core).engine e = (s.core i.core).engine e := h.engine ⟨i.core, e⟩
  rw [State.engHolds, State.engHolds, this]

theorem State.Stands.entryFree {s w : State} {i : CtxId} (h : s.Stands w i) (hs : (w.ctx i).stage = .fresh) (hf : s.entryFree i = true) :
    w.entryFree i = true := by
  obtain ⟨phase, handler, sound, records, vectors, queues, opens, counts, all⟩ := (s.entryFree_iff i).1 hf
  obtain ⟨-, -, -, estat, -, -, -⟩ := h.ctx
  refine (w.entryFree_iff i).2 ⟨?_, estat ▸ handler, h.failing.trans sound, ?_, ?_, fun e he => (h.engHolds e).trans (queues e he), ?_, ?_, ?_⟩
  · rw [State.inPhase, Bool.or_eq_false_iff] at phase
    rw [State.inPhase, h.xphases, phase.1, hs]; rfl
  · rw [State.recordWaits, h.eventsHeld]; exact records
  · rw [State.vectored, State.vnpu, h.vnpus, h.vnpu]; exact vectors
  all_goals rw [h.phases]; assumption

theorem State.Stands.mayStamp {s w : State} {i : CtxId} (h : s.Stands w i) : w.mayStamp (.ctx i) = s.mayStamp (.ctx i) := by
  show decide ((w.core i.core).stamps.get _ ≤ w.cycle) = decide ((s.core i.core).stamps.get _ ≤ s.cycle)
  rw [h.stamps, h.cycle]

/-- The state in which an entry that nothing holds stands before its image is written: its waits and requests are over, its phase is
closed, and its gate is set. -/
def State.atGate (s : State) (i : CtxId) : State :=
  let u := (((s.unblockCtx i).unarrive i).giveUp (Asker.ofCtx i)).modCtx i fun c => { c with stage := .fresh }
  (u.setPhases (.ctx i) (s.phases (.ctx i)).pastEmpty).modCtx i fun c =>
    { c with trap := c.trap.map fun t => { t with gate := some ((s.phases (.ctx i)).closed + 1) } }

theorem State.Stands.beforeGate (s : State) (i : CtxId) :
    s.Stands ((((s.unblockCtx i).unarrive i).giveUp (Asker.ofCtx i)).modCtx i fun c => { c with stage := .fresh }) i :=
  ((State.Stands.unblockCtx s i).trans ((s.unblockCtx i).unarrive_changes i).1).trans
    ((State.Stands.giveUp _ i _).trans (.modCtx _ i (Ctx.standsAs_refl _) rfl rfl rfl))

theorem State.atGate_dram (s : State) (i : CtxId) : (s.atGate i).dram = s.dram := by
  rw [State.atGate, State.modCtx_dram, State.setPhases_dram]; exact (State.Stands.beforeGate s i).dram

theorem State.atGate_slices (s : State) (i : CtxId) : (s.atGate i).slices = s.slices := (State.Stands.beforeGate s i).slices

theorem State.atGate_cycle (s : State) (i : CtxId) : (s.atGate i).cycle = s.cycle := (State.Stands.beforeGate s i).cycle

theorem State.atGate_standsAs (s : State) (i : CtxId) : ((s.atGate i).ctx i).standsAs (s.ctx i) := by
  rw [State.atGate, State.ctx_modCtx, State.ctx_setPhases]
  exact (State.Stands.beforeGate s i).ctx

theorem State.atGate_core (s : State) (i : CtxId) : ((s.atGate i).core i.core).stamps = (s.core i.core).stamps := by
  rw [State.atGate]
  refine (State.stamps_setCtx _ _ _ _).trans ?_
  obtain ⟨x, hx⟩ := State.core_setPhases ((((s.unblockCtx i).unarrive i).giveUp (Asker.ofCtx i)).modCtx i fun c => { c with stage := .fresh })
    (.ctx i) (s.phases (.ctx i)).pastEmpty i.core
  rw [hx]
  exact (State.Stands.beforeGate s i).stamps

theorem State.atGate_engine (s : State) (i : CtxId) (e : EngId) : (s.atGate i).engine e = s.engine e := by
  rw [State.atGate, State.engine_modCtx]
  refine Eq.trans ?_ ((State.Stands.beforeGate s i).engine e)
  rw [State.engine]
  obtain ⟨x, hx⟩ := State.core_setPhases ((((s.unblockCtx i).unarrive i).giveUp (Asker.ofCtx i)).modCtx i fun c => { c with stage := .fresh })
    (.ctx i) (s.phases (.ctx i)).pastEmpty e.core
  rw [hx]; rfl

/-- An entry that nothing holds goes on as far as the stamp and the lines of its image let it. -/
theorem State.enter_free {s : State} {i : CtxId} {t : Trap} (hf : s.entryFree i = true) (hs : (s.ctx i).stage = .fresh)
    (ht : (s.ctx i).trap = some t) (hg : t.gate = none) :
    s.enter i = if s.mayStamp (.ctx i) && !(s.atGate i).imageHeld ((s.atGate i).imageAcc i true) (imagePieces ((s.atGate i).saveArea i))
      then ((s.atGate i).enterNow i t).stamped (.ctx i) else s.atGate i := by
  obtain ⟨phase, handler, sound, records, vectors, queues, opens, counts, all⟩ := (s.entryFree_iff i).1 hf
  have stands := State.Stands.beforeGate s i
  have may : (s.atGate i).mayStamp (.ctx i) = s.mayStamp (.ctx i) := by
    show decide (((s.atGate i).core i.core).stamps.get _ ≤ (s.atGate i).cycle) = decide ((s.core i.core).stamps.get _ ≤ s.cycle)
    rw [State.atGate_core, State.atGate_cycle]
  have empty : ∀ e ∈ engs, (s.atGate i).engHolds i.core e i.slot = false := fun e he => by
    have same : ((s.atGate i).core i.core).engine e = (s.core i.core).engine e := s.atGate_engine i ⟨i.core, e⟩
    rw [State.engHolds, same]
    exact queues e he
  revert may empty
  unfold State.enter State.atGate
  revert stands
  generalize (((s.unblockCtx i).unarrive i).giveUp (Asker.ofCtx i)).modCtx i (fun c => { c with stage := .fresh }) = u
  intro stands may empty
  dsimp only at may empty
  have waits : u.recordWaits (.ctx i) = false := by rw [State.recordWaits, stands.eventsHeld]; exact records
  have quiet : ∀ e ∈ engs, u.engHolds i.core e i.slot = false := fun e he => (stands.engHolds e).trans (queues e he)
  have closed := @State.closePhase_empty u (.ctx i) (s.ctx i).vnpu (stands.phases ▸ opens) (stands.phases ▸ counts) waits
  rw [stands.phases] at closed
  simp only [ht, Ctx.canTrap, hs, sound, phase, handler, vectors, Option.isSome_none, Bool.not_true, Bool.or_false, Bool.false_eq_true,
    if_false, State.cutStep_empty quiet, State.atCut_empty quiet, hg, closed, Option.map_some]
  have done : ((u.setPhases (.ctx i) (s.phases (.ctx i)).pastEmpty).modCtx i fun c =>
      { c with trap := c.trap.map fun t => { t with gate := some ((s.phases (.ctx i)).closed + 1) } }).phaseDone (.ctx i)
        ((s.phases (.ctx i)).closed + 1) = true := by
    simp only [State.phaseDone, State.phases_modCtx, State.phases_setPhases, Phases.pastEmpty, all, Nat.le_refl, decide_true]
  have number : ((u.setPhases (.ctx i) (s.phases (.ctx i)).pastEmpty).phases (.ctx i)).closed = (s.phases (.ctx i)).closed + 1 := by
    rw [State.phases_setPhases]; rfl
  simp only [number, done, State.engPhasesQuiet_empty empty, may, Bool.true_and]

/-! ## What a raised trap finds -/

/-- The trap that a context raises itself, as it is registered. -/
def State.ownTrap (s : State) (i : CtxId) (t : Trap) : Trap :=
  { t with agent := Slot.num i.slot, stamp := s.gtc.toNat, src := i.core.val * 8 + Slot.num i.slot }

/-- The state in which a raised trap is entered. -/
def State.raised (s : State) (i : CtxId) (t : Trap) : State :=
  ((s.unarrive i).giveUp (Asker.ofCtx i)).modCtx i fun c => { (c.cause (s.ownTrap i t)) with stage := .fresh }

theorem State.raise_eq (s : State) (i : CtxId) (t : Trap) : s.raise i t = (s.raised i t).enter i := rfl

theorem State.Stands.raised (s : State) (i : CtxId) (t : Trap) : s.Stands (s.raised i t) i :=
  (s.unarrive_changes i).1.trans ((State.Stands.giveUp _ i _).trans (.modCtx _ i (Ctx.standsAs_refl _) rfl rfl rfl))

theorem State.raised_ctx {s : State} {i : CtxId} (t : Trap) (h : (s.ctx i).trap = none) :
    ((s.raised i t).ctx i).trap = some (s.ownTrap i t) ∧ ((s.raised i t).ctx i).stage = .fresh := by
  obtain ⟨p, x, g, hc⟩ := (s.unarrive_changes i).2
  have none : ((s.unarrive i).ctx i).trap = none := by rw [hc]; exact h
  rw [State.raised, State.ctx_modCtx]
  refine ⟨?_, rfl⟩
  show (((s.unarrive i).ctx i).cause (s.ownTrap i t)).trap = _
  rw [Ctx.cause, none]

/-- A trap that nothing holds is entered at once (R420). -/
theorem State.raise_free {s : State} {i : CtxId} {t : Trap} (h : s.mayEnter i = true) (hg : t.gate = none) :
    ∃ (w : State) (u : Trap) (b : Bool), b = (s.mayStamp (.ctx i) && !w.imageHeld (w.imageAcc i true) (imagePieces (w.saveArea i)))
      ∧ s.raise i t = (if b then (w.enterNow i u).stamped (.ctx i) else w)
      ∧ (s.mayStamp (.ctx i) = true → (∀ line, s.lineHeld line = false) → b = true)
      ∧ u.cause = t.cause ∧ u.eaddr = t.eaddr ∧ u.einfo = t.einfo ∧ u.report = t.report ∧ u.agent = Slot.num i.slot
      ∧ (w.ctx i).standsAs (s.ctx i) ∧ w.dram = s.dram := by
  obtain ⟨no, free⟩ := Bool.and_eq_true_iff.1 h
  obtain ⟨trap, fresh⟩ := State.raised_ctx t (Option.isNone_iff_eq_none.1 no)
  have stands := State.Stands.raised s i t
  have entered := State.enter_free (stands.entryFree fresh free) fresh trap hg
  rw [stands.mayStamp] at entered
  refine ⟨(s.raised i t).atGate i, s.ownTrap i t, _, rfl, (State.raise_eq ..).trans entered, fun hm hl => ?_, rfl, rfl, rfl, rfl, rfl, ?_,
    ((s.raised i t).atGate_dram i).trans stands.dram⟩
  · have lines (line : Nat) : ((s.raised i t).atGate i).lineHeld line = false := by
      have slices : ((s.raised i t).atGate i).slices = s.slices := ((s.raised i t).atGate_slices i).trans stands.slices
      rw [State.lineHeld, State.slice, slices]
      exact hl line
    rw [hm, State.imageHeld_free lines]; rfl
  · obtain ⟨a1, a2, a3, a4, a5, a6, a7⟩ := (s.raised i t).atGate_standsAs i
    obtain ⟨b1, b2, b3, b4, b5, b6, b7⟩ := stands.ctx
    exact ⟨a1.trans b1, a2.trans b2, a3.trans b3, a4.trans b4, a5.trans b5, a6.trans b6, a7.trans b7⟩

/-! ## What an entry writes (R420) -/

theorem Ctx.settle_changes (c : Ctx) : ∃ g k f x, c.settle = { c with g := g, k := k, fsr := f, landings := x } := by
  obtain ⟨g, k, f, h⟩ := foldl_landOne_changes (c.landings.filter fun l => l.rem = 0) { c with landings := c.landings.filter fun l => l.rem ≠ 0 }
  exact ⟨g, k, f, _, h⟩

/-- ESTAT as an entry leaves it: the mark of the handler, the privilege, bit 2 as it was, and the agent. -/
def estatOf (e : Word) (sup : Bool) (a : Nat) : Word := (e &&& 4) ||| (if sup then 2 else 0) ||| BitVec.ofNat 64 (a * 16) ||| 1

theorem fld_estatOf (e : Word) (b : Bool) {a : Nat} (h : a < 8) : fld (estatOf e b a) 6 4 = a := by
  have low (n : Nat) : (n &&& 4) / 16 = 0 := Nat.div_eq_of_lt (Nat.lt_of_le_of_lt Nat.and_le_right (by decide))
  have mult : a * 16 % 2 ^ 64 / 16 = a := by omega
  have two : (if b then (2 : Word) else 0).toNat / 16 = 0 := by cases b <;> rfl
  have or16 (x y : Nat) : (x ||| y) / 16 = x / 16 ||| y / 16 := @Nat.or_div_two_pow x y 4
  show ((((e &&& 4) ||| (if b then (2 : Word) else 0)) ||| BitVec.ofNat 64 (a * 16)) ||| 1).toNat / 16 % 8 = a
  simp only [BitVec.toNat_or, BitVec.toNat_and, BitVec.toNat_ofNat, or16, mult, two]
  rw [show (BitVec.toNat (4 : Word)) = 4 from rfl, low]
  simpa using h

theorem tb_estatOf (e : Word) (b : Bool) (a : Nat) :
    tb (estatOf e b a) 0 = true ∧ tb (estatOf e b a) 1 = b ∧ tb (estatOf e b a) 2 = tb e 2 := by
  have low (k : Nat) (h : k < 4) : (BitVec.ofNat 64 (a * 16)).getLsbD k = false := by
    have below : ¬4 ≤ k := by omega
    simp [BitVec.getLsbD_ofNat, show a * 16 = a * 2 ^ 4 from rfl, -Nat.reducePow, Nat.testBit_mul_two_pow, below]
  simp only [estatOf, tb, BitVec.getLsbD_or, BitVec.getLsbD_and, low 0 (by decide), low 1 (by decide), low 2 (by decide)]
  cases b <;> simp

theorem Ctx.atHandler_of_settle (c : Ctx) (t : Trap) (report evec : Word) :
    ((c.settle.except t report).atHandler evec).atHandlerOf c t evec := by
  obtain ⟨g, k, f, x, h⟩ := c.settle_changes
  rw [h]
  obtain ⟨handler, privilege, two⟩ := tb_estatOf c.estat c.sup (t.agent % 8)
  refine ⟨rfl, rfl, rfl, rfl, fun hr => ?_, handler, privilege, two, fld_estatOf _ _ (Nat.mod_lt _ (by decide)), rfl, rfl, rfl, rfl⟩
  show (if t.report.isEmpty then t.einfo else report) = _
  rw [hr]; rfl

/-- What an entry does with the answer of the write `put` of its image. Stated for any `put`: the pieces of an image are not evaluated. -/
def EntersBy (put : State → CtxId → Mem → List (Nat × Nat × Nat) → State × Option Trap) (enter : State → CtxId → Trap → State) : Prop :=
  ∀ (s : State) (i : CtxId) (t : Trap) (u : State) (report : Word), report = BitVec.ofNat 64 (s.saveArea i + 0x1F00) →
    let answer := put s i (s.imageNow i ((s.ctx i).settle.except t report) 0 t.report) (imagePieces (s.saveArea i))
    (answer = (u, none) → enter s i t
        = (u.clearQueues i).setCtx i (((s.ctx i).settle.except t report).atHandler (u.vnpu (s.ctx i).settle.vnpu).evec))
      ∧ (∀ x, answer = (u, some x) → enter s i t = u.unitFailure i t.cause)

theorem State.enterNow_entersBy : EntersBy State.putImage State.enterNow := by
  delta State.enterNow
  generalize State.putImage = put
  -- The kernel meets the body below for an unknown `put` only.
  refine id ?_
  intro s i t u report hr
  subst hr
  refine ⟨fun h => ?_, fun x h => ?_⟩
  · dsimp only; rw [h]; rfl
  · dsimp only; rw [h]

theorem State.enterNow_entered {s u : State} {i : CtxId} {t : Trap} (h : s.entryImage i t = (u, none)) :
    ∃ report, s.enterNow i t
      = (u.clearQueues i).setCtx i ((((s.ctx i).settle).except t report).atHandler (u.vnpu (s.ctx i).vnpu).evec) := by
  obtain ⟨g, k, f, x, hs⟩ := (s.ctx i).settle_changes
  have same : (s.ctx i).settle.vnpu = (s.ctx i).vnpu := by rw [hs]
  exact ⟨_, ((State.enterNow_entersBy s i t u _ rfl).1 h).trans (by rw [same])⟩

theorem State.enterNow_refused {s u : State} {i : CtxId} {t x : Trap} (h : s.entryImage i t = (u, some x)) :
    s.enterNow i t = u.unitFailure i t.cause := (State.enterNow_entersBy s i t u _ rfl).2 x h

theorem State.engHolds_setCtx (s : State) (i : CtxId) (x : Ctx) (c : CoreId) (e : Eng) (sl : Slot) :
    (s.setCtx i x).engHolds c e sl = s.engHolds c e sl := by
  have same : ((s.setCtx i x).core c).engine e = (s.core c).engine e := s.engine_modCtx i (fun _ => x) ⟨c, e⟩
  rw [State.engHolds, State.engHolds, same]

/-- Settles O36: a raised trap that nothing holds stands at its gate (`State.raise_free`), and the entry saves the context as it stands there
and leaves its bank empty. -/
theorem aTrapEntersTheHandler : Obligations.ATrapEntersTheHandler := by
  refine ⟨fun s p e hi => ?_, fun s i t => State.raise_free, fun s i t u hu => ?_, fun s i t u x hu => ?_⟩
  · rw [exec_trap, execTrap, ctl_issued rfl hi]
    rfl
  · obtain ⟨report, h⟩ := State.enterNow_entered hu
    rw [h]
    refine ⟨?_, fun e => ?_⟩
    · rw [State.ctx_setCtx]
      exact Ctx.atHandler_of_settle ..
    · rw [State.engHolds_setCtx, State.clearQueues_engHolds]
  · exact State.enterNow_refused hu

end Sys2Proof.Machine

/-! Returning from a trap: reading an image, loading the context and its engines (R121, R128, R428, R429, R430). -/

namespace Sys2Proof.Machine

/-! ## What follows a drain and a closed phase -/

theorem State.drain_done {s : State} {k : State → Ans} (h : s.undrained s.me = none) : s.drain k = k s.ended := by
  simp only [State.drain, h]; rfl

theorem State.ended_ctx (s : State) : ∃ b w, s.ended.ctx s.me = { s.ctx s.me with blocked := none, inWfe := b, inWowait := w } :=
  s.unblockCtx_ctx s.me

/-- Once a drain and the closing of the phase are over: what follows, and the context then. -/
theorem State.drain_closing {s v : State} (hd : s.undrained s.me = none) (hq : s.ended.quiet = some v) :
    (∀ k, (s.drain fun s => s.closing k) = k v) ∧ v.cur = s.cur ∧ v.me = s.me
      ∧ ∃ b w g, v.ctx s.me = { s.ctx s.me with blocked := none, inWfe := b, inWowait := w, stage := g } := by
  obtain ⟨goes, closes⟩ := State.closing_quiet hq
  obtain ⟨b, w, ended⟩ := s.ended_ctx
  have me : v.me = s.me := closes.me.trans s.ended_me
  obtain ⟨cur, g, ctx⟩ := closes
  rw [s.ended_me, ended] at ctx
  exact ⟨fun k => (State.drain_done hd).trans (goes k), cur.trans s.ended_cur, me, b, w, g, ctx⟩

/-! ## Reading an image (R434) -/

theorem State.touch_ctx (s : State) (p : Nat) (i : CtxId) : (s.touch p).ctx i = s.ctx i := by
  show ((s.touch p).cores.get i.core).ctx i.slot = _
  rw [State.touch_cores]; rfl

theorem State.l1Evict_ctx (s : State) (c : CoreId) (line : Nat) (i : CtxId) : (s.l1Evict c line).ctx i = s.ctx i :=
  s.ctx_modCore _ (fun k => { k with l1 := k.l1.filter fun x => x.line ≠ line }) i fun k => by cases i.slot <;> rfl

theorem State.touchLine_ctx (s : State) (a : Acc) (line : Nat) (i : CtxId) : (s.touchLine a line).ctx i = s.ctx i := by
  rw [State.touchLine, State.l1Evict_ctx]; rfl

theorem foldl_touchLine_ctx (p : Nat) (a : Acc) (i : CtxId) (ls : List Nat) (s : State) :
    (ls.foldl (fun s l => (s.touch p).touchLine a l) s).ctx i = s.ctx i := by
  induction ls generalizing s with
  | nil => rfl
  | cons l ls ih => rw [List.foldl_cons, ih, State.touchLine_ctx, State.touch_ctx]

/-- Reading an image changes no context. -/
theorem State.getImage_ctx (s : State) (i : CtxId) (ps : List (Nat × Nat × Nat)) (j : CtxId) : (s.getImage i ps).1.ctx j = s.ctx j := by
  induction ps generalizing s with
  | nil => rfl
  | cons p ps ih =>
    obtain ⟨va, off, n⟩ := p
    unfold State.getImage
    dsimp only
    split
    · rfl
    · split
      · split
        · rfl
        · dsimp only
          rw [ih, foldl_touchLine_ctx, State.fillTlbs_ctx]
      · exact ih s

/-! ## Loading the engines (R428, R430) -/

theorem State.askRevoke_ctx (s : State) (c : CoreId) (hard : Bool) (i : CtxId) : (s.askRevoke c hard).ctx i = s.ctx i := by
  unfold State.askRevoke
  split
  · exact s.ctx_modCore c (fun k => { k with revoke := true, revokeHard := k.revokeHard || hard }) i fun k => by cases i.slot <;> rfl
  · rfl

theorem State.ownerEnters_ctx (s : State) (c : CoreId) (e : Eng) (i : CtxId) : (s.ownerEnters c e).ctx i = s.ctx i := by
  unfold State.ownerEnters; split
  · exact s.askRevoke_ctx _ _ _
  · rfl

theorem State.ownerEnters_dram (s : State) (c : CoreId) (e : Eng) : (s.ownerEnters c e).dram = s.dram := by
  unfold State.ownerEnters State.askRevoke; split_ifs <;> rfl

/-- A cause that reaches one context changes the cause of each context at most. -/
theorem State.modCtx_cause_ctx (s : State) (j : CtxId) (t : Trap) (i : CtxId) :
    ∃ x h, (s.modCtx j fun c => c.cause t).ctx i = { s.ctx i with trap := x, holdEnd := h } := by
  by_cases same : i = j
  · subst same; rw [State.ctx_modCtx]; exact ⟨_, _, rfl⟩
  · rw [State.ctx_modCtx_other _ _ _ _ same]; exact ⟨_, _, rfl⟩

theorem State.loadEngine_changes (s : State) (e : EngId) (q : List QEntry) (h : Head) (i : CtxId) :
    (s.loadEngine e q h).dram = s.dram ∧ ∃ x d, (s.loadEngine e q h).ctx i = { s.ctx i with trap := x, holdEnd := d } := by
  unfold State.loadEngine
  cases q with
  | nil => exact ⟨rfl, _, _, rfl⟩
  | cons r rest =>
    have entered : (if r.slot = .o then s.ownerEnters e.core e.eng else s).ctx i = s.ctx i
        ∧ (if r.slot = .o then s.ownerEnters e.core e.eng else s).dram = s.dram := by
      split
      · exact ⟨s.ownerEnters_ctx _ _ _, s.ownerEnters_dram _ _⟩
      · exact ⟨rfl, rfl⟩
    dsimp only
    revert entered
    generalize (if r.slot = .o then s.ownerEnters e.core e.eng else s) = u
    intro ⟨ctx, dram⟩
    split
    · exact ⟨dram, by rw [← ctx, ← u.ctx_modEngine e _ i]; exact State.modCtx_cause_ctx ..⟩
    · exact ⟨dram, _, _, (u.ctx_modEngine e _ i).trans ctx⟩

theorem State.loadEngines_changes (s : State) (i : CtxId) (m : Mem) (sup : Bool) (v : VnpuId) :
    (s.loadEngines i m sup v).dram = s.dram ∧ ∃ x d, (s.loadEngines i m sup v).ctx i = { s.ctx i with trap := x, holdEnd := d } := by
  unfold State.loadEngines
  generalize engs = l
  induction l generalizing s with
  | nil => exact ⟨rfl, _, _, rfl⟩
  | cons e l ih =>
    rw [List.foldl_cons]
    generalize imageEngine m i.slot sup v e = f
    obtain ⟨dram, x, d, hx⟩ := s.loadEngine_changes ⟨i.core, e⟩ f.1 f.2 i
    obtain ⟨dram', x', d', hx'⟩ := ih (s.loadEngine ⟨i.core, e⟩ f.1 f.2)
    exact ⟨dram'.trans dram, x', d', hx'.trans (by rw [hx])⟩

/-! ## The return (R428, R429) -/

/-- What a return does with the answers of the reading `get` of its image and of the check `bad` of it. Stated for any `get` and `bad`: an
image is not evaluated. -/
def ReturnsBy (get : State → CtxId → List (Nat × Nat × Nat) → State × Mem × Option Trap) (bad : Slot → Mem → Option Nat)
    (ret : State → CtxId → Except Trap State) : Prop :=
  ∀ (s : State) (i : CtxId) (w : State) (m : Mem),
    let answer := get s i (imagePieces (s.saveArea i))
    (∀ t, answer = (w, m, some t) → ret s i = .error t)
      ∧ (∀ off, answer = (w, m, none) → bad i.slot m = some off → ret s i = .error { cause := 0x02, einfo := BitVec.ofNat 64 off })
      ∧ (answer = (w, m, none) → bad i.slot m = none →
          ret s i = .ok ((w.setCtx i ((w.ctx i).returned m)).loadEngines i m (tb (w.ctx i).estat 1) (w.ctx i).vnpu))

theorem State.returnFrom_returnsBy : ReturnsBy State.getImage imageBad State.returnFrom := by
  delta State.returnFrom
  generalize State.getImage = get
  generalize imageBad = bad
  -- The kernel meets the body below for an unknown `get` and `bad` only.
  refine id ?_
  intro s i w m
  refine ⟨fun t h => ?_, fun off h hb => ?_, fun h hb => ?_⟩
  · simp only [h]
  · simp only [h, hb]
  · simp only [h, hb]

theorem vecOf_get {α : Type} [Inhabited α] (n : Nat) (f : Nat → α) (k : Nat) (h : k < n) : (vecOf n f)[k]'h = f k := by
  simp [vecOf]

/-- What a context kept for the tick of an image. -/
def Ctx.keptFor (c : Ctx) (m : Mem) : Option Kept :=
  c.kept.find? fun k => decide (k.tick = m.word 0x38) && decide (k.seqs = (loadCtx m c).seqs)

/-- A return loads the image, takes the privilege of PPRIV and the PC of EPC, clears ACTIVE, and takes up what was kept for its tick. -/
theorem Ctx.returned_changes (c : Ctx) (m : Mem) : ∃ q held kept, c.returned m = { loadCtx m c with
    events := q, eventsHeld := held, sup := tb c.estat 1, estat := c.estat &&& ~~~1, pc := c.epc, stage := .fresh, blocked := none
    inWfe := false, stps := ((c.keptFor m).map Kept.stps).getD [], tickFlags := ((c.keptFor m).map Kept.flags).getD 0, kept := kept
    issued := none, late := [] } := by
  have same (k : Option Kept) (d : Kept) (hs : d.stps = []) (hf : d.flags = 0) :
      (k.getD d).stps = (k.map Kept.stps).getD [] ∧ (k.getD d).flags = (k.map Kept.flags).getD 0 := by
    cases k
    · exact ⟨hs, hf⟩
    · exact ⟨rfl, rfl⟩
  obtain ⟨stps, flags⟩ := same (c.keptFor m) ⟨(loadCtx m c).tick, (loadCtx m c).seqs, 0, []⟩ rfl rfl
  rw [← stps, ← flags, Ctx.returned]
  dsimp only
  generalize mergeEvents c.late c.events (loadCtx m c).events = events
  obtain ⟨q, held⟩ := events
  exact ⟨_, _, _, rfl⟩

/-- The registers of a context loaded from an image are those of the image. -/
theorem Ctx.rd_of_loaded {d : Ctx} {m : Mem} {r : Reg} (hd : d.g = vecOf 64 fun i => if i = 0 then 0 else m.word (0x0100 + 8 * i)) (h : r ≠ 0) :
    d.rd r = m.word (0x100 + 8 * r.toNat) := by
  have nonzero : r.toNat ≠ 0 := fun e => h (BitVec.eq_of_toNat_eq e)
  rw [Ctx.rd, if_neg h]
  simp only [hd, vecOf_get, if_neg nonzero]

/-- What an ERET answers where its image may be read, or is held. -/
def State.eretAnswer (v : State) (held : Bool) (r : Except Trap State) (i : CtxId) (pc : Word) : Ans :=
  if held then .stall v
  else match r with
    | .error t => .trap v t
    | .ok u => .gone (u.modCtx i fun x => { x with last := pc })

/-- Settles O37: the drain and the closing leave the exception registers (`State.drain_closing`), reading the image leaves the context
(`State.getImage_ctx`), and loading the engines can only add a cause (`State.loadEngines_changes`). -/
theorem eretReturns : Obligations.EretReturns := by
  intro s p v b hi hd hq hb
  obtain ⟨goes, cur, me, x, y, g, ctx⟩ := State.drain_closing hd hq
  have run : exec (.eret p) s = .next ((v.eretAnswer (v.imageHeld (v.imageAcc s.me false) (imagePieces (v.saveArea s.me)))
      (v.returnFrom s.me) s.me (s.ctx s.me).pc).state s.me) := by
    rw [exec_eret, execEret, ctl_issued rfl hi, goes, me]
    rfl
  have same (w : State) (m : Mem) (x : Option Trap) (h : v.getImage s.me (imagePieces (v.saveArea s.me)) = (w, m, x)) :
      w.ctx s.me = v.ctx s.me := by
    have := v.getImage_ctx s.me (imagePieces (v.saveArea s.me)) s.me
    rwa [h] at this
  generalize v.imageHeld (v.imageAcc s.me false) (imagePieces (v.saveArea s.me)) = held at hb run
  refine ⟨fun free => ?_, fun w m free hget hm => ?_, fun w m off free hget hm => ?_, fun w m t free hget => ?_⟩
  all_goals
    rw [hb] at free
    simp only [Bool.not_eq_true', Bool.not_eq_false'] at free
    subst free
  · exact run
  · have returns := (State.returnFrom_returnsBy v s.me w m).2.2 hget hm
    rw [returns] at run
    have before := same w m none hget
    rw [ctx] at before
    obtain ⟨dram, c, d, loaded⟩ := (w.setCtx s.me ((w.ctx s.me).returned m)).loadEngines_changes s.me m (tb (w.ctx s.me).estat 1) (w.ctx s.me).vnpu
    rw [State.ctx_setCtx] at loaded
    generalize (w.setCtx s.me ((w.ctx s.me).returned m)).loadEngines s.me m (tb (w.ctx s.me).estat 1) (w.ctx s.me).vnpu = u at dram loaded run
    have now : ((v.eretAnswer false (.ok u) s.me (s.ctx s.me).pc).state s.me).ctx s.me
        = { (w.ctx s.me).returned m with trap := c, holdEnd := d, last := (s.ctx s.me).pc } := by
      show (u.modCtx s.me fun x => { x with last := (s.ctx s.me).pc }).ctx s.me = _
      rw [State.ctx_modCtx, loaded]
    refine ⟨_, run, ?_⟩
    obtain ⟨q, e, k, hr⟩ := (w.ctx s.me).returned_changes m
    rw [now, hr]
    generalize w.ctx s.me = old at before ⊢
    subst before
    refine ⟨rfl, rfl, rfl, rfl, rfl, fun r hr => Ctx.rd_of_loaded rfl hr, rfl, rfl, rfl, ?_, ?_, ?_, ⟨rfl, rfl⟩, dram⟩ <;> simp only [loadCtx]
  · rw [(State.returnFrom_returnsBy v s.me w m).2.1 off hget hm] at run
    exact run
  · rw [(State.returnFrom_returnsBy v s.me w m).1 t hget] at run
    exact run

end Sys2Proof.Machine

/-! The images of a context: copies by CTXSV and CTXLD (R385, R427, R434). -/

namespace Sys2Proof.Machine

/-! ## What a cut, a gate and the reading of an image leave of the acting object -/

theorem State.unblockEng_cur (s : State) (i : EngId) (sl : Slot) : (s.unblockEng i sl).cur = s.cur := by
  unfold State.unblockEng; split <;> rfl

theorem State.blockEng_cur (s : State) (i : EngId) (sl : Slot) (o : BitVec 32) : (s.blockEng i sl o).cur = s.cur := by
  unfold State.blockEng
  split
  · rfl
  · exact s.unblockEng_cur i sl

theorem State.stamped_cur (s : State) (r : Src) : (s.stamped r).cur = s.cur := by unfold State.stamped; split <;> rfl

theorem State.dropHead_cur (s : State) (e : EngId) : (s.dropHead e).cur = s.cur := by
  unfold State.dropHead
  split
  · rfl
  · next q _ _ =>
    have start : ((s.unblockEng e q.slot).dropReads e).cur = s.cur := s.unblockEng_cur e q.slot
    dsimp only
    revert start
    generalize (s.unblockEng e q.slot).dropReads e = u
    intro start
    have woken : (if (u.engine e).queue.length < 8 then u else ([.o, .h] : List Slot).foldl (fun s t =>
        if (s.ctx ⟨e.core, t⟩).blocked = some (queueObj e.core t e.eng) && !(s.ctx ⟨e.core, t⟩).inWfe then s.unblockCtx ⟨e.core, t⟩ else s) u).cur
          = s.cur := by
      have wake (s : State) (t : Slot) : (if (s.ctx ⟨e.core, t⟩).blocked = some (queueObj e.core t e.eng) && !(s.ctx ⟨e.core, t⟩).inWfe
          then s.unblockCtx ⟨e.core, t⟩ else s).cur = s.cur := by
        split
        · exact s.unblockCtx_cur _
        · rfl
      split
      · exact start
      · exact (wake _ .h).trans ((wake _ .o).trans start)
    revert woken
    generalize (if (u.engine e).queue.length < 8 then u else ([.o, .h] : List Slot).foldl (fun s t =>
        if (s.ctx ⟨e.core, t⟩).blocked = some (queueObj e.core t e.eng) && !(s.ctx ⟨e.core, t⟩).inWfe then s.unblockCtx ⟨e.core, t⟩ else s) u) = w
    intro woken
    split <;> exact woken

theorem State.retireEffects_cur (s : State) (e : EngId) (q : QEntry) (h : Head) : (s.retireEffects e q h).cur = s.cur := by
  unfold State.retireEffects
  dsimp only
  split_ifs
  · exact (State.stamped_cur _ _)
  · rfl
  · exact (State.stamped_cur _ _)
  · rfl

theorem State.retire_cur (s : State) (e : EngId) : (s.retire e).cur = s.cur := by
  have ends (u : State) (q : QEntry) (hu : u.cur = s.cur) : (if !u.phaseDone (.eng e) ((u.engine e).head.retire.getD 0) then u
      else if (u.engine e).head.orphan then (u.endWriter e q true).dropHead e
      else match u.retireHold e q (u.engine e).head with
        | some o => u.engStall e q o
        | none => if wantsEvent q (u.engine e).head && !u.mayStamp (.eng e) then u
            else (u.retireEffects e q (u.engine e).head).dropHead e).cur = s.cur := by
    split
    · exact hu
    · split
      · exact (State.dropHead_cur _ e).trans hu
      · split
        · exact (u.blockEng_cur e q.slot _).trans hu
        · split
          · exact hu
          · exact (State.dropHead_cur _ e).trans ((u.retireEffects_cur e q _).trans hu)
  unfold State.retire
  split
  · rfl
  · next q _ _ =>
    split
    · rfl
    · dsimp only
      cases hr : (s.engine e).head.retire with
      | some n => exact ends s q rfl
      | none =>
        cases hc : s.closePhase (.eng e) q.vnpu with
        | none => rfl
        | some u =>
          have closed : u.cur = s.cur := State.closePhase_cur hc
          exact ends (u.modEngine e fun x => { x with head := { x.head with retire := some (u.phases (.eng e)).closed } }) q closed

theorem State.settleHead_cur (s : State) (e : EngId) : (s.settleHead e).cur = s.cur := by
  unfold State.settleHead
  dsimp only
  split
  · split <;> rfl
  · split <;> rfl

theorem State.cutStep_cur (s : State) (i : CtxId) : (s.cutStep i).cur = s.cur := by
  have one (s : State) (e : Eng) : (if !(s.engine ⟨i.core, e⟩).headIs i.slot || s.stepHeld ⟨i.core, e⟩ i.slot then s
      else if (match (s.engine ⟨i.core, e⟩).head.st with | .done => true | _ => false) then s.retire ⟨i.core, e⟩
        else s.settleHead ⟨i.core, e⟩).cur = s.cur := by
    split
    · rfl
    · split
      · exact s.retire_cur _
      · exact s.settleHead_cur _
  have all (l : List Eng) (u : State) (hu : u.cur = s.cur) : (l.foldl (fun s e =>
      let x := s.engine ⟨i.core, e⟩
      if !x.headIs i.slot || s.stepHeld ⟨i.core, e⟩ i.slot then s
      else if (match x.head.st with | .done => true | _ => false) then s.retire ⟨i.core, e⟩ else s.settleHead ⟨i.core, e⟩) u).cur = s.cur := by
    induction l generalizing u with
    | nil => exact hu
    | cons e l ih => exact ih _ ((one u e).trans hu)
  exact all engs s rfl

theorem foldl_touchLine_cur (p : Nat) (a : Acc) (ls : List Nat) (s : State) :
    (ls.foldl (fun s l => (s.touch p).touchLine a l) s).cur = s.cur := by
  induction ls generalizing s with
  | nil => rfl
  | cons l ls ih =>
    rw [List.foldl_cons, ih]
    show (s.touch p).cur = s.cur
    unfold State.touch
    split <;> rfl

theorem State.getImage_cur (s : State) (i : CtxId) (ps : List (Nat × Nat × Nat)) : (s.getImage i ps).1.cur = s.cur := by
  induction ps generalizing s with
  | nil => rfl
  | cons p ps ih =>
    obtain ⟨va, off, n⟩ := p
    unfold State.getImage
    dsimp only
    split
    · rfl
    · split
      · split
        · rfl
        · dsimp only
          rw [ih, foldl_touchLine_cur]
          rfl
      · exact ih s

theorem State.copyGate_cur (s : State) (ps : List (Nat × Nat × Nat)) : (s.copyGate ps).2.cur = s.cur := by
  unfold State.copyGate
  dsimp only
  split
  · rfl
  · obtain ⟨b, r, h⟩ := s.admitSeq_changes (s.imageAcc s.me false).vnpu (s.asker (.ctx s.me)) (s.imageRequests (s.imageAcc s.me false) ps)
    rw [h]

/-- Settles O38: each word closes its phase (`State.closing_quiet`), and then stands at the answers of its gate, its reads and its writes. -/
theorem imagesAreCopied : Obligations.ImagesAreCopied := by
  refine ⟨fun s p a u w hi ha hq => ?_, fun s p a u g h y hi ha hq hg hh => ?_⟩
  · obtain ⟨goes, closes⟩ := State.closing_quiet hq
    intro x hcut hphases
    have me : x.me = s.me := by
      rw [State.me, u.cutStep_cur, ← State.me]; exact closes.me
    have aligned : ¬fld ((s.ctx s.me).rd a) 5 0 ≠ 0 := by
      rw [fld_low]; simpa using ha
    have stop : (!x.atCut s.me || !x.engPhasesQuiet s.me) = false := by rw [hcut, hphases]; rfl
    have gate := x.copyGate_cur (imagePieces (x.saveArea s.me) ++ imagePieces ((s.ctx s.me).rd a).toNat)
    have hx : u.cutStep s.me = x := rfl
    clear_value x
    have me' (hv : x.copyGate (imagePieces (x.saveArea s.me) ++ imagePieces ((s.ctx s.me).rd a).toNat) = (true, w)) : w.me = s.me := by
      rw [hv] at gate
      rw [State.me, gate, ← State.me]; exact me
    refine ⟨fun v hv => ?_, fun hv => ⟨fun y hy => ?_, fun y t hy => ?_⟩⟩
    · rw [exec_ctxsv, execCtxsv, ctl_issued rfl hi, if_neg aligned, goes]
      simp only [closes.me, hx, me, stop, hv, Bool.false_eq_true, if_false]
      rfl
    · refine Completes.of_done (exec_ctxsv p a s) rfl hi ?_ no_results
      rw [if_neg aligned, goes]
      have now := me' hv
      revert hv hy
      generalize State.copyGate = gated
      generalize State.copyImage = copy
      -- The kernel meets the matches below for unknown functions only: the pieces of an image are not evaluated.
      revert gated copy; refine id ?_; intro gated copy hv hy
      simp only [closes.me, hx, me, stop, hv, now, hy, Bool.false_eq_true, if_false]
      rfl
    · have now := me' hv
      rw [exec_ctxsv, execCtxsv, ctl_issued rfl hi, if_neg aligned, goes]
      revert hv hy
      generalize State.copyGate = gated
      generalize State.copyImage = copy
      revert gated copy; refine id ?_; intro gated copy hv hy
      simp only [closes.me, hx, me, stop, hv, now, hy, Bool.false_eq_true, if_false]
      rfl
  · obtain ⟨goes, closes⟩ := State.closing_quiet hq
    have aligned : ¬fld ((s.ctx s.me).rd a) 5 0 ≠ 0 := by
      rw [fld_low]; simpa using ha
    have gme : g.me = s.me := by
      have gate := u.copyGate_cur (imagePieces ((s.ctx s.me).rd a).toNat ++ imagePieces (u.saveArea s.me))
      rw [hg] at gate
      rw [State.me, gate, ← State.me]; exact closes.me
    have yme : y.me = s.me := by
      have got := g.getImage_cur s.me [(((s.ctx s.me).rd a).toNat, 0, 64)]
      rw [hh] at got
      rw [State.me, got, ← State.me]; exact gme
    have xme (x : State) (m : Mem) (f : Option Trap) (hx : y.getImage s.me (imagePieces ((s.ctx s.me).rd a).toNat) = (x, m, f)) :
        x.me = s.me := by
      have got := y.getImage_cur s.me (imagePieces ((s.ctx s.me).rd a).toNat)
      rw [hx] at got
      rw [State.me, got, ← State.me]; exact yme
    refine ⟨fun off hb => ?_, fun x m t hb hx => ?_, fun x m v t hb hx hv => ?_, fun x m v hb hx hv => ?_⟩
    · rw [exec_ctxld, execCtxld, ctl_issued rfl hi, if_neg aligned, goes]
      revert hg hh hb
      generalize State.copyGate = gated
      generalize State.getImage = get
      generalize excBad = bad
      revert gated get bad; refine id ?_; intro gated get bad hg hh hb
      simp only [closes.me, hg, gme, hh, hb]
      rfl
    · rw [exec_ctxld, execCtxld, ctl_issued rfl hi, if_neg aligned, goes]
      revert hg hh hb hx
      generalize State.copyGate = gated
      generalize State.getImage = get
      generalize excBad = bad
      revert gated get bad; refine id ?_; intro gated get bad hg hh hb hx
      simp only [closes.me, hg, gme, hh, hb, yme, hx]
      rfl
    · have now := xme x m none hx
      rw [exec_ctxld, execCtxld, ctl_issued rfl hi, if_neg aligned, goes]
      revert hg hh hb hx hv
      generalize State.copyGate = gated
      generalize State.getImage = get
      generalize State.putImage = put
      generalize excBad = bad
      revert gated get put bad; refine id ?_; intro gated get put bad hg hh hb hx hv
      simp only [closes.me, hg, gme, hh, hb, yme, hx, now, hv]
      rfl
    · have now := xme x m none hx
      refine Completes.of_done (exec_ctxld p a s) rfl hi ?_ no_results
      rw [if_neg aligned, goes]
      revert hg hh hb hx hv
      generalize State.copyGate = gated
      generalize State.getImage = get
      generalize State.putImage = put
      generalize excBad = bad
      revert gated get put bad; refine id ?_; intro gated get put bad hg hh hb hx hv
      simp only [closes.me, hg, gme, hh, hb, yme, hx, now, hv]
      rfl

end Sys2Proof.Machine

/-! Words by which a unit or a harvest context leaves its slot (R333, R348, R440, R443). -/

namespace Sys2Proof.Machine

/-! ## The banks of the cupboards through a discarding -/

/-- The banks of every cupboard are those of `s`, and so is the acting object. -/
structure State.SameBanks (s t : State) : Prop where
  banks : ∀ c, (t.core c).cupboard = (s.core c).cupboard
  cur : t.cur = s.cur

theorem State.core_of_cores {s t : State} {c : CoreId} (h : t.cores = s.cores) : t.core c = s.core c := by rw [State.core, h]; rfl

theorem State.SameBanks.of_cores {s t : State} (h : t.cores = s.cores) (hc : t.cur = s.cur) : s.SameBanks t :=
  ⟨fun _ => by rw [State.core_of_cores h], hc⟩

theorem State.SameBanks.refl (s : State) : s.SameBanks s := ⟨fun _ => rfl, rfl⟩

theorem State.SameBanks.trans {s t u : State} (a : s.SameBanks t) (b : t.SameBanks u) : s.SameBanks u :=
  ⟨fun c => (b.banks c).trans (a.banks c), b.cur.trans a.cur⟩

/-- A further change that leaves the cores and the acting object. -/
theorem State.SameBanks.then {s t u : State} (a : s.SameBanks t) (h : u.cores = t.cores) (hc : u.cur = t.cur) : s.SameBanks u :=
  a.trans (.of_cores h hc)

theorem State.SameBanks.modCore (s : State) (c : CoreId) {f : Core → Core} (h : ∀ k, (f k).cupboard = k.cupboard) : s.SameBanks (s.modCore c f) := by
  refine ⟨fun d => ?_, rfl⟩
  by_cases same : d = c
  · subst same; rw [State.core_modCore, h]
  · rw [State.core_modCore_other _ _ _ _ same]

theorem State.SameBanks.setCtx (s : State) (i : CtxId) (x : Ctx) : s.SameBanks (s.setCtx i x) :=
  .modCore s i.core fun k => k.setCtx_cupboard i.slot x

theorem State.SameBanks.modEngine (s : State) (e : EngId) (f : Engine → Engine) : s.SameBanks (s.modEngine e f) :=
  @State.SameBanks.modCore s e.core (fun k => k.setEngine e.eng (f (s.engine e))) fun _ => rfl

theorem State.SameBanks.foldl {α : Type} {f : State → α → State} (h : ∀ (s : State) x, s.SameBanks (f s x)) (l : List α) (s : State) :
    s.SameBanks (l.foldl f s) := by
  induction l generalizing s with
  | nil => exact .refl s
  | cons x l ih => exact (h s x).trans (ih _)

theorem State.SameBanks.unblockEng (s : State) (e : EngId) (sl : Slot) : s.SameBanks (s.unblockEng e sl) := by
  unfold State.unblockEng
  split
  · exact .refl s
  · refine State.SameBanks.trans ?_ (.modEngine _ e _)
    exact .of_cores rfl rfl

theorem State.SameBanks.settleHead (s : State) (e : EngId) : s.SameBanks (s.settleHead e) := by
  unfold State.settleHead
  dsimp only
  split
  · next q r u _ _ =>
    split
    · exact .modEngine s e _
    · refine (State.SameBanks.modEngine s e _).trans (.modCore _ e.core fun k => ?_)
      obtain ⟨m, p, h⟩ := k.writeUnit_changes u
      rw [h]
  · split
    · exact .refl s
    · exact .modEngine s e _

theorem State.SameBanks.discard (s : State) (e : EngId) (sl : Slot) (keepCo : Bool) : s.SameBanks (s.discard e sl keepCo) := by
  have settled : s.SameBanks ((((s.unblockEng e sl).dropReads e).giveUp (Asker.ofEng e)).settleHead e) := by
    have gone : s.SameBanks (((s.unblockEng e sl).dropReads e).giveUp (Asker.ofEng e)) := (State.SameBanks.unblockEng s e sl).then rfl rfl
    exact gone.trans (.settleHead _ e)
  unfold State.discard
  dsimp only
  split
  · exact .modEngine s e _
  · split
    · exact .refl s
    · split
      · exact .modEngine s e _
      · split_ifs
        · exact settled.trans (.modEngine _ e _)
        · exact settled.trans (.modEngine _ e _)

theorem State.SameBanks.discardBank (s : State) (c : CoreId) (sl : Slot) (keepCo : Bool) : s.SameBanks (s.discardBank c sl keepCo) :=
  .foldl (fun s e => .discard s ⟨c, e⟩ sl keepCo) engs s

theorem State.SameBanks.modAt (s : State) (i : CtxId) (l : LeafId) (f : Ctx → Ctx) : s.SameBanks (s.modAt i l f) := by
  unfold State.modAt
  dsimp only
  split
  · exact .setCtx s i _
  · exact .modCore s i.core fun _ => rfl

theorem State.SameBanks.releaseObj (s : State) (t : TopId) (o : BitVec 32) : s.SameBanks (s.releaseObj t o) := by
  unfold State.releaseObj
  refine State.SameBanks.trans (.foldl (fun s e => ?_) _ s) (.foldl (fun s i => ?_) _ _)
  · split
    · exact .modAt s _ _ _
    · exact .refl s
  · dsimp only
    split
    · exact .setCtx s i _
    · exact .refl s

theorem State.SameBanks.dropAll (s : State) (i : CtxId) (l : LeafId) : s.SameBanks (s.dropAll i l) := by
  have dropped : s.SameBanks ((s.wftDrop (.ctx i) l fun _ => true).dropReqs i l) := by
    unfold State.dropReqs; split <;> exact .of_cores rfl rfl
  exact dropped.trans (.foldl (fun s o => .releaseObj s (topOf l) o) _ _)

/-- A core whose harvest context `x` is parked in its bank `b`. -/
def Core.parked (k : Core) (x : Ctx) (b : Bank) : Core :=
  { ((k.endLeases.setBank x.bank b).loadSems []) with
    ctxH := { x with live := false, landings := [], stps := [], blocked := none, inWfe := false, stage := .fresh, trap := none, holdEnd := none }
    revoke := false, revokeHard := false }

/-- A bank whose context is parked by a revocation, which counts, or by itself. -/
def Bank.revoked (b : Bank) (rev : Bool) : Bank :=
  if !rev then b else if b.revs = 63 then { b with revs := 0, marked := true } else { b with revs := b.revs + 1 }

/-- The state in which the records, holds and writers of a harvest context are gone. -/
def State.without (s : State) (i : CtxId) : State :=
  let s := s.discardBank i.core .h true
  let s := s.dropAll i (s.ctxLeaf i)
  let s := s.dropUnsent i
  (s.closeWriters (s.unitOf i)).giveUp (Asker.ofCtx i)

theorem State.park_eq (s : State) (c : CoreId) (rev : Bool) : ∃ o n, s.park c rev
    = { (s.without ⟨c, .h⟩).modCore c fun k => k.parked (s.ctx ⟨c, .h⟩)
          { (k.bank (s.ctx ⟨c, .h⟩).bank).revoked rev with parked := true, order := o } with parkOrder := n } := by
  unfold State.park State.without
  dsimp only
  generalize (((((s.discardBank c .h true).dropAll ⟨c, .h⟩ ((s.discardBank c .h true).ctxLeaf ⟨c, .h⟩)).dropUnsent ⟨c, .h⟩).closeWriters
    ((((s.discardBank c .h true).dropAll ⟨c, .h⟩ ((s.discardBank c .h true).ctxLeaf ⟨c, .h⟩)).dropUnsent ⟨c, .h⟩).unitOf ⟨c, .h⟩)).giveUp
      (Asker.ofCtx ⟨c, .h⟩)) = u
  exact ⟨u.parkOrder, u.parkOrder + 1, rfl⟩

theorem State.SameBanks.without (s : State) (i : CtxId) : s.SameBanks (s.without i) := by
  unfold State.without
  have discarded := State.SameBanks.discardBank s i.core .h true
  generalize s.discardBank i.core .h true = u at discarded ⊢
  have dropped := State.SameBanks.dropAll u i (u.ctxLeaf i)
  dsimp only
  generalize u.dropAll i (u.ctxLeaf i) = w at dropped ⊢
  exact (discarded.trans dropped).then rfl rfl

theorem Core.bank_setBank (k : Core) (b : Fin 4) (x : Bank) : (k.setBank b x).bank b = x := getSetSelf _ _ _

/-- What parking leaves: the acting object, an empty slot, and the bank, parked. -/
theorem State.park_parks (s : State) (c : CoreId) (rev : Bool) : (s.park c rev).cur = s.cur
    ∧ ((s.park c rev).core c).ctxH.live = false ∧ ∃ o, ((s.park c rev).core c).bank (s.ctx ⟨c, .h⟩).bank
        = { ((s.core c).bank (s.ctx ⟨c, .h⟩).bank).revoked rev with parked := true, order := o } := by
  obtain ⟨o, n, h⟩ := s.park_eq c rev
  obtain ⟨banks, cur⟩ := State.SameBanks.without s ⟨c, .h⟩
  have same := banks c
  rw [h]
  generalize s.without ⟨c, .h⟩ = u at same cur
  generalize s.ctx ⟨c, .h⟩ = x
  have core : ({ u.modCore c fun k => k.parked x { (k.bank x.bank).revoked rev with parked := true, order := o } with parkOrder := n } : State).core c
      = (u.core c).parked x { ((u.core c).bank x.bank).revoked rev with parked := true, order := o } := by
    have cores : ({ u.modCore c fun k => k.parked x { (k.bank x.bank).revoked rev with parked := true, order := o } with parkOrder := n } : State).cores
      = (u.modCore c fun k => k.parked x { (k.bank x.bank).revoked rev with parked := true, order := o }).cores := rfl
    exact (State.core_of_cores cores).trans (u.core_modCore c _)
  rw [core]
  refine ⟨cur, rfl, o, (Core.bank_setBank _ _ _).trans ?_⟩
  rw [Core.bank, same]; rfl

/-- A unit or a harvest context that ends leaves its slot. -/
theorem State.endUnit_live (s : State) (i : CtxId) : ((s.endUnit i).ctx i).live = false := by
  obtain ⟨c, sl⟩ := i
  cases sl with
  | o =>
    show ((s.retireUnit ⟨c, .o⟩).ctx ⟨c, .o⟩).live = false
    rw [State.retireUnit, State.ctx_modCtx]
  | h =>
    show ((s.endHarvest ⟨c, .h⟩).core c).ctxH.live = false
    rw [State.endHarvest, State.core_modCore]

/-- A unit saved with no live region leaves its slot; its core keeps its registers and its PC, and no byte of its regions. -/
theorem State.saveUnit_saves (s : State) (c : CoreId) :
    ((s.saveUnit c 0).ctx ⟨c, .o⟩).live = false
      ∧ ∃ x ∈ ((s.saveUnit c 0).core c).saved, x.ctx.pc = (s.ctx ⟨c, .o⟩).pc ∧ x.ctx.g = (s.ctx ⟨c, .o⟩).g ∧ x.live = 0 ∧ x.lost = false := by
  have none : maskSize 0 = 0 := by simp [maskSize]
  unfold State.saveUnit
  extract_lets i k keep n lost kept x saved charged emptied
  have nothing : keep = 0 := BitVec.zero_and
  have found : lost = false := by
    have : n = 0 := by unfold n; rw [nothing, none]
    unfold lost; rw [this]; rfl
  refine ⟨?_, saved, ?_, rfl, rfl, ?_, found⟩
  · rw [State.ctx, State.core_modCore]; rfl
  · rw [State.core_modCore]
    exact List.mem_append_right _ (List.mem_singleton_self _)
  · show kept = 0
    unfold kept; rw [found, nothing]; rfl

/-- A harvest context that yields: its bank takes the checkpoint, is parked and marked. -/
def State.yielded (s : State) (c : CoreId) (b : Fin 4) : State :=
  ((s.modCore c Core.checkpoint).park c false).modCore c fun k => k.setBank b { (k.bank b) with yielded := true }

theorem State.yielded_parks (s : State) (c : CoreId) :
    let t := s.yielded c (s.ctx ⟨c, .h⟩).bank
    let b := (t.core c).bank (s.ctx ⟨c, .h⟩).bank
    (t.ctx ⟨c, .h⟩).live = false ∧ b.used = true ∧ b.parked = true ∧ b.yielded = true ∧ b.ctx.pc = (s.ctx ⟨c, .h⟩).pc := by
  have same : (s.modCore c Core.checkpoint).ctx ⟨c, .h⟩ = s.ctx ⟨c, .h⟩ := s.ctx_modCore c Core.checkpoint ⟨c, .h⟩ fun _ => rfl
  have written : ((s.modCore c Core.checkpoint).core c).bank (s.ctx ⟨c, .h⟩).bank
      = { (s.core c).bank (s.ctx ⟨c, .h⟩).bank with
          used := true, ctx := { s.ctx ⟨c, .h⟩ with stage := .fresh, blocked := none, inWfe := false, stps := [], trap := none }
          sems := (s.core c).mappedSems (s.ctx ⟨c, .h⟩), revs := 0, marked := false } := by
    rw [State.core_modCore]; exact Core.bank_setBank ..
  obtain ⟨-, live, o, bank⟩ := (s.modCore c Core.checkpoint).park_parks c false
  rw [same, written] at bank
  unfold State.yielded
  generalize (s.modCore c Core.checkpoint).park c false = w at live bank
  intro t b
  have core : t.core c = (w.core c).setBank (s.ctx ⟨c, .h⟩).bank { (w.core c).bank (s.ctx ⟨c, .h⟩).bank with yielded := true } :=
    w.core_modCore c _
  have marked : b = { (w.core c).bank (s.ctx ⟨c, .h⟩).bank with yielded := true } := by
    unfold b; rw [core]; exact Core.bank_setBank ..
  rw [marked, State.ctx, core, bank]
  exact ⟨live, rfl, rfl, rfl, rfl⟩

/-- Settles O39: END and OPBND leave the slot once drained and closed (`State.drain_closing`); a YIELD of slot H takes a checkpoint, and its
bank stays through the parking (`State.yielded_parks`). -/
theorem wordsThatLeaveTheSlot : Obligations.WordsThatLeaveTheSlot := by
  refine ⟨fun s p u hi hd hq => ?_, fun s p u hi hr hd hq => ?_, fun s p hi ho => ?_, fun s p hi hh hw hd hx => ?_⟩
  · obtain ⟨goes, cur, me, -⟩ := State.drain_closing hd hq
    refine ⟨?_, u.endUnit_live s.me⟩
    rw [exec_endUnit, execEndUnit, ctl_issued rfl hi, goes, me]; rfl
  · obtain ⟨goes, cur, me, -⟩ := State.drain_closing hd hq
    have slot : s.cur.slot = .o := by
      have := (State.issues_iff (p := p) (l := .slotO) (ops := []) rfl).1 hi
      exact of_decide_eq_true this.1
    have run : exec (.opbnd p) s = .next ((u.finish [] (some ((s.ctx s.me).pc + 8)) 1).saveUnit s.cur.core 0) := by
      rw [exec_opbnd, execOpbnd, ctl_issued rfl hi]
      simp only [hr, Bool.not_true, Bool.false_eq_true, if_false, goes]
      rw [cur]; rfl
    have at_o : s.me = ⟨s.cur.core, .o⟩ := by rw [State.me, slot]
    obtain ⟨gone, x, hx, pc, g, live, lost⟩ := (u.finish [] (some ((s.ctx s.me).pc + 8)) 1).saveUnit_saves s.cur.core
    rw [← at_o] at gone pc g
    refine ⟨_, run, gone, x, hx, pc.trans ?_, g, live, lost⟩
    rw [← me, State.finish_pc_taken]
  · rw [exec_yield, execYield, ctl_issued rfl hi]
    simp only [ho, if_true]
    rw [State.upd, State.finish_me]; rfl
  · have free : (s.wft.any fun e => e.holder && decide (e.agent = .ctx s.me) && decide (e.leaf = s.ctxLeaf s.me)) = false := by
      refine List.any_eq_false.2 fun e he => ?_
      rw [hw e he]; simp
    have other : ¬s.cur.slot = .o := by rw [hh]; decide
    have at_h : s.me = ⟨s.cur.core, .h⟩ := by rw [State.me, hh]
    have run : exec (.yield p) s = .next ((s.finish [] (some ((s.ctx s.me).pc + 8)) 1).yielded s.cur.core (s.ctx s.me).bank) := by
      rw [exec_yield, execYield, ctl_issued rfl hi]
      simp only [other, if_false, State.rsmark_goes free hd hx]
      rw [at_h]; rfl
    obtain ⟨live, used, parked, yielded, pc⟩ := State.yielded_parks (s.finish [] (some ((s.ctx s.me).pc + 8)) 1) s.cur.core
    have bank : ((s.finish [] (some ((s.ctx s.me).pc + 8)) 1).ctx s.me).bank = (s.ctx s.me).bank := by
      obtain ⟨b, v, x, h⟩ := s.finish_ctx [] (some ((s.ctx s.me).pc + 8)) 1
      rw [h]
      have framed := Ctx.complete_frame { s.ctx s.me with blocked := none, inWfe := b, inWowait := v, stps := x } [] (some ((s.ctx s.me).pc + 8)) 1
      exact (congrArg (fun c : Ctx => c.bank) framed : _)
    rw [← at_h] at live used parked yielded pc
    rw [bank] at live used parked yielded pc
    exact ⟨_, run, live, used, parked, yielded, pc.trans (State.finish_pc_taken ..)⟩

end Sys2Proof.Machine

/-! LEND and RECALL (R326, R330, R332); barriers (R235, R253, R368-R371). -/

namespace Sys2Proof.Machine

/-! ## Revocation reads no flag of it (R330, R435) -/

theorem walk2_modCore (s : State) (c : CoreId) (f : Core → Core) (n table a : Nat) : walk2 (s.modCore c f) n table a = walk2 s n table a := by
  induction n generalizing table a with
  | zero => rfl
  | succ n ih =>
    unfold walk2
    simp only [ih]
    rfl

theorem State.stage2_modCore (s : State) (c : CoreId) (f : Core → Core) (v : VnpuId) (ipa : Nat) :
    (s.modCore c f).stage2 v ipa = s.stage2 v ipa := by
  unfold State.stage2
  rw [walk2_modCore]; rfl

theorem walk1_modCore (s : State) (c : CoreId) (f : Core → Core) (v : VnpuId) (n table a : Nat) :
    walk1 (s.modCore c f) v n table a = walk1 s v n table a := by
  induction n generalizing table a with
  | zero => rfl
  | succ n ih =>
    unfold walk1
    simp only [State.stage2_modCore, ih]
    rfl

theorem State.walkPage_modCore (s : State) (c : CoreId) (f : Core → Core) (v : VnpuId) (va : Nat) :
    (s.modCore c f).walkPage v va = s.walkPage v va := by
  unfold State.walkPage
  simp only [State.stage2_modCore, walk1_modCore]
  rfl

/-- A core of which the parts a fetch reads are as they were. -/
def Core.SameFetch (k d : Core) : Prop := d.tlb = k.tlb ∧ d.icache = k.icache ∧ d.ctxO = k.ctxO ∧ d.ctxH = k.ctxH

theorem State.inService_modCore (s : State) (c : CoreId) (f : Core → Core) (h : (s.core c).SameFetch (f (s.core c))) :
    (s.modCore c f).inService ⟨c, .h⟩ = s.inService ⟨c, .h⟩ := by
  obtain ⟨tlb, icache, -, ctxH⟩ := h
  have ctx : (s.modCore c f).ctx ⟨c, .h⟩ = s.ctx ⟨c, .h⟩ := by
    rw [State.ctx, State.core_modCore]; exact ctxH
  have page (va : Nat) (a : Acc) (ha : a.core = c) : (s.modCore c f).page a va = s.page a va := by
    have tlb' : ((s.modCore c f).core a.core).tlb = (s.core a.core).tlb := by rw [ha, State.core_modCore]; exact tlb
    unfold State.page
    rw [tlb', State.walkPage_modCore]; rfl
  have fetch : (s.modCore c f).fetchPage ⟨c, .h⟩ = s.fetchPage ⟨c, .h⟩ := by
    unfold State.fetchPage State.fetchAcc
    rw [ctx]
    dsimp only
    rw [page _ _ rfl]; rfl
  have word (pa : Nat) : (s.modCore c f).wordAt c pa = s.wordAt c pa := by
    have : ((s.modCore c f).core c).icache = (s.core c).icache := by rw [State.core_modCore]; exact icache
    unfold State.wordAt State.iCopy
    rw [this]; rfl
  unfold State.inService State.peek
  rw [ctx, fetch]
  simp only [word]

theorem State.askRevoke_cur (s : State) (c : CoreId) (hard : Bool) : (s.askRevoke c hard).cur = s.cur := by
  unfold State.askRevoke; split <;> rfl

theorem State.revokeNow_cur (s : State) (c : CoreId) : (s.revokeNow c).cur = s.cur := by
  unfold State.revokeNow
  dsimp only
  split_ifs
  · rfl
  · rfl
  · rfl
  · rfl
  · exact (s.park_parks c true).1

/-- A hard revocation is carried out at once, where no service or failure holds the slot. -/
theorem State.revokeNow_hard (s : State) (c : CoreId) (h : s.slotHStays c = false) :
    (((s.askRevoke c true).revokeNow c).core c).ctxH.live = false := by
  cases hl : (s.core c).ctxH.live with
  | false =>
    have ask : s.askRevoke c true = s := by rw [State.askRevoke, hl]; rfl
    rw [ask]
    unfold State.revokeNow
    simp only [hl, Bool.not_false, if_true]
    split
    · exact hl
    · rw [State.core_modCore]; exact hl
  | true =>
    have ask : s.askRevoke c true = s.modCore c fun k => { k with revoke := true, revokeHard := k.revokeHard || true } := by
      rw [State.askRevoke, hl]; rfl
    have stays : (s.askRevoke c true).slotHStays c = false := by
      rw [← h, ask]
      unfold State.slotHStays
      rw [State.inService_modCore s c _ ⟨rfl, rfl, rfl, rfl⟩, State.core_modCore]
    have core : (s.askRevoke c true).core c = { s.core c with revoke := true, revokeHard := (s.core c).revokeHard || true } := by
      rw [ask, State.core_modCore]
    have now : (s.askRevoke c true).revokeNow c = (s.askRevoke c true).park c true := by
      unfold State.revokeNow
      simp only [stays, core, hl, Bool.or_true, Bool.not_true, Bool.false_and, Bool.false_eq_true, if_false]
    rw [now]
    exact ((s.askRevoke c true).park_parks c true).2.1

/-- A word that stalls leaves the state of its stall. -/
theorem exec_of_stall {i : Instr} {p : Pred} {l : Limit} {ops : List Nat} {body : State → Ctx → Ans} {s u : State}
    (run : exec i s = ctl i p l ops body s) (hp : ctlParts i = some (p, l, ops)) (hi : s.issues i = true)
    (hb : body s (s.ctx s.me) = .stall u) : exec i s = .next u := by
  rw [run, ctl_issued hp hi, hb]; rfl

/-- Settles O40: what LEND and RECALL do turns on the slot after the revocation (`State.revokeNow_hard`). -/
theorem lendAndRecall : Obligations.LendAndRecall := by
  refine ⟨fun s p a hi hm hd => ?_, fun s p hi => ?_, fun k m => ⟨rfl, rfl⟩⟩
  · intro mask back r
    have legal : ¬fld ((s.ctx s.me).rd a) 63 60 ≠ 0 := by rw [hm]; simp
    have cur : r.cur = s.cur := (State.revokeNow_cur _ _).trans (s.askRevoke_cur _ _)
    refine ⟨fun h => ?_, fun hb hl hr => ?_, fun hb hl hr => ?_⟩
    · refine Completes.of_done (exec_lend p a s) rfl hi ?_ no_results
      have no : (decide (back ≠ 0) && (s.core s.cur.core).ctxH.live) = false := by
        rcases h with h | h
        · rw [h]; rfl
        · rw [h, Bool.and_false]
      dsimp only
      rw [if_neg legal, hd]
      simp only [Bool.not_true, Bool.false_eq_true, if_false]
      exact if_neg (by rw [no]; decide)
    · refine Completes.of_done (exec_lend p a s) rfl hi ?_ no_results
      have yes : (decide (back ≠ 0) && (s.core s.cur.core).ctxH.live) = true := by rw [hl, decide_eq_true hb]; rfl
      dsimp only
      rw [if_neg legal, hd]
      simp only [Bool.not_true, Bool.false_eq_true, if_false]
      refine (if_pos yes).trans ?_
      show (if (r.core r.cur.core).ctxH.live then _ else _) = _
      rw [cur, hr]; rfl
    · refine exec_of_stall (exec_lend p a s) rfl hi ?_
      have yes : (decide (back ≠ 0) && (s.core s.cur.core).ctxH.live) = true := by rw [hl, decide_eq_true hb]; rfl
      dsimp only
      rw [if_neg legal, hd]
      simp only [Bool.not_true, Bool.false_eq_true, if_false]
      refine (if_pos yes).trans ?_
      show (if (r.core r.cur.core).ctxH.live then _ else _) = _
      rw [cur, hr]; rfl
  · intro u
    have cur : u.cur = s.cur := (State.revokeNow_cur _ _).trans (s.askRevoke_cur _ _)
    refine ⟨fun h => ?_, fun h => ?_, fun h => ?_⟩
    · refine Completes.of_done (exec_recall p s) rfl hi ?_ no_results
      show (if (u.core u.cur.core).ctxH.live then _ else _) = _
      rw [cur, h]; rfl
    · rw [exec_recall, execRecall, ctl_issued rfl hi]
      show Host.Outcome.next (Ans.state s.me (if (u.core u.cur.core).ctxH.live then _ else _)) = _
      rw [cur, h]; rfl
    · unfold u
      rw [State.core_modCore]
      exact s.revokeNow_hard _ h

/-! ## Barriers -/

/-- An arrival is noted in the context; a refusal is of a second kind at one meeting (R370). -/
theorem State.arrive_answers (s : State) (i : CtxId) (n : Nat) (xf : Bool) :
    (∀ v, s.arrive i n xf = some (.ok v) → v.cur = s.cur ∧ ∃ b, (v.ctx i).stage = .arrived b)
      ∧ ∀ t, s.arrive i n xf = some (.error t) → t.cause = 0x1F ∧ t.einfo = 4 := by
  unfold State.arrive
  dsimp only
  refine ⟨fun v h => ?_, fun t h => ?_⟩
  · split at h
    · cases h
    · split at h
      · split at h
        · cases h
        · split at h
          · cases h
          · cases h
            exact ⟨rfl, _, by rw [State.ctx_modCtx]⟩
      · cases h
        exact ⟨rfl, _, by rw [State.ctx_modCtx]⟩
  · split at h
    · cases h
    · split at h
      · split at h
        · cases h
        · split at h
          · cases h; exact ⟨rfl, rfl⟩
          · cases h
      · cases h

/-- A BAR of a context that has not arrived goes on once its phase is closed and complete. -/
theorem exec_bar_closed {s u : State} {p : Pred} {lv : BitVec 2} (hi : s.issues (.bar p lv) = true) (hh : s.cur.slot = .o ∨ lv = 0)
    (hs : ∀ b, (s.ctx s.me).stage ≠ .arrived b) (hq : s.quiet = some u) :
    ∃ a : Ans, exec (.bar p lv) s = .next (a.state s.me) ∧ (lv = 0 → a = u.drain plain)
      ∧ (lv ≠ 0 → (u.arrive s.me lv.toNat false = none → a = .stall (u.blockCtx s.me (s.barrierObj s.me lv.toNat)))
        ∧ (∀ t, u.arrive s.me lv.toNat false = some (.error t) → a = .trap u t)
        ∧ (∀ v, u.arrive s.me lv.toNat false = some (.ok v) → a = .stall (v.blockCtx v.me (s.barrierObj s.me lv.toNat)))) := by
  obtain ⟨goes, closes⟩ := State.closing_quiet hq
  have goOn : ¬(s.cur.slot = .h && decide (lv ≠ 0)) = true := by
    rcases hh with h | h <;> simp [h]
  rw [exec_bar, execBar, ctl_issued rfl hi, if_neg goOn]
  split
  · next b hb => exact absurd hb (hs b)
  · rw [goes, closes.me]
    refine ⟨_, rfl, fun h => if_pos h, fun h => ⟨fun ha => ?_, fun t ha => ?_, fun v ha => ?_⟩⟩ <;> rw [if_neg h, ha]

/-- A BARXF of a context that has not arrived goes on once its phase is closed and complete: it waits for a revocation or a regulator, then
for the tokens of its program, then for the meeting. -/
theorem exec_barxf_closed {s u : State} {p : Pred} {lv : BitVec 2} {prog : List QEntry} (hi : s.issues (.barxf p lv) = true)
    (ho : s.cur.slot = .o) (hl : lv ≠ 0) (hs : ∀ b, (s.ctx s.me).stage ≠ .arrived b) (hp : s.program s.me = some prog)
    (hq : s.quiet = some u) :
    let later := prog.any (u.awaitsRevocation ⟨s.cur.core, .xf⟩) || u.stepsHeld s.cur.core
    let o := s.barrierObj s.me lv.toNat
    ∃ a : Ans, exec (.barxf p lv) s = .next (a.state s.me) ∧ (later = true → a = .stall u)
      ∧ (later = false →
        (∀ n, popAll (u.ctx s.me) (u.popping s.me prog) = .error n → a = .stall (u.blockCtx s.me (portObj s.cur.core .o .xf n.val)))
        ∧ ∀ x, popAll (u.ctx s.me) (u.popping s.me prog) = .ok x →
          (u.arrive s.me lv.toNat true = none → a = .stall (u.blockCtx s.me o))
          ∧ (∀ t, u.arrive s.me lv.toNat true = some (.error t) → a = .trap u t)
          ∧ (∀ v, u.arrive s.me lv.toNat true = some (.ok v) →
            let w := (v.unblockCtx v.me).setCtx v.me { x with stage := (v.ctx v.me).stage, blocked := none }
            a = .stall (w.blockCtx w.me o))) := by
  obtain ⟨goes, closes⟩ := State.closing_quiet hq
  have high : ¬s.cur.slot = .h := by rw [ho]; decide
  intro later o
  rw [exec_barxf, execBarxf, ctl_issued rfl hi, if_neg hl, if_neg high]
  split
  · next b hb => exact absurd hb (hs b)
  · simp only [hp]
    rw [goes, closes.me, closes.1]
    refine ⟨_, rfl, fun h => if_pos h, fun h => ⟨fun n hn => ?_, fun x hx => ⟨fun ha => ?_, fun t ha => ?_, fun v ha => ?_⟩⟩⟩
    · rw [if_neg (Bool.eq_false_iff.1 h), hn, ho]
    all_goals rw [if_neg (Bool.eq_false_iff.1 h), hx]; dsimp only; rw [ha]

/-- Settles O41: the arrival of a BAR and of a BARXF stands at the answer of its meeting (`exec_bar_closed`, `exec_barxf_closed`). -/
theorem barriersMeet : Obligations.BarriersMeet := by
  refine ⟨fun s p u hi hs hq hd => ?_, fun s p lv b hi hh hs hb => ?_, fun s p lv u v hi ho hl hs hq ha => ?_,
    fun s p lv u t hi ho hl hs hq ha => ?_, fun s p lv u hi ho hl hs hq ha => ?_, fun s p lv u prog hi ho hl hs hp hq => ?_,
    fun s p lv b x n hi hl ho hs hx hn => ?_, fun s p lv b hi hl ho hs hb hx => ?_⟩
  · obtain ⟨a, run, zero, -⟩ := exec_bar_closed hi (.inr rfl) hs hq
    have me := (State.closing_quiet hq).2.me
    rw [zero rfl, State.drain_done (me ▸ hd)] at run
    exact Completes.of_finish run no_results
  · refine Completes.of_done (exec_bar p lv s) rfl hi ?_ no_results
    have goOn : ¬(s.cur.slot = .h && decide (lv ≠ 0)) = true := by
      rcases hh with h | h <;> simp [h]
    dsimp only
    rw [if_neg goOn]
    simp only [hs, hb, Bool.false_eq_true, if_false]
    rfl
  · obtain ⟨a, run, -, some⟩ := exec_bar_closed hi (.inl ho) hs hq
    have me := (State.closing_quiet hq).2.me
    obtain ⟨cur, arrived⟩ := (u.arrive_answers s.me lv.toNat false).1 v ha
    have vme : v.me = s.me := by rw [State.me, cur, ← State.me]; exact me
    rw [(some hl).2.2 v ha, vme] at run
    exact ⟨run, arrived⟩
  · obtain ⟨a, run, -, some⟩ := exec_bar_closed hi (.inl ho) hs hq
    rw [(some hl).2.1 t ha] at run
    exact ⟨run, (u.arrive_answers s.me lv.toNat false).2 t ha⟩
  · obtain ⟨a, run, -, some⟩ := exec_bar_closed hi (.inl ho) hs hq
    rw [(some hl).1 ha] at run
    exact run
  · obtain ⟨a, run, held, free⟩ := exec_barxf_closed hi ho hl hs hp hq
    have me := (State.closing_quiet hq).2.me
    intro o later
    refine ⟨fun h => ?_, fun n h hn => ?_, fun x h hx => ⟨fun v ha => ?_, fun t ha => ?_, fun ha => ?_⟩⟩
    · rw [held h] at run; exact run
    · rw [(free h).1 n hn] at run; exact run
    · obtain ⟨cur, arrived⟩ := (u.arrive_answers s.me lv.toNat true).1 v ha
      have vme : v.me = s.me := by rw [State.me, cur, ← State.me]; exact me
      have wme : ((v.unblockCtx s.me).setCtx s.me { x with stage := (v.ctx s.me).stage, blocked := none }).me = s.me := by
        have := v.unblockCtx_cur s.me
        rw [State.me, State.setCtx_cur, this, ← State.me]; exact vme
      rw [((free h).2 x hx).2.2 v ha, vme, wme] at run
      exact ⟨run, arrived⟩
    · rw [((free h).2 x hx).2.1 t ha] at run
      exact ⟨run, (u.arrive_answers s.me lv.toNat true).2 t ha⟩
    · rw [((free h).2 x hx).1 ha] at run; exact run
  · have high : ¬s.cur.slot = .h := by rw [ho]; decide
    refine ⟨fun h => ?_, fun h => ?_⟩
    · refine Completes.of_done (exec_barxf p lv s) rfl hi ?_ no_results
      dsimp only
      rw [if_neg hl, if_neg high]
      simp only [hs, hx, Option.bind_some, hn, if_pos h]
      rfl
    · refine exec_of_stall (exec_barxf p lv s) rfl hi ?_
      dsimp only
      rw [if_neg hl, if_neg high]
      simp only [hs, hx, Option.bind_some, hn, if_neg (Nat.not_le.2 h)]
  · have high : ¬s.cur.slot = .h := by rw [ho]; decide
    refine Completes.of_done (exec_barxf p lv s) rfl hi ?_ no_results
    dsimp only
    rw [if_neg hl, if_neg high]
    simp only [hs]
    cases hf : s.xphases.find? fun x => x.id = b with
    | none =>
      simp only [Option.bind_none, hb, Bool.false_eq_true, if_false]
      rfl
    | some x =>
      have is : x.id = b := by simpa using List.find?_some hf
      obtain ⟨n, hn, hc⟩ := hx x (List.mem_of_find?_eq_some hf) is
      simp only [Option.bind_some, hn, if_pos hc]
      rfl

end Sys2Proof.Machine

/-! The services of the Strongroom (R408-R410, R417, R435, R436). -/

namespace Sys2Proof.Machine

/-- A service completes with the status and value that the Strongroom answers once the phase is closed (R408, R435). -/
theorem Completes.of_served {i : Instr} {p : Pred} {sup : Bool} {ops : List Nat} {body : State → Ctx → Ans} {s u r : State} {st v : Nat}
    (run : exec i s = service i p sup ops body s) (hp : ctlParts i = some (p, .none, ops)) (hi : s.issues i = true) (hq : s.quiet = some u)
    (h : (if sup && !(s.ctx s.me).sup then served u 1 0 else body u (s.ctx s.me)) = served r st v) :
    Completes i s r [res 1 (BitVec.ofNat 64 st), res 2 (if st = 0 then BitVec.ofNat 64 v else 0)] none :=
  Completes.of_quiet (run.trans (service_eq ..)) hp hi hq rfl h (results_plain _ _ rfl)

/-- A service of an S caller: the body answers. -/
theorem served_of_body {u : State} {sup : Bool} {c : Ctx} {a b : Ans} (hs : c.sup = true) (h : a = b) :
    (if sup && !c.sup then served u 1 0 else a) = b := by
  rw [hs, Bool.not_true, Bool.and_false]; exact h

/-- A U caller of an S service receives status 1. -/
theorem served_of_user {u : State} {c : Ctx} {a : Ans} (hs : c.sup = false) : (if true && !c.sup then served u 1 0 else a) = served u 1 0 := by
  rw [hs]; rfl

/-- The entries of a virtual NPU that some byte of a range meets (R409). -/
theorem TlbEntry.inRange_eq (e : TlbEntry) (v : VnpuId) (a n : Nat) : e.inRange v a n
    = (decide (e.vnpu = v) && (n == 0 || overlap (e.vpage * 4096) (2 ^ (e.span - 12) * 4096) a n)) := by
  unfold TlbEntry.inRange TlbEntry.meetsVa overlap
  generalize 2 ^ (e.span - 12) = k
  cases hn : n == 0 with
  | true => rfl
  | false =>
    have pos : n ≠ 0 := by simpa using hn
    have below : e.vpage < a / 4096 + (a % 4096 + n + 4095) / 4096 ↔ e.vpage * 4096 < a + n := by omega
    have above : a / 4096 < e.vpage + k ↔ a < e.vpage * 4096 + k * 4096 := by omega
    simp only [below, above]

/-- A read for the caller that succeeds. -/
theorem State.readFor_ok {u w : State} {i : CtxId} {va n : Nat} {bs : List Byte} {k : State → Nat → Ans} (hi : u.me = i)
    (h : u.load (.ctx i) (u.myAcc false) 0 va n u.inSlotO false = .ok w bs) : u.readFor va n k = k w (leNat bs) := by
  rw [State.readFor, hi, h]; rfl

/-- The answer of a service is that of the Strongroom (R408-R410, R436). -/
theorem service_answers {s u : State} {i : Instr} {r : State} {st v : Nat} (hq : s.quiet = some u)
    (h : serviceResult s u i = some (r, st, v)) (hi : s.issues i = true) :
    Completes i s r [res 1 (BitVec.ofNat 64 st), res 2 (if st = 0 then BitVec.ofNat 64 v else 0)] none := by
  have closes := (State.closing_quiet hq).2
  unfold serviceResult at h
  split at h
  · next p =>
    refine Completes.of_served (exec_tinst p s) rfl hi hq ?_
    dsimp only at h ⊢
    rw [closes.me]
    split at h
    · next hu => cases h; exact served_of_user hu
    · next hu =>
      refine served_of_body (Bool.eq_true_of_not_eq_false hu) ?_
      simp only [Bool.or_eq_true, decide_eq_true_eq, Bool.not_eq_true']
      split at h
      · next hr => cases h; exact if_pos hr
      · next hr =>
        rw [if_neg hr]
        split at h
        · next w bs hl =>
          rw [State.readFor_ok closes.me hl]
          split_ifs at h ⊢ with _ _ plain <;> cases h
          · rfl
          · rfl
          · rw [plain]
        · cases h
  · next p =>
    refine Completes.of_served (exec_tvbump p s) rfl hi hq ?_
    dsimp only at h ⊢
    rw [closes.me]
    split at h
    · next hu => cases h; exact served_of_user hu
    · next hu =>
      refine served_of_body (Bool.eq_true_of_not_eq_false hu) ?_
      simp only [Bool.or_eq_true, decide_eq_true_eq, Bool.not_eq_true']
      split at h
      · next hr => cases h; exact if_pos hr
      · next hr =>
        rw [if_neg hr]
        split at h
        · next w bs hl =>
          rw [State.readFor_ok closes.me hl]
          rw [ite_or] at h
          split_ifs at h ⊢ <;> cases h <;> rfl
        · cases h
  · next p =>
    refine Completes.of_served (exec_tremove p s) rfl hi hq ?_
    dsimp only at h ⊢
    rw [closes.me]
    split at h
    · next hu => cases h; exact served_of_user hu
    · next hu =>
      refine served_of_body (Bool.eq_true_of_not_eq_false hu) ?_
      split_ifs at h ⊢ <;> cases h <;> rfl
  · next p =>
    refine Completes.of_served (exec_s1root p s) rfl hi hq ?_
    dsimp only at h ⊢
    split at h
    · next hu => cases h; exact served_of_user hu
    · next hu =>
      refine served_of_body (Bool.eq_true_of_not_eq_false hu) ?_
      simp only [Bool.or_eq_true, decide_eq_true_eq]
      split_ifs at h ⊢ <;> cases h <;> rfl
  · next p =>
    refine Completes.of_served (exec_tlbinv p s) rfl hi hq ?_
    dsimp only at h ⊢
    split at h
    · next hu => cases h; exact served_of_user hu
    · next hu =>
      refine served_of_body (Bool.eq_true_of_not_eq_false hu) ?_
      simp only [TlbEntry.inRange_eq]
      cases h; rfl
  · next p =>
    refine Completes.of_served (exec_scrubreq p s) rfl hi hq ?_
    dsimp only at h ⊢
    rw [closes.me]
    split at h
    · next hu => cases h; exact served_of_user hu
    · next hu =>
      refine served_of_body (Bool.eq_true_of_not_eq_false hu) ?_
      simp only [Bool.or_eq_true, decide_eq_true_eq, or_assoc]
      split_ifs at h ⊢ <;> cases h <;> rfl
  · cases h

/-! ## Services that run at once (R409, R410, R436) -/

theorem State.setPhases_tensors (s : State) (r : Src) (p : Phases) : (s.setPhases r p).tensors = s.tensors := by
  unfold State.setPhases; split <;> rfl

theorem State.setPhases_vnpus (s : State) (r : Src) (p : Phases) : (s.setPhases r p).vnpus = s.vnpus := by
  unfold State.setPhases; split <;> rfl

theorem State.pastEmpty_ctx (s : State) :
    s.pastEmpty.ctx s.me = { s.ctx s.me with stage := .closed ((s.phases (.ctx s.me)).closed + 1) } := by
  rw [State.pastEmpty, State.ctx_modCtx, State.ctx_setPhases]

theorem State.pastEmpty_tensor (s : State) (l : LeafId) (n : Nat) : s.pastEmpty.tensor l n = s.tensor l n := by
  have : s.pastEmpty.tensors = s.tensors := s.setPhases_tensors ..
  rw [State.tensor, this]; rfl

theorem State.pastEmpty_vnpu (s : State) (v : VnpuId) : s.pastEmpty.vnpu v = s.vnpu v := by
  have : s.pastEmpty.vnpus = s.vnpus := s.setPhases_vnpus ..
  rw [State.vnpu, this]; rfl

theorem State.setPhases_contracts (s : State) (r : Src) (p : Phases) : (s.setPhases r p).contracts = s.contracts := by
  unfold State.setPhases; split <;> rfl

theorem State.pastEmpty_contract (s : State) (v : VnpuId) : s.pastEmpty.contract v = s.contract v := by
  have : s.pastEmpty.contracts = s.contracts := s.setPhases_contracts ..
  rw [State.contract, this]; rfl

/-- A service that runs has status 0. -/
theorem serviceResult_of_runs {s : State} {i : Instr} (hs : s.sentNothing) (h : serviceRuns s i) :
    ∃ r v, serviceResult s s.pastEmpty i = some (r, 0, v) := by
  have quiet := State.quiet_empty hs
  have leaf : s.pastEmpty.ctxLeaf s.me = s.ctxLeaf s.me := by rw [State.ctxLeaf, s.pastEmpty_ctx]; rfl
  unfold serviceRuns at h
  split at h
  · rw [quiet] at h
    obtain ⟨sup, slot, req, v, bs, hl, world, sealed, enc, writer⟩ := h
    simp only [Option.getD_some] at hl world writer
    have legal : ¬((s.ctx s.me).slots ≤ ((s.ctx s.me).rd 1).toNat ∨ ((s.ctx s.me).rd 2).toNat % 64 ≠ 0) := by omega
    have ours : ¬(entWorld (leNat bs) ≠ (s.pastEmpty.ctxWorld s.me).toNat ∨ entSealed (leNat bs) = true) := by
      rw [sealed]; simpa using world
    simp only [serviceResult, sup, Bool.true_eq_false, if_false, if_neg legal, hl, if_neg ours, writer, Option.isSome_none, Bool.false_eq_true,
      enc, if_true]
    exact ⟨_, _, rfl⟩
  · rw [quiet] at h
    obtain ⟨sup, wide, slot, v, bs, hl, current, enc, writer, room⟩ := h
    simp only [Option.getD_some] at hl enc writer room
    have legal : ¬(2 ^ 32 ≤ ((s.ctx s.me).rd 1).toNat ∨ (s.ctx s.me).slots ≤ ((s.ctx s.me).rd 1).toNat / 4096) := by omega
    simp only [serviceResult, sup, Bool.true_eq_false, if_false, if_neg legal, hl, current, enc, or_self, writer, Option.isSome_none,
      Bool.false_eq_true, if_neg room]
    exact ⟨_, _, rfl⟩
  · obtain ⟨sup, slot, writer⟩ := h
    simp only [serviceResult, sup, Bool.true_eq_false, if_false, if_neg (Nat.not_le.2 slot), leaf, State.pastEmpty_tensor, writer,
      Option.isSome_none, Bool.false_eq_true]
    exact ⟨_, _, rfl⟩
  · obtain ⟨sup, aligned, range⟩ := h
    have legal : ¬(((s.ctx s.me).rd 1).toNat % 4096 ≠ 0 ∨ 2 ^ 48 ≤ ((s.ctx s.me).rd 1).toNat) := by omega
    simp only [serviceResult, sup, Bool.true_eq_false, if_false, if_neg legal]
    exact ⟨_, _, rfl⟩
  · simp only [serviceResult, show (s.ctx s.me).sup = true from h, Bool.true_eq_false, if_false]
    exact ⟨_, _, rfl⟩
  · obtain ⟨sup, va, n, least, most, rc, room⟩ := h
    have legal : ¬(((s.ctx s.me).rd 1).toNat % 4096 ≠ 0 ∨ ((s.ctx s.me).rd 2).toNat % 4096 ≠ 0 ∨ ((s.ctx s.me).rd 2).toNat < 4096
        ∨ 2 ^ 30 < ((s.ctx s.me).rd 2).toNat ∨ ((s.ctx s.me).rd 3).toNat % 64 ≠ 0) := by omega
    simp only [serviceResult, sup, Bool.true_eq_false, if_false, if_neg legal, State.pastEmpty_vnpu, if_neg (Nat.not_le.2 room)]
    exact ⟨_, _, rfl⟩
  · exact h.elim

/-! ## A guest reset leaves the acting object (R417) -/

theorem foldl_cur {α : Type} {f : State → α → State} (h : ∀ (s : State) x, (f s x).cur = s.cur) (l : List α) (s : State) :
    (l.foldl f s).cur = s.cur := by
  induction l generalizing s with
  | nil => rfl
  | cons x l ih => exact (ih _).trans (h s x)

theorem State.stopForReset_cur (s : State) (v : VnpuId) (i : CtxId) : (s.stopForReset v i).cur = s.cur := by
  have gone := (State.SameBanks.discardBank s i.core i.slot false).trans (.dropAll (s.discardBank i.core i.slot false) i (s.unitOf i).leaf)
  unfold State.stopForReset
  split
  · rfl
  · dsimp only
    generalize (s.discardBank i.core i.slot false).dropAll i (s.unitOf i).leaf = w at gone
    split <;> exact gone.cur

theorem State.dropOrphan_cur (s : State) (v : VnpuId) (c : CoreId) : (s.dropOrphan v c).cur = s.cur := by
  unfold State.dropOrphan
  dsimp only
  split
  · split
    · exact State.dropHead_cur ..
    · rfl
  · rfl

theorem State.stopSaved_cur (s : State) (v : VnpuId) (c : CoreId) : (s.stopSaved v c).cur = s.cur := by
  unfold State.stopSaved
  refine foldl_cur (fun s x => ?_) _ s
  have gone := (State.SameBanks.dropAll (s.closeWriters (x.ctx.unit ⟨c, .o⟩)) (x.ctx.unit ⟨c, .o⟩).ctx (x.ctx.unit ⟨c, .o⟩).leaf).cur
  dsimp only
  generalize (s.closeWriters (x.ctx.unit ⟨c, .o⟩)).dropAll (x.ctx.unit ⟨c, .o⟩).ctx (x.ctx.unit ⟨c, .o⟩).leaf = w at gone
  exact gone

theorem State.resetStops_cur (s : State) (v : VnpuId) : (s.resetStops v).cur = s.cur := by
  unfold State.resetStops
  generalize allCores = cs
  generalize allCtx = is
  exact (foldl_cur (fun s c => s.dropOrphan_cur v c) cs _).trans (foldl_cur (fun s i => s.stopForReset_cur v i) is s)

theorem State.startReset_cur (s : State) (v : VnpuId) : (s.startReset v).cur = s.cur := by
  unfold State.startReset
  have stops := State.resetStops_cur (s.modVnpu v fun x => { x with rgen := x.rgen + 1, busy := true, sweeps := [] }) v
  generalize allCores = cs
  exact (foldl_cur (fun s c => s.stopSaved_cur v c) cs _).trans stops

/-- GRESET refused (R409, R417): for a U caller, a number that is no other virtual NPU, and one that is not of the caller's partition. -/
theorem greset_refused {s : State} {p : Pred} (hs : s.sentNothing) (hi : s.issues (.greset p) = true) (hf : (s.ctx s.me).stage = .fresh) :
    let n := ((s.ctx s.me).rd 1).toNat
    ∃ u, s.quiet = some u
      ∧ ((s.ctx s.me).sup = false → Completes (.greset p) s u [res 1 1, res 2 0] none)
      ∧ ((s.ctx s.me).sup = true → (64 ≤ n ∨ n = (s.ctx s.me).vnpu.val) → Completes (.greset p) s u [res 1 2, res 2 0] none)
      ∧ (∀ v : VnpuId, (s.ctx s.me).sup = true → v.val = n → v ≠ (s.ctx s.me).vnpu →
          ((s.contract v).enable = false ∨ topOf (s.leafOf v) ≠ s.ctxTop s.me) → Completes (.greset p) s u [res 1 5, res 2 0] none) := by
  have quiet := State.quiet_empty hs
  have closes := (State.closing_quiet quiet).2
  intro n
  refine ⟨_, quiet, fun hsup => ?_, fun hsup hn => ?_, fun v hsup hv hown hbad => ?_⟩
  · refine Completes.of_quiet (exec_greset p s) rfl hi quiet (by simp only [hf]; rfl) ?_ (results_plain _ _ rfl)
    simp only [hsup]; rfl
  · refine Completes.of_quiet (exec_greset p s) rfl hi quiet (by simp only [hf]; rfl) ?_ (results_plain _ _ rfl)
    simp only [hsup, Bool.not_true, Bool.false_eq_true, if_false]
    by_cases small : n < 64
    · have own : (⟨n, small⟩ : VnpuId) = (s.ctx s.me).vnpu := Fin.ext (hn.resolve_left (Nat.not_le.2 small))
      exact (dif_pos small).trans (if_pos own)
    · exact dif_neg small
  · refine Completes.of_quiet (exec_greset p s) rfl hi quiet (by simp only [hf]; rfl) ?_ (results_plain _ _ rfl)
    simp only [hsup, Bool.not_true, Bool.false_eq_true, if_false]
    have small : n < 64 := hv ▸ v.isLt
    have is : (⟨n, small⟩ : VnpuId) = v := Fin.ext hv.symm
    have bad : (!(s.pastEmpty.contract v).enable || decide (topOf (s.pastEmpty.leafOf v) ≠ s.pastEmpty.ctxTop s.pastEmpty.me)) = true := by
      have top : s.pastEmpty.ctxTop s.pastEmpty.me = s.ctxTop s.me := by rw [closes.me, State.ctxTop, State.ctxLeaf, s.pastEmpty_ctx]; rfl
      rw [State.leafOf, State.pastEmpty_contract, top]
      rcases hbad with h | h
      · rw [h]; rfl
      · exact Bool.or_eq_true_iff.2 (.inr (decide_eq_true h))
    refine (dif_pos small).trans ?_
    rw [is]
    exact (if_neg hown).trans (if_pos bad)

/-- GRESET of a virtual NPU that it may reset (R417). -/
theorem greset_starts {s u : State} {p : Pred} {n : VnpuId} (hq : s.quiet = some u) (hi : s.issues (.greset p) = true)
    (hst : (s.ctx s.me).stage ≠ .revoking) (h1 : (s.ctx s.me).rd 1 = BitVec.ofNat 64 n.val) (hsup : (s.ctx s.me).sup = true)
    (hn : n ≠ (s.ctx s.me).vnpu) (hen : (u.contract n).enable = true) (htop : topOf (u.leafOf n) = u.ctxTop u.me) :
    exec (.greset p) s = .next ((u.startReset n).modCtx (u.startReset n).me fun c => { c with stage := .revoking }) := by
  have is : ((s.ctx s.me).rd 1).toNat = n.val := by
    rw [h1, BitVec.toNat_ofNat]
    exact Nat.mod_eq_of_lt (by have := n.isLt; omega)
  have small : ((s.ctx s.me).rd 1).toNat < 64 := is ▸ n.isLt
  have same : (⟨((s.ctx s.me).rd 1).toNat, small⟩ : VnpuId) = n := Fin.ext is
  obtain ⟨goes, closes⟩ := State.closing_quiet hq
  have enabled : ¬(!(u.contract n).enable || decide (topOf (u.leafOf n) ≠ u.ctxTop u.me)) = true := by rw [hen, htop]; simp
  have run : exec (.greset p) s = .next ((if !(s.ctx s.me).sup then served u 1 0 else .stall ((u.startReset n).modCtx u.me
      fun c => { c with stage := .revoking })).state s.me) := by
    rw [exec_greset, execGreset, ctl_issued rfl hi]
    split
    · next h => exact absurd h hst
    · rw [goes]
      simp only [hsup, Bool.not_true, Bool.false_eq_true, if_false]
      refine congrArg (fun a : Ans => Host.Outcome.next (a.state s.me)) ((dif_pos small).trans ?_)
      rw [same]
      exact (if_neg hn).trans (if_neg enabled)
  rw [hsup] at run
  have me : (u.startReset n).me = u.me := by rw [State.me, State.startReset_cur]; rfl
  rw [me]
  exact run

/-- GRESET returns once the reset is complete (R417). -/
theorem greset_returns {s : State} {p : Pred} {n : VnpuId} (hi : s.issues (.greset p) = true) (hst : (s.ctx s.me).stage = .revoking)
    (h1 : (s.ctx s.me).rd 1 = BitVec.ofNat 64 n.val) (hb : (s.vnpu n).busy = false) : Completes (.greset p) s s [res 1 0, res 2 0] none := by
  have is : ((s.ctx s.me).rd 1).toNat = n.val := by
    rw [h1, BitVec.toNat_ofNat]
    exact Nat.mod_eq_of_lt (by have := n.isLt; omega)
  have small : ((s.ctx s.me).rd 1).toNat < 64 := is ▸ n.isLt
  have same : (⟨((s.ctx s.me).rd 1).toNat, small⟩ : VnpuId) = n := Fin.ext is
  refine Completes.of_done (exec_greset p s) rfl hi ?_ (results_plain _ _ rfl)
  simp only [hst]
  refine (dif_pos small).trans ?_
  rw [same, hb]; rfl

/-- Settles O42: a service that the Strongroom answers completes with its answer (`service_answers`), at once where nothing is open. -/
theorem servicesAnswer : Obligations.ServicesAnswer := by
  refine ⟨fun s u i r st v hq h hi => service_answers hq h hi, fun s i hs hr hi => ?_, fun s p hs hi hf => greset_refused hs hi hf,
    fun s u v w p bs es hq hi hsup hslot hreq hl hw hse he hwr hc hcur hu hl' => ?_,
    fun s u p n hq hi hst h1 hsup hn hen htop => greset_starts hq hi hst h1 hsup hn hen htop,
    fun s p n hi hst h1 hb => greset_returns hi hst h1 hb⟩
  · obtain ⟨r, v, h⟩ := serviceResult_of_runs hs hr
    exact ⟨_, r, v, State.quiet_empty hs, h, service_answers (State.quiet_empty hs) h hi⟩
  · obtain ⟨goes, closes⟩ := State.closing_quiet hq
    have vme : v.me = s.me := by rw [State.me, hcur]; rfl
    have acc : v.myAcc false = u.myAcc false := by rw [State.myAcc, vme, hc, hcur]; rw [State.myAcc, closes.me, closes.1]
    have slot : v.inSlotO = u.inSlotO := by rw [State.inSlotO, hcur, ← closes.1]; rfl
    have legal : ¬((s.ctx s.me).slots ≤ ((s.ctx s.me).rd 1).toNat ∨ ((s.ctx s.me).rd 2).toNat % 64 ≠ 0) := by omega
    have ours : ¬(entWorld (leNat bs) ≠ (u.ctxWorld s.me).toNat ∨ entSealed (leNat bs) = true) := by
      rw [hse]; simpa using hw
    have again : v.load (.ctx s.me) (v.myAcc false) 0 ((s.ctx s.me).entryAddr ((s.ctx s.me).rd 1).toNat) 44 v.inSlotO false = .ok w es := by
      rw [acc, slot]; exact hl'
    intro fits
    have taken : (((u.ctxWorld s.me).toNat < 2 ∨ entHost (leNat es) = true)
        ∨ entTid (leNat bs) ≤ (getKey (u.ctxWorld s.me) w.highWater).getD 0) ↔ ¬fits := by
      simp only [fits, not_and_or, Nat.not_le, Nat.not_lt, Bool.not_eq_false, or_assoc]
    refine ⟨fun hfit => ?_, fun hfit => ?_⟩
    all_goals
      refine @Completes.of_served _ _ _ _ _ _ _ _ _ 0 (exec_tinst p s) rfl hi hq (served_of_body hsup ?_)
      simp only [closes.me, Bool.or_eq_true, decide_eq_true_eq, if_neg legal]
      rw [State.readFor_ok closes.me hl]
      simp only [if_neg ours, hwr, Option.isSome_none, Bool.false_eq_true, if_false, he, Bool.not_true]
      rw [State.readFor_ok vme again]
    · exact if_neg fun h => taken.1 h hfit
    · exact if_pos (taken.2 hfit)

end Sys2Proof.Machine

/-! Slice routines: their installation (R291) and their invocations (R293-R298). -/

namespace Sys2Proof.Machine

/-! ## RTINST (R291) -/

/-- The reserved bits of the operand of RTINST are zero, and it installs. -/
theorem rtinst_operand {w : Word} (h : w.toNat / 2 ^ 5 = 0) : fld w 62 8 = 0 ∧ tb w 63 = false ∧ fld w 7 0 = w.toNat := by
  have small : w.toNat < 32 := by omega
  refine ⟨?_, ?_, ?_⟩
  · simp only [fld, bits]; omega
  · rw [tb, BitVec.getLsbD, Nat.testBit_eq_false_of_lt (small.trans (by decide))]
  · simp only [fld, bits]; omega

/-- Settles O44: the branches of RTINST in their order. -/
theorem rtinstInstallsAndFrees : Obligations.RtinstInstallsAndFrees := by
  refine ⟨?_, ?_⟩
  · intro s p d a b u bs hi hb k ws hk hk16 ha hl
    obtain ⟨zero, install, count⟩ := rtinst_operand hb
    have size : ¬(decide (k = 0) || decide (16 < k)) = true := by simp; omega
    have aligned : ¬((s.ctx s.me).rd a).toNat % 64 ≠ 0 := fun h => h ha
    refine ⟨fun n hn => ?_, fun hn hfree => ?_, fun i ph hn hfree => ?_⟩
    all_goals
      refine Completes.of_done (exec_rtinst p d a b s) rfl hi ?_ (res_plain _ _)
      simp only [zero, install, count, ne_eq, not_true_eq_false, if_false, Bool.not_false, if_true]
      rw [if_neg size, if_neg aligned, State.readFor_ok rfl hl]
    · have bad : firstBad (imageWords ((s.ctx s.me).rd b).toNat (leNat bs)) = some n := hn
      simp only [bad]; rfl
    · have good : firstBad (imageWords ((s.ctx s.me).rd b).toNat (leNat bs)) = none := hn
      simp only [good, hfree]; rfl
    · have good : firstBad (imageWords ((s.ctx s.me).rd b).toNat (leNat bs)) = none := hn
      simp only [good, hfree]; rfl
  · intro s p d a b hi hf ht id l
    have number : fld ((s.ctx s.me).rd b) 7 0 = id := by simp [fld, bits, id]
    refine ⟨fun h => ?_, fun h known stage free => ?_⟩
    all_goals
      refine Completes.of_done (exec_rtinst p d a b s) rfl hi ?_ (res_plain _ _)
      simp only [hf, ht, number, ne_eq, not_true_eq_false, if_false, Bool.not_true, Bool.false_eq_true]
    · exact if_pos h
    · have known' : ¬(!s.idKnown (s.ctxLeaf s.me) id) = true := by
        rw [show s.idKnown (s.ctxLeaf s.me) id = true from known]; decide
      have idle : s.idInUse (s.ctxLeaf s.me) id = false := free
      rw [if_neg (Nat.not_lt.2 h), if_neg known', stage]
      simp only [idle, Bool.false_eq_true, if_false]
      rfl

/-! ## What the record of a routine fault holds (R296, R298) -/

theorem faultRecord_fields (v : Invocation) {cause : Nat} (gtc : Word) (hcls : v.cls < 16) (hvr : v.vr < 32) (hc : cause < 256) :
    let e := faultRecord v cause 0 gtc
    fld e.lo 3 0 = 2 ∧ fld e.lo 7 4 = v.cls ∧ fld e.lo 15 8 = cause ∧ fld e.lo 31 16 = v.seq.toNat % 65536 ∧ fld e.lo 36 32 = v.vr
      ∧ fld e.lo 63 48 = v.src.core.val * 8 + 7 := by
  have core := v.src.core.isLt
  have seq : v.seq.toNat % 65536 < 65536 := Nat.mod_lt _ (by decide)
  intro e
  have value : e.lo.toNat = 2 + v.cls * 2 ^ 4 + cause * 2 ^ 8 + v.seq.toNat % 65536 * 2 ^ 16 + v.vr * 2 ^ 32 + 0 * 2 ^ 40
      + (v.src.core.val * 8 + 7) * 2 ^ 48 := by
    refine (BitVec.toNat_ofNat _ _).trans (Nat.mod_eq_of_lt ?_)
    generalize v.seq.toNat % 65536 = n at seq
    omega
  generalize v.seq.toNat % 65536 = n at seq value ⊢
  simp only [fld, bits, value]
  omega

theorem insertEv_mem (e : EvEntry) (l : List EvEntry) : e ∈ insertEv e l := by
  induction l with
  | nil => exact List.mem_singleton_self e
  | cons y r ih =>
    unfold insertEv
    split
    · exact List.mem_cons_self
    · exact List.mem_cons_of_mem _ ih

theorem Ctx.pushEvent_mem {c : Ctx} (e : EvEntry) (h : c.events.length < 64) : e ∈ (c.pushEvent e).events := by
  have room : c.evRoom = true := decide_eq_true h
  rw [Ctx.pushEvent, if_pos room]
  exact insertEv_mem e c.events

theorem State.stamped_ctx (s : State) (r : Src) (i : CtxId) : (s.stamped r).ctx i = s.ctx i := by
  unfold State.stamped
  split
  · next c _ =>
    exact ({ s with lastStamp := max s.lastStamp (s.cycle + 2) } : State).ctx_modCore c (fun k => k.noteStamp (srcSlot r) (s.cycle + 2)) i
      fun k => by cases i.slot <;> rfl
  · rfl

theorem State.stamped_net (s : State) (r : Src) : (s.stamped r).net = s.net := by unfold State.stamped; split <;> rfl

theorem State.unblockCtx_net (s : State) (i : CtxId) : (s.unblockCtx i).net = s.net := by
  cases h : (s.ctx i).blocked with
  | none => rw [State.unblockCtx_none _ _ h]
  | some o => obtain ⟨w, q, e⟩ := State.unblockCtx_some s i o h; rw [e]; rfl

theorem State.finish_net (s : State) (w : List Landing) (pc : Option Word) (n : Nat) : (s.finish w pc n).net = s.net := s.unblockCtx_net s.me

theorem State.finish_events (s : State) (w : List Landing) (pc : Option Word) (n : Nat) : ((s.finish w pc n).ctx s.me).events = (s.ctx s.me).events := by
  obtain ⟨b, v, x, h⟩ := s.finish_ctx w pc n
  rw [h]
  have framed := Ctx.complete_frame { s.ctx s.me with blocked := none, inWfe := b, inWowait := v, stps := x } w pc n
  exact (congrArg (fun c : Ctx => c.events) framed : _)

theorem State.modCtx_modCtx (s : State) (i : CtxId) (f g : Ctx → Ctx) : (s.modCtx i f).modCtx i g = s.modCtx i fun c => g (f c) := by
  rw [State.modCtx, State.modCtx, State.ctx_setCtx]
  simp only [State.modCtx, State.setCtx, State.modCore, State.core_setCore, State.setCore_setCore, Core.setCtx_setCtx]

/-! ## Invocations (R293-R296) -/

/-- An address that is not a multiple of 8 traps before anything else. -/
theorem State.invAddr_unaligned (s : State) (a : Acc) {ea : Word} (vr : BitVec 5) (id : Option (Fin 256)) (h : ea.toNat % 8 ≠ 0) :
    s.invAddr a ea vr id = .error { cause := 0x08, eaddr := ea } :=
  if_pos fun z => h ((and_seven_eq_zero_iff ea).1 z)

/-- A number that names no routine traps. -/
theorem State.invAddr_unmapped (s : State) (a : Acc) {ea : Word} (vr : BitVec 5) (h : ea.toNat % 8 = 0) :
    s.invAddr a ea vr none = .error { cause := 0x12, eaddr := ea, einfo := vr.setWidth 64 } :=
  if_neg fun z => z ((and_seven_eq_zero_iff ea).2 h)

/-- Settles O43: the stage of an SLX and the answers of the walk, the address and the sending decide; a fault of SLXN is its record
(`faultRecord_fields`). -/
theorem invocationsAreSent : Obligations.InvocationsAreSent := by
  refine ⟨fun s p cls d a b x vr q hi hs => ?_, fun s p cls d a b x vr n pa pages u hi hs hh hm ha hv => ?_,
    fun s p cls d a b x vr hh => ⟨fun hi hs => ?_, fun hi => ?_⟩, fun s p cls d a b x vr t hi hs hh ha => ?_,
    fun s p cls a b x vr n pa pages u hi hh hm ha hv => ?_, fun s p cls a b x vr t hi hh ha => ?_,
    fun s a ea vr id h => s.invAddr_unaligned a vr id h, fun s a ea vr h => s.invAddr_unmapped a vr h⟩
  · refine Completes.of_done (exec_slx p cls d a b x vr s) rfl hi ?_ (res_plain d q)
    simp only [hs]; rfl
  · refine exec_of_stall (exec_slx p cls d a b x vr s) rfl hi ?_
    simp only [hs, hm, hm ▸ hh, ha, hv, Bool.false_eq_true, if_false]
    rfl
  · refine exec_of_stall (exec_slx p cls d a b x vr s) rfl hi ?_
    simp only [hs, hh, if_true]
  · refine exec_of_stall (exec_slxn p cls a b x vr s) rfl hi ?_
    simp only [hh, if_true]
  · refine exec_of_trap (exec_slx p cls d a b x vr s) rfl hi ?_
    simp only [hs, hh, ha, Bool.false_eq_true, if_false]
  · refine Completes.of_done (exec_slxn p cls a b x vr s) rfl hi ?_ no_results
    simp only [hm, hm ▸ hh, ha, hv, Bool.false_eq_true, if_false]
    rfl
  · intro e
    have body (h : s.mayStamp (.ctx s.me) = true) : Completes (.slxn p cls a b x vr) s
        ((s.upd fun c => ({ c with slxn := c.slxn + 1 }).pushEvent e).stamped (.ctx s.me)) [] none := by
      refine Completes.of_done (exec_slxn p cls a b x vr s) rfl hi ?_ no_results
      simp only [hh, ha, h, Bool.not_true, Bool.false_eq_true, if_false, State.modCtx_modCtx]
      rfl
    refine ⟨fun h => ?_, body, fun hc => ?_, rfl, fun h room held => ?_⟩
    · refine exec_of_stall (exec_slxn p cls a b x vr s) rfl hi ?_
      simp only [hh, ha, h, Bool.not_false, Bool.false_eq_true, if_false, if_true]
    · exact faultRecord_fields _ s.gtc cls.isLt vr.isLt hc
    · refine ⟨_, (body h).1, ?_, ?_⟩
      · have me : ((s.upd fun c => ({ c with slxn := c.slxn + 1 }).pushEvent e).stamped (.ctx s.me)).me = s.me := by
          rw [State.me, State.stamped_cur]; rfl
        have events := State.finish_events ((s.upd fun c => ({ c with slxn := c.slxn + 1 }).pushEvent e).stamped (.ctx s.me)) [] none 1
        rw [me, State.stamped_ctx, State.upd, State.ctx_modCtx] at events
        refine (congrArg (e ∈ ·) events).mpr ?_
        exact @Ctx.pushEvent_mem { s.ctx s.me with slxn := (s.ctx s.me).slxn + 1 } e room
      · rw [State.finish_net, State.stamped_net]; rfl

end Sys2Proof.Machine

/-! The steps of the vector engine whose lanes stand alone (R148, R150, R162-R173). -/

namespace Sys2Proof.Machine

/-! ## One step of a walk -/

/-- A head that walks a record with its checks met takes the step of its body. -/
theorem walk_body {s : State} {e : Eng} {q : QEntry} {ok : Bool} {r : EngRec} (hw : s.walks e q) (hh : headerOk e r = true)
    (hok : ok = true) (body : State → EngId → QEntry → Head → State) :
    walk e ok r body s = .next (body s ⟨s.cur.core, e⟩ q (s.headOf e)) := by
  obtain ⟨⟨rest, hq⟩, hst⟩ := hw
  unfold walk
  simp only [hq, hst, hh, hok]
  rfl

/-- A step of VX whose operands meet their checks takes its effect. -/
theorem vxStep_taken {s : State} {q : QEntry} {ok : Bool} {r : EngRec} {f : Core → Slot → Head → Except Trap VOut} {o : VOut}
    (hw : s.walks .vx q) (hh : headerOk .vx r = true) (hok : ok = true) (hf : f (s.core s.cur.core) q.slot (s.headOf .vx) = .ok o) :
    vxStep ok r f s = .next (s.vxTaken q r o) := by
  rw [vxStep, walk_body hw hh hok, State.vxTaken]
  cases push : o.push with
  | none => simp only [hf, push, State.localWrites, State.unblockEng_cur]
  | some b => simp only [hf, push, State.localWrites, State.unblockEng_cur]

theorem laneStep_checked {o : LaneOp} {r : EngRec} {k : Core} {sl : Slot} {h : Head} {as : List Nat}
    (f : Nat → Nat → Nat → Nat → Nat × Flg) (hc : k.checked sl (o.opds r h) = .ok as) :
    laneStep o r f k sl h = .ok {
      writes := [(as.getD 0 0, leBytes (vecBytes o.w r.dtype) (packLanes (tw r.dtype) (codes (lanesOut o r f k as))))]
      flags := flagsOf (lanesOut o r f k as) } := by
  have first (l : List Nat) (n : Nat) : (l.drop n).headD 0 = l.getD n 0 := by simp [List.headD_eq_head?_getD, List.getD_eq_getElem?_getD]
  have zeroth : as.headD 0 = as.getD 0 0 := first as 0
  unfold laneStep
  simp only [hc, first, zeroth]
  refine congrArg (fun out => (Except.ok { writes := [(as.getD 0 0, leBytes (vecBytes o.w r.dtype)
    (packLanes (tw r.dtype) (codes out)))], flags := flagsOf out } : Except Trap VOut)) (List.map_congr_left fun e _ => ?_)
  congr 1
  · split <;> rfl
  · cases o.s2 <;> rfl
  · split <;> rfl

/-! ## The records whose lanes stand alone -/

theorem lane2_rule {ok : Bool} {r : EngRec} {o : LaneOp} {f : Nat → Nat → Nat → Nat × Flg} {g : Head → Nat → Nat → Nat → Nat → Nat × Flg}
    (same : ∀ h e x y z, f x y z = g h e x y z) (s : State) :
    lane2 ok o r f s = vxStep ok r (fun k sl h => laneStep o r (g h) k sl h) s := by
  have eq : g = fun _ _ x y z => f x y z := by funext h e x y z; exact (same h e x y z).symm
  rw [eq]; rfl

theorem genStep_rule {ok : Bool} {r : EngRec} {f : Nat → Nat} {g : Head → Nat → Nat → Nat → Nat → Nat × Flg}
    (same : ∀ h e x y z, (f (Head.linear h r * lanesOf r.dtype + e), 0) = g h e x y z) (s : State) :
    genStep ok r f s = vxStep ok r (fun k sl h => laneStep { w := lanesOf r.dtype, hasS1 := false } r (g h) k sl h) s := by
  have eq : g = fun h e _ _ _ => (f (h.linear r * lanesOf r.dtype + e), 0) := by funext h e x y z; exact (same h e x y z).symm
  rw [eq]; rfl

theorem pick2_min (c : BitVec 4) (x y : Nat) : pick2 c false x y
    = if isFl c then minMax (fmtOf c) false x y else (if intDecode (tyOf c) y < intDecode (tyOf c) x then y else x, 0) := by
  simp [pick2]

theorem pick2_max (c : BitVec 4) (x y : Nat) : pick2 c true x y
    = if isFl c then minMax (fmtOf c) true x y else (if intDecode (tyOf c) x < intDecode (tyOf c) y then y else x, 0) := by
  simp [pick2]

/-- The step of a record that `laneRule` lists computes each lane by its rule. -/
theorem laneRule_exec {i : Instr} {r : EngRec} {o : LaneOp} {f : Head → Nat → Nat → Nat → Nat → Nat × Flg} (hi : laneRule i = some (r, o, f))
    (s : State) : exec i s = vxStep (recordOk i) r (fun k sl h => laneStep o r (f h) k sl h) s := by
  unfold laneRule at hi
  split at hi <;> cases hi
  case h_5 => exact lane2_rule (fun _ _ x y _ => pick2_min _ x y) s
  case h_6 => exact lane2_rule (fun _ _ x y _ => pick2_max _ x y) s
  case h_7 => exact lane2_rule (fun _ _ x _ _ => by split <;> rfl) s
  case h_8 => exact lane2_rule (fun _ _ x _ _ => by split <;> rfl) s
  case h_12 => exact lane2_rule (fun _ _ x y _ => by simp only [← Nat.not_lt, ite_not]) s
  case h_13 => exact lane2_rule (fun _ _ x y _ => by simp only [← Nat.not_lt, ite_not]) s
  case h_14 => exact lane2_rule (fun _ _ x y _ => by simp only [← Nat.not_lt, ite_not]) s
  case h_15 => exact lane2_rule (fun _ _ x y _ => by simp only [ite_not]) s
  case h_26 =>
    rw [exec_vrand, execVrand]
    refine genStep_rule (fun h e _ _ _ => ?_) s
    dsimp only [bits]
    split <;> simp_all
  all_goals rfl

/-- The vector that a lane record writes has whole bytes. -/
theorem laneRule_bytes {i : Instr} {r : EngRec} {o : LaneOp} {f : Head → Nat → Nat → Nat → Nat → Nat × Flg} (hi : laneRule i = some (r, o, f)) :
    8 * vecBytes o.w r.dtype = tw r.dtype * o.w := by
  have one : ∀ a b : BitVec 4, 8 ∣ 4096 / tw a * tw b := by decide
  have wider : ∀ a b : BitVec 4, 8 ∣ 4096 / max (tw a) (tw b) * tw b := by decide
  have whole : 8 ∣ o.w * tw r.dtype := by
    unfold laneRule at hi
    split at hi <;> cases hi
    case h_7 | h_8 | h_18 | h_19 | h_20 | h_21 | h_22 | h_23 | h_24 | h_25 => exact wider _ _
    all_goals exact one _ _
  rw [vecBytes, Nat.mul_div_cancel' whole, Nat.mul_comm]

/-! ## Lanes read back (R51, R148) -/

theorem leNat_leBytes : ∀ n v : Nat, leNat (leBytes n v) = v % 256 ^ n
  | 0, v => by simp [leBytes, leNat, Nat.mod_one]
  | n + 1, v => by
    rw [leBytes, leNat, leNat_leBytes n, Nat.pow_succ', Nat.mod_mul]
    simp

theorem packLanes_lt (t : Nat) : ∀ l : List Nat, packLanes t l < 2 ^ (t * l.length)
  | [] => by simp [packLanes]
  | x :: l => by
    have low := Nat.mod_lt x (Nat.two_pow_pos t)
    have high := packLanes_lt t l
    rw [packLanes, List.length_cons, Nat.mul_succ, Nat.add_comm (t * l.length), Nat.pow_add]
    calc x % 2 ^ t + 2 ^ t * packLanes t l < 2 ^ t * (packLanes t l + 1) := by rw [Nat.mul_succ]; omega
      _ ≤ 2 ^ t * 2 ^ (t * l.length) := Nat.mul_le_mul_left _ high

theorem lane_packLanes (t : Nat) : ∀ (l : List Nat) (j : Nat) (h : j < l.length), lane t (packLanes t l) j = l[j] % 2 ^ t
  | x :: l, 0, _ => by simp [lane, packLanes]
  | x :: l, j + 1, h => by
    have ih := lane_packLanes t l j (by simpa using h)
    rw [List.getElem_cons_succ, ← ih, lane, lane, packLanes, Nat.mul_succ, Nat.add_comm (t * j), Nat.pow_add, ← Nat.div_div_eq_div_mul,
      Nat.add_mul_div_left _ _ (Nat.two_pow_pos t), Nat.div_eq_of_lt (Nat.mod_lt x (Nat.two_pow_pos t)), Nat.zero_add]

/-! ## What a step leaves of its core and of the module -/

theorem State.unblockEng_core (s : State) (i : EngId) (sl : Slot) (c : CoreId) :
    ∃ x, (s.unblockEng i sl).core c = { s.core c with eng := x } := by
  unfold State.unblockEng
  split
  · exact ⟨_, rfl⟩
  · by_cases h : c = i.core
    · subst h
      exact ⟨_, State.core_modCore _ _ _⟩
    · exact ⟨_, State.core_modCore_other _ _ _ _ h⟩

theorem State.unblockEng_module (s : State) (i : EngId) (sl : Slot) : (s.unblockEng i sl).dram = s.dram ∧ (s.unblockEng i sl).net = s.net := by
  unfold State.unblockEng
  split <;> exact ⟨rfl, rfl⟩

theorem State.written_core (s : State) (e : Eng) (sl : Slot) (a : Nat) (bs : List Byte) (h : Head) :
    ∃ x, (((s.unblockEng ⟨s.cur.core, e⟩ sl).localWrites [(a, bs)]).setHead ⟨s.cur.core, e⟩ h).core s.cur.core
      = { (s.core s.cur.core).lstore a bs with eng := x } := by
  obtain ⟨x, hx⟩ := s.unblockEng_core ⟨s.cur.core, e⟩ sl s.cur.core
  have cur := s.unblockEng_cur ⟨s.cur.core, e⟩ sl
  have core : ((s.unblockEng ⟨s.cur.core, e⟩ sl).localWrites [(a, bs)]).core s.cur.core = { (s.core s.cur.core).lstore a bs with eng := x } := by
    rw [State.localWrites, cur, State.core_modCore, hx]; rfl
  rw [State.setHead, State.modEngine, State.setEngine, State.core_modCore, core]
  exact ⟨_, rfl⟩

/-- Settles O45: a lane record writes each lane by its rule, in one write of whole bytes. -/
theorem laneRecordsWriteEveryLane : Obligations.LaneRecordsWriteEveryLane := by
  intro s i q r o f as hi hw h k e out n hc
  obtain ⟨_, walks, header, own⟩ := hw
  have bytes : 8 * n = tw r.dtype * o.w := laneRule_bytes hi
  have lanes : out.length = o.w := by simp [out, lanesOut]
  have count : (codes out).length = o.w := by rw [codes, List.length_map, lanes]
  have taken := vxStep_taken walks header own (laneStep_checked (f h) hc)
  obtain ⟨x, core⟩ := s.written_core .vx q.slot (as.getD 0 0) (leBytes n (packLanes (tw r.dtype) (codes out)))
    (Head.advance { h with flags := h.flags ||| flagsOf out } r)
  have module := s.unblockEng_module e q.slot
  refine ⟨_, (laneRule_exec hi s).trans taken, rfl, ?_⟩
  generalize ht : s.vxTaken q r _ = t
  replace core : t.core s.cur.core = _ := (congrArg (State.core · s.cur.core) ht.symm).trans core
  have store : (t.core s.cur.core).store = k.store.write (as.getD 0 0) (leBytes n (packLanes (tw r.dtype) (codes out))) := by rw [core]; rfl
  refine ⟨fun wf => ⟨fun j hj => ?_, fun a ha => ?_⟩, by rw [core]; rfl, by rw [core]; rfl, ht ▸ module.1, ht ▸ module.2⟩
  · have fits : packLanes (tw r.dtype) (codes out) < 256 ^ n := by
      have bound := packLanes_lt (tw r.dtype) (codes out)
      rwa [count, ← bytes, Nat.pow_mul] at bound
    have back := @read_write (leBytes n (packLanes (tw r.dtype) (codes out))) _ (as.getD 0 0) wf
    rw [leBytes_length] at back
    rw [Core.val, store, back, leNat_leBytes, Nat.mod_eq_of_lt fits, lane_packLanes _ _ j (count ▸ hj)]
    simp [codes, List.getD_eq_getElem?_getD, lanes, hj]
  · rw [store]
    exact get_write_outside wf (by rwa [leBytes_length])

end Sys2Proof.Machine

/-! The other steps of the vector engine: comparisons, block scales, reductions, scans, counts, moves and lists (R153, R167-R183). -/

namespace Sys2Proof.Machine

variable {k : Core} {h : Head} {sl : Slot} {r r' : EngRec} {os : List Opd} {f : List Nat → VOut} {as : List Nat}

theorem headD_getD (l : List Nat) : l.headD 0 = l.getD 0 0 := by cases l <;> rfl

/-- The parts of a list of lanes, lane by lane. -/
theorem chunks_range {α : Type} (n : Nat) (g : Nat → α) : ∀ c w : Nat, n * c ≤ w →
    chunks n c ((List.range w).map g) = (List.range c).map fun b => (List.range n).map fun i => g (n * b + i)
  | 0, _, _ => rfl
  | c + 1, w, hw => by
    have first : ((List.range w).map g).take n = (List.range n).map g := by
      rw [← List.map_take, List.take_range, Nat.min_eq_left (by nlinarith)]
    have rest : ((List.range w).map g).drop n = (List.range (w - n)).map fun j => g (n + j) := by
      refine List.ext_getElem (by simp) fun j h1 h2 => by simp
    rw [chunks, first, rest, chunks_range n _ c (w - n) (by rw [Nat.mul_succ] at hw; omega), List.range_succ_eq_map, List.map_cons, List.map_map]
    simp only [Nat.mul_zero, Nat.zero_add]
    exact congrArg _ (List.map_congr_left fun b _ => List.map_congr_left fun i _ => congrArg g (by rw [Nat.mul_succ]; omega))

theorem mapIdx_range {α β : Type} (g : Nat → α) (t : Nat → α → β) (n : Nat) :
    ((List.range n).map g).mapIdx t = (List.range n).map fun b => t b (g b) :=
  List.ext_getElem (by simp) fun j h1 h2 => by simp

/-! ## What a step writes, operation by operation

Each is the rule of `stepRule` over the operands that the step checks. -/

theorem cmpStep_eq (hi : stepRule k h (.vcmp r) = some (r', os, f)) : cmpStep r k sl h = (k.checked sl os).map f := by
  cases hi
  rw [cmpStep]
  cases k.checked sl _ <;> rfl

theorem bcastStep_eq (hi : stepRule k h (.vbcast r) = some (r', os, f)) : bcastStep r k sl h = (k.checked sl os).map f := by
  cases hi
  dsimp only [bcastStep]
  cases k.checked sl _ <;> rfl

theorem deqStep_eq (hi : stepRule k h (.vdeq r) = some (r', os, f)) : deqStep r k sl h = (k.checked sl os).map f := by
  cases hi
  dsimp only [deqStep]
  cases k.checked sl _ <;> rfl

theorem permStep_eq (hi : stepRule k h (.vperm r) = some (r', os, f)) : permStep r k sl h = (k.checked sl os).map f := by
  cases hi
  simp only [permStep, ← Nat.not_lt, ite_not]
  cases k.checked sl _ <;> rfl

theorem scanStep_eq (hi : stepRule k h (.vscan r) = some (r', os, f)) : scanStep r k sl h = (k.checked sl os).map f := by
  cases hi
  dsimp only [scanStep]
  generalize r.aux.toNat % 4 = op
  cases k.checked sl _ with
  | error t => rfl
  | ok as => match op with
    | 0 | 1 => rfl
    | op + 2 => rfl

theorem anyStep_eq (hi : stepRule k h (.vany r) = some (r', os, f)) : anyStep r k sl h = (k.checked sl os).map f := by
  cases hi
  dsimp only [anyStep]
  cases k.checked sl _ with
  | error t => rfl
  | ok as =>
    simp only [headD_getD, Except.map]
    cases r.aux.getLsbD 0 <;> by_cases h0 : h.linear r = 0 <;> simp [h0]

theorem cntStep_eq (hi : stepRule k h (.vcnt r) = some (r', os, f)) : cntStep r k sl h = (k.checked sl os).map f := by
  cases hi
  dsimp only [cntStep]
  cases k.checked sl _ with
  | error t => rfl
  | ok as =>
    simp only [Except.map]
    cases h.lastJ0 r <;> cases r.aux.getLsbD 0 <;> simp [Nat.add_comm]

theorem redStep_eq {c : Nat → Nat → Nat × Flg} (hi : stepRule.reduceRule k h c r = some (r', os, f)) :
    redStep c r k sl h = (k.checked sl os).map f := by
  cases hi
  dsimp only [redStep]
  cases k.checked sl _ with
  | error t => rfl
  | ok as =>
    simp only [Except.map]
    cases h.lastJ0 r <;> rfl

theorem quantStep_eq (hi : stepRule k h (.vquant r) = some (r', os, f)) : quantStep r k sl h = (k.checked sl os).map f := by
  cases hi
  dsimp only [quantStep]
  cases k.checked sl _ with
  | error t => rfl
  | ok as =>
    simp only [Except.map]
    have blocks := chunks_range 32 (lane (tw r.stype) (k.val (as.getD 1 0) (vecBytes (lanesOf r.stype) r.stype))) _ _
      (Nat.mul_div_le (lanesOf r.stype) 32)
    have bs : (chunks 32 (lanesOf r.stype / 32) ((List.range (lanesOf r.stype)).map fun e =>
        lane (tw r.stype) (k.val (as.getD 1 0) (vecBytes (lanesOf r.stype) r.stype)) e)).mapIdx
          (fun b l => quantBlock r.stype r.dtype (fun i => laneRnd r h (lanesOf r.stype) (32 * b + i)) l) = _ := congrArg _ blocks
    rw [bs, mapIdx_range, quantWrites, List.map_map, mapIdx_range, mapIdx_range]
    rfl

theorem zip_exec {n : Nat} (hi : stepRule.zipRule k h n r = some (r', os, f)) (sl : Slot) (s : State) :
    ∃ g, zip n r s = vxStep (okZip r) r g s ∧ g k sl h = (k.checked sl os).map f := by
  cases hi
  unfold zip
  refine ⟨_, rfl, ?_⟩
  dsimp only
  cases k.checked sl _ <;> rfl

theorem unzip_exec {n : Nat} (hi : stepRule.unzipRule k h n r = some (r', os, f)) (sl : Slot) (s : State) :
    ∃ g, unzip n r s = vxStep (okZip r) r g s ∧ g k sl h = (k.checked sl os).map f := by
  cases hi
  unfold unzip
  refine ⟨_, rfl, ?_⟩
  dsimp only
  cases k.checked sl _ <;> rfl

/-- A comparison that pushes no bit, or has room for it, takes its step. -/
theorem execVcmp_step {s : State} {q : QEntry} (hw : s.walks .vx q)
    (room : r.aux.getLsbD 15 = true → (s.ctx ⟨s.cur.core, q.slot⟩).cqRoom = true) : execVcmp r s = vxStep (okCmp r) r (cmpStep r) s := by
  obtain ⟨⟨rest, hq⟩, _⟩ := hw
  unfold execVcmp
  simp only [hq]
  refine if_neg fun full => ?_
  simp only [Bool.and_eq_true, Bool.not_eq_true'] at full
  obtain ⟨⟨_, pushes⟩, none⟩ := full
  exact absurd (room pushes) (Bool.eq_false_iff.1 none)

/-- The step of a record that `stepRule` lists checks the operands and does what the rule says, a VCMP that pushes where the condition
queue has room. -/
theorem stepRule_exec {s : State} {i : Instr} (hi : stepRule k h i = some (r, os, f)) (sl : Slot)
    (room : ∀ x, i = .vcmp x → execVcmp x s = vxStep (okCmp x) x (cmpStep x) s) :
    ∃ g, exec i s = vxStep (recordOk i) r g s ∧ g k sl h = (k.checked sl os).map f := by
  have rule := hi
  unfold stepRule at hi
  split at hi
  case h_1 => cases hi; exact ⟨_, room _ rfl, cmpStep_eq rule⟩
  case h_2 => cases hi; exact ⟨_, rfl, bcastStep_eq rule⟩
  case h_3 => cases hi; exact ⟨_, rfl, quantStep_eq rule⟩
  case h_4 => cases hi; exact ⟨_, rfl, deqStep_eq rule⟩
  case h_5 =>
    cases hi
    rw [exec_vzero, execVzero]
    refine ⟨_, rfl, ?_⟩
    simp only [headD_getD]
    cases k.checked sl _ <;> rfl
  case h_6 => cases hi; exact ⟨_, rfl, redStep_eq rule⟩
  case h_7 => cases hi; exact ⟨_, rfl, redStep_eq rule⟩
  case h_8 => cases hi; exact ⟨_, rfl, redStep_eq rule⟩
  case h_9 => cases hi; exact ⟨_, rfl, scanStep_eq rule⟩
  case h_10 => cases hi; exact ⟨_, rfl, anyStep_eq rule⟩
  case h_11 => cases hi; exact ⟨_, rfl, cntStep_eq rule⟩
  case h_12 => cases hi; exact zip_exec rule sl s
  case h_13 => cases hi; exact zip_exec rule sl s
  case h_14 => cases hi; exact zip_exec rule sl s
  case h_15 => cases hi; exact unzip_exec rule sl s
  case h_16 => cases hi; exact unzip_exec rule sl s
  case h_17 => cases hi; exact unzip_exec rule sl s
  case h_18 => cases hi; exact ⟨_, rfl, permStep_eq rule⟩
  case h_19 =>
    cases hi
    rw [exec_vldp, execVldp]
    refine ⟨_, rfl, ?_⟩
    cases k.checked sl _ <;> rfl
  case h_20 =>
    cases hi
    rw [exec_vstp, execVstp]
    refine ⟨_, rfl, ?_⟩
    cases k.checked sl _ <;> rfl
  case h_21 => cases hi

/-- A step of VX whose operands break a check faults. -/
theorem vxStep_faults {s : State} {q : QEntry} {ok : Bool} {g : Core → Slot → Head → Except Trap VOut} {t : Trap}
    (hw : s.walks .vx q) (hh : headerOk .vx r = true) (hok : ok = true) (hg : g (s.core s.cur.core) q.slot (s.headOf .vx) = .error t) :
    vxStep ok r g s = .next (s.engFault ⟨s.cur.core, .vx⟩ 0 t) := by
  rw [vxStep, walk_body hw hh hok]
  simp only [hg]

/-! ## Lists, tiles and the obligation -/

/-- A comparison that would push into a full queue is registered on it. -/
theorem execVcmp_waits {s : State} {q : QEntry} (hw : s.walksWell (.vcmp r) .vx q r) (pushes : r.aux.getLsbD 15 = true)
    (full : (s.ctx ⟨s.cur.core, q.slot⟩).cqRoom = false) :
    exec (.vcmp r) s = .next (s.blockEng ⟨s.cur.core, .vx⟩ q.slot (cqObj s.cur.core q.slot)) := by
  obtain ⟨_, ⟨⟨rest, hq⟩, hst⟩, header, own⟩ := hw
  replace own : okCmp r = true := own
  rw [exec_vcmp, execVcmp]
  simp only [hq]
  rw [if_pos (by simp only [hst, header, own, pushes, full]; rfl)]
  rfl

/-- A record that makes no step is done at once. -/
theorem noStep_done {s : State} {q : QEntry} {ok : Bool} (hw : s.walks .vx q) (hh : headerOk .vx r = true) (hok : ok = true) :
    noStep ok r s = .next (s.setHead ⟨s.cur.core, .vx⟩ { s.headOf .vx with st := .done }) := walk_body hw hh hok _

/-- Settles O46: each record by the rule of its step; lists and tile control by their own steps. -/
theorem vectorRecordsTakeTheirStep : Obligations.VectorRecordsTakeTheirStep := by
  refine ⟨?_, fun s q r hw pushes full => execVcmp_waits hw pushes full,
    ?_, ?_, ?_, ?_⟩
  · intro s i q r os f as hi ⟨_, walks, header, own⟩ room hc
    obtain ⟨g, step, does⟩ := stepRule_exec hi q.slot fun x hx => execVcmp_step walks (room x hx)
    exact step.trans (vxStep_taken walks header own (does.trans (by rw [hc]; rfl)))
  · rintro s i q r (rfl | rfl) ⟨_, walks, header, own⟩
    · exact noStep_done walks header own
    · exact noStep_done walks header own
  · intro s q r ad ix c as ⟨_, walks, header, own⟩ h k z hd hix hc
    simp only [h, k, z] at hd hix hc
    refine vxStep_taken walks header own ?_
    simp only [gatherStep, hd, hix, hc]
    rw [List.length_map]
    rfl
  · intro s q r a1 ix c as ⟨_, walks, header, own⟩ h k z h1 hix hc hp
    simp only [h, k, z] at h1 hix hc hp
    refine vxStep_taken walks header own ?_
    simp only [scatterStep, h1, hix, List.headD_cons, hc, hp]
    rfl
  · intro s q r aD a1 a2 as ⟨_, walks, header, own⟩ h k w n first x es hc hes
    simp only [h, k, w, n, first, x, es] at hc hes
    refine vxStep_taken walks header own ?_
    have low : bits (s.headOf .vx).carry.toNat 31 0 = (s.headOf .vx).carry.toNat % 2 ^ 32 := by rw [bits, Nat.pow_zero, Nat.div_one]
    have high : bits (s.headOf .vx).carry.toNat 63 32 = (s.headOf .vx).carry.toNat / 2 ^ 32 := by
      have bound := (s.headOf .vx).carry.isLt
      rw [bits, Nat.mod_eq_of_lt]
      omega
    have second : [aD, a1, a2].getD 1 0 = a1 := rfl
    simp only [partStep, hc, low, high, second, hes]
    rfl

end Sys2Proof.Machine

/-! The steps of the matrix engine, and the faults of records that make no step (R44, R155, R191-R203, R421). -/

namespace Sys2Proof.Machine

/-! ## A step of MX -/

section
variable {s : State} {q : QEntry} {ok : Bool} {r : EngRec} {f : Core → Slot → Head → Except Trap MOut}

/-- The tile of a head from an image, where it is checked again (R430). -/
theorem resumed_tile {t : Option Trap} (h : Head) (tile : h.resumed = true → t = none) : (if h.resumed then t else none) = none := by
  split
  · exact tile ‹_›
  · rfl

/-- A step of MX whose tile and operands meet their checks takes its effect. -/
theorem mxStep_taken {o : MOut} (hw : s.walks .mx q) (hh : headerOk .mx r = true) (hok : ok = true)
    (tile : (s.headOf .mx).resumed = true → (s.core s.cur.core).tileCheck q.slot (recOpc q.record).toNat r = none)
    (hf : f (s.core s.cur.core) q.slot (s.headOf .mx) = .ok o) :
    mxStep ok r f s = .next (s.mxTaken r o.writes o.tags o.flags ((o.acc.map fun n => BitVec.ofNat 4096 n).getD (s.headOf .mx).mcarry)) := by
  rw [mxStep, walk_body hw hh hok]
  simp only [resumed_tile _ tile, hf]
  rfl

/-- A step of MX whose operands break a check faults. -/
theorem mxStep_faults {t : Trap} (hw : s.walks .mx q) (hh : headerOk .mx r = true) (hok : ok = true)
    (tile : (s.headOf .mx).resumed = true → (s.core s.cur.core).tileCheck q.slot (recOpc q.record).toNat r = none)
    (hf : f (s.core s.cur.core) q.slot (s.headOf .mx) = .error t) : mxStep ok r f s = .next (s.engFault ⟨s.cur.core, .mx⟩ 0 t) := by
  rw [mxStep, walk_body hw hh hok]
  simp only [resumed_tile _ tile, hf]

/-- A step of MX whose tile its context does not hold any more faults. -/
theorem mxStep_lostTile {t : Trap} (hw : s.walks .mx q) (hh : headerOk .mx r = true) (hok : ok = true)
    (resumed : (s.headOf .mx).resumed = true) (tile : (s.core s.cur.core).tileCheck q.slot (recOpc q.record).toNat r = some t) :
    mxStep ok r f s = .next (s.engFault ⟨s.cur.core, .mx⟩ 0 t) := by
  rw [mxStep, walk_body hw hh hok]
  simp only [resumed, tile, if_true]

end

theorem mmaForm_exec {i : Instr} {r : EngRec} {zero scaled accS1 : Bool} (hi : mmaForm i = some (r, zero, scaled, accS1)) (s : State) :
    exec i s = mxStep (recordOk i) r (mmaStep zero scaled accS1 r) s := by
  unfold mmaForm at hi
  split at hi <;> cases hi <;> rfl

/-- Settles O47: the MMA family by its form, MRET and MZERO by their own steps. -/
theorem matrixStepsTakeTheirEffect : Obligations.MatrixStepsTakeTheirEffect := by
  refine ⟨?_, ?_, ?_⟩
  · intro s i q r zero scaled accS1 as hi ⟨_, walks, header, own⟩ h k n one old out new tile hc
    have step : mmaStep zero scaled accS1 r k q.slot h = .ok { writes := if h.lastJ0 r then [(as.getD 0 0, leBytes 512 new)] else []
                                                               tags := if h.lastJ0 r && zero then [tileOf (as.getD 0 0)] else []
                                                               flags := flagsOf out
                                                               acc := some new } := by
      simp only [h, k, n, one, old, out, new] at hc ⊢
      unfold mmaStep
      simp only [hc]
      generalize List.range 128 = columns
      cases scaled <;> rfl
    have taken := mxStep_taken walks header own tile step
    exact (mmaForm_exec hi s).trans taken
  · intro s q r aD a1 ⟨_, walks, header, own⟩ h k n out tile hc
    have step : mretStep r k q.slot h = .ok { writes := [(aD, leBytes n (packLanes (tw r.dtype) (codes out)))]
                                              tags := if aD / 2 ^ 28 = 1 then [tileOf aD] else []
                                              flags := flagsOf out } := by
      simp only [h, k, n, out] at hc ⊢
      unfold mretStep
      simp only [hc]
      generalize List.range 128 = lanes
      rfl
    have taken := mxStep_taken walks header own tile step
    exact taken
  · intro s q r aD ⟨_, walks, header, own⟩ h tile hc
    rw [exec_mzero, execMzero]
    simp only [h] at hc
    refine @mxStep_taken s q (okMzero r) r _ { writes := [(aD, List.replicate 512 0)], tags := [tileOf aD] } walks header own tile ?_
    simp only [hc]
    rfl

end Sys2Proof.Machine

/-! Records that make no step: headers and operands that break a check, heads that stand, and the fault of a head (R44, R155, R421). -/

namespace Sys2Proof.Machine

/-! ## Every record walks -/

/-- `x` is one step of a walk from `s`. -/
def WalksAs (e : Eng) (ok : Bool) (r : EngRec) (s : State) (x : Result) : Prop := ∃ body, x = walk e ok r body s

section
variable {ok : Bool} {r : EngRec} {s : State} {x : Result}

theorem WalksAs.of_vx {f : Core → Slot → Head → Except Trap VOut} (h : x = vxStep ok r f s) : WalksAs .vx ok r s x := ⟨_, h⟩
theorem WalksAs.of_mx {f : Core → Slot → Head → Except Trap MOut} (h : x = mxStep ok r f s) : WalksAs .mx ok r s x := ⟨_, h⟩
theorem WalksAs.of_copy {e : Eng} {f : State → EngId → QEntry → Head → CRes} (h : x = copyStep e ok r f s) : WalksAs e ok r s x := ⟨_, h⟩

end

/-- What a record of a queue does is one step of a walk under its own checks. -/
theorem recordParts_walk {i : Instr} {e : Eng} {opc : BitVec 8} {r : EngRec} (hi : recordParts i = some (e, opc, r)) (he : e ≠ .xf) (s : State)
    (hc : ∀ x, i = .vcmp x → execVcmp x s = vxStep (okCmp x) x (cmpStep x) s) : WalksAs e (recordOk i) r s (exec i s) := by
  have listed {i : Instr} {r : EngRec} {os : List Opd} {f : List Nat → VOut} (h : stepRule (s.core s.cur.core) (s.headOf .vx) i = some (r, os, f))
      (hc : ∀ x, i = .vcmp x → execVcmp x s = vxStep (okCmp x) x (cmpStep x) s) : WalksAs .vx (recordOk i) r s (exec i s) := by
    obtain ⟨g, step, _⟩ := stepRule_exec h .o hc
    exact .of_vx step
  unfold recordParts at hi
  split at hi
  case h_69 | h_70 | h_71 | h_72 => cases hi; exact absurd rfl he
  all_goals cases hi
  case h_1 | h_2 | h_3 | h_4 | h_5 | h_6 | h_7 | h_8 | h_9 | h_10 | h_11 | h_12 | h_13 | h_14 | h_15 | h_17 | h_18 | h_19 | h_21 | h_22 | h_23 | h_24 | h_25 | h_26 | h_27 | h_30 | h_49 => exact .of_vx (laneRule_exec rfl s)
  case h_16 | h_20 | h_28 | h_29 | h_31 | h_32 | h_33 | h_34 | h_35 | h_36 | h_37 | h_38 | h_39 | h_40 | h_41 | h_42 | h_43 | h_47 | h_48 | h_50 => exact listed rfl hc
  case h_44 | h_45 | h_46 => exact .of_vx rfl
  case h_53 | h_54 | h_55 | h_56 => exact .of_mx (mmaForm_exec rfl s)
  case h_51 => rw [exec_vbump, execVbump, noStep]; exact ⟨_, rfl⟩
  case h_52 => rw [exec_vtype, execVtype, noStep]; exact ⟨_, rfl⟩
  case h_57 => exact .of_mx rfl
  case h_58 => rw [exec_mzero, execMzero]; exact .of_mx rfl
  case h_62 => rw [exec_fill, execFill]; exact .of_copy rfl
  case h_63 => rw [exec_cploc, execCploc]; exact .of_copy rfl
  all_goals exact .of_copy rfl

/-! ## Heads that break a check or stand -/

section
variable {s : State} {e : Eng} {q : QEntry} {ok : Bool} {r : EngRec} {x : Result}

theorem WalksAs.faults (h : WalksAs e ok r s x) (hw : s.walks e q) (hbad : (headerOk e r && ok) = false) :
    x = .next (s.engFault ⟨s.cur.core, e⟩ 0 { cause := 0x02 }) := by
  obtain ⟨body, rfl⟩ := h
  obtain ⟨⟨rest, hq⟩, hst⟩ := hw
  unfold walk
  simp only [hq, hst, hbad]
  rfl

theorem WalksAs.stands (h : WalksAs e ok r s x) (hst : (s.headOf e).st ≠ .walking) : x = .next s := by
  obtain ⟨body, rfl⟩ := h
  unfold walk
  dsimp only
  split
  · rfl
  · exact congrArg _ (if_pos hst)

/-- A comparison asks for room only where its head walks with its checks met. -/
theorem execVcmp_unasked (h : ¬((s.headOf .vx).st = .walking ∧ (headerOk .vx r && okCmp r) = true)) (hq : (s.engine ⟨s.cur.core, .vx⟩).queue ≠ []) :
    execVcmp r s = vxStep (okCmp r) r (cmpStep r) s := by
  unfold execVcmp
  dsimp only
  split
  · refine if_neg fun asks => h ?_
    simp only [Bool.and_eq_true, decide_eq_true_eq] at asks
    obtain ⟨⟨⟨⟨walking, header⟩, own⟩, _⟩, _⟩ := asks
    exact ⟨walking, by rw [header, own]; rfl⟩
  · next none => exact absurd none hq

end

/-! ## The fault of a head -/

/-- The local stores, the regions that each bank holds and DRAM stand as they were. -/
structure State.SameStores (s t : State) : Prop where
  store : ∀ c, (t.core c).store = (s.core c).store
  held : ∀ c sl a n, (t.core c).firstNotHeld sl a n = (s.core c).firstNotHeld sl a n
  dram : t.dram = s.dram

namespace State.SameStores

theorem refl (s : State) : s.SameStores s := ⟨fun _ => rfl, fun _ _ _ _ => rfl, rfl⟩

theorem trans {s t u : State} (h : s.SameStores t) (k : t.SameStores u) : s.SameStores u :=
  ⟨fun c => (k.store c).trans (h.store c), fun c sl a n => (k.held c sl a n).trans (h.held c sl a n), k.dram.trans h.dram⟩

theorem modCore (s : State) (i : CoreId) (f : Core → Core)
    (h : ∀ k : Core, (f k).store = k.store ∧ ∀ sl a n, (f k).firstNotHeld sl a n = k.firstNotHeld sl a n) : s.SameStores (s.modCore i f) := by
  refine ⟨fun c => ?_, fun c sl a n => ?_, rfl⟩
  · by_cases hc : c = i
    · subst hc; rw [State.core_modCore, (h _).1]
    · rw [State.core_modCore_other _ _ _ _ hc]
  · by_cases hc : c = i
    · subst hc; rw [State.core_modCore, (h _).2]
    · rw [State.core_modCore_other _ _ _ _ hc]

theorem modEngine (s : State) (e : EngId) (f : Engine → Engine) : s.SameStores (s.modEngine e f) :=
  SameStores.modCore s e.core (fun k => k.setEngine e.eng (f (s.engine e))) fun _ => ⟨rfl, fun _ _ _ => rfl⟩

theorem modCtx (s : State) (i : CtxId) (f : Ctx → Ctx) : s.SameStores (s.modCtx i f) :=
  SameStores.modCore s i.core (fun k => k.setCtx i.slot (f (s.ctx i))) fun _ => by cases i.slot <;> exact ⟨rfl, fun _ _ _ => rfl⟩

theorem unblockEng (s : State) (e : EngId) (sl : Slot) : s.SameStores (s.unblockEng e sl) := by
  unfold State.unblockEng
  split
  · exact .refl s
  · refine SameStores.trans ?_ (SameStores.modEngine _ e _)
    exact ⟨fun _ => rfl, fun _ _ _ _ => rfl, rfl⟩

end State.SameStores

/-- The bytes of a local unit go to the store alone. -/
theorem Core.writeUnit_store (k k' : Core) (w : LocalUnit) (h : k'.store = k.store) : (k'.writeUnit w).store = (k.writeUnit w).store := by
  unfold Core.writeUnit
  dsimp only
  generalize leBytes 64 w.data.toNat = bs
  generalize List.range 64 = l
  by_cases full : w.mask = BitVec.allOnes 64
  · rw [if_pos full, if_pos full]
    exact congrArg (Mem.write · _ bs) h
  · rw [if_neg full, if_neg full]
    induction l generalizing k k' with
    | nil => exact h
    | cons i l ih =>
      refine ih _ _ ?_
      dsimp only
      by_cases one : w.mask.getLsbD i = true
      · rw [if_pos one, if_pos one]
        exact congrArg (Mem.write · _ _) h
      · rw [if_neg one, if_neg one]
        exact h

/-- A head that is settled has written the local unit that its steps were in, where its bank still holds it. -/
theorem State.settleHead_settled {s : State} {e : EngId} {q : QEntry} {rest : List QEntry} (hq : (s.engine e).queue = q :: rest) :
    (∃ d, (s.settleHead e).engine e = { s.engine e with head := { (s.engine e).head with put := none, seen := d } })
      ∧ (s.settleHead e).dram = s.dram
      ∧ ((s.engine e).head.put = none → ∀ c, ((s.settleHead e).core c).store = (s.core c).store)
      ∧ ∀ w, (s.engine e).head.put = some w → (s.core e.core).firstNotHeld q.slot (64 * w.unit) 64 = none →
        ((s.settleHead e).core e.core).store = ((s.core e.core).writeUnit w).store := by
  cases hp : (s.engine e).head.put with
  | none =>
    have stood : s.settleHead e = if (s.engine e).head.seen.isNone then s
        else s.modEngine e fun x => { x with head := { x.head with seen := none } } := by
      unfold State.settleHead; dsimp only; rw [hq, hp]
    rw [stood]
    split
    · refine ⟨⟨(s.engine e).head.seen, ?_⟩, rfl, fun _ _ => rfl, fun _ h => nomatch h⟩
      exact congrArg (fun p => { s.engine e with head := { (s.engine e).head with put := p, seen := (s.engine e).head.seen } }) hp
    · refine ⟨⟨none, ?_⟩, rfl, fun _ => (State.SameStores.modEngine s e _).store, fun _ h => nomatch h⟩
      rw [State.engine_modEngine]
      exact congrArg (fun p => { s.engine e with head := { (s.engine e).head with put := p, seen := none } }) hp
  | some u =>
    have left : s.settleHead e = if (((s.modEngine e fun x => { x with head := { x.head with put := none, seen := none } }).core
        e.core).firstNotHeld q.slot (64 * u.unit) 64).isSome then s.modEngine e fun x => { x with head := { x.head with put := none, seen := none } }
        else (s.modEngine e fun x => { x with head := { x.head with put := none, seen := none } }).modCore e.core fun k => k.writeUnit u := by
      unfold State.settleHead; dsimp only; rw [hq, hp]
    have cleared := State.SameStores.modEngine s e fun x => { x with head := { x.head with put := none, seen := none } }
    rw [left, cleared.held]
    refine ⟨⟨none, ?_⟩, ?_, fun h => absurd h (Option.some_ne_none u), fun w hw free => ?_⟩
    · split
      · exact State.engine_modEngine _ _ _
      · rw [State.engine_modCore _ _ _ _ fun k => by obtain ⟨m, p, h⟩ := k.writeUnit_changes u; rw [h]; rfl]
        exact State.engine_modEngine _ _ _
    · split <;> rfl
    · obtain rfl := Option.some.inj hw
      rw [free, if_neg (by decide), State.core_modCore]
      exact Core.writeUnit_store _ _ _ (cleared.store _)

theorem State.engFault_faulted {s : State} {e : EngId} {q : QEntry} {p : Nat} {t : Trap} {rest : List QEntry}
    (hq : (s.engine e).queue = q :: rest) (ho : (s.engine e).head.orphan = false) :
    let u := s.engFault e p t
    (u.engine e).head.st = .faulted p ∧ (u.engine e).queue = (s.engine e).queue ∧ (u.ctx ⟨e.core, q.slot⟩).trap.isSome = true
      ∧ ((s.engine e).head.put = none → ∀ c, (u.core c).store = (s.core c).store)
      ∧ (∀ w, (s.engine e).head.put = some w → (u.engine e).head.put = none ∧ ((s.core e.core).firstNotHeld q.slot (64 * w.unit) 64 = none →
        (u.core e.core).store = ((s.core e.core).writeUnit w).store)) ∧ u.dram = s.dram
      ∧ ((u.engine e).head.fault.map fun x => (x.cause, x.eaddr, x.einfo, x.agent)) = some (t.cause, t.eaddr, t.einfo, 2 + (Eng.fin e.eng).val) := by
  intro u
  let v := (s.unblockEng e q.slot).dropReads e
  obtain ⟨b, free⟩ := s.unblockEng_engine e q.slot e
  have engine : v.engine e = { s.engine e with blocked := b } := free
  have woken : s.SameStores v := (State.SameStores.unblockEng s e q.slot).trans ⟨fun _ => rfl, fun _ _ _ _ => rfl, rfl⟩
  have queue : (v.engine e).queue = q :: rest := by rw [engine]; exact hq
  obtain ⟨⟨d, settled⟩, dram, kept, left⟩ := State.settleHead_settled queue
  have put : (v.engine e).head.put = (s.engine e).head.put := by rw [engine]
  let f : Trap := { t with agent := 2 + (Eng.fin e.eng).val, stamp := s.gtc.toNat, src := engNum e }
  let g : Engine → Engine := fun x => { x with head := { x.head with st := .faulted p, fault := some f, hostReq := none, unit := none } }
  have faulted : u = ((v.settleHead e).modEngine e g).modCtx ⟨e.core, q.slot⟩ fun c => c.cause f := by
    show s.engFault e p t = _
    unfold State.engFault
    rw [hq, ho]
    rfl
  have head : u.engine e = g ((v.settleHead e).engine e) := by rw [faulted, State.engine_modCtx, State.engine_modEngine]
  have stores : (v.settleHead e).SameStores u := by
    rw [faulted]; exact (State.SameStores.modEngine _ e g).trans (.modCtx _ _ _)
  clear_value u
  rw [head, settled, engine]
  refine ⟨rfl, rfl, ?_, fun none c => ?_, fun w hw => ⟨rfl, fun held => ?_⟩, ?_, rfl⟩
  · rw [faulted, State.ctx_modCtx]; rfl
  · rw [stores.store, kept (put.trans none), woken.store]
  · rw [stores.store, left w (put.trans hw) (by rw [woken.held]; exact held)]
    exact Core.writeUnit_store _ _ _ (woken.store _)
  · rw [stores.dram, dram, woken.dram]

/-- Settles O48: every record is one step of a walk; operands that break a check, and the fault itself, apart. -/
theorem recordsFaultWithNoEffect : Obligations.RecordsFaultWithNoEffect := by
  refine ⟨?_, ?_, ?_, ?_, ?_, ?_, ?_⟩
  · intro s i e opc q r hi he hw hbad
    refine (recordParts_walk hi he s fun x hx => ?_).faults hw hbad
    subst hx
    cases hi
    obtain ⟨⟨rest, hq⟩, _⟩ := hw
    exact execVcmp_unasked (fun h => Bool.false_ne_true (hbad.symm.trans h.2)) (by rw [hq]; exact List.cons_ne_nil _ _)
  · intro s i q r o f t hi ⟨_, walks, header, own⟩ hc
    exact (laneRule_exec hi s).trans (vxStep_faults walks header own (by unfold laneStep; rw [hc]))
  · intro s i q r zero scaled accS1 t hi ⟨_, walks, header, own⟩ tile hc
    exact (mmaForm_exec hi s).trans (mxStep_faults walks header own tile (by unfold mmaStep; rw [hc]))
  · intro s i q r os f t hi ⟨_, walks, header, own⟩ room hc
    obtain ⟨g, step, does⟩ := stepRule_exec hi q.slot fun x hx => execVcmp_step walks (room x hx)
    exact step.trans (vxStep_faults walks header own (does.trans (by rw [hc]; rfl)))
  · rintro s i q r t (⟨zero, scaled, accS1, hi⟩ | rfl | rfl) ⟨_, walks, header, own⟩ resumed tile
    · exact (mmaForm_exec hi s).trans (mxStep_lostTile walks header own resumed tile)
    · exact mxStep_lostTile walks header own resumed tile
    · rw [exec_mzero, execMzero]
      exact mxStep_lostTile walks header own resumed tile
  · intro s i e opc r hi he hq hst
    refine (recordParts_walk hi he s fun x hx => ?_).stands hst
    subst hx
    cases hi
    exact execVcmp_unasked (fun h => hst h.1) hq
  · rintro s e q p t ⟨rest, hq⟩ ho
    exact State.engFault_faulted hq ho

end Sys2Proof.Machine

/-! The steps of the copy engines that write the local stores (R211, R274-R278, R407, R450). -/

namespace Sys2Proof.Machine

/-! ## A step of a copy engine -/

theorem Head.advance_openLine (h : Head) (r : EngRec) : (h.advance r).openLine = h.openLine := by
  unfold Head.advance
  split_ifs <;> rfl

/-- A head that still walks, or has no line open, sends none as its step ends. -/
theorem State.sendLine_none {s : State} {e : EngId} {q : QEntry} {h : Head} (alloc : Bool) (shut : h.openLine = none ∨ h.st = .walking) :
    (if h.st = .done then s.sendLine e q h alloc else CRes.ok s h) = .ok s h := by
  split
  · next done =>
    have closed := shut.resolve_right (by rw [done]; decide)
    unfold State.sendLine
    rw [closed]
  · rfl

/-- The end of a step that sends no encrypted line: the head moves on and leaves its units where it must. -/
theorem State.stepEnd_taken {s : State} {e : Eng} {c : CoreId} {q : QEntry} {r : EngRec} {h : Head} (alloc : Bool) (u : Head → Option Nat)
    (hc : s.cur.core = c) (hdr : q.hdr = r) (closed : h.openLine = none ∨ (h.advance r).st = .walking) :
    ∃ v n, s.stepEnd ⟨c, e⟩ q h alloc u = .ok v n ∧ v.setHead ⟨c, e⟩ n = s.copyTaken e r h u := by
  subst hc hdr
  have shut : (h.advance q.hdr).openLine = none ∨ (h.advance q.hdr).st = .walking :=
    closed.imp_left fun none => (h.advance_openLine q.hdr).trans none
  -- what follows once the local unit is left, on both sides
  have moves (v : State) (x : Head) (hx : x.openLine = none ∨ x.st = .walking) (w : Option Nat) :
      ∃ v' n, (let stay := decide (x.st = .walking) && (h.unit.isSome || inExtent q.hdr h) && w.isSome && decide (unitFrom q.hdr u x = w)
        let n := { x with unit := if stay then some (h.unit.getD (v.msgs - 1)) else none }
        let v := if stay then v else v.dropUnit ⟨s.cur.core, e⟩ h w
        if n.st = .done then v.sendLine ⟨s.cur.core, e⟩ q n alloc else CRes.ok v n) = .ok v' n
      ∧ v'.setHead ⟨s.cur.core, e⟩ n = if x.st = .walking ∧ (h.unit.isSome = true ∨ inExtent q.hdr h = true) ∧ w.isSome = true ∧ unitFrom q.hdr u x = w
        then v.setHead ⟨s.cur.core, e⟩ { x with unit := some (h.unit.getD (v.msgs - 1)) }
        else (v.dropUnit ⟨s.cur.core, e⟩ h w).setHead ⟨s.cur.core, e⟩ { x with unit := none } := by
    dsimp only
    by_cases stay : x.st = .walking ∧ (h.unit.isSome = true ∨ inExtent q.hdr h = true) ∧ w.isSome = true ∧ unitFrom q.hdr u x = w
    · have flag : (decide (x.st = .walking) && (h.unit.isSome || inExtent q.hdr h) && w.isSome && decide (unitFrom q.hdr u x = w)) = true := by
        simpa [and_assoc] using stay
      refine ⟨v, { x with unit := some (h.unit.getD (v.msgs - 1)) }, ?_, by rw [if_pos stay]⟩
      simp only [flag, if_true]
      exact @State.sendLine_none v _ q { x with unit := some (h.unit.getD (v.msgs - 1)) } alloc hx
    · have flag : (decide (x.st = .walking) && (h.unit.isSome || inExtent q.hdr h) && w.isSome && decide (unitFrom q.hdr u x = w)) = false := by
        rw [← Bool.not_eq_true]
        simpa [and_assoc] using stay
      refine ⟨v.dropUnit ⟨s.cur.core, e⟩ h w, { x with unit := none }, ?_, by rw [if_neg stay]⟩
      simp only [flag, Bool.false_eq_true, if_false]
      exact @State.sendLine_none (v.dropUnit ⟨s.cur.core, e⟩ h w) _ q { x with unit := none } alloc hx
  unfold State.stepEnd State.copyTaken State.leaveUnit
  dsimp only
  generalize h.advance q.hdr = x at shut
  cases hp : x.put with
  | none => exact moves s x shut _
  | some w =>
    by_cases within : x.st = .walking ∧ localUnit q.hdr x = w.unit
    · have flag : (decide (x.st = .walking) && decide (localUnit q.hdr x = w.unit)) = true := by simpa using within
      simp only [flag, if_true, if_pos within]
      exact moves s x shut _
    · have flag : (decide (x.st = .walking) && decide (localUnit q.hdr x = w.unit)) = false := by
        rw [← Bool.not_eq_true]
        simpa using within
      simp only [flag, Bool.false_eq_true, if_false, if_neg within]
      exact moves (s.modCore s.cur.core fun k => k.writeUnit w) { x with put := none } shut _

section
variable {s : State} {e : Eng} {q : QEntry} {ok : Bool} {r : EngRec} {f : State → EngId → QEntry → Head → CRes}

theorem copyStep_ok {v : State} {n : Head} (hw : s.walks e q) (hh : headerOk e r = true) (hok : ok = true)
    (hf : f s ⟨s.cur.core, e⟩ q (s.headOf e) = .ok v n) : copyStep e ok r f s = .next (v.setHead ⟨s.cur.core, e⟩ n) := by
  rw [copyStep, walk_body hw hh hok]
  simp only [hf]

theorem copyStep_fault {t : Trap} (hw : s.walks e q) (hh : headerOk e r = true) (hok : ok = true)
    (hf : f s ⟨s.cur.core, e⟩ q (s.headOf e) = .fault t) : copyStep e ok r f s = .next (s.engFault ⟨s.cur.core, e⟩ 0 t) := by
  rw [copyStep, walk_body hw hh hok]
  simp only [hf]

/-- A step that ends on the state `v`, and sends no line, has taken its effect there. -/
theorem copyStep_moves {v : State} {h : Head} {alloc : Bool} {u : Head → Option Nat} (hw : s.walks e q) (hh : headerOk e r = true)
    (hok : ok = true) (hdr : q.hdr = r) (cur : v.cur = s.cur) (closed : h.openLine = none ∨ (h.advance r).st = .walking)
    (hf : f s ⟨s.cur.core, e⟩ q (s.headOf e) = v.stepEnd ⟨s.cur.core, e⟩ q h alloc u) :
    copyStep e ok r f s = .next (v.copyTaken e r h u) := by
  obtain ⟨w, n, ends, taken⟩ := @State.stepEnd_taken v e s.cur.core q r h alloc u (congrArg Cur.core cur) hdr closed
  rw [copyStep_ok hw hh hok (hf.trans ends), taken]

theorem copyStep_ends {v : State} {h : Head} {alloc : Bool} {u : Head → Option Nat} (hw : s.walks e q) (hh : headerOk e r = true)
    (hok : ok = true) (hdr : q.hdr = r) (cur : v.cur = s.cur) (closed : h.openLine = none)
    (hf : f s ⟨s.cur.core, e⟩ q (s.headOf e) = v.stepEnd ⟨s.cur.core, e⟩ q h alloc u) :
    copyStep e ok r f s = .next (v.copyTaken e r h u) := copyStep_moves hw hh hok hdr cur (.inl closed) hf

end

/-! ## Copies in (R274, R276, R277) -/

theorem State.touch_cur (s : State) (p : Nat) : (s.touch p).cur = s.cur := by unfold State.touch; split <;> rfl

theorem copyInForm_exec {i : Instr} {r : EngRec} {list : Bool} (hi : copyInForm i = some (r, list)) (s : State) :
    exec i s = copyStep .ci (recordOk i) r (copyIn list r) s := by
  unfold copyInForm at hi
  split at hi <;> cases hi <;> rfl

theorem copyOutForm_exec {i : Instr} {r : EngRec} {list alloc : Bool} (hi : copyOutForm i = some (r, list, alloc)) (s : State) :
    exec i s = copyStep .co (recordOk i) r (copyOut list alloc r) s := by
  unfold copyOutForm at hi
  split at hi <;> cases hi <;> rfl

section
variable {s : State} {e : EngId} {q : QEntry} {r : EngRec} {h : Head} {list : Bool} {loc : Nat}

theorem copyIn_clamped (hc : (h.view (s.core e.core)).checked q.slot [localSide r h false] = .ok [loc]) (out : inExtent r h = false) :
    copyIn list r s e q h = s.stepEnd e q ({ h with out := h.out + 1 }.putLocal loc (List.replicate (elemSize r.dtype) 0)) true
      (tensorUnit list (h.view (s.core e.core)) q.slot r) := by
  unfold copyIn
  simp only [hc, out]
  rfl

theorem copyIn_reads {va : Nat} {u : State} {bs : List Byte} {h' : Head}
    (hc : (h.view (s.core e.core)).checked q.slot [localSide r h false] = .ok [loc]) (inside : inExtent r h = true)
    (hva : tensorAddr list (h.view (s.core e.core)) q.slot r h = .ok va)
    (read : s.readElem e q h va (elemSize r.dtype) (if list then fun _ => none else tensorUnit list (h.view (s.core e.core)) q.slot r)
      = .ok (u, some (bs, h'))) :
    copyIn list r s e q h = u.stepEnd e q (h'.putLocal loc bs) true (tensorUnit list (h.view (s.core e.core)) q.slot r) := by
  unfold copyIn
  simp only [hc, inside, hva, read]
  rfl

theorem copyIn_faults {t : Trap} (hc : (h.view (s.core e.core)).checked q.slot [localSide r h false] = .ok [loc]) (inside : inExtent r h = true)
    (hva : tensorAddr list (h.view (s.core e.core)) q.slot r h = .error t) : copyIn list r s e q h = .fault t := by
  unfold copyIn
  simp only [hc, inside, hva]
  rfl

end

/-! ## Bytes of a unit (R211, R450) -/

theorem leBytes_getD : ∀ (n v i : Nat), i < n → (leBytes n v).getD i 0 = BitVec.ofNat 8 (v / 256 ^ i)
  | n + 1, v, 0, _ => by simp [leBytes]
  | n + 1, v, i + 1, h => by
    have rest := leBytes_getD n (v / 256) i (by omega)
    rw [leBytes, List.getD_cons_succ, rest, Nat.pow_succ', Nat.div_div_eq_div_mul]

/-- Bit `j` of byte `i` of a number. -/
theorem leBytes_bit {n v i j : Nat} (hi : i < n) (hj : j < 8) : ((leBytes n v).getD i 0).getLsbD j = v.testBit (8 * i + j) := by
  rw [leBytes_getD n v i hi, BitVec.getLsbD_ofNat, show 256 ^ i = 2 ^ (8 * i) by rw [Nat.pow_mul], Nat.testBit_div_two_pow]
  simp [hj, Nat.add_comm]

/-- Bit `j` of byte `i` of the number of some bytes. -/
theorem leNat_bit : ∀ (bs : List Byte) (i j : Nat), j < 8 → (leNat bs).testBit (8 * i + j) = (bs.getD i 0).getLsbD j
  | [], i, j, _ => by simp [leNat]
  | b :: bs, i, j, hj => by
    have split : leNat (b :: bs) = 2 ^ 8 * leNat bs + b.toNat := by rw [leNat]; omega
    rw [split, Nat.testBit_two_pow_mul_add _ b.isLt]
    cases i with
    | zero => rw [if_pos (by omega), Nat.mul_zero, Nat.zero_add]; rfl
    | succ i => rw [if_neg (by omega), show 8 * (i + 1) + j - 8 = 8 * i + j by omega, leNat_bit bs i j hj]; rfl

theorem leBytes_leNat : ∀ bs : List Byte, leBytes bs.length (leNat bs) = bs
  | [] => rfl
  | b :: bs => by
    have ih := leBytes_leNat bs
    have low : BitVec.ofNat 8 (b.toNat + 256 * leNat bs) = b := BitVec.eq_of_toNat_eq (by simp; omega)
    have high : (b.toNat + 256 * leNat bs) / 256 = leNat bs := by have := b.isLt; omega
    rw [List.length_cons, leBytes, leNat, low, high, ih]

theorem unitMask_bit (w a n p : Nat) : (unitMask w a n).testBit p = (decide (w * (a % 64) ≤ p) && decide (p < w * (a % 64) + w * n)) := by
  rw [unitMask, Nat.testBit_mul_two_pow, Nat.testBit_two_pow_sub_one]
  by_cases h : w * (a % 64) ≤ p
  · simp only [h, decide_true, Bool.true_and]
    exact decide_eq_decide.2 (by omega)
  · simp [h]

/-- The bytes of a unit with those of an element. -/
theorem mergeUnit_byte (d : BitVec 512) (a : Nat) (bs : List Byte) (i : Nat) (hi : i < 64) :
    (leBytes 64 (mergeUnit d a bs).toNat).getD i 0
      = if a % 64 ≤ i ∧ i < a % 64 + bs.length then bs.getD (i - a % 64) 0 else (leBytes 64 d.toNat).getD i 0 := by
  refine BitVec.eq_of_getLsbD_eq fun j hj => ?_
  have field : (BitVec.ofNat 512 (leNat bs * 2 ^ (8 * (a % 64)))).getLsbD (8 * i + j)
      = (decide (a % 64 ≤ i) && (bs.getD (i - a % 64) 0).getLsbD j) := by
    rw [BitVec.getLsbD_ofNat, Nat.testBit_mul_two_pow, decide_eq_true (by omega : 8 * i + j < 512), Bool.true_and]
    by_cases begun : a % 64 ≤ i
    · rw [show 8 * i + j - 8 * (a % 64) = 8 * (i - a % 64) + j by omega, leNat_bit bs _ j hj, decide_eq_true begun,
        decide_eq_true (by omega : 8 * (a % 64) ≤ 8 * i + j)]
    · rw [decide_eq_false begun, decide_eq_false (by omega : ¬ 8 * (a % 64) ≤ 8 * i + j), Bool.false_and, Bool.false_and]
  have mask : (BitVec.ofNat 512 (unitMask 8 a bs.length)).getLsbD (8 * i + j) = decide (a % 64 ≤ i ∧ i < a % 64 + bs.length) := by
    rw [BitVec.getLsbD_ofNat, unitMask_bit, decide_eq_true (by omega : 8 * i + j < 512), Bool.true_and, ← Bool.decide_and]
    exact decide_eq_decide.2 (by omega)
  rw [leBytes_bit hi hj, ← BitVec.getLsbD, mergeUnit, unitField, BitVec.getLsbD_or, BitVec.getLsbD_and, BitVec.getLsbD_not, field, mask,
    decide_eq_true (by omega : 8 * i + j < 512), Bool.true_and]
  by_cases mine : a % 64 ≤ i ∧ i < a % 64 + bs.length
  · rw [if_pos mine, decide_eq_true mine, decide_eq_true mine.1]
    simp
  · rw [if_neg mine, decide_eq_false mine, leBytes_bit hi hj, BitVec.getLsbD]
    by_cases begun : a % 64 ≤ i
    · have past : bs.length ≤ i - a % 64 := by omega
      simp [List.getD_eq_getElem?_getD, past]
    · simp [begun]

theorem Head.readLocal_fresh {h : Head} {k : Core} {a n : Nat} (fits : a % 64 + n ≤ 64) (unseen : ∀ x, h.seen = some x → x.1 ≠ a / 64) :
    (h.readLocal k a n).1 = (h.view k).store.read a n := by
  have none : (h.seen.filter fun x => x.1 = a / 64) = none := by
    cases hs : h.seen with
    | none => rfl
    | some x => simp [unseen x hs]
  have whole := leBytes_leNat ((h.view k).store.read (a / 64 * 64) 64)
  rw [Mem.read_length] at whole
  have bound := leNat_lt ((h.view k).store.read (a / 64 * 64) 64)
  rw [Mem.read_length] at bound
  rw [show (256 : Nat) = 2 ^ 8 from rfl, ← Nat.pow_mul, show 8 * 64 = 512 from rfl] at bound
  unfold Head.readLocal
  simp only [none]
  rw [BitVec.toNat_ofNat, Core.val, Nat.mod_eq_of_lt bound, whole, Mem.read_eq, Mem.read_eq]
  refine List.ext_getElem (by simp; omega) fun i h1 h2 => ?_
  simp only [List.getElem_take, List.getElem_drop, List.getElem_map, List.getElem_range]
  congr 1
  omega

/-! ## The unit written (R211, R450) -/

/-- The bytes of a local unit written one by one. -/
theorem unitBytes_get (u : LocalUnit) (bs : List Byte) (hbs : bs.length = 64) : ∀ (l : List Nat) (k : Core), k.store.wf = true → (∀ i ∈ l, i < 64) →
    let t := l.foldl (fun k i => if u.mask.getLsbD i then k.lstore (64 * u.unit + i) ((bs.drop i).take 1) else k) k
    ∀ x, t.store.get x = if 64 * u.unit ≤ x ∧ x - 64 * u.unit ∈ l ∧ u.mask.getLsbD (x - 64 * u.unit) = true then bs.getD (x - 64 * u.unit) 0
      else k.store.get x
  | [], k, _, _, x => by simp
  | i :: l, k, wf, hl, x => by
    have byte : (bs.drop i).take 1 = [bs.getD i 0] := by
      have hi : i < bs.length := hbs ▸ hl i List.mem_cons_self
      rw [List.drop_eq_getElem_cons hi, List.take_succ_cons, List.take_zero, List.getD_eq_getElem _ _ hi]
    have first : ∀ y, (if u.mask.getLsbD i then k.lstore (64 * u.unit + i) ((bs.drop i).take 1) else k).store.get y
        = if y = 64 * u.unit + i ∧ u.mask.getLsbD i = true then bs.getD i 0 else k.store.get y := by
      intro y
      rw [byte]
      by_cases one : u.mask.getLsbD i = true
      · rw [if_pos one]
        show (k.store.set (64 * u.unit + i) (bs.getD i 0)).get y = _
        rw [get_set wf]
        simp only [one, and_true]
      · rw [if_neg one, if_neg fun h => one h.2]
    have wf' : (if u.mask.getLsbD i then k.lstore (64 * u.unit + i) ((bs.drop i).take 1) else k).store.wf = true := by
      split
      · exact wf_write wf
      · exact wf
    have rest := unitBytes_get u bs hbs l _ wf' (fun j hj => hl j (List.mem_cons_of_mem i hj)) x
    refine rest.trans ?_
    rw [first]
    by_cases own : x = 64 * u.unit + i
    · subst own
      simp only [Nat.add_sub_cancel_left, Nat.le_add_right, true_and, List.mem_cons_self]
      split_ifs <;> simp_all
    · have other : 64 * u.unit ≤ x → (x - 64 * u.unit ∈ i :: l ↔ x - 64 * u.unit ∈ l) := fun h => by
        rw [List.mem_cons, or_iff_right (by omega)]
      simp only [own, false_and, if_false]
      exact if_congr (and_congr_right fun h => and_congr_left fun _ => (other h).symm) rfl rfl

theorem Core.writeUnit_get {k : Core} (u : LocalUnit) (wf : k.store.wf = true) (x : Nat) : (k.writeUnit u).store.get x
    = if 64 * u.unit ≤ x ∧ x - 64 * u.unit < 64 ∧ u.mask.getLsbD (x - 64 * u.unit) = true then (leBytes 64 u.data.toNat).getD (x - 64 * u.unit) 0
      else k.store.get x := by
  have count := leBytes_length 64 u.data.toNat
  unfold Core.writeUnit
  dsimp only
  generalize leBytes 64 u.data.toNat = bs at count
  by_cases full : u.mask = BitVec.allOnes 64
  · rw [if_pos full, full]
    show (k.store.write (64 * u.unit) bs).get x = _
    by_cases inside : 64 * u.unit ≤ x ∧ x - 64 * u.unit < 64
    · have byte := @get_write_inside bs k.store (64 * u.unit) (x - 64 * u.unit) wf (count ▸ inside.2)
      rw [Nat.add_sub_cancel' inside.1] at byte
      rw [byte, if_pos ⟨inside.1, inside.2, by rw [BitVec.getLsbD_allOnes, decide_eq_true inside.2]⟩, List.getD_eq_getElem]
    · rw [get_write_outside wf (by rw [count]; omega), if_neg fun h => inside ⟨h.1, h.2.1⟩]
  · rw [if_neg full]
    have bytes := unitBytes_get u bs count (List.range 64) k wf (fun i hi => List.mem_range.1 hi) x
    simp only [List.mem_range] at bytes
    exact bytes

/-- The unit that a head's steps write takes the bytes of an element in place, and keeps its others. -/
theorem Head.putLocal_bytes (h : Head) (a : Nat) (bs : List Byte) :
    let o := (h.put.filter fun w => w.unit = a / 64).getD ⟨a / 64, 0, 0⟩
    ∃ w, (h.putLocal a bs).put = some w ∧ w.unit = a / 64 ∧ ∀ i, i < 64 →
      let mine := decide (a % 64 ≤ i) && decide (i < a % 64 + bs.length)
      w.mask.getLsbD i = (o.mask.getLsbD i || mine)
        ∧ (leBytes 64 w.data.toNat).getD i 0 = if mine then bs.getD (i - a % 64) 0 else (leBytes 64 o.data.toNat).getD i 0 := by
  intro o
  have same : o.unit = a / 64 := by
    cases hf : h.put.filter fun w => w.unit = a / 64 with
    | none => simp only [o, hf]; rfl
    | some w =>
      simp only [o, hf]
      simpa using (Option.filter_eq_some_iff.1 hf).2
  refine ⟨_, rfl, same, fun i hi => ⟨?_, ?_⟩⟩
  · show (o.mask ||| BitVec.ofNat 64 (unitMask 1 a bs.length)).getLsbD i = _
    rw [BitVec.getLsbD_or, BitVec.getLsbD_ofNat, unitMask_bit, decide_eq_true hi]
    simp only [Nat.one_mul, Bool.true_and]
  · show (leBytes 64 (mergeUnit o.data a bs).toNat).getD i 0 = _
    rw [mergeUnit_byte _ _ _ _ hi, ← Bool.decide_and]
    simp only [decide_eq_true_eq]

/-- Settles O49: the element read joins its local unit, whose bytes are those of `mergeUnit` and `writeUnit`. -/
theorem copiesInWriteLocalElements : Obligations.CopiesInWriteLocalElements := by
  refine ⟨?_, ?_, ?_, ?_, ?_, ?_, ?_, ?_, ?_, ?_, ?_⟩
  · intro s i q r list loc hi ⟨⟨_, walks, header, own⟩, hdr, closed⟩ k unit hc
    refine ⟨fun clamped => ?_, fun va u bs h inside hva read cur hclosed => ?_, fun t inside hva => ?_⟩
    · exact (copyInForm_exec hi s).trans (copyStep_ends walks header own hdr rfl closed (copyIn_clamped hc clamped))
    · exact (copyInForm_exec hi s).trans (copyStep_ends walks header own hdr cur hclosed (copyIn_reads hc inside hva read))
    · exact (copyInForm_exec hi s).trans (copyStep_fault walks header own (copyIn_faults hc inside hva))
  · intro s e q h va n w host
    refine ⟨fun x bs found answered => ?_, fun x found failed => ?_, fun unasked shut => ?_⟩
    all_goals
      unfold State.readElem State.readHost
      rw [if_pos host]
    · simp only [found, answered]
    · simp only [found, failed]
    · simp only [unasked, shut]
  · intro s e q h va n w device plain
    unfold State.readElem
    dsimp only
    rw [device, plain]
    rfl
  · intro s e q h va n w device enc line hit
    unfold State.readElem
    dsimp only
    rw [device, enc]
    rfl
  · exact fun h a bs _ => h.putLocal_bytes a bs
  · intro k w wf
    refine ⟨fun i hi => ?_, fun a ha => ?_, fun full n => ?_⟩
    · rw [Core.writeUnit_get w wf]
      simp only [Nat.le_add_right, Nat.add_sub_cancel_left, hi, true_and]
    · rw [Core.writeUnit_get w wf, if_neg (by omega)]
    · unfold Core.writeUnit
      rw [if_pos full, Core.lstore]
      dsimp only
      rw [List.mem_filter, leBytes_length]
      refine and_congr_right fun _ => ?_
      simp only [Bool.not_eq_true', Bool.and_eq_false_iff, decide_eq_false_iff_not]
      omega
  · intro s q r loc ⟨⟨_, walks, header, own⟩, hdr, closed⟩ hc
    rw [exec_fill, execFill]
    refine @copyStep_ends s .ci q _ r _ s _ true _ walks header own hdr rfl closed ?_
    simp only [hc]
    rfl
  · intro s q r dst src ⟨⟨_, walks, header, own⟩, hdr, closed⟩ k hc x
    rw [exec_cploc, execCploc]
    refine @copyStep_ends s .ci q _ r _ s (x.2.putLocal dst x.1) true _ walks header own hdr rfl closed ?_
    simp only [k] at hc
    simp only [hc]
    rfl
  · intro h k a n fits
    refine ⟨rfl, Head.readLocal_fresh fits, fun d seen => ?_⟩
    have found : (h.seen.filter fun x => x.1 = a / 64) = some (a / 64, d) := by rw [seen]; simp
    unfold Head.readLocal
    rw [found]
    exact ⟨rfl, seen.symm⟩
  · intro s q r ⟨⟨_, walks, header, own⟩, hdr, closed⟩ clamped
    refine @copyStep_ends s .ci q _ r _ s { s.headOf .ci with out := (s.headOf .ci).out + 1 } true _ walks header own hdr rfl closed ?_
    unfold pfinStep
    rw [clamped]
    rfl
  · intro s q r va pages u ⟨⟨_, walks, header, own⟩, hdr, closed⟩ inside hva device checked pa l free good unheld grant v kept
    refine @copyStep_ends s .ci q _ r _ (if kept then v else v.expel (pa / 128)) (s.headOf .ci) true _ walks header own hdr ?_ closed ?_
    · obtain ⟨b, g, moved⟩ := s.admitSeq_changes q.vnpu (s.asker (.eng ⟨s.cur.core, .ci⟩)) (s.mcCharges (some l) (pa / 128) true)
      have same : u = { s with regs := g } := congrArg Prod.snd (grant.symm.trans moved)
      have moved : u.cur = s.cur := by rw [same]
      have touched : v.cur = s.cur := (State.touch_cur (u.fillTlbs s.cur.core pages) _).trans moved
      split
      · exact touched
      · exact touched
    · unfold pfinStep
      simp only [pa, l] at good unheld grant
      simp only [inside, hva, device, free, checked, good, unheld, grant]
      rfl

end Sys2Proof.Machine

/-! The steps of the copy engines that send an element to a tensor (R211, R274-R278, R405, R415). -/

namespace Sys2Proof.Machine

theorem State.charge_cur (s : State) (l : LeafId) (w : Asker) (rs : List (Nat × Nat)) : (s.charge l w rs).cur = s.cur := by
  obtain ⟨r, h⟩ := s.charge_changes l w rs
  rw [h]

section
variable {s : State} {e : EngId} {q : QEntry} {r : EngRec} {h : Head} {list alloc : Bool} {loc va : Nat}

theorem copyOut_clamped (hc : (s.core e.core).opds q.slot [localSide r h true] = .ok [loc]) (out : inExtent r h = false) :
    copyOut list alloc r s e q h = s.stepEnd e q { h with out := h.out + 1 } alloc (tensorUnit list (s.core e.core) q.slot r) := by
  unfold copyOut
  simp only [hc, out]
  rfl

theorem copyOut_poisoned {t : Trap} (hc : (s.core e.core).opds q.slot [localSide r h true] = .ok [loc]) (inside : inExtent r h = true)
    (hva : tensorAddr list (s.core e.core) q.slot r h = .ok va) (bad : (s.core e.core).poisonIn [(loc, elemSize r.dtype)] = some t) :
    copyOut list alloc r s e q h = .fault t := by
  have first : [loc].headD 0 = loc := rfl
  unfold copyOut
  simp only [hc, inside, hva, first, bad]
  rfl

theorem copyOut_writes (hc : (s.core e.core).opds q.slot [localSide r h true] = .ok [loc]) (inside : inExtent r h = true)
    (hva : tensorAddr list (s.core e.core) q.slot r h = .ok va) (clean : (s.core e.core).poisonIn [(loc, elemSize r.dtype)] = none) :
    copyOut list alloc r s e q h = s.writeElem e q (h.readLocal (s.core e.core) loc (elemSize r.dtype)).2 va
      (h.readLocal (s.core e.core) loc (elemSize r.dtype)).1 alloc (tensorUnit list (s.core e.core) q.slot r) := by
  have first : [loc].headD 0 = loc := rfl
  unfold copyOut
  simp only [hc, inside, hva, first, clean]
  rfl

/-- The first element of a unit of a plain tensor begins the unit's message. -/
theorem State.writeElem_begins {bs : List Byte} {u : State} {w : Head → Option Nat} (device : entHost h.copy.toNat = false)
    (plain : entEnc h.copy.toNat = false) (fresh : h.unit = none)
    (sent : s.storeMsg (.eng e) (engAcc e q true false) q.hdr.cls.toNat va bs 0 true alloc none = .ok u ()) :
    s.writeElem e q h va bs alloc w = u.stepEnd e q h alloc w := by
  unfold State.writeElem State.writePlain
  simp only [device, plain, fresh, sent]
  rfl

/-- A later element of the unit joins its message. -/
theorem State.writeElem_joins {bs : List Byte} {id : Nat} {pages : List (Nat × TlbEntry)} {w : Head → Option Nat}
    (device : entHost h.copy.toNat = false) (plain : entEnc h.copy.toNat = false) (within : h.unit = some id)
    (checked : s.checkPages (engAcc e q true false) va bs.length = .ok pages) : s.writeElem e q h va bs alloc w
      = ((s.charge (s.leafOf q.vnpu) (s.asker (.eng e)) [(e.core.val, bs.length)]).appendPart id
          ((physPieces pages va bs.length).headD (0, 0, 0)).2.1 bs).stepEnd e q h alloc w := by
  unfold State.writeElem State.writePlain
  simp only [device, plain, within, checked]
  rfl

/-- The first element of a unit of a host tensor goes to the host port. -/
theorem State.writeElem_host {bs : List Byte} {u v : State} {w : Head → Option Nat} (host : entHost h.copy.toNat = true) (fresh : h.unit = none)
    (grant : s.admitAll q.vnpu (s.asker (.eng e)) [(e.core.val, bs.length)] = (true, u)) (ready : s.hostPage q.vnpu va = .ready)
    (sent : u.sendCounted (.eng e) q.hdr.cls.toNat hostPort q.vnpu (fun _ => .hostWrite q.vnpu [(s.hostAddr q.vnpu va, bs)]) = some v) :
    s.writeElem e q h va bs alloc w = v.stepEnd e q h alloc w := by
  unfold State.writeElem State.writeHost
  simp only [host, fresh, ready, grant, sent]
  rfl

/-- Out of RUN the message carries no byte. -/
theorem State.writeElem_shut {bs : List Byte} {u v : State} {w : Head → Option Nat} (host : entHost h.copy.toNat = true) (fresh : h.unit = none)
    (grant : s.admitAll q.vnpu (s.asker (.eng e)) [(e.core.val, bs.length)] = (true, u)) (shut : s.hostPage q.vnpu va = .closed)
    (sent : u.sendCounted (.eng e) q.hdr.cls.toNat hostPort q.vnpu (fun _ => .hostWrite q.vnpu []) = some v) :
    s.writeElem e q h va bs alloc w = v.stepEnd e q (h.note 0x13) alloc fun _ => none := by
  unfold State.writeElem State.writeHost
  simp only [host, fresh, shut, grant, sent]
  rfl

/-- An element of an encrypted tensor above the last line sent opens its line. -/
theorem State.writeElem_opens {bs : List Byte} {pages : List (Nat × TlbEntry)} {w : Head → Option Nat} (device : entHost h.copy.toNat = false)
    (enc : entEnc h.copy.toNat = true) (free : s.walkHeld (engAcc e q true true) va bs.length = false)
    (checked : s.checkPages (engAcc e q true true) va bs.length = .ok pages) (closed : h.openLine = none)
    (above : ∀ l, h.lastLine = some l → l < lineVa va) : s.writeElem e q h va bs alloc w
      = s.stepEnd e q { h with openLine := some ⟨lineVa va, mergeLine 0 (va % 128) bs⟩ } alloc fun _ => none := by
  unfold State.writeElem State.writeEnc
  simp only [device, enc, free, checked, closed]
  cases hl : h.lastLine with
  | none => rfl
  | some l => simp [Nat.not_le.2 (above l hl)]

/-- One to a line not above it faults. -/
theorem State.writeElem_late {bs : List Byte} {pages : List (Nat × TlbEntry)} {w : Head → Option Nat} {l : Nat}
    (device : entHost h.copy.toNat = false) (enc : entEnc h.copy.toNat = true) (free : s.walkHeld (engAcc e q true true) va bs.length = false)
    (checked : s.checkPages (engAcc e q true true) va bs.length = .ok pages) (closed : h.openLine = none) (last : h.lastLine = some l)
    (late : lineVa va ≤ l) : s.writeElem e q h va bs alloc w = .fault { cause := 0x17 } := by
  unfold State.writeElem State.writeEnc
  simp only [device, enc, free, checked, closed, last, late]
  rfl

end

/-- Settles O50: an element of the local side begins its unit's message, joins it, or opens its line. -/
theorem copiesOutSendTheirElement : Obligations.CopiesOutSendTheirElement := by
  intro s i q r list alloc loc hi ⟨⟨_, walks, header, own⟩, hdr, closed⟩ h n unit x bs h1 hc
  have step := copyOutForm_exec hi s
  have writes {va : Nat} (inside : inExtent r h = true) (hva : tensorAddr list (s.core s.cur.core) q.slot r h = .ok va)
      (clean : (s.core s.cur.core).poisonIn [(loc, n)] = none) :
      copyOut list alloc r s ⟨s.cur.core, .co⟩ q (s.headOf .co) = s.writeElem ⟨s.cur.core, .co⟩ q h1 va bs alloc unit :=
    copyOut_writes hc inside hva clean
  have noted : (h1.note 0x13).openLine = none := by
    unfold Head.note
    split <;> exact closed
  refine ⟨fun clamped => ?_, fun va u inside hva clean device plain fresh sent cur => ?_,
    fun va id pages inside hva clean device plain within checked => ?_, fun va t inside hva bad => ?_,
    fun va u v inside hva clean host fresh grant cur => ⟨fun ready sent => ?_, fun shut sent => ?_⟩,
    fun va pages inside hva clean device enc free checked => ⟨fun above walking => ?_, fun l last late => ?_⟩⟩
  · exact step.trans (copyStep_ends walks header own hdr rfl closed (copyOut_clamped hc clamped))
  · exact step.trans (copyStep_ends walks header own hdr cur closed ((writes inside hva clean).trans
      (State.writeElem_begins device plain fresh sent)))
  · exact step.trans (copyStep_ends walks header own hdr (State.charge_cur _ _ _ _) closed ((writes inside hva clean).trans
      (State.writeElem_joins device plain within checked)))
  · exact step.trans (copyStep_fault walks header own (copyOut_poisoned hc inside hva bad))
  · exact step.trans (copyStep_ends walks header own hdr cur closed ((writes inside hva clean).trans
      (State.writeElem_host host fresh grant ready sent)))
  · exact step.trans (copyStep_ends walks header own hdr cur noted ((writes inside hva clean).trans
      (State.writeElem_shut host fresh grant shut sent)))
  · exact step.trans (copyStep_moves walks header own hdr rfl (.inr walking) ((writes inside hva clean).trans
      (State.writeElem_opens device enc free checked closed above)))
  · exact step.trans (copyStep_fault walks header own ((writes inside hva clean).trans
      (State.writeElem_late device enc free checked closed last late)))

end Sys2Proof.Machine

/-! Transfer phases and slice routines: the beats of a program, the words of a routine and its end (R283-R287, R375-R377). -/

namespace Sys2Proof.Machine

/-! ## Transfer records (R375-R377) -/

theorem inPhaseStep_acts {s : State} {x : XPhase} {c : Nat} (h : s.inPhaseCycle x c) (f : State → CtxId → XPhase → Nat → State) :
    inPhaseStep f s = .next (f s ⟨s.cur.core, .o⟩ x c) := by
  obtain ⟨found, ⟨st, start, begun, rfl⟩, alive⟩ := h
  unfold inPhaseStep
  simp only [found, start, alive, Bool.or_false, decide_eq_true_eq, Nat.not_lt.2 begun, if_false]

theorem stepAt_within {r : EngRec} {c : Nat} (h1 : startOf r ≤ c) (h2 : c - startOf r < stepsOf r) : stepAt r c = some (c - startOf r) := by
  simp [stepAt, h1, h2]

theorem stepAt_outside {r : EngRec} {c : Nat} (h : c < startOf r ∨ stepsOf r ≤ c - startOf r) : stepAt r c = none := by
  refine if_neg fun inside => ?_
  simp only [Bool.and_eq_true, decide_eq_true_eq] at inside
  omega

theorem bits_low5 (n : Nat) : bits n 4 0 = n % 32 := by simp [bits]
theorem bits_mid5 (n : Nat) : bits n 10 6 = n / 64 % 32 := rfl

/-- Settles O51: the record acts in its phase cycle by its step, if it has one there. -/
theorem transferRecordsMoveBeats : Obligations.TransferRecordsMoveBeats := by
  refine ⟨?_, ?_, ?_⟩
  · intro s r x c now begun within n k a beat
    have step := stepAt_within begun within
    refine ⟨fun clean => ?_, fun u bad none => ⟨_, ?_, rfl⟩, ?_, ?_⟩
    · simp only [k, a, n] at clean
      rw [exec_tx, execTx, inPhaseStep_acts now]
      simp only [step, clean, bits_low5]
      rfl
    · simp only [k, a, n] at bad
      obtain ⟨w, hw, rfl⟩ : ∃ w : Nat, (s.core s.cur.core).poisoned (addrAt r r.s1 (c - startOf r)).toNat 32 = some w ∧ (w : Int) = u := by
        cases hp : (s.core s.cur.core).poisoned (addrAt r r.s1 (c - startOf r)).toNat 32 with
        | none => rw [hp] at bad; exact nomatch bad
        | some w => rw [hp] at bad; exact ⟨w, rfl, Option.some.inj bad⟩
      rw [exec_tx, execTx, inPhaseStep_acts now]
      have unfaulted : (x.faults.any fun y => y.ctx = ⟨s.cur.core, .o⟩ && decide (y.record ≤ s.cur.xrec)) = false := by
        simpa using fun y hy same => absurd same (none y hy)
      have kept : (x.faults.filter fun y => !(y.ctx = ⟨s.cur.core, .o⟩ && y.step.isSome)) = x.faults := by
        refine List.filter_eq_self.2 fun y hy => ?_
        simp [none y hy]
      simp only [step, hw, bits_low5, unfaulted, kept]
      rfl
    · rw [exec_muxsel, execMuxsel, inPhaseStep_acts now]
      simp only [step, bits_low5]
      rfl
    · rw [exec_xhold, execXhold, inPhaseStep_acts now]
      simp only [step, bits_low5, bits_mid5]
  · intro s r x c now outside
    have step := stepAt_outside outside
    refine ⟨?_, ?_, ?_⟩
    · rw [exec_tx, execTx, inPhaseStep_acts now]
      simp only [step]
    · rw [exec_muxsel, execMuxsel, inPhaseStep_acts now]
      simp only [step]
    · rw [exec_xhold, execXhold, inPhaseStep_acts now]
      simp only [step]
  · intro s r x found sound
    rw [exec_xend, execXend]
    simp only [found, XPhase.endOf, sound]
    rfl

/-! ## Slice words (R57, R286, R287) -/

theorem sle_ite (x y u v : Word) : (if x.sle y then u else v) = if x.toInt ≤ y.toInt then u else v := by simp [BitVec.sle]
theorem ule_ite (x y u v : Word) : (if x.ule y then u else v) = if x.toNat ≤ y.toNat then u else v := by simp [BitVec.ule]

theorem shl_eq (x : Word) (n : Nat) : x <<< n = BitVec.ofNat 64 (x.toNat * 2 ^ n) :=
  BitVec.eq_of_toNat_eq (by rw [BitVec.toNat_shiftLeft, Nat.shiftLeft_eq, BitVec.toNat_ofNat])

theorem shr_eq (x : Word) (n : Nat) : x >>> n = BitVec.ofNat 64 (x.toNat / 2 ^ n) := by
  refine BitVec.eq_of_toNat_eq ?_
  have small := (Nat.div_le_self x.toNat (2 ^ n)).trans_lt x.isLt
  rw [BitVec.toNat_ushiftRight, Nat.shiftRight_eq_div_pow, BitVec.toNat_ofNat, Nat.mod_eq_of_lt small]

theorem field_eq (x : Word) (pos w : Nat) (hw : w ≤ 64) : (x >>> pos) &&& fieldMask 0 w = BitVec.ofNat 64 (x.toNat / 2 ^ pos % 2 ^ w) := by
  refine BitVec.eq_of_toNat_eq ?_
  have mask : 2 ^ w - 1 < 2 ^ 64 := by have := Nat.pow_le_pow_right (by decide : 0 < 2) hw; omega
  have small : x.toNat / 2 ^ pos % 2 ^ w < 2 ^ 64 :=
    ((Nat.mod_le _ _).trans (Nat.div_le_self _ _)).trans_lt x.isLt
  rw [fieldMask, BitVec.toNat_and, BitVec.toNat_ofNat, BitVec.toNat_ofNat, BitVec.toNat_ushiftRight, Nat.shiftRight_eq_div_pow, Nat.pow_zero,
    Nat.mul_one, Nat.mod_eq_of_lt mask, Nat.and_two_pow_sub_one_eq_mod, Nat.mod_eq_of_lt small]

theorem sl2_word {s : State} {e e' : Exec} {d a b : SlReg} {g : Word → Word → Word} {x : Result} {v : Word} (hx : x = sl2 d a b g s)
    (hv : g (e.rd a) (e.rd b) = v) (he : some (e.wr d v) = some e') : ∃ f, x = slWord f s ∧ f e = e' :=
  ⟨_, hx, (congrArg (e.wr d) hv).trans (Option.some.inj he)⟩

/-- A word of a routine has the effect of its row on its executor. -/
theorem sliceResult_exec {s : State} {e e' : Exec} {i : Instr} (h : sliceResult e i = some e') : ∃ f, exec i s = slWord f s ∧ f e = e' := by
  cases i
  case ladd d a b => exact sl2_word (exec_ladd d a b s) rfl h
  case lsub d a b => exact sl2_word (exec_lsub d a b s) rfl h
  case land d a b => exact sl2_word (exec_land d a b s) rfl h
  case lor d a b => exact sl2_word (exec_lor d a b s) rfl h
  case lxor d a b => exact sl2_word (exec_lxor d a b s) rfl h
  case laddf d a b => exact sl2_word (exec_laddf d a b s) rfl h
  case lmin d a b => exact sl2_word (exec_lmin d a b s) (sle_ite (e.rd a) (e.rd b) (e.rd a) (e.rd b)) h
  case lmax d a b => exact sl2_word (exec_lmax d a b s) (sle_ite (e.rd a) (e.rd b) (e.rd b) (e.rd a)) h
  case lminu d a b => exact sl2_word (exec_lminu d a b s) (ule_ite (e.rd a) (e.rd b) (e.rd a) (e.rd b)) h
  case lmaxu d a b => exact sl2_word (exec_lmaxu d a b s) (ule_ite (e.rd a) (e.rd b) (e.rd b) (e.rd a)) h
  case lshl d a b => exact sl2_word (exec_lshl d a b s) (shl_eq (e.rd a) ((e.rd b).toNat % 64)) h
  case lshr d a b => exact sl2_word (exec_lshr d a b s) (shr_eq (e.rd a) ((e.rd b).toNat % 64)) h
  case lext d a pos wm1 =>
    have fits : wm1.toNat + 1 ≤ 64 := wm1.isLt
    exact ⟨_, exec_lext d a pos wm1 s, (congrArg (e.wr d) (field_eq (e.rd a) pos.toNat _ fits)).trans (Option.some.inj h)⟩
  case lcmp a b cc => exact ⟨_, exec_lcmp a b cc s, Option.some.inj h⟩
  case lsel d a b => exact ⟨_, exec_lsel d a b s, Option.some.inj h⟩
  case lmov d a => exact ⟨_, exec_lmov d a s, Option.some.inj h⟩
  case lmovi d imm => exact ⟨_, exec_lmovi d imm s, Option.some.inj h⟩
  case lins d a pos wm1 => exact ⟨_, exec_lins d a pos wm1 s, Option.some.inj h⟩
  case lnop => exact ⟨_, exec_lnop s, Option.some.inj h⟩
  all_goals exact nomatch h

theorem slWord_goes {s : State} {f : Exec → Exec} {e' : Exec} (hf : f ((s.slice s.cur.slice).exec s.cur.exec) = e') :
    let left := ((s.slice s.cur.slice).exec s.cur.exec).words.drop 1
    (left ≠ [] → slWord f s = .next (s.modSlice s.cur.slice fun x => x.setExec s.cur.exec { e' with words := left }))
      ∧ (left = [] → slWord f s = .next (s.endRoutine { e' with words := [] } true)) := by
  intro left
  unfold slWord
  dsimp only
  rw [hf]
  refine ⟨fun more => ?_, fun done => ?_⟩
  · exact congrArg _ (if_neg fun none => more (List.isEmpty_iff.1 none))
  · refine (congrArg _ (if_pos (List.isEmpty_iff.2 done))).trans ?_
    show Host.Outcome.next (s.endRoutine { e' with words := left } true) = _
    rw [done]

/-! ## The end of a routine (R285, R402) -/

/-- A written lane stored to its place in the held line. -/
def State.storeLane (base : Nat) (e : Exec) (s : State) (k : Fin 16) : State :=
  if e.written.getLsbD k.val then s.dstore (base + 8 * k.val) (leBytes 8 (e.lanes.get k).toNat) else s

/-- The byte of the lanes of an executor at an address of the held line. -/
def Exec.byteAt (e : Exec) (a : Nat) : Byte := (leBytes 8 (e.lanes.toList.getD (a % 128 / 8) 0).toNat).getD (a % 8) 0

theorem State.storeLane_dbyte {s : State} {base : Nat} (hb : base % 128 = 0) (e : Exec) (k : Fin 16) (h : s.memoriesOk = true) :
    (State.storeLane base e s k).memoriesOk = true ∧ ∀ a, (State.storeLane base e s k).dbyte a
      = if a / 8 = base / 8 + k.val ∧ e.written.getLsbD k.val = true then e.byteAt a else s.dbyte a := by
  unfold State.storeLane
  by_cases w : e.written.getLsbD k.val = true
  · have hk := k.isLt
    obtain ⟨ok, bytes⟩ := storedBytesAreReadBack s (base + 8 * k.val) (leBytes 8 (e.lanes.get k).toNat) h
      (by rw [leBytes_length]; omega)
    rw [if_pos w]
    refine ⟨ok, fun a => (bytes a).trans ?_⟩
    by_cases own : a / 8 = base / 8 + k.val
    · have place : a - (base + 8 * k.val) = a % 8 := by omega
      have lane : a % 128 / 8 = k.val := by omega
      rw [dif_pos (by rw [leBytes_length]; omega), if_pos ⟨own, w⟩, Exec.byteAt, lane]
      rw [List.getD_eq_getElem _ _ (by rw [leBytes_length]; omega)]
      simp only [place]
      have value : e.lanes.toList.getD k.val 0 = e.lanes.get k := by
        simp [List.getD_eq_getElem?_getD, Vector.get, hk]
      simp only [value]
    · rw [dif_neg (by rw [leBytes_length]; omega), if_neg fun h => own h.1]
  · rw [if_neg w]
    exact ⟨h, fun a => by rw [if_neg fun h => w h.2]⟩

theorem State.storeLanes_dbyte {base : Nat} (hb : base % 128 = 0) (e : Exec) : ∀ (l : List (Fin 16)) (s : State), s.memoriesOk = true →
    ∀ a, (l.foldl (State.storeLane base e) s).dbyte a
      = if ∃ k ∈ l, a / 8 = base / 8 + k.val ∧ e.written.getLsbD k.val = true then e.byteAt a else s.dbyte a
  | [], s, h => fun a => by simp
  | k :: l, s, h => fun a => by
    obtain ⟨ok, first⟩ := State.storeLane_dbyte hb e k h
    rw [List.foldl_cons, State.storeLanes_dbyte hb e l _ ok, first]
    by_cases rest : ∃ j ∈ l, a / 8 = base / 8 + j.val ∧ e.written.getLsbD j.val = true
    · rw [if_pos rest, if_pos ((List.exists_mem_cons_iff _ _ _).2 (.inr rest))]
    · rw [if_neg rest]
      exact if_congr (by rw [List.exists_mem_cons_iff, or_iff_left rest]) rfl rfl

theorem State.commitLanes_dbyte {s : State} (v : Invocation) (e : Exec) (h : s.memoriesOk = true) (a : Nat) :
    (s.commitLanes v e).dbyte a = if s.mayAccess v.vnpu (s.pageWorld (v.pa / 4096)) = true ∧ a / 128 = v.pa / 128
        ∧ e.written.getLsbD (a % 128 / 8) = true then e.byteAt a else s.dbyte a := by
  unfold State.commitLanes
  dsimp only
  split
  · next off =>
    refine (if_neg fun on => ?_).symm
    obtain ⟨may, _, bit⟩ := on
    simp only [may, Bool.not_true, Bool.or_false, decide_eq_true_eq] at off
    rw [off] at bit
    exact absurd bit (by simp)
  · next on =>
    simp only [Bool.or_eq_true, decide_eq_true_eq, Bool.not_eq_true', not_or, Bool.not_eq_false] at on
    rw [(State.SameMemory.sliceAccess _ _ _ true true).bytes]
    refine (State.storeLanes_dbyte (by omega) e (List.finRange 16) s h a).trans (if_congr ?_ rfl rfl)
    constructor
    · rintro ⟨k, _, own, bit⟩
      have hk := k.isLt
      have lane : a % 128 / 8 = k.val := by omega
      exact ⟨on.2, by omega, lane ▸ bit⟩
    · rintro ⟨_, line, bit⟩
      exact ⟨⟨a % 128 / 8, by omega⟩, List.mem_finRange _, by dsimp only; omega, bit⟩

/-! ## Slices -/

theorem State.modSlice_execs (s : State) (n : SliceId) (f : Slice → Slice) (hf : ∀ x, (f x).execs = x.execs) (m : SliceId) :
    ((s.modSlice n f).slice m).execs = (s.slice m).execs := by
  by_cases hm : m = n
  · subst hm; rw [State.slice_modSlice, hf]
  · exact congrArg Slice.execs (getSetOther _ _ _ _ fun h => hm h)

theorem Slice.sample_execs (x : Slice) (l : LeafId) (line : Nat) : (x.sample l line).execs = x.execs := by
  unfold Slice.sample
  dsimp only
  split <;> rfl

theorem State.sliceAccess_execs (s : State) (l : Option LeafId) (line : Nat) (w al : Bool) (m : SliceId) :
    ((s.sliceAccess l line w al).slice m).execs = (s.slice m).execs := by
  refine State.modSlice_execs s _ _ (fun x => ?_) m
  have sampled : (match l with | some l => x.sample l line | none => x).execs = x.execs := by
    cases l with
    | none => rfl
    | some l => exact x.sample_execs l line
  refine Eq.trans ?_ sampled
  dsimp only
  split
  · rfl
  · split
    · rfl
    · split <;> rfl

theorem State.dstore_slices (s : State) (pa : Nat) (bs : List Byte) : (s.dstore pa bs).slices = s.slices := by
  show (s.touch (pa / 4096)).slices = s.slices
  unfold State.touch
  split <;> rfl

theorem State.commitLanes_execs (s : State) (v : Invocation) (e : Exec) (m : SliceId) :
    ((s.commitLanes v e).slice m).execs = (s.slice m).execs := by
  have stored : ∀ (l : List (Fin 16)) (s : State), (l.foldl (State.storeLane (v.pa / 128 * 128) e) s).slices = s.slices := by
    intro l
    induction l with
    | nil => exact fun s => rfl
    | cons k l ih =>
      refine fun s => (ih _).trans ?_
      unfold State.storeLane
      split
      · exact State.dstore_slices _ _ _
      · rfl
  unfold State.commitLanes
  dsimp only
  split
  · rfl
  · rw [State.sliceAccess_execs]
    exact congrArg (fun x => (x.get m).execs) (stored (List.finRange 16) s)

/-- Settles O52: a word acts on its executor; the end of a routine stores the written lanes and nothing else. -/
theorem sliceWordsRunAtTheLine : Obligations.SliceWordsRunAtTheLine := by
  refine ⟨fun s i e' h => ?_, fun s => ⟨rfl, rfl⟩, fun s e v commit hv hm => ?_⟩
  · obtain ⟨f, step, does⟩ := sliceResult_exec h
    rw [step]
    exact slWord_goes does
  · intro t
    let free := s.modSlice s.cur.slice fun x => x.setExec s.cur.exec {}
    have ends : t = ((if commit then free.commitLanes v e else free).l1Evict v.src.core (v.pa / 128)).answerInv s.cur.slice v (.done e.q) := by
      show s.endRoutine e commit = _
      unfold State.endRoutine
      rw [hv]
    refine ⟨fun a => ?_, ?_, ?_⟩
    · have stored : t.dbyte a = (if commit then free.commitLanes v e else free).dbyte a := by
        rw [ends]
        exact (State.SameMemory.l1Evict (if commit then free.commitLanes v e else free) v.src.core (v.pa / 128)).bytes a
      rw [stored]
      cases commit with
      | true =>
        have committed := @State.commitLanes_dbyte free v e hm a
        by_cases own : s.mayAccess v.vnpu (s.pageWorld (v.pa / 4096)) = true ∧ a / 128 = v.pa / 128 ∧ e.written.getLsbD (a % 128 / 8) = true
        · exact (committed.trans (if_pos own)).trans (if_pos ⟨rfl, own⟩).symm
        · exact (committed.trans (if_neg own)).trans (if_neg fun h => own h.2).symm
      | false => exact (if_neg fun h => Bool.false_ne_true h.1).symm
    · have execs : (t.slice s.cur.slice).execs = (free.slice s.cur.slice).execs := by
        rw [ends]
        refine Eq.trans ?_ (show ((if commit then free.commitLanes v e else free).slice s.cur.slice).execs = _ from ?_)
        · rfl
        · split
          · exact State.commitLanes_execs _ _ _ _
          · rfl
      rw [Slice.exec, execs]
      show ((free.slice s.cur.slice).exec s.cur.exec).inv = none
      rw [State.slice_modSlice, Slice.exec_setExec]
    · rw [ends]
      exact ⟨_, List.mem_append_right _ List.mem_cons_self, rfl, rfl⟩

end Sys2Proof.Machine

/-! What most parts of the module leave alone: the memories and their pages, the transfer phases, the acting object and the time. -/

namespace Sys2Proof.Machine

/-- The memories, their pages and worlds, the transfer phases, the acting object and the time. -/
structure Ground where
  dram : Mem
  host : Mem
  zeroed : List Nat
  owner : List (Nat × BitVec 8)
  xphases : List XPhase
  cur : Cur
  gtc : Word
  cycle : Nat

/-- The ground of a state. A proof `(rfl)` below keeps its equation from `dsimp`, so that `simp` can discharge a hypothesis with it. -/
def State.ground (s : State) : Ground := ⟨s.dram, s.host, s.zeroed, s.owner, s.xphases, s.cur, s.gtc, s.cycle⟩

theorem foldl_ground {α : Type} {f : State → α → State} (h : ∀ s x, (f s x).ground = s.ground) (l : List α) (s : State) :
    (l.foldl f s).ground = s.ground := by
  induction l generalizing s with
  | nil => rfl
  | cons x l ih => exact (ih _).trans (h s x)

@[simp] theorem State.setCore_ground (s : State) (c : CoreId) (k : Core) : (s.setCore c k).ground = s.ground := (rfl)

@[simp] theorem State.modCore_ground (s : State) (c : CoreId) (f : Core → Core) : (s.modCore c f).ground = s.ground := (rfl)

@[simp] theorem State.setCtx_ground (s : State) (i : CtxId) (c : Ctx) : (s.setCtx i c).ground = s.ground := (rfl)

@[simp] theorem State.modCtx_ground (s : State) (i : CtxId) (f : Ctx → Ctx) : (s.modCtx i f).ground = s.ground := (rfl)

@[simp] theorem State.setEngine_ground (s : State) (i : EngId) (x : Engine) : (s.setEngine i x).ground = s.ground := (rfl)

@[simp] theorem State.modEngine_ground (s : State) (i : EngId) (f : Engine → Engine) : (s.modEngine i f).ground = s.ground := (rfl)

@[simp] theorem State.modVnpu_ground (s : State) (v : VnpuId) (f : Vnpu → Vnpu) : (s.modVnpu v f).ground = s.ground := (rfl)

@[simp] theorem State.modLeaf_ground (s : State) (l : LeafId) (f : LeafState → LeafState) : (s.modLeaf l f).ground = s.ground := (rfl)

@[simp] theorem State.modQueue_ground (s : State) (v : VnpuId) (q : Fin 8) (f : LaunchQueue → LaunchQueue) :
    (s.modQueue v q f).ground = s.ground :=
  (rfl)

@[simp] theorem State.modSlice_ground (s : State) (m : SliceId) (f : Slice → Slice) : (s.modSlice m f).ground = s.ground := (rfl)

@[simp] theorem State.modCluster_ground (s : State) (k : ClusterId) (f : Cluster → Cluster) : (s.modCluster k f).ground = s.ground := (rfl)

@[simp] theorem State.noteProd_ground (s : State) (pa n : Nat) : (s.noteProd pa n).ground = s.ground := (rfl)

@[simp] theorem State.dropTlb_ground (s : State) (p : TlbEntry → Bool) : (s.dropTlb p).ground = s.ground := (rfl)

@[simp] theorem State.fillTlbs_ground (s : State) (c : CoreId) (pages : List (Nat × TlbEntry)) : (s.fillTlbs c pages).ground = s.ground := (rfl)

@[simp] theorem State.setReg_ground (s : State) (r : Regulator) : (s.setReg r).ground = s.ground := (rfl)

@[simp] theorem State.unhold_ground (s : State) (l : LeafId) (w : Asker) (keep : Nat → Bool) : (s.unhold l w keep).ground = s.ground := (rfl)

@[simp] theorem State.charge_ground (s : State) (l : LeafId) (w : Asker) (rs : List (Nat × Nat)) : (s.charge l w rs).ground = s.ground := by
  obtain ⟨r, e⟩ := s.charge_changes l w rs
  rw [e]; rfl

@[simp] theorem State.hold_ground (s : State) (l : LeafId) (w : Asker) (tc pt n : Nat) : (s.hold l w tc pt n).ground = s.ground := (rfl)

@[simp] theorem State.admitFrom_ground (v : VnpuId) (w : Asker) : ∀ (n : Nat) (rs : List (List (Nat × Nat))) (s : State),
    (State.admitFrom v w n rs s).2.ground = s.ground
  | _, [], _ => rfl
  | n, rs :: rest, s => by
    unfold State.admitFrom
    dsimp only
    split
    · rfl
    · rw [State.admitFrom_ground v w (n + 1) rest, State.charge_ground]

@[simp] theorem State.admitSeq_ground (s : State) (v : VnpuId) (w : Asker) (rs : List (List (Nat × Nat))) :
    (s.admitSeq v w rs).2.ground = s.ground :=
  State.admitFrom_ground ..

@[simp] theorem State.admitAll_ground (s : State) (v : VnpuId) (w : Asker) (rs : List (Nat × Nat)) :
    (s.admitAll v w rs).2.ground = s.ground :=
  State.admitFrom_ground ..

@[simp] theorem State.giveUp_ground (s : State) (p : Asker → Bool) : (s.giveUp p).ground = s.ground := (rfl)

@[simp] theorem State.admitPart_ground (s : State) (rest : Bool) (v : VnpuId) (w : Asker) (rs : List (List (Nat × Nat))) :
    (s.admitPart rest v w rs).2.ground = s.ground := by
  unfold State.admitPart; split <;> simp

@[simp] theorem State.sliceAccess_ground (s : State) (l : Option LeafId) (line : Nat) (write alloc : Bool) :
    (s.sliceAccess l line write alloc).ground = s.ground :=
  (rfl)

@[simp] theorem State.l1Fill_ground (s : State) (c : CoreId) (line : Nat) : (s.l1Fill c line).ground = s.ground := (rfl)

@[simp] theorem State.l1Evict_ground (s : State) (c : CoreId) (line : Nat) : (s.l1Evict c line).ground = s.ground := (rfl)

@[simp] theorem State.l1Drop_ground (s : State) (c : CoreId) : (s.l1Drop c).ground = s.ground := foldl_ground (fun s x => by simp) _ s

@[simp] theorem State.l1Update_ground (s : State) (c : CoreId) (pa : Nat) (bs : List Byte) : (s.l1Update c pa bs).ground = s.ground := (rfl)

@[simp] theorem State.setPhases_ground (s : State) (r : Src) (p : Phases) : (s.setPhases r p).ground = s.ground := by
  unfold State.setPhases; split <;> rfl

@[simp] theorem State.post_ground (s : State) (m : Msg) : (s.post m).ground = s.ground := (rfl)

theorem State.closePhase_ground (s : State) (r : Src) (v : VnpuId) {u : State} (h : s.closePhase r v = some u) : u.ground = s.ground := by
  obtain ⟨p, net, n, rfl⟩ := State.closePhase_changes h
  exact s.setPhases_ground r p

theorem State.countSent_ground (s : State) (r : Src) (target : Nat) (v : VnpuId) {u : State} (h : s.countSent r target v = some u) :
    u.ground = s.ground := by
  unfold State.countSent at h
  obtain ⟨w, hw, rfl⟩ := Option.map_eq_some_iff.1 h
  rw [State.setPhases_ground]
  split at hw
  · exact State.closePhase_ground _ _ _ hw
  · cases hw; rfl

theorem State.sendCounted_ground (s : State) (r : Src) (cls target : Nat) (v : VnpuId) (body : Nat → Payload) {u : State} (h : s.sendCounted r cls target v body = some u) :
    u.ground = s.ground := by
  obtain ⟨w, hw, rfl⟩ := Option.map_eq_some_iff.1 h
  exact (State.post_ground _ _).trans (State.countSent_ground _ _ _ _ hw)

@[simp] theorem State.countArrival_ground (s : State) (target : Nat) (r : Src) (phase : Nat) :
    (s.countArrival target r phase).ground = s.ground :=
  (rfl)

theorem State.countNow_ground (s : State) (r : Src) (target : Nat) (v : VnpuId) {u : State} (h : s.countNow r target v = some u) :
    u.ground = s.ground := by
  obtain ⟨w, hw, rfl⟩ := Option.map_eq_some_iff.1 h
  exact (State.countArrival_ground _ _ _ _).trans (State.countSent_ground _ _ _ _ hw)

@[simp] theorem State.clearArrival_ground (s : State) (target : Nat) (r : Src) (phase : Nat) :
    (s.clearArrival target r phase).ground = s.ground :=
  (rfl)

@[simp] theorem State.appendPart_ground (s : State) (id pa : Nat) (bs : List Byte) : (s.appendPart id pa bs).ground = s.ground := (rfl)

@[simp] theorem State.enterErr_ground (s : State) (r : ErrRec) (rest : List (Nat × ErrRec)) : (s.enterErr r rest).ground = s.ground := (rfl)

@[simp] theorem State.logError_ground (s : State) (r : ErrRec) : (s.logError r).ground = s.ground := by
  have noted (u : State) (l : List (Nat × ErrRec)) : (u.enterErr r l).ground = u.ground := rfl
  unfold State.logError
  dsimp only
  split_ifs
  · rfl
  · rfl
  · split <;> rfl
  · split <;> rfl

@[simp] theorem State.errAt_ground (s : State) (src cls : Nat) (faultN : Bool) (leaf vnpu world cause addr detail : Nat) :
    (s.errAt src cls faultN leaf vnpu world cause addr detail).ground = s.ground :=
  by unfold State.errAt; simp

@[simp] theorem State.msix_ground (s : State) (v : Nat) : (s.msix v).ground = s.ground := (rfl)

@[simp] theorem State.msixStatus_ground (s : State) (v : VnpuId) : (s.msixStatus v).ground = s.ground := (rfl)

@[simp] theorem State.stopQueue_ground (s : State) (v : VnpuId) (q : Fin 8) : (s.stopQueue v q).ground = s.ground := (rfl)

@[simp] theorem State.gained_ground (s before : State) (v : VnpuId) : (s.gained before v).ground = s.ground := by
  unfold State.gained
  dsimp only
  split
  · rfl
  · split <;> rfl

@[simp] theorem State.modAt_ground (s : State) (i : CtxId) (l : LeafId) (f : Ctx → Ctx) : (s.modAt i l f).ground = s.ground := by
  unfold State.modAt; dsimp only; split_ifs <;> simp

@[simp] theorem State.wftAdd_ground (s : State) (e : WftEntry) : (s.wftAdd e).ground = s.ground := (rfl)

@[simp] theorem State.wftDrop_ground (s : State) (a : Src) (l : LeafId) (p : WftEntry → Bool) : (s.wftDrop a l p).ground = s.ground := (rfl)

@[simp] theorem State.wftLost_ground (s : State) (l : LeafId) : (s.wftLost l).ground = s.ground := (rfl)

@[simp] theorem State.wftUnchecked_ground (s : State) (l : LeafId) : (s.wftUnchecked l).ground = s.ground := (rfl)

@[simp] theorem State.unblockCtx_ground (s : State) (i : CtxId) : (s.unblockCtx i).ground = s.ground := by
  unfold State.unblockCtx
  dsimp only
  split <;> rfl

@[simp] theorem State.unblockEng_ground (s : State) (i : EngId) (sl : Slot) : (s.unblockEng i sl).ground = s.ground := by
  unfold State.unblockEng; split <;> rfl

@[simp] theorem State.blockCtx_ground (s : State) (i : CtxId) (o : BitVec 32) : (s.blockCtx i o).ground = s.ground := by
  unfold State.blockCtx
  split
  · rfl
  · exact s.unblockCtx_ground i

@[simp] theorem State.blockEng_ground (s : State) (i : EngId) (sl : Slot) (o : BitVec 32) : (s.blockEng i sl o).ground = s.ground := by
  unfold State.blockEng
  split
  · rfl
  · exact s.unblockEng_ground i sl

@[simp] theorem State.releaseObj_ground (s : State) (t : TopId) (o : BitVec 32) : (s.releaseObj t o).ground = s.ground := by
  unfold State.releaseObj
  refine (foldl_ground (fun s i => ?_) _ _).trans (foldl_ground (fun s e => ?_) _ s)
  · dsimp only; split <;> rfl
  · split
    · exact State.modAt_ground ..
    · rfl

@[simp] theorem State.dropReqs_ground (s : State) (i : CtxId) (l : LeafId) : (s.dropReqs i l).ground = s.ground := by
  unfold State.dropReqs; split <;> rfl

@[simp] theorem State.dropAll_ground (s : State) (i : CtxId) (l : LeafId) : (s.dropAll i l).ground = s.ground :=
  (foldl_ground (fun s o => s.releaseObj_ground (topOf l) o) _ _).trans (State.dropReqs_ground ..)

@[simp] theorem State.arriveAll_ground (s : State) (u : UnitId) : (s.arriveAll u).ground = s.ground := (rfl)

@[simp] theorem State.endWriter_ground (s : State) (e : EngId) (q : QEntry) (retired : Bool) :
    (s.endWriter e q retired).ground = s.ground :=
  (rfl)

@[simp] theorem State.dropReads_ground (s : State) (e : EngId) : (s.dropReads e).ground = s.ground := (rfl)

/-- The contexts that wait for room in the queue of an engine go on. -/
def State.wakeWaiters (s : State) (e : EngId) : State :=
  if (s.engine e).queue.length < 8 then s
  else ([.o, .h] : List Slot).foldl (fun s t =>
    if (s.ctx ⟨e.core, t⟩).blocked = some (queueObj e.core t e.eng) && !(s.ctx ⟨e.core, t⟩).inWfe then s.unblockCtx ⟨e.core, t⟩ else s) s

/-- The head leaves the queue. -/
def State.popHead (s : State) (e : EngId) (sl : Slot) : State :=
  let s := s.modEngine e fun x => x.withQueue (x.queue.drop 1)
  if s.engHolds e.core e.eng sl then s else { s with wftQueue := s.wftQueue ++ [.idle e sl] }

theorem State.dropHead_cons {s : State} {e : EngId} {q : QEntry} {rest : List QEntry} (h : (s.engine e).queue = q :: rest) :
    s.dropHead e = (((s.unblockEng e q.slot).dropReads e).wakeWaiters e).popHead e q.slot := by
  unfold State.dropHead
  rw [h]
  rfl

@[simp] theorem State.wakeWaiters_ground (s : State) (e : EngId) : (s.wakeWaiters e).ground = s.ground := by
  unfold State.wakeWaiters
  split
  · rfl
  · exact foldl_ground (fun s t => by split <;> simp) _ s

@[simp] theorem State.popHead_ground (s : State) (e : EngId) (sl : Slot) : (s.popHead e sl).ground = s.ground := by
  unfold State.popHead
  dsimp only
  split <;> rfl

@[simp] theorem State.dropHead_ground (s : State) (e : EngId) : (s.dropHead e).ground = s.ground := by
  cases h : (s.engine e).queue with
  | nil => unfold State.dropHead; rw [h]
  | cons q rest => rw [State.dropHead_cons h]; simp

@[simp] theorem State.settleHead_ground (s : State) (e : EngId) : (s.settleHead e).ground = s.ground := by
  unfold State.settleHead
  dsimp only
  split
  · split <;> rfl
  · split <;> rfl

@[simp] theorem State.engFault_ground (s : State) (e : EngId) (phase : Nat) (t : Trap) : (s.engFault e phase t).ground = s.ground := by
  unfold State.engFault
  split
  · rfl
  · next q _ _ =>
    split
    · simp
    · simp

@[simp] theorem State.engStall_ground (s : State) (e : EngId) (q : QEntry) (obj : BitVec 32) : (s.engStall e q obj).ground = s.ground :=
  by unfold State.engStall; simp

@[simp] theorem State.stamped_ground (s : State) (r : Src) : (s.stamped r).ground = s.ground := by
  unfold State.stamped; split <;> rfl

@[simp] theorem State.releaseStamp_ground (s : State) : (s.releaseStamp).ground = s.ground := (rfl)

@[simp] theorem State.acquireStamp_ground (s : State) (i : CtxId) : (s.acquireStamp i).ground = s.ground := (rfl)

@[simp] theorem State.retireEffects_ground (s : State) (e : EngId) (q : QEntry) (h : Head) : (s.retireEffects e q h).ground = s.ground := by
  unfold State.retireEffects; dsimp only; split_ifs <;> simp

@[simp] theorem State.retire_ground (s : State) (e : EngId) : (s.retire e).ground = s.ground := by
  have ends (u : State) (q : QEntry) : (if !u.phaseDone (.eng e) ((u.engine e).head.retire.getD 0) then u
      else if (u.engine e).head.orphan then (u.endWriter e q true).dropHead e
      else match u.retireHold e q (u.engine e).head with
        | some o => u.engStall e q o
        | none => if wantsEvent q (u.engine e).head && !u.mayStamp (.eng e) then u
            else (u.retireEffects e q (u.engine e).head).dropHead e).ground = u.ground := by
    split
    · rfl
    · split
      · simp
      · split
        · simp
        · split <;> simp
  unfold State.retire
  split
  · rfl
  · next q _ _ =>
    split
    · rfl
    · dsimp only
      split
      · rfl
      · next u hu =>
        refine (ends u q).trans ?_
        split at hu
        · cases hu; rfl
        · obtain ⟨w, hw, rfl⟩ := Option.map_eq_some_iff.1 hu
          exact (State.modEngine_ground ..).trans (State.closePhase_ground _ _ _ hw)

@[simp] theorem State.discard_ground (s : State) (e : EngId) (sl : Slot) (keepCo : Bool) : (s.discard e sl keepCo).ground = s.ground := by
  unfold State.discard
  dsimp only
  split
  · rfl
  · split
    · rfl
    · split
      · rfl
      · have settled : ((((s.unblockEng e sl).dropReads e).giveUp (Asker.ofEng e)).settleHead e).ground = s.ground := by simp
        split_ifs <;> exact settled

@[simp] theorem State.discardBank_ground (s : State) (c : CoreId) (sl : Slot) (keepCo : Bool) :
    (s.discardBank c sl keepCo).ground = s.ground :=
  foldl_ground (fun s x => by simp) _ s

@[simp] theorem State.chargePass_ground (s : State) (v : VnpuId) (since : Nat) : (s.chargePass v since).ground = s.ground := (rfl)

@[simp] theorem State.closeWriters_ground (s : State) (u : UnitId) : (s.closeWriters u).ground = s.ground := (rfl)

@[simp] theorem State.reportLoss_ground (s : State) (u : UnitId) (v : VnpuId) (cause : Nat) : (s.reportLoss u v cause).ground = s.ground :=
  by unfold State.reportLoss; simp

@[simp] theorem State.dropUnsent_ground (s : State) (i : CtxId) : (s.dropUnsent i).ground = s.ground := (rfl)

@[simp] theorem State.park_ground (s : State) (c : CoreId) (rev : Bool) : (s.park c rev).ground = s.ground := by
  obtain ⟨o, n, e⟩ := s.park_eq c rev
  have gone : (s.without ⟨c, .h⟩).ground = s.ground := by unfold State.without; simp
  rw [e]
  revert gone
  generalize s.without ⟨c, .h⟩ = u
  exact id

@[simp] theorem State.askRevoke_ground (s : State) (c : CoreId) (hard : Bool) : (s.askRevoke c hard).ground = s.ground := by
  unfold State.askRevoke; split <;> rfl

@[simp] theorem State.revokeNow_ground (s : State) (c : CoreId) : (s.revokeNow c).ground = s.ground := by
  unfold State.revokeNow; dsimp only; split_ifs <;> simp

@[simp] theorem State.finish_ground (s : State) (w : List Landing) (pc : Option Word) (n : Nat) : (s.finish w pc n).ground = s.ground :=
  by unfold State.finish; simp

@[simp] theorem State.cutStep_ground (s : State) (i : CtxId) : (s.cutStep i).ground = s.ground :=
  foldl_ground (fun s e => by
  dsimp only
  split_ifs <;> simp) engs s

@[simp] theorem State.clearQueues_ground (s : State) (i : CtxId) : (s.clearQueues i).ground = s.ground :=
  foldl_ground (fun s x => by dsimp only; split <;> simp) _ s

@[simp] theorem State.ownerEnters_ground (s : State) (c : CoreId) (e : Eng) : (s.ownerEnters c e).ground = s.ground := by
  unfold State.ownerEnters; split <;> simp

@[simp] theorem State.loadEngine_ground (s : State) (e : EngId) (q : List QEntry) (h : Head) : (s.loadEngine e q h).ground = s.ground := by
  unfold State.loadEngine
  split
  · rfl
  · next r rest =>
    dsimp only
    split_ifs <;> simp

@[simp] theorem State.loadEngines_ground (s : State) (i : CtxId) (m : Mem) (sup : Bool) (v : VnpuId) :
    (s.loadEngines i m sup v).ground = s.ground :=
  foldl_ground (fun s x => by simp) _ s

@[simp] theorem State.acquired_ground (s : State) : (s.acquired).ground = s.ground := by
  unfold State.acquired; dsimp only; split_ifs <;> simp

@[simp] theorem State.pantryWrite_ground (s : State) (i : CtxId) (ea : Nat) (bs : List Byte) : (s.pantryWrite i ea bs).ground = s.ground := (rfl)

@[simp] theorem State.enqueue_ground (s : State) (i : CtxId) (e : Eng) (w : BitVec 512) : (s.enqueue i e w).ground = s.ground := (rfl)

@[simp] theorem State.ordered_ground (s : State) : (s.ordered).ground = s.ground := by unfold State.ordered; simp

@[simp] theorem State.dropWaits_ground (s : State) (i : CtxId) (o : BitVec 32) : (s.dropWaits i o).ground = s.ground := (rfl)

theorem State.arrive_ground {s u : State} {i : CtxId} {level : Nat} {xf : Bool} (h : s.arrive i level xf = some (.ok u)) : u.ground = s.ground := by
  unfold State.arrive at h
  dsimp only at h
  split at h
  · exact nomatch h
  · split at h
    · split at h
      · exact nomatch h
      · split at h
        · exact nomatch h
        · obtain rfl := Except.ok.inj (Option.some.inj h); rfl
    · obtain rfl := Except.ok.inj (Option.some.inj h); rfl

@[simp] theorem State.reply_ground (s : State) (i : CtxId) (v : Word) : (s.reply i v).ground = s.ground := (rfl)

@[simp] theorem State.clearCore_ground (s : State) (c : CoreId) (world : BitVec 8) : (s.clearCore c world).ground = s.ground := by
  unfold State.clearCore; dsimp only; split_ifs <;> simp

@[simp] theorem State.stopForReset_ground (s : State) (v : VnpuId) (i : CtxId) : (s.stopForReset v i).ground = s.ground := by
  unfold State.stopForReset
  split
  · rfl
  · dsimp only
    split <;> simp

@[simp] theorem State.dropOrphan_ground (s : State) (v : VnpuId) (c : CoreId) : (s.dropOrphan v c).ground = s.ground := by
  unfold State.dropOrphan
  dsimp only
  split
  · split <;> simp
  · rfl

@[simp] theorem State.stopSaved_ground (s : State) (v : VnpuId) (c : CoreId) : (s.stopSaved v c).ground = s.ground :=
  foldl_ground (fun s x => by simp) _ s

@[simp] theorem State.resetStops_ground (s : State) (v : VnpuId) : (s.resetStops v).ground = s.ground :=
  (foldl_ground (fun s c => s.dropOrphan_ground v c) _ _).trans (foldl_ground (fun s i => s.stopForReset_ground v i) _ s)

@[simp] theorem State.startReset_ground (s : State) (v : VnpuId) : (s.startReset v).ground = s.ground :=
  (foldl_ground (fun s c => s.stopSaved_ground v c) _ _).trans (State.resetStops_ground _ v)

@[simp] theorem State.registerProd_ground (s : State) (v : VnpuId) (q : Fin 8) : (s.registerProd v q).ground = s.ground := by
  unfold State.registerProd
  dsimp only
  split
  · rfl
  · split <;> rfl

@[simp] theorem State.endCore_ground (s : State) (v : VnpuId) (c : CoreId) : (s.endCore v c).ground = s.ground := by
  unfold State.endCore; dsimp only; split_ifs <;> simp

@[simp] theorem State.dropDomains_ground (s : State) (uids : List Nat) : (s.dropDomains uids).ground = s.ground := (rfl)

@[simp] theorem State.askPreempt_ground (s : State) (c : CoreId) : (s.askPreempt c).ground = s.ground := by
  unfold State.askPreempt; dsimp only; split_ifs <;> simp

@[simp] theorem State.endDefer_ground (s : State) (i : CtxId) : (s.endDefer i).ground = s.ground := (rfl)

@[simp] theorem State.saveUnit_ground (s : State) (c : CoreId) (live : BitVec 60) : (s.saveUnit c live).ground = s.ground :=
  by unfold State.saveUnit; simp

@[simp] theorem State.serveWorld_ground (s : State) (c : CoreId) (v : VnpuId) : (s.serveWorld c v).ground = s.ground := by
  unfold State.serveWorld; dsimp only; split_ifs <;> simp

@[simp] theorem State.deliverCut_ground (s : State) (c : CoreId) : (s.deliverCut c).ground = s.ground :=
  foldl_ground (fun s e => by
  dsimp only
  split
  · split <;> rfl
  · rfl) engs s

@[simp] theorem State.sysWrite_ground (s : State) (i : CtxId) (n : SReg) (w : Word) : (s.sysWrite i n w).ground = s.ground := by
  unfold State.sysWrite; split <;> rfl

@[simp] theorem State.copyGate_ground (s : State) (ps : List (Nat × Nat × Nat)) : (s.copyGate ps).2.ground = s.ground := by
  unfold State.copyGate; dsimp only; split_ifs <;> simp

@[simp] theorem State.setTensor_ground (s : State) (t : TensorCopy) : (s.setTensor t).ground = s.ground := (rfl)

@[simp] theorem State.setHead_ground (s : State) (e : EngId) (h : Head) : (s.setHead e h).ground = s.ground := (rfl)

@[simp] theorem State.dropUnit_ground (s : State) (e : EngId) (h : Head) (unit : Option Nat) : (s.dropUnit e h unit).ground = s.ground := (rfl)

@[simp] theorem State.askUnit_ground (s : State) (e : EngId) (q : QEntry) (h : Head) (va : Nat) : (s.askUnit e q h va).ground = s.ground := by
  have taken := s.admitAll_ground q.vnpu (s.asker (.eng e)) [(e.core.val, 64)]
  unfold State.askUnit
  split
  · next u hu => rw [hu] at taken; exact taken
  · next u hu => rw [hu] at taken; exact taken

@[simp] theorem State.askAhead_ground (s : State) (e : EngId) (q : QEntry) (h : Head) (u : Head → Option Nat) :
    (s.askAhead e q h u).ground = s.ground := by
  unfold State.askAhead
  split
  · split <;> simp
  · rfl

@[simp] theorem State.noteSent_ground (s : State) (e : EngId) : (s.noteSent e).ground = s.ground := (rfl)

@[simp] theorem State.leaveUnit_ground (s : State) (e : EngId) (q : QEntry) (n : Head) : (s.leaveUnit e q n).1.ground = s.ground := by
  unfold State.leaveUnit
  split
  · rfl
  · split <;> rfl

@[simp] theorem State.unmapId_ground (s : State) (l : LeafId) (rid : Nat) : (s.unmapId l rid).ground = s.ground :=
  by simp only [State.unmapId, State.ground]

@[simp] theorem State.installRoutine_ground (s : State) (r : Routine) : (s.installRoutine r).ground = s.ground := (rfl)

@[simp] theorem State.answerInv_ground (s : State) (m : SliceId) (v : Invocation) (r : Reply) : (s.answerInv m v r).ground = s.ground := (rfl)

@[simp] theorem State.unpost_ground (s : State) (m : Msg) : (s.unpost m).ground = s.ground := (rfl)

@[simp] theorem State.putTag_ground (s : State) (line : Nat) (tag : Option LineTag) : (s.putTag line tag).ground = s.ground := by
  cases tag <;> rfl

@[simp] theorem State.arriveInv_ground (s : State) (m : Msg) (i : Invocation) : (s.arriveInv m i).ground = s.ground := by
  unfold State.arriveInv; dsimp only; split_ifs <;> simp

theorem State.countRetry_ground (s : State) (i : Invocation) (home : Nat) {u : State} (h : s.countRetry i home = some u) :
    u.ground = s.ground := by
  unfold State.countRetry at h
  obtain ⟨w, hw, rfl⟩ := Option.map_eq_some_iff.1 h
  have closed : w.ground = s.ground := by
    split at hw
    · exact State.closePhase_ground _ _ _ hw
    · cases hw; rfl
  dsimp only
  split
  · rw [State.setPhases_ground, closed]
  · exact (State.setPhases_ground ..).trans closed

@[simp] theorem State.rootWrote_ground (s : State) (line : Nat) : (s.rootWrote line).ground = s.ground := by
  unfold State.rootWrote
  rw [State.sliceAccess_ground]
  cases h : s.countNow .root (homeSlice line).val 0 with
  | none => rfl
  | some u => exact State.countNow_ground _ _ _ _ h

@[simp] theorem State.nackMarked_ground (s : State) : (s.nackMarked).ground = s.ground :=
  foldl_ground (fun s m => by
  dsimp only
  split
  · rfl
  · exact (foldl_ground (fun s i => s.answerInv_ground m i .nack) _ _).trans rfl) _ s

@[simp] theorem State.forgetPage_ground (s : State) (page : Nat) : (s.forgetPage page).ground = s.ground := (rfl)

@[simp] theorem State.finishRecord_ground (s : State) (x : XPhase) (i : CtxId) (c : Nat) : (s.finishRecord x i c).ground = s.ground := by
  unfold State.finishRecord
  dsimp only
  split
  · rfl
  · split <;> rfl

@[simp] theorem State.begin_ground (s : State) (e : EngId) (q : QEntry) (pop : Bool) (copy : BitVec 432) :
    (s.begin e q pop copy).ground = s.ground := by
  unfold State.begin; split <;> simp

@[simp] theorem State.xfHead_ground (s : State) (e : EngId) (q : QEntry) : (s.xfHead e q).ground = s.ground := by
  unfold State.xfHead
  split
  · rfl
  · rfl
  · split <;> simp
  · split
    · rfl
    · split
      · simp
      · split <;> rfl

@[simp] theorem State.dropMembers_ground (s : State) (b : Barrier) : (s.dropMembers b).ground = s.ground :=
  foldl_ground (fun s u => by split <;> simp) _ s

@[simp] theorem State.meetStamps_ground (s : State) (b : Barrier) : (s.meetStamps b).ground = s.ground := foldl_ground (fun s x => by simp) _ s

@[simp] theorem State.freeMembers_ground (s : State) (b : Barrier) : (s.freeMembers b).ground = s.ground :=
  foldl_ground (fun s u => by split <;> simp) _ s

@[simp] theorem State.settlePops_ground (s : State) (x : XPhase) (i : CtxId) : (s.settlePops x i).ground = s.ground := (rfl)

@[simp] theorem State.freshProgram_ground (s : State) (i : CtxId) : (s.freshProgram i).ground = s.ground := (rfl)

@[simp] theorem State.stampNow_ground (s : State) (e : EngId) : (s.stampNow e).ground = s.ground := (rfl)

@[simp] theorem State.afterPhase_ground (s : State) (i : CtxId) : (s.afterPhase i).ground = s.ground := by
  unfold State.afterPhase; dsimp only; split_ifs <;> simp

@[simp] theorem State.heard_ground (s : State) (v : VnpuId) (q : Fin 8) : (s.heard v q).ground = s.ground := (rfl)

@[simp] theorem State.loadLow_ground (s : State) (c : CoreId) (l : LeafId) : (s.loadLow c l).ground = s.ground := (rfl)

@[simp] theorem State.joinDomain_ground (s : State) (n : Nest) (u : UnitId) : (s.joinDomain n u).1.ground = s.ground := by
  unfold State.joinDomain
  dsimp only
  split <;> rfl

@[simp] theorem State.endFusion_ground (s : State) (c : CoreId) : (s.endFusion c).ground = s.ground := by
  unfold State.endFusion; split <;> simp

@[simp] theorem State.setUnit_ground (s : State) (c : CoreId) (v : VnpuId) (q : Fin 8) (n : Nest) : (s.setUnit c v q n).ground = s.ground := by
  unfold State.setUnit; dsimp only; split_ifs <;> simp

@[simp] theorem State.dealTo_ground (s : State) (c : CoreId) (v : VnpuId) (q : Fin 8) : (s.dealTo c v q).ground = s.ground := by
  unfold State.dealTo; split <;> simp

@[simp] theorem State.dispatchTo_ground (s : State) (cs : List CoreId) (v : VnpuId) (q : Fin 8) : (s.dispatchTo cs v q).ground = s.ground := by
  have served := foldl_ground (fun s c => s.serveWorld_ground c v) cs s
  unfold State.dispatchTo
  dsimp only
  split
  · exact served
  · exact (foldl_ground (fun s c => s.dealTo_ground c v q) cs _).trans served

@[simp] theorem State.countAdj_ground (s : State) (a b : Slice) : (s.countAdj a b).ground = s.ground := foldl_ground (fun s x => by simp) _ s

@[simp] theorem State.causeAt_ground (s : State) (i : CtxId) (t : Trap) : (s.causeAt i t).ground = s.ground := (rfl)

@[simp] theorem State.takeEffect_ground (s : State) (c : Contracts) : (s.takeEffect c).ground = s.ground := by
  unfold State.takeEffect
  refine (foldl_ground (fun s v => foldl_ground (fun s q => s.registerProd_ground v q) _ s) _ _).trans ?_
  exact (foldl_ground (fun s v => s.modVnpu_ground v Vnpu.created) _ _).trans (foldl_ground (fun s v => s.startReset_ground v) _ s)

@[simp] theorem State.noteSuspended_ground (s : State) : (s.noteSuspended).ground = s.ground := (rfl)

@[simp] theorem State.endFusions_ground (s : State) (c : CoreId) : (s.endFusions c).ground = s.ground := foldl_ground (fun s x => by simp) _ s

@[simp] theorem State.crossBoundary_ground (s : State) (c : CoreId) (w : Window) (start : Nat) (same : Bool) :
    (s.crossBoundary c w start same).ground = s.ground := by
  unfold State.crossBoundary; split <;> simp

@[simp] theorem State.applyBudget_ground (s : State) (l : LeafId) (suspend : Bool) (b : Nat) :
    (s.applyBudget l suspend b).ground = s.ground :=
  foldl_ground (fun s c => by
  dsimp only
  split_ifs <;> simp) _ s

@[simp] theorem State.grantClaims_ground (s : State) : (s.grantClaims).1.ground = s.ground := by
  unfold State.grantClaims
  suffices h : ∀ (cs : List (Nat × ClusterId)) (a : State × List ClusterId), (cs.foldl (fun (s, g) x => match s.boostOwner x.2 with
      | none => (s, g)
      | some l => if (s.leaf l).account = 0 then (s, g)
          else (s.modLeaf l fun y => { y with account := y.account - 1 }, x.2 :: g)) a).1.ground = a.1.ground from h _ _
  intro cs
  induction cs with
  | nil => exact fun _ => rfl
  | cons x cs ih =>
    intro a
    refine (ih _).trans ?_
    dsimp only
    split
    · rfl
    · split <;> rfl

@[simp] theorem State.refillAccounts_ground (s : State) : (s.refillAccounts).ground = s.ground :=
  by simp only [State.refillAccounts, State.ground]

@[simp] theorem State.settleEnergy_ground (s : State) (pEst : Nat) : (s.settleEnergy pEst).ground = s.ground := (rfl)

@[simp] theorem State.settleInterval_ground (s : State) (pEst : Nat) : (s.settleInterval pEst).ground = s.ground := by
  unfold State.settleInterval
  split
  · rfl
  · refine (State.settleEnergy_ground _ pEst).trans ?_
    split <;> simp

@[simp] theorem State.noteQuiet_ground (s : State) : (s.noteQuiet).ground = s.ground := (rfl)

@[simp] theorem State.endPass_ground (s : State) (corr : Nat) (pages : List Nat) : (s.endPass corr pages).ground = s.ground := (rfl)

@[simp] theorem State.enterTdisp_ground (s : State) (v : VnpuId) (t : Tdisp) : (s.enterTdisp v t).ground = s.ground := by
  unfold State.enterTdisp
  dsimp only
  split
  · rfl
  · refine (foldl_ground (fun s q => ?_) _ _).trans rfl
    split <;> simp

@[simp] theorem State.tdispError_ground (s : State) (v : VnpuId) : (s.tdispError v).ground = s.ground := by unfold State.tdispError; simp

@[simp] theorem State.answerHost_ground (s : State) (r : HostReq) (bs : Option (List Byte)) : (s.answerHost r bs).ground = s.ground := by
  unfold State.answerHost; split <;> rfl

@[simp] theorem State.refuseSteps_ground (s : State) (v : VnpuId) (page : Nat) : (s.refuseSteps v page).ground = s.ground :=
  foldl_ground (fun s e => by
  split
  · split <;> simp
  · rfl) _ s

@[simp] theorem State.poisonUnit_ground (s : State) (c : CoreId) (a : Nat) : (s.poisonUnit c a).ground = s.ground := by
  unfold State.poisonUnit; split <;> simp

@[simp] theorem State.sramError_ground (s : State) (src : Nat) : (s.sramError src).ground = s.ground := by unfold State.sramError; simp

@[simp] theorem State.loseWait_ground (s : State) (n : Nat) : (s.loseWait n).ground = s.ground := by
  unfold State.loseWait
  split
  · rfl
  · simp; rfl

@[simp] theorem State.corrects_ground (s : State) (x : EccSite) : (s.corrects x).ground = s.ground := by cases x <;> rfl

@[simp] theorem State.thermal_ground (s : State) (n : Nat) : (s.thermal n).ground = s.ground := by unfold State.thermal; simp

@[simp] theorem State.loadBlob_ground (s : State) (b : Blob) : (s.loadBlob b).ground = s.ground := by
  unfold State.loadBlob; dsimp only; split_ifs <;> rfl

@[simp] theorem State.runImage_ground (s : State) (i : FwImage) (b : Blob) : (s.runImage i b).ground = s.ground :=
  (State.loadBlob_ground ..).trans rfl

@[simp] theorem State.chargeTick_ground (s : State) : (s.chargeTick).ground = s.ground :=
  foldl_ground (fun s x => by dsimp only; split <;> rfl) _ s

@[simp] theorem State.finishRecords_ground (s : State) : (s.finishRecords).ground = s.ground :=
  foldl_ground (fun s x => by
  split
  · split
    · exact foldl_ground (fun s i => s.finishRecord_ground x i _) _ s
    · rfl
  · rfl) _ s

@[simp] theorem State.nextAct_ground (s : State) : s.nextAct.2.ground = s.ground := by
  unfold State.nextAct
  split
  · rfl
  · split <;> rfl

@[simp] theorem State.newKey_ground (s : State) (w : BitVec 8) : (s.newKey w).ground = s.ground := (rfl)

end Sys2Proof.Machine

/-! The canonical form of the memories (logs 2, 4): what an operation of the module leaves of it. -/

namespace Sys2Proof.Machine

/-- DRAM and host memory of a ground are in canonical form. -/
def Ground.Ok (g : Ground) : Prop := g.dram.wf = true ∧ g.host.wf = true

theorem State.memoriesOk_ground (s : State) : s.memoriesOk = true ↔ s.ground.Ok := s.memoriesOk_iff

/-- What leaves the ground as it is leaves the memories in canonical form. -/
theorem Ground.Ok.of_eq {s t : State} (ok : s.ground.Ok) (h : t.ground = s.ground) : t.ground.Ok := h ▸ ok

theorem foldl_ok {α : Type} {f : State → α → State} (h : ∀ s x, s.ground.Ok → (f s x).ground.Ok) (l : List α) {s : State}
    (ok : s.ground.Ok) : (l.foldl f s).ground.Ok := by
  induction l generalizing s with
  | nil => exact ok
  | cons x l ih => exact ih (h s x ok)

section
variable {s : State} (ok : s.ground.Ok)
include ok

/-! ## Bytes of DRAM -/

@[simp] theorem State.touch_ok (p : Nat) : (s.touch p).ground.Ok := by
  refine ⟨State.touch_wf p ok.1, ?_⟩
  show (s.touch p).host.wf = true
  rw [s.touch_host]; exact ok.2

@[simp] theorem State.dstore_ok (pa : Nat) (bs : List Byte) : (s.dstore pa bs).ground.Ok :=
  ⟨wf_write (State.touch_ok ok (pa / 4096)).1, (State.touch_ok ok (pa / 4096)).2⟩

@[simp] theorem State.touchLine_ok (a : Acc) (line : Nat) : (s.touchLine a line).ground.Ok :=
  ok.of_eq ((State.l1Evict_ground ..).trans (State.sliceAccess_ground ..))

theorem State.countNow_ok (r : Src) (target : Nat) (v : VnpuId) : ((s.countNow r target v).getD s).ground.Ok := by
  cases h : s.countNow r target v with
  | none => exact ok
  | some u => exact ok.of_eq (State.countNow_ground _ _ _ _ h)

/-! ## Launch queues (R304, R305, R308) -/

/-- The state a host access leaves is in canonical form. -/
def HostRes.Ok : HostRes → Prop
  | .wait s => s.ground.Ok
  | _ => True

theorem State.hostPage_ok (v : VnpuId) (addr : Nat) : (s.hostPage v addr).Ok := by
  unfold State.hostPage
  dsimp only
  split_ifs
  · trivial
  · trivial
  · exact ok
  · split <;> exact ok

theorem State.qRead_ok {u : State} {bs : List Byte} {v : VnpuId} {q : QueueRec} {addr n : Nat} (h : s.qRead v q addr n = some (u, bs)) :
    u.ground.Ok := by
  unfold State.qRead at h
  split at h
  · obtain ⟨pa, _, e⟩ := Option.map_eq_some_iff.1 h
    obtain ⟨rfl, _⟩ := Prod.mk.inj e
    simp [ok]
  · split at h
    · cases h; exact ok
    · cases h

/-- The state a write of the walker leaves is in canonical form. -/
def QWrite.Ok : QWrite → Prop
  | .done s => s.ground.Ok
  | .wait s => s.ground.Ok
  | _ => True

theorem State.qWrite_ok (v : VnpuId) (q : QueueRec) (addr : Nat) (bs : List Byte) : (s.qWrite v q addr bs).Ok := by
  unfold State.qWrite
  split
  · split
    · trivial
    · split
      · exact ok
      · split
        · exact ok
        · next u hu =>
          have counted : u.ground.Ok := ok.of_eq (State.countNow_ground _ _ _ _ hu)
          show (State.sliceAccess ..).ground.Ok
          simp [counted]
  · have page := State.hostPage_ok ok v addr
    split
    · trivial
    · next u hu => rw [hu] at page; exact page
    · exact ⟨ok.1, wf_write ok.2⟩

@[simp] theorem State.publish_ok (v : VnpuId) (q : Fin 8) (m : Bool) : (s.publish v q m).ground.Ok := by
  have written := State.qWrite_ok ok v ((s.contract v).queues.get q) (((s.contract v).queues.get q).qcb + 4) ((s.vnpu v).queue q).block
  unfold State.publish
  dsimp only
  split
  · split <;> exact ok.of_eq (by simp)
  · next u hu => rw [hu] at written; exact written
  · exact ok
  · next u hu =>
    rw [hu] at written
    split <;> exact written

@[simp] theorem State.settleQueue_ok (v : VnpuId) (q : Fin 8) : (s.settleQueue v q).ground.Ok := by
  unfold State.settleQueue
  dsimp only
  split
  · exact ok
  · exact State.publish_ok (ok.of_eq (State.modQueue_ground ..)) ..

@[simp] theorem State.nestRetired_ok (v : VnpuId) (q : Fin 8) (uid : Nat) : (s.nestRetired v q uid).ground.Ok := by
  unfold State.nestRetired
  simp [ok]

/-! ## The end of a unit (R313, R348) -/

@[simp] theorem State.domainLeave_ok (c : Ctx) (t : TopId) : (s.domainLeave c t).ground.Ok := ok

@[simp] theorem State.leave_ok (u : UnitId) (c : Ctx) : (s.leave u c).ground.Ok := by
  unfold State.leave
  dsimp only
  split <;> simp [ok]

@[simp] theorem State.retireUnit_ok (i : CtxId) : (s.retireUnit i).ground.Ok := by unfold State.retireUnit; simp [ok]

@[simp] theorem State.endHarvest_ok (i : CtxId) : (s.endHarvest i).ground.Ok := by unfold State.endHarvest; simp [ok]

@[simp] theorem State.endUnit_ok (i : CtxId) : (s.endUnit i).ground.Ok := by unfold State.endUnit; split <;> simp [ok]

/-! ## Images (R424, R425, R434) -/

@[simp] theorem State.spliceIn_ok (r : Src) (a : Acc) (pa n : Nat) {x : Mem} (hx : x.wf = true) (src : Nat) :
    (s.spliceIn r a pa n x src).ground.Ok := by
  unfold State.spliceIn
  refine foldl_ok (fun s l hs => State.countNow_ok (State.touchLine_ok hs a l) ..) _ ?_
  exact ⟨wf_splice (State.touch_ok ok _).1 hx, (State.touch_ok ok _).2⟩

end

theorem State.putImageAs_ok (i : CtxId) (v : VnpuId) {x : Mem} (hx : x.wf = true) : ∀ (ps : List (Nat × Nat × Nat)) {s : State},
    s.ground.Ok → (s.putImageAs i v x ps).1.ground.Ok
  | [], _, ok => ok
  | (va, off, n) :: r, s, ok => by
    have filled (pages : List (Nat × TlbEntry)) : (s.fillTlbs i.core pages).ground.Ok := ok.of_eq (s.fillTlbs_ground i.core pages)
    unfold State.putImageAs
    split
    · exact ok
    · next pages _ =>
      dsimp only
      split
      · exact State.putImageAs_ok i v hx r (State.spliceIn_ok (filled _) _ _ _ _ hx _)
      · exact State.putImageAs_ok i v hx r (filled _)

theorem imageOf_wf (fs : List Field) : (imageOf fs).wf = true := by
  have write (l : List Field) (m : Mem) (h : m.wf = true) : (l.foldl (fun m f => m.write f.1 (leBytes f.2.1 f.2.2)) m).wf = true := by
    induction l generalizing m with
    | nil => exact h
    | cons f l ih => exact ih _ (wf_write h)
  exact write fs [] rfl

theorem State.imageNow_wf (s : State) (i : CtxId) (c : Ctx) (flags : Nat) (report : List Word) : (s.imageNow i c flags report).wf = true := by
  unfold State.imageNow; exact imageOf_wf _

/-- Pieces of an image that follow one another from an offset on. -/
def Follow : Nat → List (Nat × Nat × Nat) → Prop
  | _, [] => True
  | o, p :: r => p.2.1 = o ∧ Follow (o + p.2.2) r

theorem imagePieces_follow (va : Nat) : Follow 0 (imagePieces va) := by
  unfold imagePieces
  dsimp only
  split
  · exact ⟨rfl, rfl, trivial⟩
  · next h =>
    have small : va % 4096 < 4096 := Nat.mod_lt _ (by decide)
    refine ⟨rfl, ?_, ?_, trivial⟩
    · show 4096 - va % 4096 = 0 + (4096 - va % 4096); omega
    · show 8192 - va % 4096 = 0 + (4096 - va % 4096) + 4096; omega

theorem okReads (pa : Nat) (a : Acc) (ls : List Nat) {s : State} (ok : s.ground.Ok) :
    (ls.foldl (fun s l => (s.touch (pa / 4096)).touchLine a l) s).ground.Ok :=
  foldl_ok (fun _ l hs => State.touchLine_ok (State.touch_ok hs _) a l) ls ok

/-- The cells of [pa, pa + n), moved to an offset. -/
theorem partShift_wf {m : Mem} (h : m.wf = true) {pa n off : Nat} :
    ((m.part pa (pa + n)).shift pa off).wf = true ∧ ∀ e ∈ (m.part pa (pa + n)).shift pa off, off ≤ e.1 ∧ e.1 < off + n := by
  have within : ∀ e ∈ m.part pa (pa + n), pa ≤ e.1 ∧ e.1 < pa + n := fun e he => by
    simpa [Bool.and_eq_true] using (List.mem_filter.1 he).2
  refine ⟨wf_shift (wf_part h) fun e he => (within e he).1, fun e he => ?_⟩
  obtain ⟨x, hx, rfl⟩ := List.mem_map.1 he
  have := within x hx
  dsimp only
  omega

/-- An image read piece by piece is in canonical form, as its pieces follow one another; so are the memories it leaves. -/
theorem State.getImage_ok (i : CtxId) : ∀ (ps : List (Nat × Nat × Nat)) (o : Nat) {s : State}, Follow o ps → s.ground.Ok →
    (s.getImage i ps).1.ground.Ok ∧ (s.getImage i ps).2.1.wf = true ∧ ∀ e ∈ (s.getImage i ps).2.1, o ≤ e.1
  | [], _, _, _, ok => ⟨ok, rfl, fun _ h => nomatch h⟩
  | (va, off, n) :: r, o, s, follow, ok => by
    obtain ⟨rfl, next⟩ := follow
    unfold State.getImage
    dsimp only
    split
    · exact ⟨ok, rfl, fun _ h => nomatch h⟩
    · next pages _ =>
      have filled : (s.fillTlbs i.core pages).ground.Ok := ok.of_eq (s.fillTlbs_ground i.core pages)
      split
      · next t _ _ =>
        split
        · exact ⟨ok, rfl, fun _ h => nomatch h⟩
        · have read := okReads (t.ppage * 4096 + va % 4096) (s.imageAcc i false) (linesOf (t.ppage * 4096 + va % 4096) n) filled
          obtain ⟨hs, hm, above⟩ := State.getImage_ok i r (off + n) next read
          have here : Mem.wf (if s.filled ((t.ppage * 4096 + va % 4096) / 4096) then (s.dram.part (t.ppage * 4096 + va % 4096)
              (t.ppage * 4096 + va % 4096 + n)).shift (t.ppage * 4096 + va % 4096) off else []) = true
              ∧ ∀ e ∈ (if s.filled ((t.ppage * 4096 + va % 4096) / 4096) then (s.dram.part (t.ppage * 4096 + va % 4096)
                (t.ppage * 4096 + va % 4096 + n)).shift (t.ppage * 4096 + va % 4096) off else []), off ≤ e.1 ∧ e.1 < off + n := by
            split
            · exact partShift_wf ok.1
            · exact ⟨rfl, fun _ h => nomatch h⟩
          obtain ⟨hw, within⟩ := here
          refine ⟨hs, wf_append hw hm fun e he f hf => Nat.lt_of_lt_of_le (within e he).2 (above f hf), fun e he => ?_⟩
          rcases List.mem_append.1 he with he | he
          · exact (within e he).1
          · exact Nat.le_trans (Nat.le_add_right off n) (above e he)
      · obtain ⟨hs, hm, above⟩ := State.getImage_ok i r (off + n) next ok
        exact ⟨hs, hm, fun e he => Nat.le_trans (Nat.le_add_right off n) (above e he)⟩

/-! ## The failure of a unit (R423) -/

section
variable {s : State} (ok : s.ground.Ok)
include ok

theorem State.putImage_ok (i : CtxId) {x : Mem} (hx : x.wf = true) (ps : List (Nat × Nat × Nat)) : (s.putImage i x ps).1.ground.Ok :=
  State.putImageAs_ok i _ hx ps ok

@[simp] theorem State.endFailure_ok (i : CtxId) : (s.endFailure i).ground.Ok := by
  have written (x : Mem) (hx : x.wf = true) (ps : List (Nat × Nat × Nat)) := State.putImage_ok ok i hx ps
  unfold State.endFailure
  split
  · exact ok
  · dsimp only
    split
    · exact ok
    · split
      · simp [written _ (s.imageNow_wf _ _ _ _)]
      · simp [ok]

@[simp] theorem State.unitFailure_ok (i : CtxId) (cause : Nat) : (s.unitFailure i cause).ground.Ok := by
  unfold State.unitFailure
  simp [ok]

@[simp] theorem State.fatalImage_ok (i : CtxId) (x : Saved) (cause : Nat) : (s.fatalImage i x cause).ground.Ok := by
  unfold State.fatalImage
  dsimp only
  split
  · exact State.putImageAs_ok i _ (imageOf_wf _) _ ok
  · exact ok

@[simp] theorem State.endSaved_ok (c : CoreId) (l : LeafId) : (s.endSaved c l).ground.Ok := by
  unfold State.endSaved
  split
  · exact ok
  · split
    · exact ok
    · dsimp only
      split <;> simp [ok]

@[simp] theorem State.failSaved_ok (c : CoreId) (x : Saved) (cause : Nat) : (s.failSaved c x cause).ground.Ok := by
  unfold State.failSaved
  simp [ok]

/-! ## Traps (R420, R421) -/

omit ok in
@[simp] theorem State.unarrive_ground (s : State) (i : CtxId) : (s.unarrive i).ground = s.ground := by
  unfold State.unarrive
  split <;> rfl

theorem State.entryImage_ok (i : CtxId) (t : Trap) : (s.entryImage i t).1.ground.Ok := by
  unfold State.entryImage
  exact State.putImage_ok ok i (s.imageNow_wf _ _ _ _) _

@[simp] theorem State.enterNow_ok (i : CtxId) (t : Trap) : (s.enterNow i t).ground.Ok := by
  have written := State.entryImage_ok ok i t
  cases h : s.entryImage i t with
  | mk u o =>
    rw [h] at written
    cases o with
    | some x =>
      rw [State.enterNow_refused h]
      exact State.unitFailure_ok written i t.cause
    | none =>
      obtain ⟨report, e⟩ := State.enterNow_entered h
      rw [e]
      exact Ground.Ok.of_eq written (by simp)

@[simp] theorem State.enter_ok (i : CtxId) : (s.enter i).ground.Ok := by
  have ready : (((((s.unblockCtx i).unarrive i).giveUp (Asker.ofCtx i)).modCtx i fun c => { c with stage := .fresh }).cutStep i).ground.Ok := by
    simp [ok]
  unfold State.enter
  dsimp only
  revert ready
  generalize ((((s.unblockCtx i).unarrive i).giveUp (Asker.ofCtx i)).modCtx i fun c => { c with stage := .fresh }).cutStep i = u
  intro ready
  split
  · exact ok
  · next t _ =>
    split
    · exact ok
    · split
      · simp [ok]
      · split
        · exact ready
        · split
          · exact ready
          · next v n hv =>
            have closed : v.ground.Ok := by
              split at hv
              · cases hv; exact ready
              · obtain ⟨w, hw, e⟩ := Option.map_eq_some_iff.1 hv
                obtain ⟨rfl, _⟩ := Prod.mk.inj e
                exact ready.of_eq ((State.modCtx_ground ..).trans (State.closePhase_ground _ _ _ hw))
            split
            · simp [closed]
            · exact closed

@[simp] theorem State.raiseBy_ok (i : CtxId) (agent : Nat) (t : Trap) : (s.raiseBy i agent t).ground.Ok := by
  unfold State.raiseBy
  simp [ok]

@[simp] theorem State.raise_ok (i : CtxId) (t : Trap) : (s.raise i t).ground.Ok := State.raiseBy_ok ok i _ t

/-! ## The wait-for table (R351-R358) -/

@[simp] theorem State.deliverWalk_ok (a : Src) (i : CtxId) (t : Trap) : (s.deliverWalk a i t).ground.Ok := by
  unfold State.deliverWalk
  split <;> simp [ok]

@[simp] theorem State.walkFrom_ok (a : Src) (o : BitVec 32) : (s.walkFrom a o).ground.Ok := by
  unfold State.walkFrom
  dsimp only
  split
  · exact ok
  · simp [ok]
  · split <;> simp [ok]

@[simp] theorem State.waitLost_ok (a : Src) (i : CtxId) (o : BitVec 32) : (s.waitLost a i o).ground.Ok := by
  unfold State.waitLost
  dsimp only
  split <;> simp [ok]

@[simp] theorem State.registerWait_ok (a : Src) (o : BitVec 32) : (s.registerWait a o).ground.Ok := by
  unfold State.registerWait
  dsimp only
  split_ifs <;> simp [ok]

@[simp] theorem State.processReq_ok (r : WftReq) : (s.processReq r).ground.Ok := by
  cases r with
  | block a o =>
    cases a with
    | ctx i => unfold State.processReq; dsimp only; split <;> simp [ok]
    | eng e => unfold State.processReq; dsimp only; split <;> simp [ok]
    | root => exact ok
  | woreg i o => unfold State.processReq; dsimp only; split_ifs <;> simp [ok]
  | wodereg i o => unfold State.processReq; dsimp only; split_ifs <;> simp [ok]
  | wohold i o => unfold State.processReq; dsimp only; split_ifs <;> simp [ok]
  | worel i l o => unfold State.processReq; dsimp only; split_ifs <;> simp [ok]
  | wowait i o => unfold State.processReq; dsimp only; split_ifs <;> simp [ok]
  | wopoll i o => unfold State.processReq; simp [ok]
  | idle e sl =>
    refine foldl_ok (fun s a hs => ?_) (s.affected e sl) ok
    split <;> simp [hs]

end

end Sys2Proof.Machine

/-! The canonical form of the memories (logs 2, 4) through accesses, control words, records and routines. -/

namespace Sys2Proof.Machine

/-! ## Reads of images (R428, R434) -/

section
variable {s : State} (ok : s.ground.Ok)
include ok

theorem State.returnFrom_ok {i : CtxId} {u : State} (h : s.returnFrom i = .ok u) : u.ground.Ok := by
  obtain ⟨read, _, _⟩ := State.getImage_ok i (imagePieces (s.saveArea i)) 0 (imagePieces_follow _) ok
  cases hg : s.getImage i (imagePieces (s.saveArea i)) with
  | mk v r =>
    obtain ⟨m, t⟩ := r
    rw [hg] at read
    obtain ⟨refused, bad, returned⟩ := State.returnFrom_returnsBy s i v m
    cases t with
    | some t => exact nomatch (refused t hg).symm.trans h
    | none =>
      cases hb : imageBad i.slot m with
      | some off => exact nomatch (bad off hg hb).symm.trans h
      | none =>
        obtain rfl := Except.ok.inj ((returned hg hb).symm.trans h)
        exact Ground.Ok.of_eq read ((State.loadEngines_ground ..).trans (State.setCtx_ground ..))

end

theorem Ctx.stampExc_wf (c : Ctx) {m : Mem} (h : m.wf = true) : (c.stampExc m).wf = true := by
  have write (l : List (Nat × Word)) (m : Mem) (h : m.wf = true) :
      (l.foldl (fun m f => m.write f.1 (leBytes 8 f.2.toNat)) m).wf = true := by
    induction l generalizing m with
    | nil => exact h
    | cons f l ih => exact ih _ (wf_write h)
  exact write _ m h

theorem State.copyImage_ok (i : CtxId) (dst : Nat) : ∀ (ps : List (Nat × Nat × Nat)) {s : State}, s.ground.Ok → (s.copyImage i dst ps).1.ground.Ok
  | [], _, ok => ok
  | p :: r, s, ok => by
    obtain ⟨read, hm, _⟩ := State.getImage_ok i [p] p.2.1 ⟨rfl, trivial⟩ ok
    unfold State.copyImage
    revert read hm
    generalize s.getImage i [p] = g
    obtain ⟨u, m, t⟩ := g
    intro read hm
    cases t with
    | some t => exact read
    | none =>
      dsimp only
      have bytes : Mem.wf (if p.2.1 = 0 then (u.ctx i).stampExc m else m) = true := by
        split
        · exact Ctx.stampExc_wf _ hm
        · exact hm
      have written := State.putImage_ok read i bytes (trimPieces p.2.1 p.2.2 (imagePieces dst))
      revert written
      generalize u.putImage i (if p.2.1 = 0 then (u.ctx i).stampExc m else m) (trimPieces p.2.1 p.2.2 (imagePieces dst)) = w
      obtain ⟨v, t⟩ := w
      intro written
      cases t with
      | some t => exact written
      | none => exact State.copyImage_ok i dst r written

/-! ## Accesses (R244, R245) -/

/-- The state an access leaves is in canonical form. -/
def AccRes.Ok {α : Type} : AccRes α → Prop
  | .trap _ => True
  | .stall s => s.ground.Ok
  | .ok s _ => s.ground.Ok

section
variable {s : State} (ok : s.ground.Ok)
include ok

theorem State.admitSeq_ok {v : VnpuId} {w : Asker} {rs : List (List (Nat × Nat))} {b : Bool} {u : State} (h : s.admitSeq v w rs = (b, u)) :
    u.ground.Ok := ok.of_eq (by rw [← s.admitSeq_ground v w rs, h])

theorem State.admitAll_ok {v : VnpuId} {w : Asker} {rs : List (Nat × Nat)} {b : Bool} {u : State} (h : s.admitAll v w rs = (b, u)) :
    u.ground.Ok := ok.of_eq (by rw [← s.admitAll_ground v w rs, h])

theorem State.admitPart_ok {rest : Bool} {v : VnpuId} {w : Asker} {rs : List (List (Nat × Nat))} {b : Bool} {u : State}
    (h : s.admitPart rest v w rs = (b, u)) : u.ground.Ok := ok.of_eq (by rw [← s.admitPart_ground rest v w rs, h])

theorem State.loadPart_res_ok (r : Src) (a : Acc) (cls va n : Nat) (l1 engine rest : Bool) : (s.loadPart r a cls va n l1 engine rest).Ok := by
  unfold State.loadPart
  dsimp only
  split
  · exact ok
  · split
    · trivial
    · split
      · trivial
      · split
        · exact ok
        · split
          · next u hu => exact State.admitPart_ok ok hu
          · next u hu =>
            refine foldl_ok (fun s p hs => ?_) _ (Ground.Ok.of_eq (State.admitPart_ok ok hu) (State.fillTlbs_ground ..))
            split <;> simp [hs]

theorem State.load_ok (r : Src) (a : Acc) (cls va n : Nat) (l1 engine : Bool) : (s.load r a cls va n l1 engine).Ok :=
  State.loadPart_res_ok ok ..

omit ok in
/-- Messages sent piece by piece. -/
theorem sendParts_ok (r : Src) (cls : Nat) (v : VnpuId) (home : Nat × Nat × Nat → Nat) (body : Nat × Nat × Nat → List Byte → Nat → Payload)
    (ps : List (Nat × Nat × Nat)) (x : Option State × List Byte) (hx : ∀ u, x.1 = some u → u.ground.Ok) {u : State}
    (h : (ps.foldl (fun (x : Option State × List Byte) p =>
      (x.1.bind fun s => s.sendCounted r cls (home p) v (body p x.2), x.2.drop p.2.2)) x).1 = some u) : u.ground.Ok := by
  induction ps generalizing x with
  | nil => exact hx u h
  | cons p ps ih =>
    refine ih _ (fun w hw => ?_) h
    obtain ⟨y, hy, hw⟩ := Option.bind_eq_some_iff.1 hw
    exact (hx y hy).of_eq (State.sendCounted_ground _ _ _ _ _ _ hw)

theorem State.storeMsg_ok (r : Src) (a : Acc) (cls va : Nat) (bs : List Byte) (after : Nat) (engine alloc : Bool) (tag : Option LineTag) :
    (s.storeMsg r a cls va bs after engine alloc tag).Ok := by
  unfold State.storeMsg
  dsimp only
  split
  · exact ok
  · split
    · trivial
    · split
      · exact ok
      · split
        · next u hu => exact State.admitSeq_ok ok hu
        · next t ht =>
          split
          · next u hu =>
            refine sendParts_ok r cls a.vnpu (fun p => (homeSlice (p.2.1 / 128)).val)
              (fun p l _ => .write [(p.2.1, l.take p.2.2)] after alloc tag) _ _ (fun w hw => ?_) hu
            cases hw
            exact Ground.Ok.of_eq (State.admitSeq_ok ok ht) (State.fillTlbs_ground ..)
          · exact ok

theorem State.prefetch_ok (ea : Nat) : (s.prefetch ea).Ok := by
  unfold State.prefetch
  dsimp only
  split
  · exact ok
  · split
    · exact ok
    · split
      · exact ok
      · split
        · exact ok
        · split
          · exact ok
          · split
            · next u hu => exact State.admitSeq_ok ok hu
            · next u hu =>
              have charged := State.admitSeq_ok ok hu
              unfold AccRes.Ok
              dsimp only
              split <;> simp [charged]

theorem State.sendInv_ok (v : Invocation) (pages : List (Nat × TlbEntry)) : (s.sendInv v pages).Ok := by
  unfold State.sendInv
  dsimp only
  split
  · exact ok
  · split
    · next u hu => exact State.admitAll_ok ok hu
    · next u hu =>
      split
      · next w hw =>
        exact Ground.Ok.of_eq (State.admitAll_ok ok hu) ((State.sendCounted_ground _ _ _ _ _ _ hw).trans (State.fillTlbs_ground ..))
      · exact ok

end

/-! ## Control words (R74, R227, R245) -/

/-- The state an effect leaves is in canonical form. -/
def Ans.Ok : Ans → Prop
  | .done s _ _ _ => s.ground.Ok
  | .stall s => s.ground.Ok
  | .trap s _ => s.ground.Ok
  | .gone s => s.ground.Ok

/-- The next state, where there is one, is in canonical form. -/
def NextOk (r : Result) : Prop := ∀ t, r = .next t → t.ground.Ok

theorem NextOk.next {s : State} (ok : s.ground.Ok) : NextOk (.next s) := fun t h => by cases h; exact ok

theorem Ans.state_ok (i : CtxId) {a : Ans} (ok : a.Ok) : (a.state i).ground.Ok := by
  cases a with
  | done s w pc n => exact Ground.Ok.of_eq ok (s.finish_ground w pc n)
  | stall s => exact ok
  | trap s t => exact State.raise_ok ok i t
  | gone s => exact ok

section
variable {s : State} (ok : s.ground.Ok)
include ok

theorem ctl_ok {x : Instr} {p : Pred} {l : Limit} {ops : List Nat} {body : State → Ctx → Ans} (h : ∀ c, (body s c).Ok) :
    NextOk (ctl x p l ops body s) := by
  unfold ctl
  refine NextOk.next ?_
  split
  · simp [ok]
  · split
    · simp [ok]
    · split
      · simp [ok]
      · split
        · simp [ok]
        · exact Ans.state_ok _ (h _)

theorem AccRes.then_ok {α : Type} {r : AccRes α} {k : State → α → Ans} (h : r.Ok) (hk : ∀ u v, u.ground.Ok → (k u v).Ok) :
    (r.then s k).Ok := by
  cases r with
  | trap t => exact ok
  | stall u => exact h
  | ok u v => exact hk u v h

theorem State.closing_ok {k : State → Ans} (hk : ∀ u, u.ground.Ok → (k u).Ok) : (s.closing k).Ok := by
  unfold State.closing
  dsimp only
  split
  · split
    · exact hk s ok
    · exact ok
  · split
    · exact ok
    · next u hu =>
      have closed : (u.modCtx s.me fun c => { c with stage := .closed (u.phases (.ctx s.me)).closed }).ground.Ok :=
        ok.of_eq ((State.modCtx_ground ..).trans (State.closePhase_ground _ _ _ hu))
      split
      · exact hk _ closed
      · exact closed

theorem State.await_ok {ready : Bool} {o : BitVec 32} {k : State → Ans} (hk : ∀ u, u.ground.Ok → (k u).Ok) : (s.await ready o k).Ok := by
  unfold State.await
  split
  · exact hk _ (by simp [ok])
  · show (s.blockCtx s.me o).ground.Ok
    simp [ok]

theorem State.drain_ok {k : State → Ans} (hk : ∀ u, u.ground.Ok → (k u).Ok) : (s.drain k).Ok := by
  unfold State.drain
  dsimp only
  split
  · exact hk _ (by simp [ok])
  · show (State.blockCtx ..).ground.Ok
    simp [ok]

theorem State.closeOnly_ok {k : State → Ans} (hk : ∀ u, u.ground.Ok → (k u).Ok) : (s.closeOnly k).Ok := by
  unfold State.closeOnly
  split
  · exact ok
  · next u hu => exact hk u (ok.of_eq (State.closePhase_ground _ _ _ hu))

theorem State.closeOnce_ok {k : State → Nat → Ans} (hk : ∀ u n, u.ground.Ok → (k u n).Ok) : (s.closeOnce k).Ok := by
  unfold State.closeOnce
  split
  · exact hk s _ ok
  · exact State.closeOnly_ok ok fun u hu => hk _ _ (by simp [hu])

theorem State.request_ok {q : WftReq} {k : State → Word → Ans} (hk : ∀ v, (k s v).Ok) : (s.request q k).Ok := by
  have sent : (({ s with wftQueue := s.wftQueue ++ [q] } : State).modCtx s.me fun c => { c with stage := .asked }).ground.Ok := ok
  unfold State.request
  cases (s.ctx s.me).stage with
  | replied v => exact hk v
  | asked => exact ok
  | fresh => exact sent
  | closed n => exact sent
  | arrived n => exact sent
  | sent n => exact sent
  | revoking => exact sent

theorem State.rsmark_ok {k : State → Ans} (hk : (k s).Ok) : (s.rsmark k).Ok := by
  unfold State.rsmark
  dsimp only
  split
  · exact ok
  · split
    · exact ok
    · exact hk

theorem State.readFor_res_ok {va n : Nat} {k : State → Nat → Ans} (hk : ∀ u v, u.ground.Ok → (k u v).Ok) : (s.readFor va n k).Ok :=
  AccRes.then_ok ok (State.load_ok ok ..) fun u bs hu => hk u (leNat bs) hu

theorem service_ok {x : Instr} {p : Pred} {sup : Bool} {ops : List Nat} {body : State → Ctx → Ans} (h : ∀ u c, u.ground.Ok → (body u c).Ok) :
    NextOk (service x p sup ops body s) :=
  ctl_ok ok fun c => State.closing_ok ok fun u hu => by
    split
    · exact hu
    · exact h u c hu

theorem mts_ok (x : Instr) (n : SReg) (a : Reg) (c : Ctx) : (mts x n a s c).Ok := by
  unfold mts
  split
  · show (s.sysWrite ..).ground.Ok
    simp [ok]
  · exact ok

theorem fpResult_ok (c : Ctx) (reg : Nat) (v : Word) (fl : Flg) (lat : Nat) : (fpResult s c reg v fl lat).Ok := by
  unfold fpResult
  split <;> exact ok

theorem jumpTo_ok (a : Word) (w : List Landing) : (jumpTo s a w).Ok := by
  unfold jumpTo
  split <;> exact ok

/-! ## Steps of a record (R148, R274) -/

theorem walk_ok {e : Eng} {b : Bool} {r : EngRec} {body : State → EngId → QEntry → Head → State}
    (h : ∀ q x, (body s ⟨s.cur.core, e⟩ q x).ground.Ok) : NextOk (walk e b r body s) := by
  unfold walk
  refine NextOk.next ?_
  split
  · exact ok
  · dsimp only
    split
    · exact ok
    · split
      · simp [ok]
      · exact h _ _

theorem vxStep_ok {b : Bool} {r : EngRec} {f : Core → Slot → Head → Except Trap VOut} : NextOk (vxStep b r f s) :=
  walk_ok ok fun q x => by
    split
    · simp [ok]
    · dsimp only
      split <;> simp [ok]

theorem mxStep_ok {b : Bool} {r : EngRec} {f : Core → Slot → Head → Except Trap MOut} : NextOk (mxStep b r f s) :=
  walk_ok ok fun q x => by split <;> simp [ok]

theorem noStep_ok {b : Bool} {r : EngRec} : NextOk (noStep b r s) := walk_ok ok fun q x => by simp [ok]

theorem execVcmp_ok (r : EngRec) : NextOk (execVcmp r s) := by
  unfold execVcmp
  dsimp only
  split
  · split
    · exact NextOk.next (by simp [ok])
    · exact vxStep_ok ok
  · exact NextOk.next ok

/-! ## Copies (R211, R274, R405) -/

/-- The state a step of a copy leaves is in canonical form. -/
def CRes.Ok : CRes → Prop
  | .fault _ => True
  | .stall s => s.ground.Ok
  | .ok s _ => s.ground.Ok

omit ok in
theorem CRes.ite_ok {c : Prop} [Decidable c] {a b : CRes} (ha : a.Ok) (hb : b.Ok) : (if c then a else b).Ok := by
  split <;> assumption

omit ok in
theorem AccRes.step_ok {α : Type} {r : AccRes α} {k : State → α → CRes} (h : r.Ok) (hk : ∀ u v, u.ground.Ok → (k u v).Ok) :
    (r.step k).Ok := by
  cases r with
  | trap t => trivial
  | stall u => exact h
  | ok u v => exact hk u v h

theorem copyStep_res_ok {e : Eng} {b : Bool} {r : EngRec} {f : State → EngId → QEntry → Head → CRes} (h : ∀ e q x, (f s e q x).Ok) :
    NextOk (copyStep e b r f s) :=
  walk_ok ok fun q x => by
    have step := h ⟨s.cur.core, e⟩ q x
    split
    · simp [ok]
    · next u hu => rw [hu] at step; exact step
    · next u y hu =>
      rw [hu] at step
      exact Ground.Ok.of_eq step (State.setHead_ground ..)

theorem State.sendLine_ok (e : EngId) (q : QEntry) (h : Head) (alloc : Bool) : (s.sendLine e q h alloc).Ok := by
  unfold State.sendLine
  split
  · exact ok
  · exact AccRes.step_ok (State.storeMsg_ok ok ..) fun u _ hu => Ground.Ok.of_eq hu (u.noteSent_ground e)

theorem State.stepEnd_ok (e : EngId) (q : QEntry) (h : Head) (alloc : Bool) (w : Head → Option Nat) : (s.stepEnd e q h alloc w).Ok := by
  have left : (s.leaveUnit e q (Head.advance h q.hdr)).1.ground.Ok := by simp [ok]
  unfold State.stepEnd
  revert left
  generalize s.leaveUnit e q (Head.advance h q.hdr) = r
  obtain ⟨u, n⟩ := r
  intro left
  dsimp only
  split_ifs
  · exact State.sendLine_ok left ..
  · exact State.sendLine_ok (Ground.Ok.of_eq left (State.dropUnit_ground ..)) ..
  · exact left
  · exact Ground.Ok.of_eq left (State.dropUnit_ground ..)

theorem State.readHost_ok (e : EngId) (q : QEntry) (h : Head) (va n : Nat) (w : Head → Option Nat) : (s.readHost e q h va n w).1.ground.Ok := by
  have page := State.hostPage_ok ok q.vnpu va
  unfold State.readHost
  dsimp only
  split
  · split
    · exact ok
    · exact ok
    · simp [ok]
  · split
    · exact ok
    · next u hu => rw [hu] at page; exact page
    · simp [ok]

theorem State.readElem_ok {e : EngId} {q : QEntry} {h : Head} {va n : Nat} {w : Head → Option Nat} {u : State} {x : Option (List Byte × Head)}
    (hr : s.readElem e q h va n w = .ok (u, x)) : u.ground.Ok := by
  have part := State.loadPart_res_ok ok (.eng e) (engAcc e q false (entEnc h.copy.toNat)) q.hdr.cls.toNat va n false true h.unit.isSome
  unfold State.readElem at hr
  dsimp only at hr
  split at hr
  · have host := State.readHost_ok ok e q h va n w
    rw [Except.ok.inj hr] at host
    exact host
  · split at hr
    · split at hr
      · obtain ⟨rfl, _⟩ := Prod.mk.inj (Except.ok.inj hr); exact ok
      · exact nomatch hr
    · next v hv =>
      rw [hv] at part
      obtain ⟨rfl, _⟩ := Prod.mk.inj (Except.ok.inj hr); exact part
    · next v bs hv =>
      rw [hv] at part
      split at hr
      · obtain ⟨rfl, _⟩ := Prod.mk.inj (Except.ok.inj hr); exact part
      · obtain ⟨rfl, _⟩ := Prod.mk.inj (Except.ok.inj hr)
        split
        · exact part
        · exact Ground.Ok.of_eq part (State.modSlice_ground ..)

theorem copyIn_ok (list : Bool) (r : EngRec) (e : EngId) (q : QEntry) (h : Head) : (copyIn list r s e q h).Ok := by
  unfold copyIn
  dsimp only
  split
  · trivial
  · split
    · exact State.stepEnd_ok ok ..
    · split
      · trivial
      · split
        · trivial
        · next u hu => exact State.readElem_ok ok hu
        · next u bs y hu => exact State.stepEnd_ok (State.readElem_ok ok hu) ..

theorem pfinStep_ok (r : EngRec) (e : EngId) (q : QEntry) (h : Head) : (pfinStep r s e q h).Ok := by
  have fin (y : Head) : (s.stepEnd e q y true fun _ => none).Ok := State.stepEnd_ok ok ..
  unfold pfinStep
  dsimp only
  split
  · exact fin _
  · split
    · split
      · exact fin _
      · trivial
    · split
      · exact fin _
      · split
        · exact ok
        · split
          · exact fin _
          · split
            · exact fin _
            · split
              · exact ok
              · split
                · next u hu => exact State.admitSeq_ok ok hu
                · next u hu =>
                  have charged := State.admitSeq_ok ok hu
                  refine State.stepEnd_ok ?_ ..
                  split
                  · simp [charged]
                  · unfold State.expel; simp [charged]

theorem execFill_ok (r : EngRec) : NextOk (execFill r s) := by
  unfold execFill
  refine copyStep_res_ok ok fun e q x => ?_
  split
  · trivial
  · exact State.stepEnd_ok ok ..

theorem execCploc_ok (r : EngRec) : NextOk (execCploc r s) := by
  unfold execCploc
  refine copyStep_res_ok ok fun e q x => ?_
  dsimp only
  split
  · trivial
  · exact State.stepEnd_ok ok ..

theorem State.writeEnc_ok (e : EngId) (q : QEntry) (h : Head) (va : Nat) (bs : List Byte) (alloc : Bool) : (s.writeEnc e q h va bs alloc).Ok := by
  unfold State.writeEnc
  dsimp only
  split
  · exact ok
  · split
    · trivial
    · split
      · exact CRes.ite_ok trivial (State.stepEnd_ok ok ..)
      · split
        · exact State.stepEnd_ok ok ..
        · refine CRes.ite_ok trivial ?_
          · have sent := State.sendLine_ok ok e q h alloc
            split
            · next u y hu =>
              rw [hu] at sent
              have merged := State.stepEnd_ok sent e q { y with openLine := some ⟨lineVa va, mergeLine 0 (va % 128) bs⟩ } alloc fun _ => none
              split
              · next v hv => rw [hv] at merged; exact merged
              · exact merged
            · exact sent

theorem State.writeHost_ok (e : EngId) (q : QEntry) (h : Head) (va : Nat) (bs : List Byte) (alloc : Bool) (w : Head → Option Nat) :
    (s.writeHost e q h va bs alloc w).Ok := by
  have page := State.hostPage_ok ok q.vnpu va
  have send (h : Head) (parts : List (Nat × List Byte)) : (match s.admitAll q.vnpu (s.asker (.eng e)) [(e.core.val, bs.length)] with
      | (false, s) => CRes.stall s
      | (true, t) => match t.sendCounted (.eng e) q.hdr.cls.toNat hostPort q.vnpu fun _ => .hostWrite q.vnpu parts with
        | none => .stall s
        | some s => s.stepEnd e q h alloc (if parts.isEmpty then fun _ => none else w)).Ok := by
    split
    · next u hu => exact State.admitAll_ok ok hu
    · next u hu =>
      split
      · exact ok
      · next v hv => exact State.stepEnd_ok (Ground.Ok.of_eq (State.admitAll_ok ok hu) (State.sendCounted_ground _ _ _ _ _ _ hv)) ..
  unfold State.writeHost
  dsimp only
  split
  · exact State.stepEnd_ok (ok.of_eq ((State.appendPart_ground ..).trans (State.charge_ground ..))) ..
  · split
    · next u hu => rw [hu] at page; exact page
    · exact send _ []
    · exact send _ [_]

theorem State.writePlain_ok (e : EngId) (q : QEntry) (h : Head) (va : Nat) (bs : List Byte) (alloc : Bool) (w : Head → Option Nat) :
    (s.writePlain e q h va bs alloc w).Ok := by
  unfold State.writePlain
  dsimp only
  split
  · split
    · trivial
    · exact State.stepEnd_ok (ok.of_eq ((State.appendPart_ground ..).trans (State.charge_ground ..))) ..
  · exact AccRes.step_ok (State.storeMsg_ok ok ..) fun u _ hu => State.stepEnd_ok hu ..

theorem State.writeElem_ok (e : EngId) (q : QEntry) (h : Head) (va : Nat) (bs : List Byte) (alloc : Bool) (w : Head → Option Nat) :
    (s.writeElem e q h va bs alloc w).Ok := by
  unfold State.writeElem
  dsimp only
  split
  · exact State.writeHost_ok ok ..
  · split
    · exact State.writeEnc_ok ok ..
    · exact State.writePlain_ok ok ..

theorem copyOut_ok (list alloc : Bool) (r : EngRec) (e : EngId) (q : QEntry) (h : Head) : (copyOut list alloc r s e q h).Ok := by
  unfold copyOut
  dsimp only
  split
  · trivial
  · split
    · exact State.stepEnd_ok ok ..
    · split
      · trivial
      · split
        · trivial
        · exact State.writeElem_ok ok ..

/-! ## Transfer records (R376, R377) and routines (R285) -/

theorem State.modPhase_ok (n : Nat) (f : XPhase → XPhase) : (s.modPhase n f).ground.Ok := ok

theorem inPhaseStep_ok {f : State → CtxId → XPhase → Nat → State} (h : ∀ i x n, (f s i x n).ground.Ok) : NextOk (inPhaseStep f s) := by
  unfold inPhaseStep
  refine NextOk.next ?_
  split
  · exact ok
  · split
    · exact ok
    · dsimp only
      split
      · exact ok
      · exact h _ _ _

@[simp] theorem State.commitLanes_ok (v : Invocation) (e : Exec) : (s.commitLanes v e).ground.Ok := by
  unfold State.commitLanes
  dsimp only
  split
  · exact ok
  · rw [State.sliceAccess_ground]
    refine foldl_ok (fun s k hs => ?_) _ ok
    split
    · exact State.dstore_ok hs ..
    · exact hs

@[simp] theorem State.endRoutine_ok (e : Exec) (commit : Bool) : (s.endRoutine e commit).ground.Ok := by
  unfold State.endRoutine
  dsimp only
  split
  · simp [ok]
  · split <;> simp [ok]

theorem slWord_ok {f : Exec → Exec} : NextOk (slWord f s) := by
  unfold slWord
  refine NextOk.next ?_
  dsimp only
  split <;> simp [ok]

end

end Sys2Proof.Machine

/-! The canonical form of the memories (logs 2, 4) through the events of records, messages, meetings and the walker. -/

namespace Sys2Proof.Machine

theorem ite_ok {c : Prop} [Decidable c] {s t : State} (hs : s.ground.Ok) (ht : t.ground.Ok) : (if c then s else t).ground.Ok := by
  split <;> assumption

/-! ## Starts (R152, R271) -/

/-- The state a tensor entry is taken in is in canonical form. -/
def StartRes.Ok : StartRes → Prop
  | .fault _ => True
  | .stall s => s.ground.Ok
  | .ok s _ => s.ground.Ok

theorem StartRes.ite_ok {c : Prop} [Decidable c] {a b : StartRes} (ha : a.Ok) (hb : b.Ok) : (if c then a else b).Ok := by
  split <;> assumption

section
variable {s : State} (ok : s.ground.Ok)
include ok

theorem State.takeEntry_ok (e : EngId) (q : QEntry) : (s.takeEntry e q).Ok := by
  have read := State.load_ok ok (.eng e) (engAcc e q false false) q.hdr.cls.toNat ((s.ctx ⟨e.core, q.slot⟩).entryAddr (handleSlot q.hdr)) 44 false true
  unfold State.takeEntry
  dsimp only
  split
  · trivial
  · split
    · trivial
    · next u hu => rw [hu] at read; exact read
    · next u bs hu =>
      rw [hu] at read
      have taken : u.ground.Ok := read
      refine StartRes.ite_ok trivial (StartRes.ite_ok trivial (StartRes.ite_ok trivial ?_))
      unfold StartRes.Ok
      dsimp only
      split <;> simp [taken]

@[simp] theorem State.startEntry_ok (e : EngId) (q : QEntry) (pop : Bool) : (s.startEntry e q pop).ground.Ok := by
  have taken := State.takeEntry_ok ok e q
  unfold State.startEntry
  split
  · simp [ok]
  · split
    · next u hu => rw [hu] at taken; exact taken
    · dsimp only
      split <;> simp [ok]
    · next u copy hu =>
      rw [hu] at taken
      exact Ground.Ok.of_eq taken (State.begin_ground ..)

@[simp] theorem State.recordStart_ok (e : EngId) : (s.recordStart e).ground.Ok := by
  unfold State.recordStart
  split
  · exact ok
  · next q _ _ =>
    dsimp only
    have full : (if !s.phaseDone (.ctx ⟨e.core, q.slot⟩) q.gate || s.awaitsRevocation e q then s
      else match s.startHold e q with
        | some o => s.engStall e q o
        | none => if !s.paced e q.slot then s else s.startEntry e q true).ground.Ok := by
      split
      · exact ok
      · split
        · simp [ok]
        · split <;> simp [ok]
    split
    · simp [ok]
    · split
      · exact ok
      · exact ok
      · split
        · simp [ok]
        · exact full
      · split
        · exact ok
        · split
          · simp [ok]
          · split
            · exact full
            · split <;> simp [ok]

/-! ## Arrivals (R229, R238, R276) -/

@[simp] theorem State.performWrite_ok (m : Msg) (parts : List (Nat × List Byte)) (line : Nat) (alloc : Bool) (tag : Option LineTag) :
    (s.performWrite m parts line alloc tag).ground.Ok := by
  unfold State.performWrite
  dsimp only
  rw [State.putTag_ground, State.sliceAccess_ground]
  refine foldl_ok (fun s p hs => ?_) parts ok
  split <;> simp [hs]

@[simp] theorem State.arriveWrite_ok (m : Msg) (parts : List (Nat × List Byte)) (after : Nat) (alloc : Bool) (tag : Option LineTag) :
    (s.arriveWrite m parts after alloc tag).ground.Ok := by
  unfold State.arriveWrite
  dsimp only
  split
  · simp [ok]
  · split
    · exact ok
    · split
      · next u hu => exact State.admitSeq_ok ok hu
      · next u hu => simp [State.admitSeq_ok ok hu]

omit ok in
/-- Bytes written to host memory part by part. -/
theorem hostWrites_ok (parts : List (Nat × List Byte)) {s : State} (ok : s.ground.Ok) :
    (parts.foldl (fun s p => ({ s with host := s.host.write p.1 p.2 } : State)) s).ground.Ok :=
  have write (s : State) (p : Nat × List Byte) (hs : s.ground.Ok) : ({ s with host := s.host.write p.1 p.2 } : State).ground.Ok :=
    ⟨hs.1, wf_write hs.2⟩
  foldl_ok write parts ok

@[simp] theorem State.arriveHost_ok (m : Msg) (v : VnpuId) (parts : List (Nat × List Byte)) : (s.arriveHost m v parts).ground.Ok := by
  unfold State.arriveHost
  split
  · exact ok
  · dsimp only
    rw [State.countArrival_ground, State.unpost_ground]
    split
    · exact hostWrites_ok parts ok
    · split <;> simp [ok]

theorem execAccessArrival_ok : NextOk (execAccessArrival s) := by
  unfold execAccessArrival
  refine NextOk.next ?_
  split
  · exact ok
  · split <;> simp [ok]

theorem execPhaseMarker_ok : NextOk (execPhaseMarker s) := by
  unfold execPhaseMarker
  refine NextOk.next ?_
  split
  · exact ok
  · split
    · dsimp only
      split
      · exact ok
      · rw [State.setPhases_ground]
        split <;> exact ok
    · exact ok

omit ok in
theorem State.grantFirst_ok (m : SliceId) (x : Fin 4) : ∀ (l : List (TopId × Invocation)) {s : State}, s.ground.Ok → (s.grantFirst m x l).ground.Ok
  | [], _, ok => ok
  | (t, i) :: rest, s, ok => by
    unfold State.grantFirst
    dsimp only
    split
    · split <;> simp [ok]
    · split
      · next u hu => exact State.grantFirst_ok m x rest (State.admitSeq_ok ok hu)
      · next u hu => simp [State.admitSeq_ok ok hu]

@[simp] theorem State.takeInv_ok (m : SliceId) : (s.takeInv m).ground.Ok := by
  unfold State.takeInv
  split
  · exact ok
  · exact State.grantFirst_ok _ _ _ ok

/-! ## Replies (R293-R300) -/

theorem State.retryInv_ok (m : Msg) (i : Invocation) {fail : State → Trap → State} (h : ∀ u t, u.ground.Ok → (fail u t).ground.Ok) :
    (s.retryInv m i fail).ground.Ok := by
  have forgotten : (s.modCore i.src.core fun k => { k with tlb := k.tlb.filter fun e => !(e.vnpu = i.vnpu && e.covers i.va) }).ground.Ok := ok
  unfold State.retryInv
  dsimp only
  split
  · exact ok
  · split
    · exact h _ _ ok
    · split
      · exact ok
      · split
        · next u hu => exact State.admitAll_ok forgotten hu
        · next u hu =>
          have charged : u.ground.Ok := State.admitAll_ok forgotten hu
          split
          · exact ok
          · next v hv =>
            exact charged.of_eq ((State.post_ground ..).trans ((State.countRetry_ground _ _ _ hv).trans (State.fillTlbs_ground ..)))

@[simp] theorem State.slxReply_ok (m : Msg) (i : Invocation) (r : Reply) : (s.slxReply m i r).ground.Ok := by
  unfold State.slxReply
  split
  · exact ok
  · split
    · simp [ok]
    · exact State.retryInv_ok ok m i fun u t hu => State.raise_ok hu ..
    · simp [ok]

@[simp] theorem State.slxnReply_ok (m : Msg) (i : Invocation) (r : Reply) : (s.slxnReply m i r).ground.Ok := by
  unfold State.slxnReply
  dsimp only
  split
  · exact ok
  · split
    · exact ok
    · refine State.retryInv_ok ok m i fun u t hu => ?_
      split <;> simp [hu]
    · split <;> simp [ok]

theorem execSlxReply_ok : NextOk (execSlxReply s) := by
  unfold execSlxReply
  refine NextOk.next ?_
  split
  · exact ok
  · split
    · split_ifs <;> simp [ok]
    · exact ok

/-! ## Page migration (R299) -/

@[simp] theorem State.putEntry_ok (at_ size v : Nat) : (s.putEntry at_ size v).ground.Ok := by
  unfold State.putEntry
  rw [State.rootWrote_ground]
  split
  · exact foldl_ok (fun _ _ hs => State.dstore_ok hs ..) _ ok
  · simp [ok]

@[simp] theorem State.passPage_ok (page : Nat) (w : BitVec 8) : (s.passPage page w).ground.Ok := ok

@[simp] theorem State.copyPage_ok (old new : Nat) : (s.copyPage old new).ground.Ok := by
  unfold State.copyPage
  split
  · exact ok
  · dsimp only
    rw [foldl_ground fun s i => s.rootWrote_ground _]
    have touched := State.touch_ok ok new
    exact ⟨wf_splice touched.1 touched.1, touched.2⟩

@[simp] theorem State.mark_ok (v : VnpuId) (ipage new : Nat) : (s.mark v ipage new).ground.Ok := by
  unfold State.mark
  split
  · exact ok
  · dsimp only
    split
    · exact ok
    · rw [State.nackMarked_ground]; exact ok

@[simp] theorem State.flip_ok (g : Migration) : (s.flip g).ground.Ok := by
  unfold State.flip
  dsimp only
  split
  · exact ok
  · next at_ e size _ =>
    have copy (s : State) (i : Nat) (hs : s.ground.Ok) :
        ((s.passPage (g.new + i) (s.pageWorld (g.old + i))).copyPage (g.old + i) (g.new + i)).ground.Ok :=
      State.copyPage_ok (State.passPage_ok hs ..) ..
    have pass (s : State) (i : Nat) (hs : s.ground.Ok) : (s.passPage (g.old + i) 0).ground.Ok := State.passPage_ok hs ..
    exact foldl_ok pass (List.range g.pages) (State.putEntry_ok (foldl_ok copy (List.range g.pages) ok) at_ size (e - bits e 47 12 * 4096 + g.new * 4096))

@[simp] theorem State.migrate_ok (v : VnpuId) (ipage new : Nat) : (s.migrate v ipage new).ground.Ok := by
  unfold State.migrate
  split
  · simp [ok]
  · exact ite_ok (by simp [ok]) (State.flip_ok (by simp [ok]) _)

/-! ## Meetings (R369-R377) -/

theorem execBarrierCompletion_ok : NextOk (execBarrierCompletion s) := by
  unfold execBarrierCompletion
  refine NextOk.next ?_
  split
  · exact ok
  · dsimp only
    split
    · exact ok
    · rw [State.meetStamps_ground, State.dropMembers_ground, State.freeMembers_ground]; exact ok

theorem execTransferPhaseStart_ok : NextOk (execTransferPhaseStart s) := by
  unfold execTransferPhaseStart
  refine NextOk.next ?_
  split
  · exact ok
  · dsimp only
    split
    · exact ok
    · rw [State.meetStamps_ground, foldl_ground (fun s i => by simp), State.freeMembers_ground]; exact ok

@[simp] theorem State.performBeats_ok (x : XPhase) (c : Nat) : (s.performBeats x c).ground.Ok := by
  have write (s : State) (w : BeatWrite) (hs : s.ground.Ok) :
      (s.modCore w.core fun k => k.lstore w.addr (leBytes 32 w.data.toNat)).ground.Ok := hs
  exact State.modPhase_ok (foldl_ok write _ ok) ..

@[simp] theorem State.endProgram_ok (x : XPhase) (i : CtxId) : (s.endProgram x i).ground.Ok := by
  have retired (n : Nat) {u : State} (hu : u.ground.Ok) :
      (((List.range n).foldl (fun s _ => (s.stampNow ⟨i.core, .xf⟩).retire ⟨i.core, .xf⟩) u).modCtx i Ctx.unpop).ground.Ok := by
    rw [State.modCtx_ground, foldl_ground (fun s _ => by simp)]; exact hu
  unfold State.endProgram
  dsimp only
  split
  · exact retired _ ok
  · exact retired _ ok

theorem execTransferPhaseClose_ok : NextOk (execTransferPhaseClose s) := by
  unfold execTransferPhaseClose
  refine NextOk.next ?_
  split
  · exact ok
  · next x _ =>
    split
    · exact ok
    · dsimp only
      split
      · exact ok
      · rw [foldl_ground fun s i => State.afterPhase_ground s i]
        have ended (s : State) (i : CtxId) (hs : s.ground.Ok) : (s.endProgram x i).ground.Ok := State.endProgram_ok hs x i
        exact foldl_ok ended _ (State.performBeats_ok ok x _)

/-! ## The walker (R305-R317) -/

@[simp] theorem State.readProd_ok (v : VnpuId) (q : Fin 8) : (s.readProd v q).ground.Ok := by
  unfold State.readProd
  dsimp only
  split
  · simp [ok]
  · split
    · exact ok
    · split
      · simp [ok]
      · next u bs hu => simp [State.qRead_ok ok hu]

@[simp] theorem State.takeNest_ok (v : VnpuId) (q : Fin 8) (n : Nest) : (s.takeNest v q n).ground.Ok := by
  unfold State.takeNest
  dsimp only
  rw [State.gained_ground]
  refine State.settleQueue_ok (State.publish_ok ?_ v q false) v q
  exact ok

@[simp] theorem State.failTake_ok (v : VnpuId) (q : Fin 8) : (s.failTake v q).ground.Ok := by unfold State.failTake; simp [ok]

theorem State.queuePages_ok (v : VnpuId) (r : QueueRec) (x : LaunchQueue) : (s.queuePages v r x).Ok := by
  unfold State.queuePages
  split
  · trivial
  · have block := State.hostPage_ok ok v r.qcb
    split
    · exact State.hostPage_ok ok ..
    · exact block

theorem execWalkerTake_ok : NextOk (execWalkerTake s) := by
  unfold execWalkerTake
  refine NextOk.next ?_
  have pages := State.queuePages_ok ok s.cur.ev.vnpu ((s.contract s.cur.ev.vnpu).queues.get s.cur.ev.queue) s.evQueue
  split
  · exact ok
  · split
    · exact ok
    · split
      · next u hu => rw [hu] at pages; exact Ground.Ok.of_eq pages (State.unhold_ground ..)
      · simp [ok]
      · split
        · next u hu => exact State.admitAll_ok ok hu
        · next u hu =>
          have charged := State.admitAll_ok ok hu
          split
          · dsimp only
            split
            · simp [charged]
            · next w bs hw => simp [State.qRead_ok charged hw]
          · exact State.failTake_ok charged ..

theorem execDispatch_ok : NextOk (execDispatch s) := by
  unfold execDispatch
  refine NextOk.next ?_
  split
  · exact ok
  · split
    · exact ok
    · split <;> simp [ok]

@[simp] theorem State.resumeUnit_ok (c : CoreId) (l : LeafId) (macOk : Bool) : (s.resumeUnit c l macOk).ground.Ok := by
  unfold State.resumeUnit
  split
  · exact ok
  · dsimp only
    split
    · split <;> simp [ok]
    · rw [State.deliverCut_ground, foldl_ground (fun s e => by simp)]
      simp [ok]

theorem execUnitResume_ok : NextOk (execUnitResume s) := by
  unfold execUnitResume
  refine NextOk.next ?_
  split
  · exact ok
  · split_ifs <;> simp [ok]

theorem execHarvestDeal_ok : NextOk (execHarvestDeal s) := by
  unfold execHarvestDeal
  refine NextOk.next ?_
  split
  · exact ok
  · split
    · exact ok
    · split <;> simp [ok]

theorem execUnpark_ok : NextOk (execUnpark s) := by
  unfold execUnpark
  refine NextOk.next ?_
  split
  · exact ok
  · split
    · exact ok
    · refine ite_ok (State.raise_ok ?_ ..) ?_
      · exact ok
      · exact ok

end

end Sys2Proof.Machine

/-! The canonical form of the memories (logs 2, 4) through the events of time, failures, isolation and the interfaces, and what a step
prepares. -/

namespace Sys2Proof.Machine

section
variable {s : State} (ok : s.ground.Ok)
include ok

/-! ## Frames and windows (R319, R320, R442) -/

theorem execRegulatorTrip_ok : NextOk (execRegulatorTrip s) := by
  refine NextOk.next (ite_ok ok ?_)
  rw [foldl_ground fun s i => State.causeAt_ground ..]
  simp [ok]

theorem execFrameStart_ok : NextOk (execFrameStart s) := by
  have begun (u : State) (hu : u.ground.Ok) : ({ u with
        frameStartAt := u.gtc.toNat
        leaves := u.leaves.map fun x => { x with used := 0, reached := false }
        topUsed := Vector.replicate 8 0
        topReached := 0
        regs := u.regs.map fun r => { r with tripped := false } } : State).ground.Ok := hu
  have noted : s.noteSuspended.ground.Ok := ok.of_eq (State.noteSuspended_ground s)
  unfold execFrameStart
  refine NextOk.next (ite_ok ok (begun _ ?_))
  split
  · exact noted.of_eq (State.takeEffect_ground ..)
  · exact noted

theorem execWindowBoundary_ok : NextOk (execWindowBoundary s) := by
  unfold execWindowBoundary
  refine NextOk.next ?_
  split
  · exact ok
  · dsimp only
    split_ifs <;> simp [ok]

@[simp] theorem State.withdraw_ok (i : CtxId) : (s.withdraw i).ground.Ok := by
  unfold State.withdraw
  split
  · split <;> simp [ok]
  · exact ok

@[simp] theorem State.forceSave_ok (c : CoreId) : (s.forceSave c).ground.Ok := by
  have cut : ((s.withdraw ⟨c, .o⟩).cutStep ⟨c, .o⟩).ground.Ok := by simp [ok]
  unfold State.forceSave
  dsimp only
  revert cut
  generalize (s.withdraw ⟨c, .o⟩).cutStep ⟨c, .o⟩ = u
  intro cut
  refine ite_ok ok ?_
  split
  · exact ok
  · refine ite_ok ok (ite_ok cut ?_)
    split
    · split
      · exact cut
      · next v hv =>
        have closed := cut.of_eq (State.closePhase_ground _ _ _ hv)
        exact closed
    · exact ite_ok cut (by simp [cut])

theorem execBudgetTime_ok : NextOk (execBudgetTime s) := by
  have own : (if (s.leafContract s.cur.ev.leaf).budget ≠ 0 && decide ((s.leafContract s.cur.ev.leaf).budget ≤ (s.leaf s.cur.ev.leaf).used)
        && !(s.leaf s.cur.ev.leaf).reached then
      (s.modLeaf s.cur.ev.leaf fun x => { x with reached := true }).applyBudget s.cur.ev.leaf (s.leafContract s.cur.ev.leaf).suspend
        (s.leafContract s.cur.ev.leaf).budget
    else s).ground.Ok := ite_ok (by simp [ok]) ok
  refine NextOk.next (ite_ok ?_ own)
  rw [foldl_ground fun s m => State.applyBudget_ground ..]
  exact own

/-! ## Power and failures (R339, R423, R451) -/

theorem execIntervalBoundary_ok : NextOk (execIntervalBoundary s) := by
  have settled : ({ s.settleInterval s.cur.ev.n with
      accountsFresh := false
      spiFrame := (s.spiFrame + 1) % 2 ^ 16, spiAt := s.gtc.toNat } : State).ground.Ok := ok.of_eq (State.settleInterval_ground ..)
  unfold execIntervalBoundary
  split
  · exact NextOk.next ok
  · dsimp only
    revert settled
    generalize ({ s.settleInterval s.cur.ev.n with
      accountsFresh := false
      spiFrame := (s.spiFrame + 1) % 2 ^ 16, spiAt := s.gtc.toNat } : State) = u
    intro settled
    have granted := settled.of_eq (State.grantClaims_ground u)
    revert granted
    generalize u.grantClaims = g
    intro granted
    refine NextOk.next ?_
    simp only [State.ground] at granted ⊢
    exact granted

@[simp] theorem State.endParked_ok (c : CoreId) (b : Fin 4) : (s.endParked c b).ground.Ok := by
  unfold State.endParked
  dsimp only
  split
  · exact ok
  · split <;> simp [ok]

@[simp] theorem State.failParked_ok (c : CoreId) (b : Fin 4) (cause : Nat) : (s.failParked c b cause).ground.Ok := by
  unfold State.failParked
  dsimp only
  split <;> simp [ok]

@[simp] theorem State.endFailures_ok (c : CoreId) : (s.endFailures c).ground.Ok := by
  have parked (s : State) (b : Fin 4) (hs : s.ground.Ok) : (s.endParked c b).ground.Ok := State.endParked_ok hs c b
  have saved (s : State) (l : LeafId) (hs : s.ground.Ok) : (s.endSaved c l).ground.Ok := State.endSaved_ok hs c l
  exact foldl_ok parked _ (foldl_ok saved _ (State.endFailure_ok (State.endFailure_ok ok _) _))

@[simp] theorem State.failCore_ok (c : CoreId) (cause : Nat) : (s.failCore c cause).ground.Ok := by
  have parked (s : State) (b : Fin 4) (hs : s.ground.Ok) : (s.failParked c b cause).ground.Ok := State.failParked_ok hs c b cause
  have saved (s : State) (x : Saved) (hs : s.ground.Ok) : (s.failSaved c x cause).ground.Ok := State.failSaved_ok hs c x cause
  have running (sl : Slot) (s : State) (hs : s.ground.Ok) :
      (if (s.ctx ⟨c, sl⟩).live then s.unitFailure ⟨c, sl⟩ cause else s).ground.Ok := ite_ok (State.unitFailure_ok hs ..) hs
  have blank : (if cause = 0x1E then (s.modCtx ⟨c, .o⟩ Ctx.blank).modCtx ⟨c, .h⟩ Ctx.blank else s).ground.Ok := ite_ok (by simp [ok]) ok
  exact foldl_ok parked _ (foldl_ok saved _ (running .h _ (running .o _ blank)))

@[simp] theorem State.loseCores_ok (cs : List CoreId) (cause : Nat) : (s.loseCores cs cause).ground.Ok := by
  have fail (s : State) (c : CoreId) (hs : s.ground.Ok) : (s.failCore c cause).ground.Ok := State.failCore_ok hs c cause
  refine foldl_ok fail cs ?_
  rw [foldl_ground fun s c => State.modCore_ground ..]
  exact ok

theorem execRetentionExit_ok : NextOk (execRetentionExit s) := by
  unfold execRetentionExit
  refine NextOk.next ?_
  dsimp only
  split_ifs <;> simp [ok]

/-! ## Isolation (R402, R416, R452) -/

@[simp] theorem State.endQueue_ok (v : VnpuId) (q : Fin 8) : (s.endQueue v q).ground.Ok := by
  unfold State.endQueue
  dsimp only
  split <;> simp [ok]

@[simp] theorem State.finishReset_ok (v : VnpuId) : (s.finishReset v).ground.Ok := by
  have queue (s : State) (q : Fin 8) (hs : s.ground.Ok) : (s.endQueue v q).ground.Ok := State.endQueue_ok hs v q
  unfold State.finishReset
  dsimp only
  refine ite_ok (by simp [ok]) ?_
  rw [State.msixStatus_ground, State.modVnpu_ground]
  refine foldl_ok queue _ ?_
  rw [State.dropDomains_ground, foldl_ground fun s c => State.endCore_ground ..]
  simp [ok]

@[simp] theorem State.unmapPage_ok (v : VnpuId) (ipage page : Nat) : (s.unmapPage v ipage page).ground.Ok := by
  unfold State.unmapPage
  split
  · exact ite_ok (by simp [ok]) ok
  · exact ok

theorem execPageWorldChange_ok : NextOk (execPageWorldChange s) :=
  NextOk.next (ite_ok ok (ite_ok ok (State.passPage_ok (State.unmapPage_ok ok ..) ..)))

theorem State.putReceipt_ok (v : VnpuId) (c : CoreId) {x : Mem} (hx : x.wf = true) (ps : List (Nat × Nat × Nat)) :
    (s.putReceipt v c x ps).ground.Ok := by
  refine foldl_ok (fun s p hs => ?_) ps ok
  dsimp only
  split
  · exact State.spliceIn_ok hs _ _ _ _ hx _
  · exact hs

@[simp] theorem State.retirePage_ok (v : VnpuId) (first page : Nat) : (s.retirePage v first page).ground.Ok := by
  unfold State.retirePage
  split <;> simp [ok]

@[simp] theorem State.retirePages_ok (v : VnpuId) (first : Nat) (pages : List Nat) : (s.retirePages v first pages).ground.Ok :=
  foldl_ok (fun _ p hs => State.retirePage_ok hs v first p) pages ok

theorem execScrubSweep_ok : NextOk (execScrubSweep s) := by
  unfold execScrubSweep
  refine NextOk.next ?_
  split
  · simp [ok]
  · dsimp only
    exact ite_ok ok (State.retirePages_ok (State.putReceipt_ok (by simp [ok]) _ _ (imageOf_wf _) _) ..)

/-! ## The interfaces (R414, R454, R478) -/

theorem execConfigurationRequest_ok : NextOk (execConfigurationRequest s) := by
  unfold execConfigurationRequest
  refine NextOk.next ?_
  dsimp only
  split
  · exact ok
  · refine ite_ok ok (ite_ok ?_ ok)
    rw [State.tdispError_ground]
    exact ok

theorem execHostCompletion_ok : NextOk (execHostCompletion s) := by
  unfold execHostCompletion
  refine NextOk.next ?_
  split
  · exact ok
  · dsimp only
    refine ite_ok (ite_ok ok (by simp [ok])) (ite_ok ok (ite_ok (by simp [ok]) (ite_ok (ite_ok (by simp [ok]) (by simp [ok])) ?_)))
    split
    · next u hu =>
      have held := State.admitAll_ok ok hu
      exact held
    · next u hu => simp [State.admitAll_ok ok hu]

@[simp] theorem State.refuseQueues_ok (v : VnpuId) (page : Nat) : (s.refuseQueues v page).ground.Ok := by
  refine foldl_ok (fun s q hs => ?_) _ ok
  dsimp only
  split_ifs <;> simp [hs]

@[simp] theorem State.refusePage_ok (v : VnpuId) (page : Nat) : (s.refusePage v page).ground.Ok := by
  unfold State.refusePage
  simp [ok]

theorem execPageRequestResponse_ok : NextOk (execPageRequestResponse s) := by
  unfold execPageRequestResponse
  refine NextOk.next ?_
  dsimp only
  split
  · simp [ok]
  · refine ite_ok ok (ite_ok ok (State.refusePage_ok ?_ ..))
    exact ok

theorem execPageRequestTimeout_ok : NextOk (execPageRequestTimeout s) := by
  unfold execPageRequestTimeout
  refine NextOk.next ?_
  dsimp only
  split
  · exact ok
  · refine ite_ok ok (ite_ok ok (State.refusePage_ok ?_ ..))
    exact ok

theorem execBlobLoad_ok : NextOk (execBlobLoad s) := by
  unfold execBlobLoad
  refine NextOk.next (ite_ok ok ?_)
  split
  · exact ite_ok (by rw [State.loadBlob_ground]; exact ok) ok
  · exact ite_ok ok ok

/-! ## Errors and module reset (R449, R478) -/

@[simp] theorem State.poisonLine_ok (line : Nat) : (s.poisonLine line).ground.Ok := by
  unfold State.poisonLine
  dsimp only
  refine ite_ok ok ?_
  rw [State.errAt_ground]
  exact State.touch_ok ok _

@[simp] theorem State.loseCtx_ok (i : CtxId) : (s.loseCtx i).ground.Ok := ite_ok (by simp [ok]) ok

@[simp] theorem State.loseBank_ok (c : CoreId) (b : Fin 4) : (s.loseBank c b).ground.Ok := by
  unfold State.loseBank
  dsimp only
  split_ifs <;> simp [ok]

@[simp] theorem State.abortExec_ok (m : SliceId) (x : Fin 4) : (s.abortExec m x).ground.Ok := by
  unfold State.abortExec
  split <;> simp [ok]

theorem execEccError_ok : NextOk (execEccError s) := by
  unfold execEccError
  refine NextOk.next (ite_ok (by simp [ok]) ?_)
  cases s.cur.ev.site with
  | stripTlb m n => rw [State.sramError_ground]; exact ok
  | tensorLine line => exact ite_ok ok ok
  | dramLine line => simp [ok]
  | localUnit c a => simp [ok]
  | l1 c line => simp [ok]
  | icache c line => simp [ok]
  | ctxState i => simp [ok]
  | cupboard c b => simp [ok]
  | tlb c n => simp [ok]
  | clearSig c => simp [ok]
  | wftEntry n => simp [ok]
  | routineImage m slot => simp [ok]
  | executor m x => simp [ok]

theorem execSensorRead_ok : NextOk (execSensorRead s) := by
  refine NextOk.next (ite_ok ⟨rfl, ok.2⟩ (ite_ok ok ?_))
  dsimp only
  rw [foldl_ground fun s n => State.thermal_ground ..]
  exact ok

theorem execModuleReset_ok : NextOk (execModuleReset s) := NextOk.next ⟨rfl, ok.2⟩

end

end Sys2Proof.Machine

/-! The canonical form of the memories (logs 2, 4) through each control word. -/

namespace Sys2Proof.Machine

theorem Ans.ite_ok {c : Prop} [Decidable c] {a b : Ans} (ha : a.Ok) (hb : b.Ok) : (if c then a else b).Ok := by
  split <;> assumption

theorem plain_ok {s : State} (ok : s.ground.Ok) : (plain s).Ok := ok

theorem one_ok {s : State} (ok : s.ground.Ok) (d : Reg) (v : Word) (lat : Nat) : (one s d v lat).Ok := ok

theorem served_ok {s : State} (ok : s.ground.Ok) (st v : Nat) : (served s st v).Ok := ok

section
variable {s : State} (ok : s.ground.Ok)
include ok

/-! ## Memory (R244-R250) -/

theorem execLd_ok (p : Pred) (d : Reg) (m : MemArg) (sx : Bool) : NextOk (execLd p d m sx s) :=
  ctl_ok ok fun _ => AccRes.then_ok ok (State.load_ok ok ..) fun _ _ hu => hu

theorem execSt_ok (p : Pred) (d : Reg) (m : MemArg) : NextOk (execSt p d m s) :=
  ctl_ok ok fun _ => AccRes.then_ok ok (State.storeMsg_ok ok ..) fun _ _ hu => hu

theorem execLdp_ok (p : Pred) (d a : Reg) (mode : AMode) (size : BitVec 2) (sx : Bool) : NextOk (execLdp p d a mode size sx s) :=
  ctl_ok ok fun c => by
    dsimp only
    split
    · exact ok
    · split
      · exact ok
      · exact Ans.ite_ok ok ok

theorem execStp_ok (p : Pred) (d a : Reg) (mode : AMode) (size : BitVec 2) : NextOk (execStp p d a mode size s) :=
  ctl_ok ok fun c => by
    dsimp only
    split
    · exact ok
    · exact Ans.ite_ok ok (ok.of_eq (State.pantryWrite_ground ..))

theorem execLdAcq_ok (p : Pred) (d : Reg) (m : MemArg) (sx : Bool) (scope : BitVec 2) : NextOk (execLdAcq p d m sx scope s) :=
  ctl_ok ok fun _ => AccRes.then_ok ok (State.load_ok ok ..) fun u _ hu => Ground.Ok.of_eq hu u.acquired_ground

theorem execStRel_ok (p : Pred) (d : Reg) (m : MemArg) (scope : BitVec 2) : NextOk (execStRel p d m scope s) :=
  ctl_ok ok fun c => by
    dsimp only
    refine Ans.ite_ok ok ?_
    split
    · exact ok
    · exact State.closeOnce_ok ok fun u n hu =>
        AccRes.then_ok hu (State.storeMsg_ok hu ..) fun v _ hv => Ground.Ok.of_eq hv v.releaseStamp_ground

theorem execPf_ok (p : Pred) (a : Reg) (mode : AMode) (cls : BitVec 4) : NextOk (execPf p a mode cls s) :=
  ctl_ok ok fun _ => AccRes.then_ok ok (State.prefetch_ok ok _) fun _ _ hu => hu

theorem execFence_ok (p : Pred) (mask : BitVec 16) (scope : BitVec 2) : NextOk (execFence p mask scope s) :=
  ctl_ok ok fun _ => State.closing_ok ok fun u hu =>
    Ans.ite_ok hu (Ground.Ok.of_eq hu ((State.acquired_ground _).trans u.releaseStamp_ground))

theorem execRbld_ok (p : Pred) (a : Reg) (off : BitVec 18) (n : RbReg) : NextOk (execRbld p a off n s) :=
  ctl_ok ok fun _ => Ans.ite_ok ok (AccRes.then_ok ok (State.load_ok ok ..) fun _ _ hu => hu)

theorem execRbst_ok (p : Pred) (a : Reg) (off : BitVec 18) (n : RbReg) : NextOk (execRbst p a off n s) :=
  ctl_ok ok fun _ => Ans.ite_ok ok (AccRes.then_ok ok (State.storeMsg_ok ok ..) fun _ _ hu => hu)

/-! ## Invocations (R291-R295) -/

theorem execSlx_ok (p : Pred) (cls : BitVec 4) (d a b x : Reg) (vr : BitVec 5) : NextOk (execSlx p cls d a b x vr s) :=
  ctl_ok ok fun c => by
    split
    · exact ok
    · exact ok
    · dsimp only
      refine Ans.ite_ok ok ?_
      split
      · exact ok
      · exact AccRes.then_ok ok (State.sendInv_ok ok ..) fun _ _ hu => hu
      · exact ok

theorem execSlxn_ok (p : Pred) (cls : BitVec 4) (a b x : Reg) (vr : BitVec 5) : NextOk (execSlxn p cls a b x vr s) :=
  ctl_ok ok fun c => by
    have refused (f : Ctx → Ctx) (g : Ctx → Ctx) :
        (if !s.mayStamp (.ctx s.me) then Ans.stall s else plain (((s.modCtx s.me f).modCtx s.me g).stamped (.ctx s.me))).Ok :=
      Ans.ite_ok ok (ok.of_eq (State.stamped_ground ..))
    dsimp only
    refine Ans.ite_ok ok ?_
    split
    · exact refused ..
    · exact AccRes.then_ok ok (State.sendInv_ok ok ..) fun _ _ hu => hu
    · exact refused ..

theorem execRtinst_ok (p : Pred) (d a b : Reg) : NextOk (execRtinst p d a b s) :=
  ctl_ok ok fun c => by
    dsimp only
    refine Ans.ite_ok ok (Ans.ite_ok (Ans.ite_ok ok (Ans.ite_ok ok (State.readFor_res_ok ok fun u v hu => ?_))) ?_)
    · split
      · exact hu
      · split
        · exact hu
        · exact Ground.Ok.of_eq hu (State.installRoutine_ground ..)
    · refine Ans.ite_ok ok (Ans.ite_ok ok ?_)
      have free (u : State) (hu : u.ground.Ok) (l : LeafId) (id : Nat) :
          (if u.idInUse l id then Ans.stall u
            else one { u with routines := u.routines.filter fun r => !(r.leaf = l && r.rid = id) } d (rtWord 0 0 0 false) 0).Ok :=
        Ans.ite_ok hu hu
      split
      · exact free s ok _ _
      · exact free _ (ok.of_eq ((State.modCtx_ground ..).trans (State.unmapId_ground ..))) _ _

theorem execRtmap_ok (p : Pred) (d a b : Reg) : NextOk (execRtmap p d a b s) := ctl_ok ok fun _ => Ans.ite_ok ok (Ans.ite_ok ok ok)

/-! ## Waits, queues and the wait-for table (R251-R262, R363-R369) -/

theorem execEqpop_ok (p : Pred) (d : Reg) : NextOk (execEqpop p d s) :=
  ctl_ok ok fun c => State.await_ok ok fun u hu => by
    split
    · exact hu
    · exact Ground.Ok.of_eq hu (State.ordered_ground _)

theorem execWfe_ok (p : Pred) : NextOk (execWfe p s) :=
  ctl_ok ok fun c => by
    have asleep (u : State) (r : List WftReq) (hu : u.ground.Ok) :
        (({ u with wftQueue := r } : State).modCtx u.me fun c => { c with inWfe := true }).ground.Ok := hu
    dsimp only
    refine Ans.ite_ok (ok.of_eq ((State.modCtx_ground ..).trans (State.unblockCtx_ground ..))) (Ans.ite_ok ok ?_)
    split
    · exact asleep _ _ (ok.of_eq (State.blockCtx_ground ..))
    · exact ok.of_eq ((State.modCtx_ground ..).trans (State.blockCtx_ground ..))

theorem execBcq_ok (p : Pred) (off : BitVec 48) : NextOk (execBcq p off s) :=
  ctl_ok ok fun c => State.await_ok ok fun u hu => by
    split
    · exact hu
    · exact Ground.Ok.of_eq hu (State.ordered_ground _)

theorem execLoop_ok (p : Pred) (level : BitVec 1) (a : Reg) (off : BitVec 36) : NextOk (execLoop p level a off s) :=
  ctl_ok ok fun _ => Ans.ite_ok ok ok

theorem execEnq_ok (p : Pred) (e : Eng) (n : RbReg) : NextOk (execEnq p e n s) :=
  ctl_ok ok fun c => by
    have entered : (if s.me.slot = .o then s.ownerEnters s.me.core e else s).ground.Ok := ite_ok (ok.of_eq (State.ownerEnters_ground ..)) ok
    refine Ans.ite_ok ok (State.await_ok entered fun u hu => State.closeOnly_ok hu fun v hv => ?_)
    exact Ground.Ok.of_eq hv (State.enqueue_ground ..)

theorem execTkpost_ok (p : Pred) (e : Eng) : NextOk (execTkpost p e s) :=
  ctl_ok ok fun _ => Ans.ite_ok ok (State.closing_ok ok fun _ hu => State.await_ok hu fun _ hv => hv)

theorem execTkwait_ok (p : Pred) (e : Eng) : NextOk (execTkwait p e s) :=
  ctl_ok ok fun _ => Ans.ite_ok ok (State.await_ok ok fun _ hu => Ground.Ok.of_eq hu (State.ordered_ground _))

theorem execTkpoll_ok (p : Pred) (d : Reg) (e : Eng) : NextOk (execTkpoll p d e s) :=
  ctl_ok ok fun _ => Ans.ite_ok ok (Ans.ite_ok (ok.of_eq (State.acquired_ground _)) ok)

theorem execSeminc_ok (p : Pred) (n : BitVec 6) (a : Reg) : NextOk (execSeminc p n a s) :=
  ctl_ok ok fun c => by
    split
    · exact ok
    · exact State.closing_ok ok fun u hu => Ground.Ok.of_eq hu ((State.modCore_ground ..).trans u.releaseStamp_ground)

theorem execSemwait_ok (p : Pred) (n : BitVec 6) (a : Reg) : NextOk (execSemwait p n a s) :=
  ctl_ok ok fun c => by
    split
    · exact ok
    · exact State.await_ok ok fun u hu => Ground.Ok.of_eq hu (State.acquired_ground _)

theorem execSemmap_ok (p : Pred) (n : BitVec 6) (a : Reg) : NextOk (execSemmap p n a s) :=
  ctl_ok ok fun _ => Ans.ite_ok ok (Ans.ite_ok ok (Ans.ite_ok ok ok))

theorem execQdrain_ok (p : Pred) (e : Eng) : NextOk (execQdrain p e s) :=
  ctl_ok ok fun _ => State.await_ok ok fun _ hu => Ground.Ok.of_eq hu (State.ordered_ground _)

theorem execAccver_ok (p : Pred) (d : Reg) (t : BitVec 6) : NextOk (execAccver p d t s) := ctl_ok ok fun _ => Ans.ite_ok ok ok

theorem execWoreg_ok (p : Pred) (d a : Reg) : NextOk (execWoreg p d a s) :=
  ctl_ok ok fun _ => Ans.ite_ok ok (State.request_ok ok fun _ => ok)

theorem execWodereg_ok (p : Pred) (a : Reg) : NextOk (execWodereg p a s) :=
  ctl_ok ok fun _ => Ans.ite_ok ok (State.request_ok ok fun _ => ok)

theorem execWohold_ok (p : Pred) (d a : Reg) : NextOk (execWohold p d a s) :=
  ctl_ok ok fun _ => Ans.ite_ok ok (State.request_ok ok fun _ => ok)

theorem execWorel_ok (p : Pred) (a : Reg) : NextOk (execWorel p a s) :=
  ctl_ok ok fun _ => State.closing_ok ok fun _ hu => Ans.ite_ok hu (Ground.Ok.of_eq hu (State.releaseStamp_ground _))

theorem execWowait_ok (p : Pred) (a : Reg) : NextOk (execWowait p a s) :=
  ctl_ok ok fun _ =>
    Ans.ite_ok (Ans.ite_ok (ok.of_eq ((State.acquired_ground _).trans (State.dropWaits_ground ..))) ok)
      (Ans.ite_ok ok (State.request_ok ok fun _ => ok.of_eq (State.acquired_ground _)))

theorem execWopoll_ok (p : Pred) (d a : Reg) : NextOk (execWopoll p d a s) :=
  ctl_ok ok fun _ => Ans.ite_ok ok (State.request_ok ok fun _ => ok)

theorem State.awaitBarrier_ok (o : BitVec 32) : (s.awaitBarrier o).Ok := ok.of_eq (State.blockCtx_ground ..)

/-- A barrier that its members have left: the L1 copies go, or the context waits on. -/
theorem State.left_ok (b : Nat) (o : BitVec 32) :
    (if s.barriers.any fun x => x.id = b then s.awaitBarrier o else plain (s.l1Drop s.cur.core)).Ok :=
  Ans.ite_ok (State.awaitBarrier_ok ok o) (ok.of_eq (State.l1Drop_ground ..))

/-- An arrival at a barrier, and the wait for its meeting. -/
theorem arriveAns_ok (level : Nat) (xf : Bool) (o : BitVec 32) {k : State → Ans} (hk : ∀ u, u.ground = s.ground → (k u).Ok) :
    (match s.arrive s.me level xf with
      | none => Ans.stall (s.blockCtx s.me o)
      | some (.error t) => .trap s t
      | some (.ok u) => k u).Ok := by
  split
  · exact ok.of_eq (State.blockCtx_ground ..)
  · exact ok
  · next u hu => exact hk u (State.arrive_ground hu)

theorem execBar_ok (p : Pred) (level : BitVec 2) : NextOk (execBar p level s) :=
  ctl_ok ok fun c => by
    dsimp only
    refine Ans.ite_ok ok ?_
    split
    · exact State.left_ok ok ..
    · refine State.closing_ok ok fun u hu => Ans.ite_ok (State.drain_ok hu fun v hv => hv) ?_
      exact arriveAns_ok hu _ _ _ fun v hv => hu.of_eq ((State.blockCtx_ground ..).trans hv)

theorem execBarxf_ok (p : Pred) (level : BitVec 2) : NextOk (execBarxf p level s) :=
  ctl_ok ok fun c => by
    dsimp only
    refine Ans.ite_ok ok (Ans.ite_ok ok ?_)
    split
    · split
      · exact Ans.ite_ok (ok.of_eq (State.l1Drop_ground ..)) ok
      · exact State.left_ok ok ..
    · split
      · exact ok
      · refine State.closing_ok ok fun u hu => Ans.ite_ok hu ?_
        split
        · exact hu.of_eq (State.blockCtx_ground ..)
        · exact arriveAns_ok hu _ _ _ fun v hv =>
            hu.of_eq ((State.blockCtx_ground ..).trans ((State.setCtx_ground ..).trans ((State.unblockCtx_ground ..).trans hv)))

/-! ## Slot H (R326-R333) -/

theorem execLease_ok (p : Pred) (d : Reg) (e : Eng) : NextOk (execLease p d e s) := ctl_ok ok fun _ => Ans.ite_ok ok (Ans.ite_ok ok ok)

theorem execLeaserel_ok (p : Pred) (e : Eng) : NextOk (execLeaserel p e s) := ctl_ok ok fun _ => Ans.ite_ok ok ok

/-- A revocation is asked for, and runs where nothing delays it. -/
theorem State.revoked_ok (c : CoreId) (hard : Bool) : ((s.askRevoke c hard).revokeNow c).ground.Ok := by simp [ok]

theorem execLend_ok (p : Pred) (a : Reg) : NextOk (execLend p a s) :=
  ctl_ok ok fun _ => by
    have revoked := State.revoked_ok ok s.cur.core false
    exact Ans.ite_ok ok (Ans.ite_ok ok (Ans.ite_ok (Ans.ite_ok revoked revoked) ok))

theorem execRecall_ok (p : Pred) : NextOk (execRecall p s) :=
  ctl_ok ok fun _ => by
    have revoked := State.revoked_ok ok s.cur.core true
    exact Ans.ite_ok revoked revoked

theorem execRsmark_ok (p : Pred) : NextOk (execRsmark p s) := ctl_ok ok fun _ => Ans.ite_ok ok (State.rsmark_ok ok ok)

theorem execYield_ok (p : Pred) : NextOk (execYield p s) :=
  ctl_ok ok fun _ => by
    have held : (s.finish [] none 1).ground.Ok := ok.of_eq (State.finish_ground ..)
    have parked (pc : Word) : (((s.finish [] (some pc) 1).modCore s.cur.core Core.checkpoint).park s.cur.core false).ground.Ok := by simp [ok]
    refine Ans.ite_ok held (State.rsmark_ok ok ?_)
    dsimp only
    exact Ground.Ok.of_eq (parked _) (State.modCore_ground ..)

/-! ## Traps, images and pre-emption points (R347, R428-R441) -/

theorem execTrap_ok (p : Pred) (e : BitVec 16) : NextOk (execTrap p e s) :=
  ctl_ok ok fun _ => ok.of_eq (State.finish_ground ..)

theorem execEndUnit_ok (p : Pred) : NextOk (execEndUnit p s) :=
  ctl_ok ok fun _ => State.drain_ok ok fun _ hu => State.closing_ok hu fun _ hv => State.endUnit_ok hv _

theorem execEret_ok (p : Pred) : NextOk (execEret p s) :=
  ctl_ok ok fun c => State.drain_ok ok fun u hu => State.closing_ok hu fun v hv => by
    refine Ans.ite_ok hv ?_
    split
    · exact hv
    · next w hw => exact Ground.Ok.of_eq (State.returnFrom_ok hv hw) (State.modCtx_ground ..)

theorem execOpbnd_ok (p : Pred) : NextOk (execOpbnd p s) :=
  ctl_ok ok fun _ => Ans.ite_ok ok (State.drain_ok ok fun _ hu => State.closing_ok hu fun _ hv =>
    Ground.Ok.of_eq hv ((State.saveUnit_ground ..).trans (State.finish_ground ..)))

theorem execDefer_ok (p : Pred) : NextOk (execDefer p s) := ctl_ok ok fun _ => Ans.ite_ok ok ok

theorem execUndefer_ok (p : Pred) : NextOk (execUndefer p s) := ctl_ok ok fun _ => Ans.ite_ok ok ok

omit ok in
/-- An image copied, once the regulators let its lines through, whatever the gate and the copy are. -/
theorem copyAns_ok {gate : State → List (Nat × Nat × Nat) → Bool × State} {copy : State → CtxId → Nat → List (Nat × Nat × Nat) → State × Option Trap}
    (hg : ∀ {s}, s.ground.Ok → ∀ ps, (gate s ps).2.ground.Ok) (hc : ∀ {s}, s.ground.Ok → ∀ i d ps, (copy s i d ps).1.ground.Ok)
    {s : State} (ok : s.ground.Ok) (src dst : List (Nat × Nat × Nat)) (d : Nat) :
    (match gate s (src ++ dst) with
      | (false, s) => Ans.stall s
      | (true, s) => match copy s s.me d src with
        | (s, some t) => .trap s t
        | (s, none) => plain s).Ok := by
  have gated := hg ok (src ++ dst)
  revert gated
  generalize gate s (src ++ dst) = g
  obtain ⟨free, w⟩ := g
  intro gated
  cases free with
  | false => exact gated
  | true =>
    dsimp only
    have copied := hc gated w.me d src
    revert copied
    generalize copy w w.me d src = x
    obtain ⟨x, t⟩ := x
    intro copied
    cases t with
    | none => exact copied
    | some t => exact copied

omit ok in
/-- The gate of a copy keeps the memories. -/
theorem State.copyGate_ok {s : State} (ok : s.ground.Ok) (ps : List (Nat × Nat × Nat)) : (s.copyGate ps).2.ground.Ok :=
  ok.of_eq (State.copyGate_ground s ps)

theorem execCtxsv_ok (p : Pred) (a : Reg) : NextOk (execCtxsv p a s) :=
  ctl_ok ok fun c => by
    refine Ans.ite_ok ok (State.closing_ok ok fun u hu => ?_)
    have cut : (u.cutStep u.me).ground.Ok := hu.of_eq (State.cutStep_ground ..)
    dsimp only
    revert cut
    generalize u.cutStep u.me = v
    intro cut
    have hg {s : State} (ok : s.ground.Ok) (ps : List (Nat × Nat × Nat)) := State.copyGate_ok ok ps
    have hc {s : State} (ok : s.ground.Ok) (i : CtxId) (d : Nat) (ps : List (Nat × Nat × Nat)) := State.copyImage_ok i d ps ok
    revert hg hc
    generalize State.copyGate = gate
    generalize State.copyImage = copy
    -- The kernel meets the matches below for unknown functions only: the pieces of an image are not evaluated.
    revert gate copy; refine id ?_; intro gate copy hg hc
    exact Ans.ite_ok cut (copyAns_ok hg hc cut ..)

omit ok in
/-- An image loaded into a save area, where its head is legal, whatever the gate, the read, the check and the write are. -/
theorem loadAns_ok {gate : State → List (Nat × Nat × Nat) → Bool × State} {get : State → CtxId → List (Nat × Nat × Nat) → State × Mem × Option Trap}
    {put : State → CtxId → Mem → List (Nat × Nat × Nat) → State × Option Trap} {bad : Mem → Option Nat}
    (hg : ∀ {s}, s.ground.Ok → ∀ ps, (gate s ps).2.ground.Ok)
    (hr : ∀ {s}, s.ground.Ok → ∀ i {ps}, Follow 0 ps → (get s i ps).1.ground.Ok ∧ (get s i ps).2.1.wf = true)
    (hp : ∀ {s}, s.ground.Ok → ∀ i {m}, m.wf = true → ∀ ps, (put s i m ps).1.ground.Ok)
    {s : State} (ok : s.ground.Ok) {head src : List (Nat × Nat × Nat)} (hh : Follow 0 head) (hs : Follow 0 src) (dst : List (Nat × Nat × Nat)) :
    (match gate s (src ++ dst) with
      | (false, s) => Ans.stall s
      | (true, s) => match get s s.me head with
        | (s, _, some t) => .trap s t
        | (s, head, none) => match bad head with
          | some off => .trap s { cause := 0x02, einfo := BitVec.ofNat 64 off }
          | none => match get s s.me src with
            | (s, _, some t) => .trap s t
            | (s, m, none) => match put s s.me m dst with
              | (_, some t) => .trap s t
              | (s, none) => plain (s.modCtx s.me fun c => c.loadExc m)).Ok := by
  have gated := hg ok (src ++ dst)
  revert gated
  generalize gate s (src ++ dst) = g
  obtain ⟨free, v⟩ := g
  intro gated
  cases free with
  | false => exact gated
  | true =>
    dsimp only
    obtain ⟨first, _⟩ := hr gated v.me hh
    revert first
    generalize get v v.me head = g
    obtain ⟨w, m, t⟩ := g
    intro first
    cases t with
    | some t => exact first
    | none =>
      dsimp only
      split
      · exact first
      · obtain ⟨read, hm⟩ := hr first w.me hs
        revert read hm
        generalize get w w.me src = g
        obtain ⟨x, m, t⟩ := g
        intro read hm
        cases t with
        | some t => exact read
        | none =>
          dsimp only
          have written := hp read x.me hm dst
          revert written
          generalize put x x.me m dst = g
          obtain ⟨y, t⟩ := g
          intro written
          cases t with
          | some t => exact read
          | none => exact written

theorem execCtxld_ok (p : Pred) (a : Reg) : NextOk (execCtxld p a s) :=
  ctl_ok ok fun c => by
    refine Ans.ite_ok ok (State.closing_ok ok fun u hu => ?_)
    dsimp only
    have hg {s : State} (ok : s.ground.Ok) (ps : List (Nat × Nat × Nat)) := State.copyGate_ok ok ps
    have hr {s : State} (ok : s.ground.Ok) (i : CtxId) {ps : List (Nat × Nat × Nat)} (f : Follow 0 ps) :
        (s.getImage i ps).1.ground.Ok ∧ (s.getImage i ps).2.1.wf = true :=
      let ⟨read, hm, _⟩ := State.getImage_ok i ps 0 f ok
      ⟨read, hm⟩
    have hp {s : State} (ok : s.ground.Ok) (i : CtxId) {m : Mem} (hm : m.wf = true) (ps : List (Nat × Nat × Nat)) := State.putImage_ok ok i hm ps
    revert hg hr hp
    generalize State.copyGate = gate
    generalize State.getImage = get
    generalize State.putImage = put
    generalize excBad = bad
    revert gate get put bad; refine id ?_; intro gate get put bad hg hr hp
    have head : Follow 0 [((c.rd a).toNat, 0, 64)] := ⟨rfl, trivial⟩
    exact loadAns_ok hg hr hp hu head (imagePieces_follow _) _

/-! ## The Strongroom (R404-R417, R435) -/

theorem execTinst_ok (p : Pred) : NextOk (execTinst p s) :=
  service_ok ok fun _ _ hu => Ans.ite_ok hu (State.readFor_res_ok hu fun _ _ hv =>
    Ans.ite_ok hv (Ans.ite_ok hv (Ans.ite_ok (hv.of_eq (State.setTensor_ground ..))
      (State.readFor_res_ok hv fun _ _ hw => Ans.ite_ok hw (hw.of_eq (State.setTensor_ground ..))))))

theorem execTvbump_ok (p : Pred) : NextOk (execTvbump p s) :=
  service_ok ok fun _ _ hu => Ans.ite_ok hu (State.readFor_res_ok hu fun _ _ hv =>
    Ans.ite_ok hv (Ans.ite_ok hv (Ans.ite_ok hv (Ans.ite_ok hv (hv.of_eq (State.setTensor_ground ..))))))

theorem execTremove_ok (p : Pred) : NextOk (execTremove p s) := service_ok ok fun _ _ hu => Ans.ite_ok hu (Ans.ite_ok hu hu)

theorem execTquery_ok (p : Pred) : NextOk (execTquery p s) := service_ok ok fun _ _ hu => Ans.ite_ok hu hu

theorem execS1root_ok (p : Pred) : NextOk (execS1root p s) := service_ok ok fun _ _ hu => Ans.ite_ok hu hu

theorem execTlbinv_ok (p : Pred) : NextOk (execTlbinv p s) := service_ok ok fun _ _ hu => hu

theorem execRegquery_ok (p : Pred) : NextOk (execRegquery p s) := service_ok ok fun _ _ hu => Ans.ite_ok hu hu

theorem execPartquery_ok (p : Pred) : NextOk (execPartquery p s) := service_ok ok fun _ _ hu => hu

theorem execGreset_ok (p : Pred) : NextOk (execGreset p s) :=
  ctl_ok ok fun c => by
    dsimp only
    split
    · split
      · exact Ans.ite_ok ok ok
      · exact ok
    · refine State.closing_ok ok fun u hu => Ans.ite_ok hu ?_
      split
      · exact Ans.ite_ok hu (Ans.ite_ok hu (hu.of_eq ((State.modCtx_ground ..).trans (State.startReset_ground ..))))
      · exact hu

theorem execScrubreq_ok (p : Pred) : NextOk (execScrubreq p s) := service_ok ok fun _ _ hu => Ans.ite_ok hu (Ans.ite_ok hu hu)

theorem execRecquery_ok (p : Pred) : NextOk (execRecquery p s) := service_ok ok fun _ _ hu => hu

theorem execHvc_ok (p : Pred) (e : BitVec 16) : NextOk (execHvc p e s) := ctl_ok ok fun _ => State.closing_ok ok fun _ hu => hu

end

end Sys2Proof.Machine

/-! Every step keeps the canonical form of the memories (logs 2, 4): the meaning of each instruction and event, and what an act does. -/

namespace Sys2Proof.Machine

/-! ## Shared meanings -/

section
variable {s : State} (ok : s.ground.Ok)
include ok

theorem intR_ok {x : Instr} {p : Pred} {d a b : Reg} {lat : Nat} {f : Word → Word → Word} : NextOk (intR x p d a b lat f s) :=
  ctl_ok ok fun _ => ok

theorem intU_ok {x : Instr} {p : Pred} {d a : Reg} {lat : Nat} {f : Word → Word} : NextOk (intU x p d a lat f s) := ctl_ok ok fun _ => ok

theorem intI_ok {x : Instr} {p : Pred} {d a : Reg} {imm : BitVec 36} {lat : Nat} {f : Word → Word → Word} :
    NextOk (intI x p d a imm lat f s) :=
  ctl_ok ok fun _ => ok

theorem special_ok {x : Instr} {p : Pred} {d a : Reg} {lat : Nat} {f : Ctx → Nat → Nat × Flg} : NextOk (special x p d a lat f s) :=
  ctl_ok ok fun c => fpResult_ok ok c ..

theorem arith_ok {b : Bool} {fl : Fmt → Rnd → Bool → Num → Num → Num → Nat × Flg} {int : Int → Int → Int → Int} {r : EngRec} :
    NextOk (arith b fl int r s) := by
  simp only [arith]
  exact vxStep_ok ok

theorem specialLane_ok {f : Rnd → Nat → Nat × Flg} {r : EngRec} : NextOk (specialLane f r s) := by
  simp only [specialLane]
  exact vxStep_ok ok

theorem zip_ok {k : Nat} {r : EngRec} : NextOk (zip k r s) := by
  simp only [zip]
  exact vxStep_ok ok

theorem unzip_ok {k : Nat} {r : EngRec} : NextOk (unzip k r s) := by
  simp only [unzip]
  exact vxStep_ok ok

theorem execVscale_ok (r : EngRec) : NextOk (execVscale r s) := by
  simp only [execVscale]
  exact vxStep_ok ok

theorem execVcvt_ok (r : EngRec) : NextOk (execVcvt r s) := by
  simp only [execVcvt]
  exact vxStep_ok ok

theorem execVrand_ok (r : EngRec) : NextOk (execVrand r s) := by
  simp only [execVrand, genStep]
  exact vxStep_ok ok

theorem execVldp_ok (r : EngRec) : NextOk (execVldp r s) := by
  simp only [execVldp]
  exact vxStep_ok ok

theorem execVstp_ok (r : EngRec) : NextOk (execVstp r s) := by
  simp only [execVstp]
  exact vxStep_ok ok

theorem sl2_ok {d a b : SlReg} {f : Word → Word → Word} : NextOk (sl2 d a b f s) := slWord_ok ok

/-! ## Events -/

theorem execPhaseCompletion_ok : NextOk (execPhaseCompletion s) := by
  refine NextOk.next (ite_ok ok ?_)
  rw [State.setPhases_ground]
  exact ok

theorem execWaitRegistration_ok : NextOk (execWaitRegistration s) := by
  refine NextOk.next ?_
  split
  · exact ok
  · refine ite_ok ok (State.processReq_ok ?_ _)
    exact ok

theorem execProdNotification_ok : NextOk (execProdNotification s) := NextOk.next (State.readProd_ok (ite_ok (by simp [ok]) ok) ..)

theorem execLeaseTermEnd_ok : NextOk (execLeaseTermEnd s) := by
  refine NextOk.next ?_
  split
  · exact ite_ok ok (ite_ok (by simp [ok]) (by simp [ok]))
  · exact ok

theorem execYieldHoldEnd_ok : NextOk (execYieldHoldEnd s) := by
  refine NextOk.next ?_
  split
  · exact ite_ok (by simp [ok]) ok
  · exact ok

theorem execDefEnd_ok : NextOk (execDefEnd s) := NextOk.next (ite_ok (by simp [ok]) ok)

theorem execWayReassignment_ok : NextOk (execWayReassignment s) := NextOk.next (ite_ok ok (by simp [ok]))

theorem execRetentionEntry_ok : NextOk (execRetentionEntry s) := by
  refine NextOk.next ?_
  split
  · exact ite_ok (by simp [ok]) ok
  · exact ok

theorem execLockstepMismatch_ok : NextOk (execLockstepMismatch s) := NextOk.next (ite_ok ok (by simp [ok]))

theorem execRailExcursion_ok : NextOk (execRailExcursion s) := by
  refine NextOk.next (ite_ok ok (ite_ok ok ?_))
  rw [State.errAt_ground]
  exact ok

theorem execTsynclost_ok : NextOk (execTsynclost s) := by
  refine NextOk.next (ite_ok ok ?_)
  rw [State.errAt_ground]
  exact ok

theorem execRootControllerMismatch_ok : NextOk (execRootControllerMismatch s) := by
  refine NextOk.next ?_
  rw [State.errAt_ground]
  exact ok

theorem execImageLoad_ok : NextOk (execImageLoad s) := NextOk.next (ite_ok ok (ite_ok (ok.of_eq (State.runImage_ground ..)) ok))

theorem execBoot_ok : NextOk (execBoot s) := NextOk.next (ite_ok ok (ite_ok (ok.of_eq (State.runImage_ground ..)) ok))

theorem execRegisterWrite_ok : NextOk (execRegisterWrite s) := by
  refine NextOk.next (ite_ok ok ?_)
  split
  · exact ite_ok ok ok
  · exact ite_ok ok ok

theorem execElog_ok : NextOk (execElog s) := by
  refine NextOk.next ?_
  split <;> exact ok

theorem execKeyErasure_ok : NextOk (execKeyErasure s) := by
  refine NextOk.next ?_
  split
  · exact ok
  · exact ite_ok ok ok

theorem execXend_ok (r : EngRec) : NextOk (execXend r s) := by
  refine NextOk.next ?_
  split
  · exact ok
  · split <;> exact ok

end

/-- The next state of every instruction and event is in canonical form. -/
theorem exec_ok (i : Instr) {s : State} (ok : s.ground.Ok) : NextOk (exec i s) := by
  cases i
  case add | sub | mul | mulh | mulhu | div | divu | rem | remu | and | or | xor | andn | shl | shr | sra | rol | min | max | minu | maxu
      | sext | zext =>
    simp only [exec_add, execAdd, exec_sub, execSub, exec_mul, execMul, exec_mulh, execMulh, exec_mulhu, execMulhu, exec_div, execDiv,
      exec_divu, execDivu, exec_rem, execRem, exec_remu, execRemu, exec_and, execAnd, exec_or, execOr, exec_xor, execXor, exec_andn,
      execAndn, exec_shl, execShl, exec_shr, execShr, exec_sra, execSra, exec_rol, execRol, exec_min, execMin, exec_max, execMax,
      exec_minu, execMinu, exec_maxu, execMaxu, exec_sext, execSext, exec_zext, execZext]
    exact intR_ok ok
  case clz | ctz | popc | brev | shli | shri | srai =>
    simp only [exec_clz, execClz, exec_ctz, execCtz, exec_popc, execPopc, exec_brev, execBrev, exec_shli, execShli, exec_shri, execShri,
      exec_srai, execSrai]
    exact intU_ok ok
  case sel | lea | movi | movhi | kget | cmp | cmpi | kand | kor | kxor | knot | kset | fabs | fneg | br | call | nop | rbset | rbget
      | gtcrd | rng | mfs | clrsig | parkst | pend =>
    simp only [exec_sel, execSel, exec_lea, execLea, exec_movi, execMovi, exec_movhi, execMovhi, exec_kget, execKget, exec_cmp, execCmp,
      exec_cmpi, execCmpi, exec_kand, execKand, exec_kor, execKor, exec_kxor, execKxor, exec_knot, execKnot, exec_kset, execKset,
      exec_fabs, execFabs, exec_fneg, execFneg, exec_br, execBr, exec_call, execCall, exec_nop, execNop, exec_rbset, execRbset, exec_rbget,
      execRbget, exec_gtcrd, execGtcrd, exec_rng, execRng, exec_mfs, execMfs, exec_clrsig, execClrsig, exec_parkst, execParkst, exec_pend,
      execPend]
    exact ctl_ok ok fun _ => ok
  case addi | andi | ori | xori | muli =>
    simp only [exec_addi, execAddi, exec_andi, execAndi, exec_ori, execOri, exec_xori, execXori, exec_muli, execMuli]
    exact intI_ok ok
  case fcmp | fadd | fsub | fmul | ffma | fmin | fmax =>
    simp only [exec_fcmp, execFcmp, exec_fadd, execFadd, exec_fsub, execFsub, exec_fmul, execFmul, exec_ffma, execFfma, exec_fmin,
      execFmin, exec_fmax, execFmax]
    exact ctl_ok ok fun c => fpResult_ok ok ..
  case fexp2 | flog2 | frcp | frsq | fsqrt =>
    simp only [exec_fexp2, execFexp2, exec_flog2, execFlog2, exec_frcp, execFrcp, exec_frsq, execFrsq, exec_fsqrt, execFsqrt]
    exact special_ok ok
  case jr | callr | ret =>
    simp only [exec_jr, execJr, exec_callr, execCallr, exec_ret, execRet]
    exact ctl_ok ok fun _ => jumpTo_ok ok ..
  case mts | evecWrite | ctxsaveWrite =>
    simp only [exec_mts, execMts, exec_evecWrite, execEvecWrite, exec_ctxsaveWrite, execCtxsaveWrite]
    exact ctl_ok ok fun _ => mts_ok ok ..
  case vadd | vsub | vmul | vfma =>
    simp only [exec_vadd, execVadd, exec_vsub, execVsub, exec_vmul, execVmul, exec_vfma, execVfma]
    exact arith_ok ok
  case vmin | vmax | vabs | vneg | vand | vor | vxor | vshl | vshr | vsra | vsel | vclamp | vmov | vbcast | vquant | vdeq | vredsum
      | vredmax | vredmin | vscan | vany | vcnt | vperm | vgather | vscatter | vpart | viota | vzero =>
    simp only [exec_vmin, execVmin, exec_vmax, execVmax, exec_vabs, execVabs, exec_vneg, execVneg, exec_vand, execVand, exec_vor, execVor,
      exec_vxor, execVxor, exec_vshl, execVshl, exec_vshr, execVshr, exec_vsra, execVsra, exec_vsel, execVsel, exec_vclamp, execVclamp,
      exec_vmov, execVmov, exec_vbcast, execVbcast, exec_vquant, execVquant, exec_vdeq, execVdeq, exec_vredsum, execVredsum, exec_vredmax,
      execVredmax, exec_vredmin, execVredmin, exec_vscan, execVscan, exec_vany, execVany, exec_vcnt, execVcnt, exec_vperm, execVperm,
      exec_vgather, execVgather, exec_vscatter, execVscatter, exec_vpart, execVpart, exec_viota, execViota, exec_vzero, execVzero, genStep]
    exact vxStep_ok ok
  case vexp2 | vlog2 | vrcp | vrsq | vsqrt | vtanh =>
    simp only [exec_vexp2, execVexp2, exec_vlog2, execVlog2, exec_vrcp, execVrcp, exec_vrsq, execVrsq, exec_vsqrt, execVsqrt, exec_vtanh,
      execVtanh]
    exact specialLane_ok ok
  case vzip2 | vzip3 | vzip4 =>
    simp only [exec_vzip2, execVzip2, exec_vzip3, execVzip3, exec_vzip4, execVzip4]
    exact zip_ok ok
  case vunzip2 | vunzip3 | vunzip4 =>
    simp only [exec_vunzip2, execVunzip2, exec_vunzip3, execVunzip3, exec_vunzip4, execVunzip4]
    exact unzip_ok ok
  case vbump | vtype =>
    simp only [exec_vbump, execVbump, exec_vtype, execVtype]
    exact noStep_ok ok
  case mma | mmaz | mmas | mmat | mret | mzero =>
    simp only [exec_mma, execMma, exec_mmaz, execMmaz, exec_mmas, execMmas, exec_mmat, execMmat, exec_mret, execMret, exec_mzero,
      execMzero]
    exact mxStep_ok ok
  case cpin | cpina | gathin =>
    simp only [exec_cpin, execCpin, exec_cpina, execCpina, exec_gathin, execGathin]
    exact copyStep_res_ok ok fun _ _ _ => copyIn_ok ok ..
  case pfin =>
    simp only [exec_pfin, execPfin]
    exact copyStep_res_ok ok fun _ _ _ => pfinStep_ok ok ..
  case cpout | scatout | cpouta | cprem =>
    simp only [exec_cpout, execCpout, exec_scatout, execScatout, exec_cpouta, execCpouta, exec_cprem, execCprem]
    exact copyStep_res_ok ok fun _ _ _ => copyOut_ok ok ..
  case ladd | lsub | land | lor | lxor | lmin | lmax | lminu | lmaxu | lshl | lshr | laddf =>
    simp only [exec_ladd, execLadd, exec_lsub, execLsub, exec_land, execLand, exec_lor, execLor, exec_lxor, execLxor, exec_lmin, execLmin,
      exec_lmax, execLmax, exec_lminu, execLminu, exec_lmaxu, execLmaxu, exec_lshl, execLshl, exec_lshr, execLshr, exec_laddf, execLaddf]
    exact sl2_ok ok
  case lcmp | lsel | lmov | lmovi | lins | lext | lnop =>
    simp only [exec_lcmp, execLcmp, exec_lsel, execLsel, exec_lmov, execLmov, exec_lmovi, execLmovi, exec_lins, execLins, exec_lext,
      execLext, exec_lnop, execLnop]
    exact slWord_ok ok
  case fcvt =>
    simp only [exec_fcvt, execFcvt]
    refine ctl_ok ok fun c => ?_
    split
    · exact ok
    · exact fpResult_ok ok ..
  case tx | muxsel | xhold =>
    simp only [exec_tx, execTx, exec_muxsel, execMuxsel, exec_xhold, execXhold]
    refine inPhaseStep_ok ok fun i x n => ?_
    split <;> exact ok
  case lret | lfail =>
    simp only [exec_lret, execLret, exec_lfail, execLfail]
    exact NextOk.next (State.endRoutine_ok ok ..)
  case landing | railConfirmed | getMeasurements | statusFrame | keySwitch =>
    simp only [exec_landing, execLanding, exec_railConfirmed, execRailConfirmed, exec_getMeasurements, execGetMeasurements,
      exec_statusFrame, execStatusFrame, exec_keySwitch, execKeySwitch]
    exact NextOk.next ok
  case dividerSwitch | regulatorRefill | railHalt | watchdog | tsync | gtcslew | faultclr | getDeviceInterfaceReport | getState =>
    simp only [exec_dividerSwitch, execDividerSwitch, exec_regulatorRefill, execRegulatorRefill, exec_railHalt, execRailHalt,
      exec_watchdog, execWatchdog, exec_tsync, execTsync, exec_gtcslew, execGtcslew, exec_faultclr, execFaultclr,
      exec_getDeviceInterfaceReport, execGetDeviceInterfaceReport, exec_getState, execGetState]
    exact NextOk.next (ite_ok ok ok)
  case recordStart =>
    simp only [exec_recordStart, execRecordStart]
    exact NextOk.next (State.recordStart_ok ok _)
  case recordRetirement =>
    simp only [exec_recordRetirement, execRecordRetirement]
    exact NextOk.next (ok.of_eq (State.retire_ground ..))
  case sliceInvocation =>
    simp only [exec_sliceInvocation, execSliceInvocation]
    exact NextOk.next (State.takeInv_ok ok _)
  case pageMigration =>
    simp only [exec_pageMigration, execPageMigration]
    exact NextOk.next (State.migrate_ok ok ..)
  case trapEntry =>
    simp only [exec_trapEntry, execTrapEntry]
    exact NextOk.next (State.enter_ok ok _)
  case revocation =>
    simp only [exec_revocation, execRevocation]
    exact NextOk.next (ok.of_eq (State.revokeNow_ground ..))
  case forcedPreemption =>
    simp only [exec_forcedPreemption, execForcedPreemption]
    exact NextOk.next (State.forceSave_ok ok _)
  case pendingZeroFill =>
    simp only [exec_pendingZeroFill, execPendingZeroFill]
    exact NextOk.next (ite_ok (State.touch_ok ok _) ok)
  case guestReset =>
    simp only [exec_guestReset, execGuestReset]
    exact NextOk.next (ok.of_eq (State.startReset_ground ..))
  case guestResetDrain =>
    simp only [exec_guestResetDrain, execGuestResetDrain]
    exact NextOk.next (State.finishReset_ok ok _)
  case functionLevelReset =>
    simp only [exec_functionLevelReset, execFunctionLevelReset]
    exact NextOk.next (ite_ok (ok.of_eq (State.startReset_ground ..)) ok)
  case lockInterface | startInterface | stopInterface =>
    simp only [exec_lockInterface, execLockInterface, exec_startInterface, execStartInterface, exec_stopInterface, execStopInterface]
    exact NextOk.next (ite_ok (ok.of_eq (State.enterTdisp_ground ..)) ok)
  case clockMonitor =>
    simp only [exec_clockMonitor, execClockMonitor]
    exact NextOk.next (ok.of_eq (State.errAt_ground ..))
  case doorbell =>
    simp only [exec_doorbell, execDoorbell]
    exact NextOk.next (ite_ok ok (ite_ok ok ok))
  case ld => exact execLd_ok ok _ _ _ _
  case st => exact execSt_ok ok _ _ _
  case ldp => exact execLdp_ok ok _ _ _ _ _ _
  case stp => exact execStp_ok ok _ _ _ _ _
  case ldAcq => exact execLdAcq_ok ok _ _ _ _ _
  case stRel => exact execStRel_ok ok _ _ _ _
  case pf => exact execPf_ok ok _ _ _ _
  case fence => exact execFence_ok ok _ _ _
  case slx => exact execSlx_ok ok _ _ _ _ _ _ _
  case slxn => exact execSlxn_ok ok _ _ _ _ _ _
  case rtinst => exact execRtinst_ok ok _ _ _ _
  case rtmap => exact execRtmap_ok ok _ _ _ _
  case eqpop => exact execEqpop_ok ok _ _
  case wfe => exact execWfe_ok ok _
  case bcq => exact execBcq_ok ok _ _
  case loop => exact execLoop_ok ok _ _ _ _
  case trap => exact execTrap_ok ok _ _
  case yield => exact execYield_ok ok _
  case endUnit => exact execEndUnit_ok ok _
  case rbld => exact execRbld_ok ok _ _ _ _
  case rbst => exact execRbst_ok ok _ _ _ _
  case enq => exact execEnq_ok ok _ _ _
  case tkpost => exact execTkpost_ok ok _ _
  case tkwait => exact execTkwait_ok ok _ _
  case tkpoll => exact execTkpoll_ok ok _ _ _
  case seminc => exact execSeminc_ok ok _ _ _
  case semwait => exact execSemwait_ok ok _ _ _
  case semmap => exact execSemmap_ok ok _ _ _
  case qdrain => exact execQdrain_ok ok _ _
  case accver => exact execAccver_ok ok _ _ _
  case woreg => exact execWoreg_ok ok _ _ _
  case wodereg => exact execWodereg_ok ok _ _
  case wohold => exact execWohold_ok ok _ _ _
  case worel => exact execWorel_ok ok _ _
  case wowait => exact execWowait_ok ok _ _
  case wopoll => exact execWopoll_ok ok _ _ _
  case bar => exact execBar_ok ok _ _
  case barxf => exact execBarxf_ok ok _ _
  case lease => exact execLease_ok ok _ _ _
  case leaserel => exact execLeaserel_ok ok _ _
  case lend => exact execLend_ok ok _ _
  case rsmark => exact execRsmark_ok ok _
  case eret => exact execEret_ok ok _
  case opbnd => exact execOpbnd_ok ok _
  case defer => exact execDefer_ok ok _
  case undefer => exact execUndefer_ok ok _
  case ctxsv => exact execCtxsv_ok ok _ _
  case ctxld => exact execCtxld_ok ok _ _
  case tinst => exact execTinst_ok ok _
  case tvbump => exact execTvbump_ok ok _
  case tremove => exact execTremove_ok ok _
  case tquery => exact execTquery_ok ok _
  case s1root => exact execS1root_ok ok _
  case tlbinv => exact execTlbinv_ok ok _
  case regquery => exact execRegquery_ok ok _
  case partquery => exact execPartquery_ok ok _
  case greset => exact execGreset_ok ok _
  case scrubreq => exact execScrubreq_ok ok _
  case recquery => exact execRecquery_ok ok _
  case hvc => exact execHvc_ok ok _ _
  case vcmp => exact execVcmp_ok ok _
  case vscale => exact execVscale_ok ok _
  case vcvt => exact execVcvt_ok ok _
  case vrand => exact execVrand_ok ok _
  case vldp => exact execVldp_ok ok _
  case vstp => exact execVstp_ok ok _
  case fill => exact execFill_ok ok _
  case cploc => exact execCploc_ok ok _
  case xend => exact execXend_ok ok _
  case phaseMarker => exact execPhaseMarker_ok ok
  case phaseCompletion => exact execPhaseCompletion_ok ok
  case slxReply => exact execSlxReply_ok ok
  case waitRegistration => exact execWaitRegistration_ok ok
  case barrierCompletion => exact execBarrierCompletion_ok ok
  case transferPhaseStart => exact execTransferPhaseStart_ok ok
  case transferPhaseClose => exact execTransferPhaseClose_ok ok
  case walkerTake => exact execWalkerTake_ok ok
  case prodNotification => exact execProdNotification_ok ok
  case dispatch => exact execDispatch_ok ok
  case unitResume => exact execUnitResume_ok ok
  case harvestDeal => exact execHarvestDeal_ok ok
  case unpark => exact execUnpark_ok ok
  case leaseTermEnd => exact execLeaseTermEnd_ok ok
  case yieldHoldEnd => exact execYieldHoldEnd_ok ok
  case frameStart => exact execFrameStart_ok ok
  case windowBoundary => exact execWindowBoundary_ok ok
  case defEnd => exact execDefEnd_ok ok
  case budgetTime => exact execBudgetTime_ok ok
  case intervalBoundary => exact execIntervalBoundary_ok ok
  case regulatorTrip => exact execRegulatorTrip_ok ok
  case wayReassignment => exact execWayReassignment_ok ok
  case pageWorldChange => exact execPageWorldChange_ok ok
  case scrubSweep => exact execScrubSweep_ok ok
  case retentionEntry => exact execRetentionEntry_ok ok
  case retentionExit => exact execRetentionExit_ok ok
  case lockstepMismatch => exact execLockstepMismatch_ok ok
  case eccError => exact execEccError_ok ok
  case sensorRead => exact execSensorRead_ok ok
  case railExcursion => exact execRailExcursion_ok ok
  case tsynclost => exact execTsynclost_ok ok
  case blobLoad => exact execBlobLoad_ok ok
  case imageLoad => exact execImageLoad_ok ok
  case registerWrite => exact execRegisterWrite_ok ok
  case elog => exact execElog_ok ok
  case moduleReset => exact execModuleReset_ok ok
  case boot => exact execBoot_ok ok
  case keyErasure => exact execKeyErasure_ok ok
  case hostCompletion => exact execHostCompletion_ok ok
  case pageRequestResponse => exact execPageRequestResponse_ok ok
  case pageRequestTimeout => exact execPageRequestTimeout_ok ok
  case accessArrival => exact execAccessArrival_ok ok
  case rootControllerMismatch => exact execRootControllerMismatch_ok ok
  case configurationRequest => exact execConfigurationRequest_ok ok
  -- The constructor of RECALL shares its name with a keyword, so its case comes last, unnamed.
  next p => exact execRecall_ok ok p

end Sys2Proof.Machine

/-! Every step keeps the canonical form of the memories (logs 2, 4): fetch, the passing of a cycle, and what an act prepares. -/

namespace Sys2Proof.Machine

/-! ## Fetch (R115, R422) -/

/-- The state a fetch leaves is in canonical form. -/
def Fetched.Ok : Fetched → Prop
  | .trap _ => True
  | .stall s => s.ground.Ok
  | .word s _ => s.ground.Ok

/-- The state in which an act runs its instruction, or that it leaves, is in canonical form. -/
def Plan.Ok : Plan → Prop
  | .run s _ => s.ground.Ok
  | .idle s => s.ground.Ok
  | .fault _ => True

theorem Plan.ite_ok {c : Prop} [Decidable c] {a b : Plan} (ha : a.Ok) (hb : b.Ok) : (if c then a else b).Ok := by
  split <;> assumption

section
variable {s : State} (ok : s.ground.Ok)
include ok

theorem State.iFill_ok (c : CoreId) (line : Nat) : (s.iFill c line).ground.Ok := State.touch_ok ok _

theorem State.fetch_ok (i : CtxId) : (s.fetch i).Ok := by
  unfold State.fetch
  dsimp only
  split
  · exact ok
  · split
    · trivial
    · split
      · exact ok
      · split
        · trivial
        · split
          · exact ok
          · split
            · next u hu => exact State.admitSeq_ok ok hu
            · next u hu => exact State.iFill_ok (Ground.Ok.of_eq (State.admitSeq_ok ok hu) ((State.sliceAccess_ground ..).trans (State.fillTlbs_ground ..))) ..

/-! ## The plan of an act -/

theorem planTrap_ok (i : CtxId) : (planTrap s i).Ok := by
  have fetched := State.fetch_ok ok i
  refine Plan.ite_ok ok ?_
  split
  · next u hu => rw [hu] at fetched; exact fetched
  · next u w hu => rw [hu] at fetched; exact fetched
  · exact ok

theorem planCtx_ok (i : CtxId) : (planCtx s i).Ok := by
  have fetched := State.fetch_ok ok i
  refine Plan.ite_ok ok (Plan.ite_ok (planTrap_ok ok i) (Plan.ite_ok ok ?_))
  split
  · exact ok
  · split
    · exact State.raise_ok ok ..
    · next u hu => rw [hu] at fetched; exact fetched
    · next u w hu =>
      rw [hu] at fetched
      split
      · exact fetched
      · exact State.raise_ok fetched ..

theorem planEng_ok (e : EngId) : (planEng s e).Ok := by
  unfold planEng
  dsimp only
  split
  · exact ok
  · refine Plan.ite_ok ok ?_
    have stand (l : LeafId) (w : Asker) : ((s.settleHead e).unhold l w fun _ => false).ground.Ok := by simp [ok]
    split
    · exact ok
    · refine Plan.ite_ok (stand _ _) ?_
      split
      · exact ok
      · exact ok.of_eq (State.engFault_ground ..)
    · exact Plan.ite_ok (stand _ _) ok
    · exact Plan.ite_ok (stand _ _) ok

theorem planXf_ok (c : CoreId) (n : Nat) : (planXf s c n).Ok := by
  unfold planXf
  dsimp only
  split
  · exact ok
  · split <;> exact ok

theorem planSlice_ok (m : SliceId) (x : Fin 4) : (planSlice s m x).Ok := by
  unfold planSlice
  split
  · exact ok
  · split <;> exact ok

theorem planEvent_ok (i : Instr) (a : EvIn) : (planEvent s i a).Ok := Plan.ite_ok ok ok

/-! ## A fabric cycle (R16, R19) -/

theorem State.beatsBefore_ok : s.beatsBefore.ground.Ok := by
  refine foldl_ok (fun u x hu => ?_) _ ok
  split
  · exact ite_ok (State.performBeats_ok hu ..) hu
  · exact hu

omit ok in
/-- A cycle with its round put on the agenda: nothing that follows the failures touches the memories. -/
theorem State.withRound_ok {u : State} (hu : u.ground.Ok) (s : State) :
    ({ u with agenda := u.agenda ++ u.round s, free := u.free + 1 } : State).ground.Ok := hu

theorem State.tick_ok : s.tick.ground.Ok := by
  have failures (s : State) (c : CoreId) (hs : s.ground.Ok) : (s.endFailures c).ground.Ok := State.endFailures_ok hs c
  have stepped : ({ s.gtcStep with clusters := s.gtcStep.clusters.map Cluster.advance } : State).ground.Ok := ok
  have charged {u : State} (hu : u.ground.Ok) : (if u.gtc = s.gtc then u else u.chargeTick).ground.Ok :=
    ite_ok hu (hu.of_eq u.chargeTick_ground)
  have quiet := Ground.Ok.of_eq (charged stepped) (State.noteQuiet_ground _)
  unfold State.tick
  generalize allCores = cs
  exact State.withRound_ok (foldl_ok failures cs (Ground.Ok.of_eq (State.beatsBefore_ok quiet) (State.finishRecords_ground _))) s

/-! ## The root controller (R401-R403) -/

omit ok in
theorem State.rootLines_ok : ∀ (n : Nat) {s : State}, s.ground.Ok → ∀ pa bs, (State.rootLines n s pa bs).ground.Ok
  | 0, _, ok, _, _ => ok
  | n + 1, s, ok, pa, bs => by
    unfold State.rootLines
    dsimp only
    refine ite_ok ok (ite_ok ok (State.rootLines_ok n ?_ _ _))
    simp [ok]

theorem State.rootStore_ok (pa : Nat) (bs : List Byte) : (s.rootStore pa bs).ground.Ok := State.rootLines_ok _ ok pa bs

theorem State.setRange_ok (page pages tags : Nat) : (s.setRange page pages tags).ground.Ok := by
  refine foldl_ok (fun u i hu => State.passPage_ok hu ..) _ ?_
  exact ok

theorem prepare_ok (a : Act) : (prepare s a).Ok := by
  cases a with
  | clock => exact State.tick_ok ok
  | coreCycle c => exact ok
  | ctx i => exact planCtx_ok ok i
  | eng e => exact planEng_ok ok e
  | xf c n => exact planXf_ok ok c n
  | slice m x => exact planSlice_ok ok m x
  | event i e => exact planEvent_ok ok i e
  | rootStore pa bs => exact Plan.ite_ok (State.rootStore_ok ok pa bs) trivial
  | rootOwner page w => exact Plan.ite_ok (State.passPage_ok ok page w) trivial
  | rootStage2 v pa => exact ok
  | rootRange page pages tags => exact Plan.ite_ok (State.setRange_ok ok page pages tags) trivial
  | rootKey w => exact ok.of_eq (State.newKey_ground s w)
  | hostStore addr bs => exact ⟨ok.1, wf_write ok.2⟩
  | hostGrant v page dest => exact ok

end

/-- Settles O58: the act that comes next leaves the memories in canonical form, and so does the instruction or event it runs. -/
theorem everyStepKeepsTheMemories : Obligations.EveryStepKeepsTheMemories := by
  intro s t hs h
  have ok := (State.memoriesOk_ground s).1 hs
  have prepared := prepare_ok (ok.of_eq s.nextAct_ground) s.nextAct.1
  refine (State.memoriesOk_ground t).2 ?_
  unfold step at h
  revert prepared h
  generalize prepare s.nextAct.2 s.nextAct.1 = p
  intro h prepared
  cases p with
  | run u i => exact exec_ok i prepared t h
  | idle u =>
    cases h
    exact prepared
  | fault f => cases h

end Sys2Proof.Machine

/-! Messages: arrivals at a home slice or the host port, markers, phases and slice invocations (R213, R229-R238, R280-R300, R386, R415). -/

namespace Sys2Proof.Machine

/-! ## Arrivals (R229, R238, R276, R386) -/

theorem exec_accessArrival_write {s : State} {m : Msg} {parts : List (Nat × List Byte)} {after : Nat} {alloc : Bool} {tag : Option LineTag}
    (hm : s.evMsg m) (hb : m.body = .write parts after alloc tag) : exec .accessArrival s = .next (s.arriveWrite m parts after alloc tag) := by
  unfold State.evMsg at hm
  rw [exec_accessArrival, execAccessArrival]
  simp only [hm, hb]

theorem exec_accessArrival_host {s : State} {m : Msg} {v : VnpuId} {parts : List (Nat × List Byte)} (hm : s.evMsg m)
    (hb : m.body = .hostWrite v parts) : exec .accessArrival s = .next (s.arriveHost m v parts) := by
  unfold State.evMsg at hm
  rw [exec_accessArrival, execAccessArrival]
  simp only [hm, hb]

theorem exec_accessArrival_invoke {s : State} {m : Msg} {i : Invocation} (hm : s.evMsg m) (hb : m.body = .invoke i) :
    exec .accessArrival s = .next (s.arriveInv m i) := by
  unfold State.evMsg at hm
  rw [exec_accessArrival, execAccessArrival]
  simp only [hm, hb]

theorem State.arrived_countArrival (s : State) (target : Nat) (r : Src) (phase : Nat) :
    (s.countArrival target r phase).arrived target r phase = s.arrived target r phase + 1 := by
  simp [State.countArrival, State.arrived]

theorem State.unpost_gone (s : State) (m : Msg) : ∀ x ∈ (s.unpost m).net, x.id ≠ m.id := fun x hx => by
  simpa using (List.mem_filter.1 hx).2

/-- The bytes of a write go to DRAM; the messages and the counters stand. -/
theorem State.dstore_stands (s : State) (pa : Nat) (bs : List Byte) :
    (s.dstore pa bs).net = s.net ∧ (s.dstore pa bs).arrivals = s.arrivals := by
  show (s.touch (pa / 4096)).net = s.net ∧ (s.touch (pa / 4096)).arrivals = s.arrivals
  unfold State.touch
  split <;> exact ⟨rfl, rfl⟩

theorem State.dstore_congr {s t : State} (hd : t.dram = s.dram) (hz : t.zeroed = s.zeroed) (pa : Nat) (bs : List Byte) :
    (t.dstore pa bs).dram = (s.dstore pa bs).dram ∧ (t.dstore pa bs).zeroed = (s.dstore pa bs).zeroed := by
  show (t.touch (pa / 4096)).dram.write pa bs = (s.touch (pa / 4096)).dram.write pa bs ∧ (t.touch (pa / 4096)).zeroed = (s.touch (pa / 4096)).zeroed
  unfold State.touch State.filled
  rw [hz]
  split
  · exact ⟨by rw [hd], hz⟩
  · exact ⟨by dsimp only; rw [hd], by dsimp only⟩

/-- A part of a write performed for its source. -/
def State.performPart (r : Src) (s : State) (p : Nat × List Byte) : State :=
  let s := s.dstore p.1 p.2
  match srcCore r with
  | some c => s.l1Update c p.1 p.2
  | none => s

theorem State.performPart_eq (r : Src) (s : State) (p : Nat × List Byte) :
    ∃ k, State.performPart r s p = { s.dstore p.1 p.2 with cores := k } := by
  unfold State.performPart
  dsimp only
  split <;> exact ⟨_, rfl⟩

theorem State.performParts_stand (r : Src) : ∀ (parts : List (Nat × List Byte)) (s t : State), t.dram = s.dram → t.zeroed = s.zeroed →
    (parts.foldl (State.performPart r) t).dram = (parts.foldl (fun x p => x.dstore p.1 p.2) s).dram
      ∧ (parts.foldl (State.performPart r) t).net = t.net ∧ (parts.foldl (State.performPart r) t).arrivals = t.arrivals
  | [], _, _, hd, _ => ⟨hd, rfl, rfl⟩
  | p :: parts, s, t, hd, hz => by
    obtain ⟨k, part⟩ := State.performPart_eq r t p
    obtain ⟨dram, zeroed⟩ := State.dstore_congr hd hz p.1 p.2
    obtain ⟨net, arrivals⟩ := t.dstore_stands p.1 p.2
    obtain ⟨hd', hn, ha⟩ := State.performParts_stand r parts (s.dstore p.1 p.2) (State.performPart r t p)
      (by rw [part]; exact dram) (by rw [part]; exact zeroed)
    exact ⟨hd', hn.trans (by rw [part]; exact net), ha.trans (by rw [part]; exact arrivals)⟩

theorem State.putTag_stands (s : State) (line : Nat) (tag : Option LineTag) :
    (s.putTag line tag).dram = s.dram ∧ (s.putTag line tag).net = s.net ∧ (s.putTag line tag).arrivals = s.arrivals := by
  cases tag <;> exact ⟨rfl, rfl, rfl⟩

theorem State.performWrite_stands (s : State) (m : Msg) (parts : List (Nat × List Byte)) (line : Nat) (alloc : Bool) (tag : Option LineTag) :
    (s.performWrite m parts line alloc tag).dram = (parts.foldl (fun x p => x.dstore p.1 p.2) s).dram
      ∧ (s.performWrite m parts line alloc tag).net = s.net ∧ (s.performWrite m parts line alloc tag).arrivals = s.arrivals := by
  obtain ⟨dram, net, arrivals⟩ := State.performParts_stand m.src parts s s rfl rfl
  obtain ⟨hd, hn, ha⟩ := ((parts.foldl (State.performPart m.src) s).sliceAccess (some ((parts.foldl (State.performPart m.src) s).leafOf m.vnpu))
    line true alloc).putTag_stands line tag
  exact ⟨hd.trans dram, hn.trans net, ha.trans arrivals⟩

section
variable {s : State} {m : Msg} {parts : List (Nat × List Byte)} {after : Nat} {alloc : Bool} {tag : Option LineTag}

theorem State.arriveWrite_refused (h : parts = [] ∨ s.mayAccess m.vnpu (s.pageWorld (lineOfParts parts / 32)) = false) :
    s.arriveWrite m parts after alloc tag = (s.unpost m).countArrival m.target m.src m.phase := by
  refine if_pos ?_
  rcases h with rfl | h
  · rfl
  · rw [h, Bool.not_false, Bool.or_true]

theorem State.arriveWrite_waits (some_ : parts ≠ []) (may : s.mayAccess m.vnpu (s.pageWorld (lineOfParts parts / 32)) = true)
    (h : s.phaseDone m.src after = false ∨ (∃ p ∈ parts, s.behind m.turn m.key false p.1 p.2.length = true)
      ∨ s.lineHeld (lineOfParts parts) = true) : s.arriveWrite m parts after alloc tag = s := by
  unfold State.arriveWrite
  rw [if_neg (by simp [some_, may]), if_pos]
  rcases h with h | ⟨p, hp, h⟩ | h
  · simp [h]
  · simp only [Bool.or_eq_true]
    exact .inl (.inr (List.any_eq_true.2 ⟨p, hp, h⟩))
  · simp [h]

theorem State.arriveWrite_charged (some_ : parts ≠ []) (may : s.mayAccess m.vnpu (s.pageWorld (lineOfParts parts / 32)) = true)
    (phase : s.phaseDone m.src after = true) (first : ∀ p ∈ parts, s.behind m.turn m.key false p.1 p.2.length = false)
    (free : s.lineHeld (lineOfParts parts) = false) {b : Bool} {u : State}
    (charge : s.admitSeq m.vnpu (.msg m.id) (s.mcCharges (some (s.leafOf m.vnpu)) (lineOfParts parts) alloc) = (b, u)) :
    s.arriveWrite m parts after alloc tag = if b then
      ((u.performWrite m parts (lineOfParts parts) alloc tag).unpost m).countArrival m.target m.src m.phase else u := by
  have none : (parts.any fun p => s.behind m.turn m.key false p.1 p.2.length) = false := by simpa using first
  unfold State.arriveWrite
  simp only [may, phase, none, free, charge, List.isEmpty_eq_false_iff.2 some_]
  cases b <;> rfl

theorem State.hostWrites_eq (parts : List (Nat × List Byte)) (s : State) :
    parts.foldl (fun s p => { s with host := s.host.write p.1 p.2 }) s = { s with host := parts.foldl (fun h p => h.write p.1 p.2) s.host } := by
  induction parts generalizing s with
  | nil => rfl
  | cons p parts ih => exact ih _

theorem State.arriveHost_performed {v : VnpuId} (first : ∀ p ∈ parts, s.behind m.turn m.key true p.1 p.2.length = false)
    (run : s.inRun v = true) : s.arriveHost m v parts
      = (State.unpost { s with host := parts.foldl (fun h p => h.write p.1 p.2) s.host } m).countArrival hostPort m.src m.phase := by
  have none : (parts.any fun p => s.behind m.turn m.key true p.1 p.2.length) = false := by simpa using first
  unfold State.arriveHost
  rw [none, run, if_neg Bool.false_ne_true, if_pos rfl, State.hostWrites_eq]

theorem State.arriveHost_dropped {v : VnpuId} (first : ∀ p ∈ parts, s.behind m.turn m.key true p.1 p.2.length = false)
    (shut : s.inRun v = false) : ∃ u : State, s.arriveHost m v parts = (u.unpost m).countArrival hostPort m.src m.phase
      ∧ u.host = s.host ∧ u.arrivals = s.arrivals := by
  have none : (parts.any fun p => s.behind m.turn m.key true p.1 p.2.length) = false := by simpa using first
  unfold State.arriveHost
  rw [none, shut, if_neg Bool.false_ne_true, if_neg Bool.false_ne_true]
  refine ⟨_, rfl, ?_⟩
  split <;> exact ⟨rfl, rfl⟩

end

/-! ## Phases (R229-R231) -/

theorem Phases.pop_blocked (n : Nat) {p : Phases} {o : OpenPhase} {rest : List OpenPhase} (hp : p.opens = o :: rest) (ht : o.targets ≠ []) :
    Phases.pop n p = p := by
  cases n with
  | zero => rfl
  | succ n =>
    unfold Phases.pop
    simp only [hp, List.isEmpty_eq_false_iff.2 ht]
    rfl

theorem Phases.pop_one {n : Nat} {p : Phases} {o : OpenPhase} {rest : List OpenPhase} (hp : p.opens = o :: rest) (ht : o.targets = [])
    (hr : ∀ y ∈ rest, y.targets ≠ []) : Phases.pop (n + 1) p = { p with opens := rest, completed := p.completed + 1 } := by
  unfold Phases.pop
  simp only [hp, ht]
  refine (if_pos rfl).trans ?_
  cases rest with
  | nil => cases n <;> rfl
  | cons y rest => exact Phases.pop_blocked n rfl (hr y List.mem_cons_self)

end Sys2Proof.Machine

/-! The migration of a page (R299): what a copy of a page leaves at the new place and at the old. -/

namespace Sys2Proof.Machine

/-! ## Bytes of a spliced memory -/

/-- A cell stands in a canonical memory where its byte is read. -/
theorem Mem.mem_iff : ∀ {m : Mem} {a : Nat} {v : Byte}, m.wf = true → ((a, v) ∈ m ↔ v ≠ 0 ∧ m.get a = v)
  | [], a, v, _ => by
    simp only [List.not_mem_nil, Mem.get, false_iff, not_and]
    exact fun hv e => hv e.symm
  | (x, w) :: r, a, v, h => by
    have after := wf_tail h
    have hw : w ≠ 0 := by
      rw [Mem.wf, Bool.and_eq_true] at h
      simpa using h.1
    have ih := @Mem.mem_iff r a v (wf_of_okAfter after)
    rw [List.mem_cons, ih, Mem.get]
    by_cases e : x = a
    · subst e
      rw [get_below after le_rfl, if_pos rfl]
      constructor
      · rintro (e | ⟨hv, e⟩)
        · cases e; exact ⟨hw, rfl⟩
        · exact absurd e.symm hv
      · rintro ⟨_, rfl⟩; exact .inl rfl
    · rw [if_neg e]
      have other : (a, v) ≠ (x, w) := fun h => e (congrArg Prod.fst h).symm
      by_cases l : a < x
      · simp [other, l, get_below after l.le]
      · simp [other, l]

/-- Two canonical memories read the same byte at two places that hold the same cells. -/
theorem Mem.get_eq {m n : Mem} {a b : Nat} (hm : m.wf = true) (hn : n.wf = true) (h : ∀ v, (a, v) ∈ m ↔ (b, v) ∈ n) : m.get a = n.get b := by
  have cells (v : Byte) := ((Mem.mem_iff hm).symm.trans (h v)).trans (Mem.mem_iff hn)
  by_cases z : m.get a = 0
  · by_contra ne
    exact ne (((cells _).2 ⟨fun e => ne (z.trans e.symm), rfl⟩).2)
  · exact ((cells _).1 ⟨z, rfl⟩).2.symm

theorem Mem.get_splice {m x : Mem} (hm : m.wf = true) (hx : x.wf = true) (dst n src a : Nat) :
    (m.splice dst n x src).get a = if dst ≤ a ∧ a < dst + n then x.get (a - dst + src) else m.get a := by
  have hs := @wf_splice m x dst n src hm hx
  split_ifs with inside
  · refine Mem.get_eq hs hx fun v => ?_
    simp only [Mem.splice, Mem.shift, Mem.part, List.mem_append, List.mem_filter, List.mem_map, decide_eq_true_eq, Bool.and_eq_true]
    constructor
    · rintro ((⟨_, h⟩ | ⟨⟨y, w⟩, ⟨mem, h⟩, e⟩) | ⟨_, h⟩)
      · exact absurd h (by omega)
      · obtain ⟨rfl, rfl⟩ := Prod.mk.inj e
        rwa [show y - src + dst - dst + src = y by simp only at h; omega]
      · exact absurd h (by omega)
    · exact fun mem => .inl (.inr ⟨_, ⟨mem, by simp only; omega⟩, by simp only [Prod.mk.injEq, and_true]; omega⟩)
  · refine Mem.get_eq hs hm fun v => ?_
    simp only [Mem.splice, Mem.shift, Mem.part, List.mem_append, List.mem_filter, List.mem_map, decide_eq_true_eq, Bool.and_eq_true]
    constructor
    · rintro ((⟨mem, _⟩ | ⟨⟨y, w⟩, ⟨mem, h⟩, e⟩) | ⟨mem, _⟩)
      · exact mem
      · obtain ⟨rfl, rfl⟩ := Prod.mk.inj e
        simp only at h
        omega
      · exact mem
    · intro mem
      by_cases l : a < dst
      · exact .inl (.inl ⟨mem, l⟩)
      · exact .inr ⟨mem, by omega⟩

/-! ## Pages -/

/-- Page q of a state has the world and the bytes that page p of another has. -/
structure State.SamePage (s : State) (p : Nat) (t : State) (q : Nat) : Prop where
  world : t.pageWorld q = s.pageWorld p
  bytes : ∀ k, k < 4096 → t.dbyte (q * 4096 + k) = s.dbyte (p * 4096 + k)

theorem State.SamePage.refl (s : State) (p : Nat) : s.SamePage p s p := ⟨rfl, fun _ _ => rfl⟩

theorem State.SamePage.trans {s t u : State} {p q r : Nat} (h : s.SamePage p t q) (h' : t.SamePage q u r) : s.SamePage p u r :=
  ⟨h'.world.trans h.world, fun k hk => (h'.bytes k hk).trans (h.bytes k hk)⟩

theorem State.samePage_of_ground {s t : State} (h : t.ground = s.ground) (p : Nat) : s.SamePage p t p := by
  have dram : t.dram = s.dram := congrArg Ground.dram h
  have zeroed : t.zeroed = s.zeroed := congrArg Ground.zeroed h
  have owner : t.owner = s.owner := congrArg Ground.owner h
  exact ⟨by rw [State.pageWorld, owner]; rfl, fun k _ => by rw [State.dbyte, State.filled, dram, zeroed]; rfl⟩

theorem pageOf (p : Nat) {k : Nat} (hk : k < 4096) : (p * 4096 + k) / 4096 = p := by omega

theorem getKey_dropKey {β : Type} (k n : Nat) (l : List (Nat × β)) : getKey n (l.filter fun e => e.1 ≠ k) = if n = k then none else getKey n l := by
  unfold getKey
  rw [List.find?_filter]
  split_ifs with h
  · subst h
    rw [List.find?_eq_none.2 (fun e _ => by simp), Option.map_none]
  · congr 1
    refine List.find?_congr fun e _ => ?_
    by_cases hn : e.1 = n
    · simp [hn, h]
    · simp [hn]

theorem State.passPage_pageWorld (s : State) (p q : Nat) (w : BitVec 8) : (s.passPage p w).pageWorld q = if q = p then w else s.pageWorld q := by
  show (getKey q (if w = 0 then s.owner.filter fun e => e.1 ≠ p else putKey p w s.owner)).getD 0 = _
  by_cases zero : w = 0
  · rw [if_pos zero, getKey_dropKey]
    split_ifs with e
    · exact zero.symm
    · rfl
  · rw [if_neg zero, getKey_putKey]
    split_ifs <;> rfl

theorem State.passPage_dbyte (s : State) (p a : Nat) (w : BitVec 8) : (s.passPage p w).dbyte a = if a / 4096 = p then 0 else s.dbyte a := by
  have filled : (s.passPage p w).filled (a / 4096) = (decide (a / 4096 ≠ p) && s.filled (a / 4096)) := by
    show (s.zeroed.filter (· ≠ p)).contains _ = (_ && s.zeroed.contains _)
    by_cases e : a / 4096 = p <;> simp [e]
  rw [State.dbyte, filled]
  by_cases e : a / 4096 = p
  · simp [e]
  · simp only [e, ne_eq, not_false_eq_true, decide_true, Bool.true_and, if_false]
    rfl

theorem State.passPage_other (s : State) {p q : Nat} (w : BitVec 8) (h : q ≠ p) : s.SamePage q (s.passPage p w) q :=
  ⟨by rw [State.passPage_pageWorld, if_neg h], fun k hk => by rw [State.passPage_dbyte, pageOf q hk, if_neg h]⟩

/-! ## Copies of pages -/

theorem State.touch_samePage {s : State} (ok : s.ground.Ok) (p q : Nat) : s.SamePage q (s.touch p) q :=
  ⟨by unfold State.touch; split <;> rfl, fun _ _ => State.touch_dbyte p _ ok.1⟩

/-- A copied page: the root controller's writes change the counts alone. -/
theorem State.copyPage_ground (s : State) (old new : Nat) (h : s.filled old = true) : (s.copyPage old new).ground
    = ({ s.touch new with dram := (s.touch new).dram.splice (new * 4096) 4096 (s.touch new).dram (old * 4096) } : State).ground := by
  unfold State.copyPage
  rw [h, Bool.not_true, if_neg Bool.false_ne_true, foldl_ground fun s i => s.rootWrote_ground _]
  rfl

theorem State.copyPage_other {s : State} (ok : s.ground.Ok) (old : Nat) {new q : Nat} (h : q ≠ new) : s.SamePage q (s.copyPage old new) q := by
  cases hf : s.filled old with
  | false =>
    rw [State.copyPage, hf, Bool.not_false, if_pos rfl]
    exact State.SamePage.refl s q
  | true =>
    refine State.SamePage.trans ?_ (State.samePage_of_ground (State.copyPage_ground s old new hf) q)
    refine (State.touch_samePage ok new q).trans ⟨rfl, fun k hk => ?_⟩
    rw [State.dbyte, State.dbyte]
    refine if_congr Iff.rfl ?_ rfl
    have wf := (State.touch_ok ok new).1
    exact (Mem.get_splice wf wf ..).trans (if_neg (by omega))

/-- A page that reads zero takes the bytes of another. -/
theorem State.copyPage_copied {s : State} (ok : s.ground.Ok) {old new : Nat}
    (zero : ∀ k, k < 4096 → s.dbyte (new * 4096 + k) = 0) :
    (s.copyPage old new).pageWorld new = s.pageWorld new ∧ ∀ k, k < 4096 → (s.copyPage old new).dbyte (new * 4096 + k) = s.dbyte (old * 4096 + k) := by
  cases hf : s.filled old with
  | false =>
    rw [State.copyPage, hf, Bool.not_false, if_pos rfl]
    refine ⟨rfl, fun k hk => ?_⟩
    rw [zero k hk, State.dbyte, pageOf old hk, hf, if_neg Bool.false_ne_true]
  | true =>
    have same := State.samePage_of_ground (State.copyPage_ground s old new hf) new
    refine ⟨same.world.trans (State.touch_samePage ok new new).world, fun k hk => (same.bytes k hk).trans ?_⟩
    have wf := (State.touch_ok ok new).1
    have filled : (s.touch new).filled new = true := s.touch_filled new
    have source : (s.touch new).filled old = true := by
      unfold State.touch
      split
      · exact hf
      · simp only [State.filled, List.contains_cons] at hf ⊢
        rw [hf, Bool.or_true]
    rw [← (State.touch_samePage ok new old).bytes k hk, State.dbyte, State.dbyte, pageOf new hk, pageOf old hk]
    rw [if_pos source]
    refine (if_pos filled).trans ((Mem.get_splice wf wf ..).trans ((if_pos (by omega)).trans ?_))
    rw [show new * 4096 + k - new * 4096 + old * 4096 = old * 4096 + k by omega]
    rfl

/-- The page at a new place passes to the world of the old one, and takes its bytes. -/
def State.movePage (old new : Nat) (s : State) (i : Nat) : State := (s.passPage (new + i) (s.pageWorld (old + i))).copyPage (old + i) (new + i)

theorem State.movePage_ok {s : State} (ok : s.ground.Ok) (old new i : Nat) : (State.movePage old new s i).ground.Ok :=
  State.copyPage_ok (State.passPage_ok ok ..) ..

theorem State.movePage_moved {s : State} (ok : s.ground.Ok) {old new i : Nat} (h : old ≠ new) : s.SamePage (old + i) (State.movePage old new s i) (new + i) := by
  have passed := State.passPage_ok ok (new + i) (s.pageWorld (old + i))
  obtain ⟨world, bytes⟩ := @State.copyPage_copied (s.passPage (new + i) (s.pageWorld (old + i))) passed (old + i) (new + i) fun k hk => by
    rw [State.passPage_dbyte, pageOf _ hk, if_pos rfl]
  exact ⟨world.trans (by rw [State.passPage_pageWorld, if_pos rfl]), fun k hk => (bytes k hk).trans ((State.passPage_other s _ (by omega)).bytes k hk)⟩

theorem State.movePage_other {s : State} (ok : s.ground.Ok) (old : Nat) {new i q : Nat} (h : q ≠ new + i) : s.SamePage q (State.movePage old new s i) q :=
  (State.passPage_other s _ h).trans (State.copyPage_other (State.passPage_ok ok ..) _ h)

theorem State.movePages {s : State} (ok : s.ground.Ok) {old new : Nat} (n : Nat) (apart : old + n ≤ new ∨ new + n ≤ old) :
    ((List.range n).foldl (State.movePage old new) s).ground.Ok
      ∧ (∀ j, j < n → s.SamePage (old + j) ((List.range n).foldl (State.movePage old new) s) (new + j))
      ∧ ∀ q, (q < new ∨ new + n ≤ q) → s.SamePage q ((List.range n).foldl (State.movePage old new) s) q := by
  induction n with
  | zero => exact ⟨ok, fun j hj => absurd hj (Nat.not_lt_zero j), fun q _ => State.SamePage.refl s q⟩
  | succ n ih =>
    obtain ⟨ok', moved, kept⟩ := ih (by omega)
    rw [List.range_succ, List.foldl_append]
    refine ⟨State.movePage_ok ok' .., fun j hj => ?_, fun q hq => (kept q (by omega)).trans (State.movePage_other ok' old (by omega))⟩
    rcases Nat.lt_succ_iff_lt_or_eq.1 hj with lt | rfl
    · exact (moved j lt).trans (State.movePage_other ok' old (by omega))
    · exact (kept (old + j) (by omega)).trans (State.movePage_moved ok' (by omega))

theorem State.passPages_world (s : State) (old n q : Nat) :
    ((List.range n).foldl (fun s i => s.passPage (old + i) 0) s).pageWorld q = if old ≤ q ∧ q < old + n then 0 else s.pageWorld q := by
  induction n with
  | zero => rw [if_neg (by omega)]; rfl
  | succ n ih =>
    rw [List.range_succ, List.foldl_append, List.foldl_cons, List.foldl_nil, State.passPage_pageWorld, ih]
    by_cases e : q = old + n
    · rw [if_pos e, if_pos (by omega)]
    · rw [if_neg e]
      exact if_congr (by omega) rfl rfl

theorem State.passPages_other (s : State) (old n : Nat) {q : Nat} (h : q < old ∨ old + n ≤ q) :
    s.SamePage q ((List.range n).foldl (fun s i => s.passPage (old + i) 0) s) q := by
  induction n with
  | zero => exact State.SamePage.refl s q
  | succ n ih =>
    rw [List.range_succ, List.foldl_append]
    exact (ih (by omega)).trans (State.passPage_other _ _ (by omega))

/-! ## The entry of a mapping (R399) -/

theorem State.dstore_other {s : State} (ok : s.ground.Ok) {pa : Nat} (bs : List Byte) {q : Nat} (fits : pa % 4096 + bs.length ≤ 4096)
    (h : q ≠ pa / 4096) : s.SamePage q (s.dstore pa bs) q := by
  obtain ⟨_, bytes⟩ := storedBytesAreReadBack s pa bs ((State.memoriesOk_ground s).2 ok) fits
  exact ⟨(State.touch_samePage ok (pa / 4096) q).world, fun k hk => (bytes _).trans (dif_neg (by omega))⟩

theorem State.putEntry_other {s : State} (ok : s.ground.Ok) {at_ : Nat} (size v : Nat) {q : Nat} (aligned : at_ % 8 = 0) (h : q ≠ at_ / 4096) :
    s.SamePage q (s.putEntry at_ size v) q := by
  have copies (l : List Nat) (hl : ∀ i ∈ l, i < 16) {s : State} (ok : s.ground.Ok) :
      s.SamePage q (l.foldl (fun s i => s.dstore (at_ / 128 * 128 + 8 * i) (leBytes 8 v)) s) q := by
    induction l generalizing s with
    | nil => exact State.SamePage.refl s q
    | cons i l ih =>
      have hi := hl i List.mem_cons_self
      exact (State.dstore_other ok _ (by rw [leBytes_length]; omega) (by omega)).trans
        (ih (fun j hj => hl j (List.mem_cons_of_mem i hj)) (State.dstore_ok ok ..))
  unfold State.putEntry
  refine State.SamePage.trans ?_ (State.samePage_of_ground (State.rootWrote_ground _ _) q)
  split
  · exact copies _ (fun i hi => List.mem_range.1 hi) ok
  · exact State.dstore_other ok _ (by rw [leBytes_length]; omega) h

/-! ## The flip of a mapping -/

/-- Each page has its world and its bytes at its new place, and the old pages are of world 0. -/
theorem State.flip_moved {s : State} {g : Migration} {at_ e size : Nat} (ok : s.ground.Ok) (apart : g.old + g.pages ≤ g.new ∨ g.new + g.pages ≤ g.old)
    (entry : s.mapEntry g.vnpu g.ipage = some (at_, e, size)) (outside : at_ / 4096 < g.new ∨ g.new + g.pages ≤ at_ / 4096) (aligned : at_ % 8 = 0) :
    ∀ j, j < g.pages → s.SamePage (g.old + j) (s.flip g) (g.new + j) ∧ (s.flip g).pageWorld (g.old + j) = 0 := by
  intro j hj
  obtain ⟨ok', moved, _⟩ := State.movePages ok g.pages apart
  have written := State.putEntry_other ok' size (e - bits e 47 12 * 4096 + g.new * 4096) aligned (show g.new + j ≠ at_ / 4096 by omega)
  have passed := State.passPages_other (((List.range g.pages).foldl (State.movePage g.old g.new) s).putEntry at_ size (e - bits e 47 12 * 4096 + g.new * 4096))
    g.old g.pages (show g.new + j < g.old ∨ g.old + g.pages ≤ g.new + j by omega)
  have flipped : (s.flip g).ground = ((List.range g.pages).foldl (fun s i => s.passPage (g.old + i) 0)
      (((List.range g.pages).foldl (State.movePage g.old g.new) s).putEntry at_ size (e - bits e 47 12 * 4096 + g.new * 4096))).ground := by
    unfold State.flip
    rw [entry]
    rfl
  refine ⟨((moved j hj).trans (written.trans passed)).trans (State.samePage_of_ground flipped _), ?_⟩
  rw [(State.samePage_of_ground flipped _).world, State.passPages_world, if_pos (by omega)]

end Sys2Proof.Machine

/-! Messages meet (R229-R231, R280-R300, R351, R369-R377): markers, phases, grants, replies, migration, barriers and transfer phases. -/

namespace Sys2Proof.Machine

/-! ## Markers (R229, R230) -/

theorem exec_phaseMarker_marker {s : State} {m : Msg} {num count : Nat} (hm : s.evMsg m) (hb : m.body = .marker num count) :
    exec .phaseMarker s = .next (if s.arrived m.target m.src num < count then s
      else
        let u := (s.unpost m).clearArrival m.target m.src num
        let u := if s.arrived m.target m.src num = count then u
          else { u with arrivals := ⟨m.target, m.src, num % 4, s.arrived m.target m.src num - count⟩ :: u.arrivals }
        u.setPhases m.src ((u.phases m.src).ack num m.target)) := by
  unfold State.evMsg at hm
  rw [exec_phaseMarker, execPhaseMarker]
  simp only [hm, hb]

/-! ## Grants (R280, R283, R298) -/

theorem State.modSlice_rr (s : State) (n : SliceId) (f : Slice → Slice) (hf : ∀ x, (f x).rr = x.rr) (m : SliceId) :
    ((s.modSlice n f).slice m).rr = (s.slice m).rr := by
  by_cases hm : m = n
  · subst hm; rw [State.slice_modSlice, hf]
  · exact congrArg Slice.rr (getSetOther _ _ _ _ fun h => hm h)

theorem Slice.sample_rr (x : Slice) (l : LeafId) (line : Nat) : (x.sample l line).rr = x.rr := by
  unfold Slice.sample
  dsimp only
  split <;> rfl

theorem State.sliceAccess_rr (s : State) (l : Option LeafId) (line : Nat) (w al : Bool) (m : SliceId) :
    ((s.sliceAccess l line w al).slice m).rr = (s.slice m).rr := by
  refine State.modSlice_rr s _ _ (fun x => ?_) m
  have sampled : (match l with | some l => x.sample l line | none => x).rr = x.rr := by
    cases l with
    | none => rfl
    | some l => exact x.sample_rr l line
  refine Eq.trans ?_ sampled
  dsimp only
  split
  · rfl
  · split
    · rfl
    · split <;> rfl

theorem State.touch_slices (s : State) (p : Nat) : (s.touch p).slices = s.slices := by unfold State.touch; split <;> rfl

/-- The first invocation that may be granted: it is passed over where its request is held, and else its executor starts. -/
theorem exec_sliceInvocation_first {s u : State} {x : Fin 4} {t : TopId} {i : Invocation} {rest : List (TopId × Invocation)} {b : Bool}
    (free : ((List.finRange 4).find? fun x => (((s.slice s.cur.ev.slice).exec x).inv).isNone) = some x)
    (first : s.grantable s.cur.ev.slice = (t, i) :: rest) (sound : s.invFault s.cur.ev.slice i = none)
    (charge : s.admitSeq i.vnpu (.inv i.id) (s.mcCharges (some (s.invLeaf i)) (i.pa / 128) true) = (b, u)) :
    exec .sliceInvocation s = .next (if b then
      (((u.modSlice s.cur.ev.slice fun y => { y with rr := t.val, queue := y.queue.filter fun j => !(j.id = i.id && j.src = i.src) }).touch
        (i.pa / 128 / 32)).sliceAccess (some (u.invLeaf i)) (i.pa / 128) false true).modSlice s.cur.ev.slice fun y => y.setExec x
          ((((u.modSlice s.cur.ev.slice fun y => { y with rr := t.val, queue := y.queue.filter fun j => !(j.id = i.id && j.src = i.src) }).touch
        (i.pa / 128 / 32)).sliceAccess (some (u.invLeaf i)) (i.pa / 128) false true).startExec i)
      else u.grantFirst s.cur.ev.slice x rest) := by
  rw [exec_sliceInvocation, execSliceInvocation, State.takeInv]
  simp only [free, first]
  rw [State.grantFirst]
  simp only [sound, charge]
  cases b <;> rfl

/-! ## Replies (R293-R300) -/

theorem exec_slxReply_reply {s : State} {m : Msg} {i : Invocation} {r : Reply} (hm : s.evMsg m) (hb : m.body = .reply i r) :
    exec .slxReply s = .next (if i.rgen ≠ (s.vnpu i.vnpu).rgen then s.unpost m
      else if i.wait then s.slxReply m i r else s.slxnReply m i r) := by
  unfold State.evMsg at hm
  rw [exec_slxReply, execSlxReply]
  simp only [hm, hb]

theorem exec_slxReply_slx {s : State} {m : Msg} {i : Invocation} {r : Reply} (hm : s.evMsg m) (hb : m.body = .reply i r)
    (gen : i.rgen = (s.vnpu i.vnpu).rgen) (wait : i.wait = true) : exec .slxReply s = .next (s.slxReply m i r) := by
  rw [exec_slxReply_reply hm hb, if_neg (not_not_intro gen), if_pos wait]

theorem exec_slxReply_slxn {s : State} {m : Msg} {i : Invocation} {r : Reply} (hm : s.evMsg m) (hb : m.body = .reply i r)
    (gen : i.rgen = (s.vnpu i.vnpu).rgen) (wait : i.wait = false) : exec .slxReply s = .next (s.slxnReply m i r) := by
  rw [exec_slxReply_reply hm hb, if_neg (not_not_intro gen), if_neg (by rw [wait]; exact Bool.false_ne_true)]

theorem State.stampable {s : State} {i : Invocation}
    (may : s.owedRecord i = true → s.mayStamp (.ctx i.src) = true) : ¬(s.owedRecord i && !s.mayStamp (.ctx i.src)) = true := by
  cases owed : s.owedRecord i with
  | false => exact Bool.false_ne_true
  | true => rw [may owed]; exact Bool.false_ne_true

/-- A NACKed invocation is tried again, whether its SLX or its SLXN. -/
theorem exec_slxReply_nack {s : State} {m : Msg} {i : Invocation} (hm : s.evMsg m) (hb : m.body = .reply i .nack)
    (gen : i.rgen = (s.vnpu i.vnpu).rgen) (waits : i.wait = true → s.awaitsReply i = true)
    (may : i.wait = false → s.owedRecord i = true → s.mayStamp (.ctx i.src) = true) :
    ∃ fail, exec .slxReply s = .next (s.retryInv m i fail) ∧ (i.wait = true → fail = fun s t => s.raise i.src t) := by
  cases wait : i.wait with
  | true =>
    rw [exec_slxReply_slx hm hb gen wait, State.slxReply]
    simp only [waits wait]
    exact ⟨_, rfl, fun _ => rfl⟩
  | false =>
    rw [exec_slxReply_slxn hm hb gen wait]
    exact ⟨_, congrArg Host.Outcome.next (if_neg (State.stampable (may wait))), fun h => nomatch h⟩

/-- The translations of the core of an invocation to its address are looked up anew (R299). -/
def State.freshFor (s : State) (i : Invocation) : State :=
  s.modCore i.src.core fun k => { k with tlb := k.tlb.filter fun e => !(e.vnpu = i.vnpu && e.covers i.va) }

/-- The access that an invocation is checked as. -/
def Invocation.acc (i : Invocation) : Acc := { core := i.src.core, vnpu := i.vnpu, user := i.user, write := true }

/-- The routine number of an invocation. -/
def Invocation.rix (i : Invocation) : Fin 256 := ⟨i.rid % 256, Nat.mod_lt _ (by decide)⟩

section
variable {s : State} {m : Msg} {i : Invocation} {fail : State → Trap → State}

theorem State.retryInv_held (h : (s.freshFor i).invHeld i.acc (BitVec.ofNat 64 i.va) (some i.rix) = true) : s.retryInv m i fail = s := if_pos h

variable (free : (s.freshFor i).invHeld i.acc (BitVec.ofNat 64 i.va) (some i.rix) = false)
include free

theorem State.retryInv_fails {t : Trap} (h : (s.freshFor i).invAddr i.acc (BitVec.ofNat 64 i.va) (BitVec.ofNat 5 i.vr) (some i.rix) = .error t) :
    s.retryInv m i fail = fail ((s.freshFor i).unpost m) t := by
  refine (if_neg (by rw [Bool.not_eq_true]; exact free)).trans ?_
  rw [State.freshFor, Invocation.acc, Invocation.rix] at h
  simp only [h]
  rfl

variable {pa : Nat} {pages : List (Nat × TlbEntry)}
  (at_ : (s.freshFor i).invAddr i.acc (BitVec.ofNat 64 i.va) (BitVec.ofNat 5 i.vr) (some i.rix) = .ok (pa, pages))
include at_

theorem State.retryInv_marked (h : s.marked (pa / 4096) = true) : s.retryInv m i fail = s := by
  refine (if_neg (by rw [Bool.not_eq_true]; exact free)).trans ?_
  rw [State.freshFor, Invocation.acc, Invocation.rix] at at_
  simp only [at_, h]
  rfl

variable {u : State} (clear : s.marked (pa / 4096) = false)
include clear

theorem State.retryInv_charged (charge : (s.freshFor i).admitAll i.vnpu (.msg m.id) [(i.src.core.val, 24)] = (false, u)) :
    s.retryInv m i fail = u := by
  refine (if_neg (by rw [Bool.not_eq_true]; exact free)).trans ?_
  rw [State.freshFor] at at_ charge
  rw [Invocation.acc, Invocation.rix] at at_
  simp only [at_, clear, charge]
  rfl

theorem State.retryInv_sent {v : State} (charge : (s.freshFor i).admitAll i.vnpu (.msg m.id) [(i.src.core.val, 24)] = (true, u))
    (counted : ((u.unpost m).fillTlbs i.src.core pages).countRetry i (homeSlice (pa / 128)).val = some v) :
    s.retryInv m i fail = v.post (v.againMsg { i with pa := pa } (homeSlice (pa / 128)).val) := by
  refine (if_neg (by rw [Bool.not_eq_true]; exact free)).trans ?_
  rw [State.freshFor] at at_ charge
  rw [Invocation.acc, Invocation.rix] at at_
  simp only [at_, clear, charge, counted]
  rfl

end

end Sys2Proof.Machine

/-! The completion of barriers, the start and the close of transfer phases (R369-R377), and what messages do as they arrive and meet. -/

namespace Sys2Proof.Machine

/-! ## Barriers (R369) -/

theorem State.unblockCtx_barriers (s : State) (i : CtxId) : (s.unblockCtx i).barriers = s.barriers := by
  unfold State.unblockCtx
  dsimp only
  split <;> rfl

theorem foldl_keeps {α β : Type} (g : State → β) {f : State → α → State} (h : ∀ s x, g (f s x) = g s) (l : List α) (s : State) :
    g (l.foldl f s) = g s := by
  induction l generalizing s with
  | nil => rfl
  | cons x l ih => exact (ih _).trans (h s x)

theorem State.l1Drop_barriers (s : State) (c : CoreId) : (s.l1Drop c).barriers = s.barriers := by
  have emptied (s : State) (d : CoreId) : (s.modCore d fun k => { k with l1 := [] }).barriers = s.barriers := rfl
  exact foldl_keeps State.barriers emptied _ s

theorem State.dropMembers_barriers (s : State) (b : Barrier) : (s.dropMembers b).barriers = s.barriers :=
  foldl_keeps State.barriers (fun s u => by split; exacts [s.l1Drop_barriers _, rfl]) _ s

theorem State.freeMembers_barriers (s : State) (b : Barrier) : (s.freeMembers b).barriers = s.barriers :=
  foldl_keeps State.barriers (fun s u => by split; exacts [s.unblockCtx_barriers _, rfl]) _ s

theorem State.meetStamps_barriers (s : State) (b : Barrier) : (s.meetStamps b).barriers = s.barriers := by
  generalize hn : b.arrived.foldl (fun n u => max n ((s.core u.ctx.core).stamps.get (srcSlot (.ctx u.ctx)))) 0 = n
  have noted (s : State) (u : UnitId) : (s.modCore u.ctx.core fun k => k.noteStamp (srcSlot (.ctx u.ctx)) n).barriers = s.barriers := rfl
  subst hn
  exact foldl_keeps State.barriers noted b.arrived s

/-- The phase that the meeting of a BARXF starts. -/
def State.startedPhase (s : State) (b : Barrier) : XPhase :=
  let x : XPhase := {
    id := b.id, obj := b.obj, members := s.runners b, start := some (phaseStart b.lastAt), faults := (s.runners b).filterMap s.validate
    beats := [], writes := [], p := 0
    firsts := (s.runners b).filterMap fun i => ((s.program i).getD []).head?.map fun q => (i, q.seq) }
  { x with p := s.phaseP x }

section
variable {s : State} {b : Barrier} (found : (s.barriers.find? fun b => b.id = s.cur.ev.n) = some b)
include found

theorem exec_barrierCompletion_met (hx : b.xf = false) (hf : b.full = true) :
    ∃ t, exec .barrierCompletion s = .next t ∧ ∀ y ∈ t.barriers, y.id ≠ b.id := by
  rw [exec_barrierCompletion, execBarrierCompletion]
  simp only [found, hx, hf]
  rw [if_neg (by decide)]
  refine ⟨_, rfl, fun y hy => ?_⟩
  rw [State.meetStamps_barriers, State.dropMembers_barriers, State.freeMembers_barriers] at hy
  simpa using (List.mem_filter.1 hy).2

theorem exec_barrierCompletion_open (h : b.xf = true ∨ b.full = false) : exec .barrierCompletion s = .next s := by
  rw [exec_barrierCompletion, execBarrierCompletion]
  simp only [found]
  rw [if_pos (by simpa using h)]

/-! ## Transfer phases (R371, R377) -/

theorem exec_transferPhaseStart_open (h : b.xf = false ∨ b.full = false) : exec .transferPhaseStart s = .next s := by
  rw [exec_transferPhaseStart, execTransferPhaseStart]
  simp only [found]
  rw [if_pos (by simpa using h)]

theorem exec_transferPhaseStart_met (hx : b.xf = true) (hf : b.full = true) :
    ∃ t x n, exec .transferPhaseStart s = .next t ∧ x ∈ t.xphases ∧ x.id = b.id ∧ x.members = s.runners b
      ∧ x.start = some n ∧ n % 8 = 0 ∧ b.lastAt + 32 ≤ n ∧ n < b.lastAt + 40 ∧ x.beats = [] ∧ x.writes = [] := by
  have keeps (x : XPhase) (rest : List Barrier) (ms : List CtxId) : ((ms.foldl (fun s i => (s.settlePops x i).freshProgram i)
      (State.freeMembers { s with barriers := rest, xphases := s.xphases ++ [x] } b)).meetStamps b).xphases = s.xphases ++ [x] := by
    have ground : ((ms.foldl (fun s i => (s.settlePops x i).freshProgram i)
        (State.freeMembers { s with barriers := rest, xphases := s.xphases ++ [x] } b)).meetStamps b).ground
        = ({ s with barriers := rest, xphases := s.xphases ++ [x] } : State).ground := by
      rw [State.meetStamps_ground, foldl_ground (fun s i => by simp), State.freeMembers_ground]
    exact congrArg Ground.xphases ground
  rw [exec_transferPhaseStart, execTransferPhaseStart]
  simp only [found, hx, hf]
  rw [if_neg (by decide)]
  refine ⟨_, s.startedPhase b, phaseStart b.lastAt, rfl, ?_, rfl, rfl, rfl, ?_, ?_, ?_, rfl, rfl⟩
  · exact (keeps _ _ _).symm ▸ List.mem_append_right _ List.mem_cons_self
  all_goals unfold phaseStart; omega

end

theorem exec_transferPhaseClose_due {s : State} {x : XPhase} {n : Nat} (found : (s.xphases.find? fun x => x.id = s.cur.ev.n) = some x)
    (start : x.start = some n) (due : n + x.p + 8 ≤ s.cycle) :
    ∃ t, exec .transferPhaseClose s = .next t ∧ ∀ y ∈ t.xphases, y.id ≠ x.id := by
  rw [exec_transferPhaseClose, execTransferPhaseClose]
  simp only [found, start]
  rw [if_neg (Nat.not_lt.2 due)]
  refine ⟨_, rfl, fun y hy => ?_⟩
  have kept (u : State) : (x.members.foldl State.afterPhase u).xphases = u.xphases :=
    congrArg Ground.xphases (foldl_ground (fun s i => State.afterPhase_ground s i) _ u)
  rw [kept] at hy
  simpa using (List.mem_filter.1 hy).2

theorem exec_transferPhaseClose_early {s : State} {x : XPhase} {n : Nat} (found : (s.xphases.find? fun x => x.id = s.cur.ev.n) = some x)
    (start : x.start = some n) (early : s.cycle < n + x.p + 8) : exec .transferPhaseClose s = .next s := by
  rw [exec_transferPhaseClose, execTransferPhaseClose]
  simp only [found, start]
  rw [if_pos early]

/-! ## Migrations (R299) -/

section
variable {s : State} {g : Migration} (found : (s.migrating.find? fun g => g.vnpu = s.cur.ev.vnpu && decide (g.ipage ≤ s.cur.ev.n)
      && decide (s.cur.ev.n < g.ipage + g.pages)) = some g)
include found

theorem exec_pageMigration_waits (h : s.nackMarked.pagesBusy g.old g.pages = true ∨ s.nackMarked.phasesQuiet .root = false
      ∨ ∃ a x z, s.nackMarked.mapEntry g.vnpu g.ipage = some (a, x, z) ∧ s.nackMarked.lineHeld (a / 128) = true) :
    exec .pageMigration s = .next s.nackMarked := by
  rw [exec_pageMigration, execPageMigration, State.migrate]
  simp only [found]
  refine congrArg Host.Outcome.next (if_pos ?_)
  rcases h with h | h | ⟨a, x, z, entry, h⟩
  · simp [h]
  · simp [h]
  · simp [entry, h]

theorem exec_pageMigration_flips {a x z : Nat} (busy : s.nackMarked.pagesBusy g.old g.pages = false) (quiet : s.nackMarked.phasesQuiet .root = true)
    (entry : s.nackMarked.mapEntry g.vnpu g.ipage = some (a, x, z)) (free : s.nackMarked.lineHeld (a / 128) = false) :
    exec .pageMigration s = .next (s.nackMarked.flip g) := by
  rw [exec_pageMigration, execPageMigration, State.migrate]
  simp only [found]
  refine congrArg Host.Outcome.next (if_neg ?_)
  simp [busy, quiet, entry, free]

end

/-! ## The events of messages -/

theorem arrived_of_arrivals {s t : State} (h : t.arrivals = s.arrivals) (target : Nat) (r : Src) (phase : Nat) :
    t.arrived target r phase = s.arrived target r phase := by
  rw [State.arrived, h]; rfl

/-- Settles O53: each event by the lemma of its case; a page that migrates by the copies of its pages. -/
theorem messagesArriveAndMeet : Obligations.MessagesArriveAndMeet := by
  refine ⟨fun s m parts after alloc tag hm hb => ?_, fun s m v parts hm hb => ?_, fun s m i hm hb => ?_, fun s m num count hm hb => ?_,
    fun s wait => ?_, fun s k wait first early => ?_, fun s o rest wait none_ opens => ?_, fun s x t i rest u b free first sound charge => ?_,
    fun s m i r hm hb => ?_, fun s g at_ x size found => ?_, fun s => ?_, fun s b found => ?_, fun s x n found start => ?_⟩
  · rw [exec_accessArrival_write hm hb]
    refine ⟨fun h => by rw [State.arriveWrite_refused h], fun some_ may h => by rw [State.arriveWrite_waits some_ may h],
      fun u b some_ may phase first free charge => ?_⟩
    rw [State.arriveWrite_charged some_ may phase first free charge]
    refine ⟨fun h => by rw [h]; rfl, fun h => ?_⟩
    obtain ⟨dram, _, arrivals⟩ := u.performWrite_stands m parts (lineOfParts parts) alloc tag
    obtain ⟨_, regs, e⟩ := s.admitSeq_changes m.vnpu (.msg m.id) (s.mcCharges (some (s.leafOf m.vnpu)) (lineOfParts parts) alloc)
    obtain ⟨_, rfl⟩ := Prod.mk.inj (charge.symm.trans e)
    subst h
    refine ⟨_, congrArg Host.Outcome.next (if_pos rfl), dram, State.unpost_gone _ m, ?_⟩
    rw [State.arrived_countArrival]
    exact congrArg Nat.succ (arrived_of_arrivals arrivals ..)
  · rw [exec_accessArrival_host hm hb]
    refine ⟨fun ⟨p, hp, h⟩ => ?_, fun first => ⟨fun run => by rw [State.arriveHost_performed first run], fun shut => ?_⟩⟩
    · rw [State.arriveHost, if_pos (List.any_eq_true.2 ⟨p, hp, h⟩)]
    · obtain ⟨u, e, host, arrivals⟩ := State.arriveHost_dropped first shut
      rw [e]
      refine ⟨_, rfl, host, State.unpost_gone u m, ?_⟩
      rw [State.arrived_countArrival]
      exact congrArg Nat.succ (arrived_of_arrivals arrivals ..)
  · rw [exec_accessArrival_invoke hm hb, State.arriveInv]
    dsimp only
    refine ⟨fun late => by rw [if_pos late], fun late marked => ?_, fun late marked => ?_⟩
    · rw [if_neg (by rw [late]; exact Bool.false_ne_true), if_pos marked]
    · rw [if_neg (by rw [late]; exact Bool.false_ne_true), if_neg (by rw [marked]; exact Bool.false_ne_true)]
  · rw [exec_phaseMarker_marker hm hb]
    refine ⟨fun few => by rw [if_pos few], fun all => ?_, fun many => ?_⟩
    · rw [if_neg (Nat.not_lt.2 all.ge)]
      dsimp only
      rw [if_pos all]
      rfl
    · dsimp only
      rw [if_neg (Nat.not_lt.2 many.le), if_neg many.ne']
      rfl
  · rw [exec_phaseCompletion, execPhaseCompletion]
    rw [if_pos wait]
  · rw [exec_phaseCompletion, execPhaseCompletion]
    rw [if_neg (by rw [wait]; exact Bool.false_ne_true), first]
    dsimp only
    rw [Nat.sub_eq_zero_of_le early]
    rfl
  · rw [exec_phaseCompletion, execPhaseCompletion]
    rw [if_neg (by rw [wait]; exact Bool.false_ne_true), none_]
    dsimp only
    refine ⟨fun ht => by rw [Phases.pop_blocked _ opens ht], fun ht hr => ?_⟩
    rw [show (s.phases s.cur.ev.src).opens.length = rest.length + 1 by rw [opens]; rfl, Phases.pop_one opens ht hr]
  · rw [exec_sliceInvocation_first free first sound charge]
    refine ⟨fun h => by rw [h]; rfl, fun h => ?_⟩
    subst h
    refine ⟨_, congrArg Host.Outcome.next (if_pos rfl), ?_⟩
    simp only [State.slice_modSlice, Slice.exec_setExec]
    refine ⟨rfl, rfl, rfl, rfl, rfl, rfl, ?_⟩
    refine (State.sliceAccess_rr ..).trans ?_
    rw [State.slice, State.touch_slices, ← State.slice, State.slice_modSlice]
  · refine ⟨fun gen => ?_, fun q gen wait waits hr => ?_, fun cause info sub gen wait waits hr => ?_, fun gen wait waits => ?_,
      fun gen wait owed may => ?_, fun cause info sub gen wait hr => ?_, fun q gen wait may hr => ?_, fun gen waits may hr => ?_⟩
    · rw [exec_slxReply_reply hm hb, if_pos gen]
    · rw [exec_slxReply_slx hm hb gen wait, hr]
      exact congrArg Host.Outcome.next (if_neg (by rw [waits]; exact Bool.false_ne_true))
    · rw [exec_slxReply_slx hm hb gen wait, hr]
      exact congrArg Host.Outcome.next (if_neg (by rw [waits]; exact Bool.false_ne_true))
    · rw [exec_slxReply_slx hm hb gen wait]
      exact congrArg Host.Outcome.next (if_pos (by rw [waits]; rfl))
    · rw [exec_slxReply_slxn hm hb gen wait]
      exact congrArg Host.Outcome.next (if_pos (by rw [owed, may]; rfl))
    · refine ⟨fun owed may => ?_, fun owed => ?_⟩
      · rw [exec_slxReply_slxn hm hb gen wait, hr]
        exact congrArg Host.Outcome.next ((if_neg (State.stampable fun _ => may)).trans (if_pos owed))
      · rw [exec_slxReply_slxn hm hb gen wait, hr]
        exact congrArg Host.Outcome.next ((if_neg (State.stampable fun h => absurd h (by rw [owed]; exact Bool.false_ne_true))).trans
          (if_neg (by rw [show (s.unpost m).owedRecord i = false from owed]; exact Bool.false_ne_true)))
    · rw [exec_slxReply_slxn hm hb gen wait, hr]
      exact congrArg Host.Outcome.next (if_neg (State.stampable may))
    · subst hr
      obtain ⟨fail, e, raises⟩ := exec_slxReply_nack hm hb gen waits may
      rw [e]
      refine ⟨fun held => congrArg _ (State.retryInv_held held), fun t free at_ wait => ?_, fun pa pages free at_ marked => ?_,
        fun pa pages u b free at_ clear charge => ⟨fun h => ?_, fun v h counted => ?_⟩⟩
      · obtain rfl := raises wait
        exact congrArg _ (State.retryInv_fails free at_)
      · exact congrArg _ (State.retryInv_marked free at_ marked)
      · subst h
        exact congrArg _ (State.retryInv_charged free at_ clear charge)
      · subst h
        exact congrArg _ (State.retryInv_sent free at_ clear charge counted)
  · refine ⟨exec_pageMigration_waits found, fun ok busy quiet free apart entry outside aligned => ⟨_, exec_pageMigration_flips found busy quiet entry free, ?_⟩⟩
    have marked := s.nackMarked_ground
    have moved := State.flip_moved (((State.memoriesOk_ground s).1 ok).of_eq marked) apart entry outside aligned
    intro j hj
    obtain ⟨same, old⟩ := moved j hj
    have all := (State.samePage_of_ground marked (g.old + j)).trans same
    exact ⟨all.world, old, all.bytes⟩
  · rw [exec_waitRegistration, execWaitRegistration]
    refine ⟨fun h => by rw [h], fun q r h busy => ?_, fun q r h free => ?_⟩
    · simp only [h]
      rw [if_pos busy]
    · simp only [h]
      rw [if_neg (by rw [free]; exact Bool.false_ne_true)]
  · exact ⟨exec_barrierCompletion_met found, exec_barrierCompletion_open found, exec_transferPhaseStart_met found,
      exec_transferPhaseStart_open found⟩
  · exact ⟨exec_transferPhaseClose_early found start, exec_transferPhaseClose_due found start⟩

end Sys2Proof.Machine

/-! What the stops of a guest reset leave of the virtual NPUs (R417). -/

namespace Sys2Proof.Machine

theorem State.unblockCtx_vnpus (s : State) (i : CtxId) : (s.unblockCtx i).vnpus = s.vnpus := by
  unfold State.unblockCtx
  dsimp only
  split <;> rfl

theorem State.unblockEng_vnpus (s : State) (i : EngId) (sl : Slot) : (s.unblockEng i sl).vnpus = s.vnpus := by
  unfold State.unblockEng; split <;> rfl

theorem State.modAt_vnpus (s : State) (i : CtxId) (l : LeafId) (f : Ctx → Ctx) : (s.modAt i l f).vnpus = s.vnpus := by
  unfold State.modAt; dsimp only; split_ifs <;> rfl

theorem State.releaseObj_vnpus (s : State) (t : TopId) (o : BitVec 32) : (s.releaseObj t o).vnpus = s.vnpus := by
  unfold State.releaseObj
  refine (foldl_keeps State.vnpus (fun s i => ?_) _ _).trans (foldl_keeps State.vnpus (fun s e => ?_) _ s)
  · dsimp only; split <;> rfl
  · split
    · exact State.modAt_vnpus ..
    · rfl

theorem State.dropReqs_vnpus (s : State) (i : CtxId) (l : LeafId) : (s.dropReqs i l).vnpus = s.vnpus := by
  unfold State.dropReqs; split <;> rfl

theorem State.dropAll_vnpus (s : State) (i : CtxId) (l : LeafId) : (s.dropAll i l).vnpus = s.vnpus :=
  (foldl_keeps State.vnpus (fun s o => s.releaseObj_vnpus (topOf l) o) _ _).trans (State.dropReqs_vnpus ..)

theorem State.wakeWaiters_vnpus (s : State) (e : EngId) : (s.wakeWaiters e).vnpus = s.vnpus := by
  unfold State.wakeWaiters
  split
  · rfl
  · refine foldl_keeps State.vnpus (fun s t => ?_) _ s
    split
    · exact State.unblockCtx_vnpus ..
    · rfl

theorem State.popHead_vnpus (s : State) (e : EngId) (sl : Slot) : (s.popHead e sl).vnpus = s.vnpus := by
  unfold State.popHead
  dsimp only
  split <;> rfl

theorem State.dropHead_vnpus (s : State) (e : EngId) : (s.dropHead e).vnpus = s.vnpus := by
  cases h : (s.engine e).queue with
  | nil => unfold State.dropHead; rw [h]
  | cons q rest =>
    rw [State.dropHead_cons h, State.popHead_vnpus, State.wakeWaiters_vnpus]
    exact State.unblockEng_vnpus ..

theorem State.settleHead_vnpus (s : State) (e : EngId) : (s.settleHead e).vnpus = s.vnpus := by
  unfold State.settleHead
  dsimp only
  split <;> split <;> rfl

theorem State.discard_vnpus (s : State) (e : EngId) (sl : Slot) (keepCo : Bool) : (s.discard e sl keepCo).vnpus = s.vnpus := by
  have settled : ((((s.unblockEng e sl).dropReads e).giveUp (Asker.ofEng e)).settleHead e).vnpus = s.vnpus :=
    (State.settleHead_vnpus ..).trans (s.unblockEng_vnpus e sl)
  unfold State.discard
  dsimp only
  split
  · rfl
  · split
    · rfl
    · split
      · rfl
      · split_ifs <;> exact settled

theorem State.discardBank_vnpus (s : State) (c : CoreId) (sl : Slot) (keepCo : Bool) : (s.discardBank c sl keepCo).vnpus = s.vnpus :=
  foldl_keeps State.vnpus (fun s _ => s.discard_vnpus _ sl keepCo) _ s

theorem State.stopForReset_vnpus (s : State) (v : VnpuId) (i : CtxId) : (s.stopForReset v i).vnpus = s.vnpus := by
  have gone := ((s.discardBank i.core i.slot false).dropAll_vnpus i (s.unitOf i).leaf).trans (State.discardBank_vnpus ..)
  unfold State.stopForReset
  split
  · rfl
  · dsimp only
    generalize (s.discardBank i.core i.slot false).dropAll i (s.unitOf i).leaf = w at gone
    split <;> exact gone

theorem State.dropOrphan_vnpus (s : State) (v : VnpuId) (c : CoreId) : (s.dropOrphan v c).vnpus = s.vnpus := by
  unfold State.dropOrphan
  dsimp only
  split
  · split
    · exact State.dropHead_vnpus ..
    · rfl
  · rfl

theorem State.stopSaved_vnpus (s : State) (v : VnpuId) (c : CoreId) : (s.stopSaved v c).vnpus = s.vnpus := by
  unfold State.stopSaved
  refine foldl_keeps State.vnpus (fun s x => ?_) _ s
  have gone := (s.closeWriters (x.ctx.unit ⟨c, .o⟩)).dropAll_vnpus (x.ctx.unit ⟨c, .o⟩).ctx (x.ctx.unit ⟨c, .o⟩).leaf
  dsimp only
  generalize (s.closeWriters (x.ctx.unit ⟨c, .o⟩)).dropAll (x.ctx.unit ⟨c, .o⟩).ctx (x.ctx.unit ⟨c, .o⟩).leaf = w at gone
  exact gone

theorem State.resetStops_vnpus (s : State) (v : VnpuId) : (s.resetStops v).vnpus = s.vnpus := by
  unfold State.resetStops
  generalize allCores = cs
  generalize allCtx = is
  exact (foldl_keeps State.vnpus (fun s c => s.dropOrphan_vnpus v c) cs _).trans (foldl_keeps State.vnpus (fun s i => s.stopForReset_vnpus v i) is s)

theorem State.vnpu_of_vnpus {s t : State} (h : t.vnpus = s.vnpus) (v : VnpuId) : t.vnpu v = s.vnpu v := by rw [State.vnpu, h]; rfl

/-- The virtual NPU as a guest reset that starts leaves it: a generation on, busy, with no sweep. -/
def Vnpu.resetting (x : Vnpu) : Vnpu := { x with rgen := x.rgen + 1, busy := true, sweeps := [] }

theorem State.startReset_vnpus (s : State) (v : VnpuId) : (s.startReset v).vnpus = (s.modVnpu v Vnpu.resetting).vnpus := by
  have stops := (s.modVnpu v Vnpu.resetting).resetStops_vnpus v
  unfold State.startReset
  generalize allCores = cs
  exact (foldl_keeps State.vnpus (fun s c => s.stopSaved_vnpus v c) cs _).trans stops

theorem State.startReset_vnpu (s : State) (v : VnpuId) : (s.startReset v).vnpu v = (s.vnpu v).resetting :=
  (State.vnpu_of_vnpus (s.startReset_vnpus v) v).trans (s.vnpu_modVnpu v Vnpu.resetting)

/-! ## Leaving RUN (R415) -/

/-- What stays of a virtual NPU and of the host's requests where queues stop. -/
def State.interfaces (s : State) (v : VnpuId) : Tdisp × Bool × List HostReq := ((s.vnpu v).tdisp, (s.vnpu v).leftRun, s.hostReqs)

theorem State.stopQueue_interfaces (s : State) (v : VnpuId) (q : Fin 8) : (s.stopQueue v q).interfaces v = s.interfaces v :=
  (congrArg (fun x : Vnpu => (x.tdisp, x.leftRun, s.hostReqs))
    (show (s.modQueue v q fun x => { x with qstop := true }).vnpu v = _ from s.vnpu_modVnpu v _)).trans rfl

theorem State.modVnpu_congr {s : State} {v : VnpuId} {f g : Vnpu → Vnpu} (h : f (s.vnpu v) = g (s.vnpu v)) : s.modVnpu v f = s.modVnpu v g := by
  rw [State.modVnpu, State.modVnpu, h]

/-- An interface that does not leave RUN only changes its state. -/
theorem State.enterTdisp_enters {s : State} {v : VnpuId} {t : Tdisp} (h : (s.vnpu v).tdisp ≠ .run ∨ t = .run) :
    s.enterTdisp v t = s.modVnpu v fun x => { x with tdisp := t, leftRun := x.leftRun || false } := by
  have stays : (decide ((s.vnpu v).tdisp = .run) && decide (t ≠ .run)) = false := by
    rcases h with h | h <;> simp [h]
  unfold State.enterTdisp
  rw [stays]
  rfl

/-- An interface that leaves RUN notes it, and every request of it to the host is lost. -/
theorem State.enterTdisp_leaves {s : State} {v : VnpuId} {t : Tdisp} (h : (s.vnpu v).tdisp = .run) (ht : t ≠ .run) :
    (s.enterTdisp v t).interfaces v = (t, true, s.hostReqs.map fun r => if r.vnpu = v then { r with lost := true } else r) := by
  have leaves : (decide ((s.vnpu v).tdisp = .run) && decide (t ≠ .run)) = true := by simp [h, ht]
  unfold State.enterTdisp
  rw [leaves]
  refine (foldl_keeps (State.interfaces · v) (fun s q => ?_) _ _).trans ?_
  · dsimp only
    split
    · exact s.stopQueue_interfaces v q
    · rfl
  · refine (congrArg (fun x : Vnpu => (x.tdisp, x.leftRun, s.hostReqs.map fun r => if r.vnpu = v then { r with lost := true } else r))
      (s.vnpu_modVnpu v fun x => { x with tdisp := t, leftRun := x.leftRun || true })).trans ?_
    rw [Bool.or_true]

theorem State.enterTdisp_tdisp (s : State) (v : VnpuId) (t : Tdisp) : ((s.enterTdisp v t).vnpu v).tdisp = t := by
  by_cases h : (s.vnpu v).tdisp = .run ∧ t ≠ .run
  · exact congrArg Prod.fst (State.enterTdisp_leaves h.1 h.2)
  · rw [State.enterTdisp_enters (by tauto), State.vnpu_modVnpu]

/-- An interface that is moved to ERROR begins its guest reset. -/
theorem State.tdispError_error (s : State) (v : VnpuId) : ((s.tdispError v).vnpu v).tdisp = .error ∧ ((s.tdispError v).vnpu v).busy = true := by
  rw [State.tdispError, State.startReset_vnpu]
  exact ⟨s.enterTdisp_tdisp v .error, rfl⟩

end Sys2Proof.Machine

/-! The host and management interfaces (R379, R386, R413-R415, R454, R475-R486). -/

namespace Sys2Proof.Machine

theorem State.modVnpu_same {s : State} {v : VnpuId} {f : Vnpu → Vnpu} (h : f (s.vnpu v) = s.vnpu v) : s.modVnpu v f = s := by
  rw [State.modVnpu, h]
  exact congrArg (fun x => { s with vnpus := x }) (Vector.set_getElem_self v.isLt)

/-! ## Blobs and images of the staging window (R475, R480, R482) -/

theorem State.blobStatus_unsigned {s : State} {b : Blob} (h : b.sigOk = false) : s.blobStatus b = 2 := if_pos (by rw [h]; rfl)

theorem State.blobStatus_long {s : State} {b : Blob} (h : b.sigOk = true) (long : 2 ^ 20 < b.size) : s.blobStatus b = 3 :=
  (if_neg (by rw [h]; exact Bool.false_ne_true)).trans (if_pos (Bool.or_eq_true_iff.2 (.inl (decide_eq_true long))))

theorem State.loadBlob_changes (s : State) (b : Blob) :
    s.loadBlob b = { s with blobstat := BitVec.ofNat 64 (s.blobStatus b), pending := if s.blobStatus b = 0 then some (parseBlob b) else s.pending } := by
  unfold State.loadBlob
  dsimp only
  split <;> rfl

theorem exec_blobLoad_held {s : State} (h : s.held = true ∨ s.recovery = true) : exec .blobLoad s = .next s := by
  rw [exec_blobLoad, execBlobLoad, if_pos (by simpa using h)]

section
variable {s : State} (held : s.held = false) (recovery : s.recovery = false)
include held recovery

theorem exec_blobLoad_idle (none_ : s.validating = none) : exec .blobLoad s
    = .next (if s.cur.ev.flag then s else { s with validating := some (Config.stagedBlob s.staging) }) := by
  rw [exec_blobLoad, execBlobLoad, held, recovery, none_]
  rfl

theorem exec_blobLoad_validating {b : Blob} (some_ : s.validating = some b) : exec .blobLoad s
    = .next (if s.cur.ev.flag then State.loadBlob { s with validating := none } b else { s with blobstat := 5 }) := by
  rw [exec_blobLoad, execBlobLoad, held, recovery, some_]
  rfl

end

/-! ## BAR 2 (R475, R476) -/

theorem maskReset_maskReset (off : Nat) (bs : List Byte) : maskReset off (maskReset off bs) = bs := by
  unfold maskReset
  rw [List.mapIdx_mapIdx]
  refine List.ext_getElem (by simp) fun i _ _ => ?_
  rw [List.getElem_mapIdx, Function.comp_apply]
  split
  · rw [BitVec.xor_assoc, BitVec.xor_self, BitVec.xor_zero]
  · rfl

theorem maskReset_length (off : Nat) (bs : List Byte) : (maskReset off bs).length = bs.length := List.length_mapIdx

theorem leNat_leBytes_word (w : Word) : leNat (leBytes 8 w.toNat) = w.toNat := by
  rw [leNat_leBytes]
  exact Nat.mod_eq_of_lt w.isLt

/-! ## The status frame (R486) -/

/-- A field of a frame stands at the length of the fields before it. -/
theorem drop_leBytes {n k : Nat} (v : Nat) (rest : List Byte) (h : n ≤ k) : (leBytes n v ++ rest).drop k = rest.drop (k - n) := by
  rw [List.drop_append, leBytes_length, List.drop_eq_nil_of_le (by rw [leBytes_length]; exact h), List.nil_append]

theorem leNat_field (post : List Byte) (n v : Nat) : leNat (((leBytes n v ++ post).drop 0).take n) = v % 256 ^ n := by
  rw [List.drop_zero, List.take_left' (leBytes_length n v), leNat_leBytes]

theorem leNat_last (n v : Nat) : leNat (((leBytes n v).drop 0).take n) = v % 256 ^ n := by
  rw [← List.append_nil (leBytes n v), leNat_field]

/-- The flags of a frame. -/
def State.frameFlags (s : State) : Nat := (if s.faultN then 1 else 0) + (if s.thermN then 2 else 0) + (if s.tsLost then 4 else 0)

theorem State.frameFlags_lt (s : State) : s.frameFlags < 256 := by
  unfold State.frameFlags
  split_ifs <;> decide

theorem State.frameBytes_fields (s : State) : s.frameBytes = leBytes 2 0x9600 ++ (leBytes 2 s.spiFrame ++ (leBytes 1 s.frameFlags
    ++ (leBytes 1 s.hottestByte ++ (leBytes 2 s.errlog.recs.length ++ (leBytes 8 s.gtc.toNat ++ leBytes 12 s.quarantineBits))))) := by
  simp only [State.frameBytes, State.frameFlags, List.append_assoc]

theorem State.frameBytes_length (s : State) : s.frameBytes.length = 28 := by simp [State.frameBytes, leBytes_length]

/-! ## Requests to the host (R239, R414, R415) -/

theorem State.answerHost_keeps (s : State) (r : HostReq) (bs : Option (List Byte)) :
    (s.answerHost r bs).vnpus = s.vnpus ∧ (s.answerHost r bs).dram = s.dram ∧ (s.answerHost r bs).host = s.host := by
  unfold State.answerHost
  split <;> exact ⟨rfl, rfl, rfl⟩

section
variable {s : State} {r : HostReq} (found : (s.hostReqs.find? fun r => r.id = s.cur.ev.n && r.result.isNone) = some r)
  (gen : r.rgen = (s.vnpu r.vnpu).rgen)
include found gen

theorem exec_hostCompletion_gone (gone : s.keyGone r = true) : exec .hostCompletion s
    = .next ((s.modVnpu r.vnpu fun x => { x with ideStale := min 65535 (x.ideStale + 1) }).answerHost r none) := by
  rw [exec_hostCompletion, execHostCompletion]
  simp only [found]
  rw [if_pos gone, if_neg (not_not_intro gen)]

theorem exec_hostCompletion_shut (key : s.keyGone r = false) (shut : r.lost = true ∨ s.inRun r.vnpu = false) :
    exec .hostCompletion s = .next (s.answerHost r none) := by
  rw [exec_hostCompletion, execHostCompletion]
  simp only [found]
  rw [if_neg (by rw [key]; exact Bool.false_ne_true), if_neg (not_not_intro gen), if_pos (by simpa using shut)]

variable (key : s.keyGone r = false) (kept : r.lost = false) (run : s.inRun r.vnpu = true)
include key kept run

theorem exec_hostCompletion_failed (fails : s.cur.ev.flag = false) (plain : s.cur.ev.m = 0) :
    exec .hostCompletion s = .next (s.answerHost r none) := by
  rw [exec_hostCompletion, execHostCompletion]
  simp only [found]
  rw [if_neg (by rw [key]; exact Bool.false_ne_true), if_neg (not_not_intro gen), if_neg (by simp [kept, run]), if_pos (by simp [fails]),
    if_neg (by rw [show (s.answerHost r none).cur = s.cur from congrArg Ground.cur (s.answerHost_ground r none), plain]; exact Bool.false_ne_true)]

theorem exec_hostCompletion_charged {u : State} {b : Bool} (good : s.cur.ev.flag = true)
    (charge : s.admitAll r.vnpu (.host r.id) [(96, 64)] = (b, u)) : exec .hostCompletion s
    = .next (if b then u.answerHost r (some (u.host.read (u.hostAddr r.vnpu r.addr) 64))
      else { u with agenda := u.agenda ++ [.clock, .event .hostCompletion u.cur.ev] }) := by
  rw [exec_hostCompletion, execHostCompletion]
  simp only [found]
  rw [if_neg (by rw [key]; exact Bool.false_ne_true), if_neg (not_not_intro gen), if_neg (by simp [kept, run]), if_neg (by simp [good]), charge]
  cases b <;> rfl

end

/-- Settles O57: each event by its definition, a state that leaves RUN by the queues it stops, and a frame by its fields. -/
theorem interfaceEventsTakeEffect : Obligations.InterfaceEventsTakeEffect := by
  refine ⟨fun s => ⟨exec_blobLoad_held, fun held recovery => ⟨fun none_ idle => ?_, fun none_ ended => ?_, fun some_ idle => ?_, fun b some_ ended => ?_⟩⟩,
    fun s => ⟨fun h => ?_, fun h bad => ?_, fun h good => ?_, fun h => ?_, fun held cool => ?_⟩,
    fun s => ⟨fun h => ?_, fun h pf wf room => ?_, fun v h vf ready wf room => ?_⟩, fun s n r rest h => ?_, fun s h => ?_,
    fun s => ⟨fun h => ?_, fun m last above => ?_, fun unread => ?_, fun calm read last => ?_⟩, fun s => ?_, fun s => ?_, fun s => ⟨fun ready => ?_, fun ready => ?_⟩,
    fun s => ⟨_, rfl⟩, fun s => ⟨fun pf => ?_, fun v vf ready flag => ?_, fun v vf ready flag locked => ?_⟩,
    fun s => ⟨fun none_ => ⟨?_, ?_⟩, fun t some_ => ⟨?_, fun due => ?_, fun early pending => ?_⟩⟩,
    fun s r found gen => ⟨fun gone => ?_, exec_hostCompletion_shut found gen, exec_hostCompletion_failed found gen, fun u key kept run good charge => ?_,
      fun u key kept run good charge => ?_⟩, fun s p found gen grant => ?_, fun s p found => ⟨fun early => ?_, fun due gen => ?_, fun due gen => ?_⟩⟩
  · rw [exec_blobLoad_idle held recovery none_, if_neg (by rw [idle]; exact Bool.false_ne_true)]
  · rw [exec_blobLoad_idle held recovery none_, if_pos ended]
  · obtain ⟨b, some_⟩ := Option.isSome_iff_exists.1 some_
    rw [exec_blobLoad_validating held recovery some_, if_neg (by rw [idle]; exact Bool.false_ne_true)]
  · rw [exec_blobLoad_validating held recovery some_, if_pos ended, State.loadBlob_changes]
    have same : ({ s with validating := none } : State).blobStatus b = s.blobStatus b := rfl
    refine ⟨_, rfl, rfl, rfl, rfl, rfl, fun h => ?_, fun h long => ?_, fun h => if_pos h, fun h => if_neg h⟩
    · exact congrArg (BitVec.ofNat 64) (same.trans (State.blobStatus_unsigned h))
    · exact congrArg (BitVec.ofNat 64) (same.trans (State.blobStatus_long h long))
  · rw [exec_imageLoad, execImageLoad, h]
    rfl
  · rw [exec_imageLoad, execImageLoad, h]
    exact congrArg Host.Outcome.next ((if_neg (by decide)).trans (if_neg (by rw [bad]; exact Bool.false_ne_true)))
  · rw [exec_imageLoad, execImageLoad, h]
    refine ⟨_, congrArg Host.Outcome.next ((if_neg (by decide)).trans (if_pos good)), ?_⟩
    rw [State.runImage, State.loadBlob_changes]
    exact ⟨rfl, rfl⟩
  · rw [exec_boot, execBoot]
    exact congrArg Host.Outcome.next (if_pos (by simpa using h))
  · rw [exec_boot, execBoot, held, cool]
    cases signed : s.cur.ev.image.sigOk with
    | false => exact ⟨_, congrArg Host.Outcome.next ((if_neg (by decide)).trans (if_neg Bool.false_ne_true)), rfl, rfl⟩
    | true =>
      refine ⟨_, congrArg Host.Outcome.next ((if_neg (by decide)).trans (if_pos rfl)), ?_⟩
      rw [State.runImage, State.loadBlob_changes]
      exact ⟨rfl, rfl⟩
  · rw [exec_registerWrite, execRegisterWrite, h]
    rfl
  · rw [exec_registerWrite, execRegisterWrite]
    simp only [h, pf]
    refine ⟨_, congrArg Host.Outcome.next ((if_neg (by decide)).trans (if_pos room)), ?_, rfl, rfl⟩
    have back := @read_write (leBytes 8 s.cur.ev.word.toNat) s.staging s.cur.ev.n wf
    rw [leBytes_length] at back
    exact (congrArg leNat back).trans (leNat_leBytes_word _)
  · rw [exec_registerWrite, execRegisterWrite]
    simp only [h, vf, ready]
    refine ⟨_, congrArg Host.Outcome.next ((if_neg (by decide)).trans (if_pos (by simp [room]))), ?_, rfl, rfl⟩
    have back := @read_write (maskReset s.cur.ev.n (leBytes 8 s.cur.ev.word.toNat)) (s.vnpu v).msixTable s.cur.ev.n wf
    rw [maskReset_length, leBytes_length] at back
    rw [State.readBar2, State.vnpu_modVnpu]
    dsimp only
    rw [back, maskReset_maskReset, leNat_leBytes_word]
  · rw [exec_elog, execElog, h]
  · rw [exec_elog, execElog]
    simp only [h]
    exact ⟨_, rfl, rfl, rfl⟩
  · rw [exec_faultclr, execFaultclr]
    exact congrArg Host.Outcome.next (if_pos (by simp [h]))
  · rw [exec_faultclr, execFaultclr]
    exact congrArg Host.Outcome.next (if_pos (by simp [last, above]))
  · rw [exec_faultclr, execFaultclr]
    exact congrArg Host.Outcome.next (if_pos (by simp only [List.any_eq_true.2 unread, Bool.true_or]))
  · have none_ : (s.errlog.recs.any fun r => r.2.faultN) = false := by simpa using read
    rw [exec_faultclr, execFaultclr]
    refine congrArg Host.Outcome.next (if_neg ?_)
    rw [none_, calm]
    cases h : s.lastAssert with
    | none => simp
    | some m => simp [last m h]
  · have fields := s.frameBytes_fields
    have word : s.gtc.toNat % 256 ^ 8 = s.gtc.toNat := Nat.mod_eq_of_lt s.gtc.isLt
    refine ⟨rfl, s.frameBytes_length, ?_⟩
    simp (disch := decide) only [fields, drop_leBytes]
    exact ⟨leNat_field _ 2 0x9600, leNat_field _ 2 _, (leNat_field _ 1 s.frameFlags).trans (Nat.mod_eq_of_lt s.frameFlags_lt), leNat_field _ 1 _,
      leNat_field _ 2 _, (leNat_field _ 8 _).trans word, leNat_last 12 _⟩
  · refine ⟨_, exec_moduleReset s, rfl, rfl, rfl, rfl, rfl, fun cool => ?_, fun hot first => ?_, fun hot later => ?_⟩
    · exact Bool.and_eq_false_imp.2 fun h => absurd h (by rw [cool]; exact Bool.false_ne_true)
    · rw [hot, first]
      simp
    · rw [hot, later]
      rfl
  · rw [exec_functionLevelReset, exec_lockInterface, exec_startInterface, exec_stopInterface, exec_getState, exec_getDeviceInterfaceReport,
      execFunctionLevelReset, execLockInterface, execStartInterface, execStopInterface, execGetState, execGetDeviceInterfaceReport, ready]
    exact ⟨rfl, rfl, rfl, rfl, rfl, rfl⟩
  · rw [exec_functionLevelReset, exec_lockInterface, exec_startInterface, exec_stopInterface, exec_getState, exec_getDeviceInterfaceReport,
      execFunctionLevelReset, execLockInterface, execStartInterface, execStopInterface, execGetState, execGetDeviceInterfaceReport, ready]
    refine ⟨rfl, rfl, rfl, fun h => ?_, fun h => ?_, fun h => ?_, fun h => ?_, ?_⟩
    · exact congrArg Host.Outcome.next ((if_pos (by simp [h])).trans (State.enterTdisp_enters (.inl (by rw [h]; decide))))
    · exact congrArg Host.Outcome.next ((if_pos (by simp [h])).trans (State.enterTdisp_enters (.inr rfl)))
    · exact congrArg Host.Outcome.next (if_neg (by simp [h]))
    · exact congrArg Host.Outcome.next (if_neg (by simp [h]))
    · refine ⟨_, congrArg Host.Outcome.next (if_pos rfl), s.enterTdisp_tdisp _ .unlocked, fun run => ?_⟩
      obtain ⟨_, rest⟩ := Prod.mk.inj (State.enterTdisp_leaves run (show Tdisp.unlocked ≠ .run by decide))
      obtain ⟨left, reqs⟩ := Prod.mk.inj rest
      refine ⟨left, fun x hx hv => ?_⟩
      rw [reqs] at hx
      obtain ⟨y, _, rfl⟩ := List.mem_map.1 hx
      split at hv
      · next same => rw [if_pos same]
      · next other => exact absurd hv other
  · rw [exec_configurationRequest, execConfigurationRequest, pf]
  · rw [exec_configurationRequest, execConfigurationRequest, vf]
    dsimp only
    rw [if_neg (by rw [ready]; exact Bool.false_ne_true), if_neg (by rw [flag]; exact Bool.false_ne_true)]
  · rw [exec_configurationRequest, execConfigurationRequest, vf]
    dsimp only
    rw [if_neg (by rw [ready]; exact Bool.false_ne_true)]
    exact ⟨_, congrArg Host.Outcome.next (if_pos (Bool.and_eq_true_iff.2 ⟨flag, locked⟩)), State.tdispError_error _ v⟩
  · rw [exec_keySwitch, execKeySwitch]
    exact congrArg Host.Outcome.next (State.modVnpu_congr (if_neg (by rw [none_]; exact Bool.false_ne_true)))
  · rw [exec_keyErasure, execKeyErasure]
    simp only [none_]
  · rw [exec_keySwitch, execKeySwitch]
    exact congrArg Host.Outcome.next (State.modVnpu_same (if_pos (by rw [some_]; rfl)))
  · rw [exec_keyErasure, execKeyErasure]
    simp only [some_]
    exact congrArg Host.Outcome.next (if_pos (by simpa using due))
  · rw [exec_keyErasure, execKeyErasure]
    simp only [some_]
    exact congrArg Host.Outcome.next (if_neg (by simp [pending, early]))
  · obtain ⟨vnpus, dram, host⟩ := (s.modVnpu r.vnpu fun x => { x with ideStale := min 65535 (x.ideStale + 1) }).answerHost_keeps r none
    refine ⟨_, exec_hostCompletion_gone found gen gone, ?_, dram, host⟩
    rw [State.vnpu_of_vnpus vnpus, State.vnpu_modVnpu]
  · exact exec_hostCompletion_charged found gen key kept run good charge
  · exact exec_hostCompletion_charged found gen key kept run good charge
  · rw [exec_pageRequestResponse, execPageRequestResponse]
    simp only [found]
    refine ⟨_, congrArg Host.Outcome.next ((if_neg (not_not_intro gen)).trans (if_pos grant)), ?_, fun x hx => ?_⟩
    · rw [State.vnpu_modVnpu]
      exact (getKey_putKey ..).trans (if_pos rfl)
    · simpa using (List.mem_filter.1 hx).2
  · rw [exec_pageRequestTimeout, execPageRequestTimeout]
    simp only [found]
    rw [if_pos early]
  · rw [exec_pageRequestTimeout, execPageRequestTimeout]
    simp only [found]
    exact congrArg Host.Outcome.next ((if_neg (Nat.not_lt.2 due)).trans (if_pos gen))
  · rw [exec_pageRequestTimeout, execPageRequestTimeout]
    simp only [found]
    exact congrArg Host.Outcome.next ((if_neg (Nat.not_lt.2 due)).trans (if_neg (not_not_intro gen)))

end Sys2Proof.Machine

/-! A page that passes to another world keeps its poison marks until it is zeroed (R402, R450). -/

namespace Sys2Proof.Machine

/-- Module reset, with line 0 poisoned and the event of page 0 passing to world 1. -/
def poisonedReset : State := { State.reset with poison := [0], cur := { State.reset.cur with ev := { State.reset.cur.ev with word := 1, n := 0 } } }

theorem poisonedReset_mapEntry (v : VnpuId) (p : Nat) : poisonedReset.mapEntry v p = none := by
  have root : (poisonedReset.vnpu v).s2root = 0 := congrArg Vnpu.s2root (show State.reset.vnpus.get v = Vnpu.reset by simp [State.reset, Vector.get])
  exact if_pos root

theorem exec_pageWorldChange_poisonedReset : exec .pageWorldChange poisonedReset = .next (poisonedReset.passPage 0 1) := by
  have entry := poisonedReset_mapEntry poisonedReset.cur.ev.vnpu poisonedReset.cur.ev.m
  have may : poisonedReset.entryMay poisonedReset.cur.ev.vnpu poisonedReset.cur.ev.m = true := by rw [State.entryMay, entry]
  have kept : poisonedReset.unmapPage poisonedReset.cur.ev.vnpu poisonedReset.cur.ev.m poisonedReset.cur.ev.n = poisonedReset := by
    rw [State.unmapPage, entry]
  rw [exec_pageWorldChange, execPageWorldChange]
  rw [if_neg (by decide), may, kept]
  rfl

/-- Refutes O56: a page that passes to a world keeps the marks of its poisoned lines, which go only when it is zeroed. After module reset
with line 0 poisoned, page 0 passes to world 1 and line 0 stays in the list. -/
theorem not_moduleEventsTakeEffect : ¬ Obligations.ModuleEventsTakeEffect := by
  rintro ⟨_, _, pages, _⟩
  obtain ⟨_, _, passes, _⟩ := pages poisonedReset
  have entry := poisonedReset_mapEntry poisonedReset.cur.ev.vnpu poisonedReset.cur.ev.m
  have may : poisonedReset.entryMay poisonedReset.cur.ev.vnpu poisonedReset.cur.ev.m = true := by rw [State.entryMay, entry]
  obtain ⟨t, e, _, _, clean⟩ := passes (by decide) (by decide) may
  obtain rfl := Host.Outcome.next.inj (exec_pageWorldChange_poisonedReset.symm.trans e)
  exact clean 0 List.mem_cons_self rfl

end Sys2Proof.Machine

/-! A saved unit whose state is lost stays on its core while its record may not be stamped (R242, R423, R443). -/

namespace Sys2Proof.Machine

/-- UnitFailure of a saved unit does not come to its end before its record may be stamped. -/
theorem State.endSaved_waits {s : State} {c : CoreId} {l : LeafId} {x : Saved} {cause : Nat} (found : ((s.core c).saved.find? fun x => x.ctx.leaf = l) = some x)
    (fails : x.ctx.failing = some cause) (early : s.mayStamp (.ctx ⟨c, .o⟩) = false) : s.endSaved c l = s := by
  unfold State.endSaved
  rw [found]
  dsimp only
  rw [fails]
  dsimp only
  exact if_pos (by rw [show (x.ctx.unit ⟨c, .o⟩).ctx = ⟨c, .o⟩ from rfl, early, Bool.not_false, Bool.or_true])

theorem State.endFusion_unfused {s : State} {c : CoreId} (h : (s.core c).fused = false) : s.endFusion c = s :=
  if_neg (by rw [h]; exact Bool.false_ne_true)

theorem State.serveWorld_same {s : State} {c : CoreId} {v : VnpuId} (h : (s.core c).world = (s.contract v).world) : s.serveWorld c v = s := if_pos h

theorem Core.setLowSems_saved (k : Core) (v : List (BitVec 32)) : (k.setLowSems v).saved = k.saved := by
  unfold Core.setLowSems
  generalize (List.finRange 48).foldl _ k.sems = x
  rfl

theorem State.loadLow_saved (s : State) (c : CoreId) (l : LeafId) : ((s.loadLow c l).core c).saved = (s.core c).saved := by
  rw [State.loadLow, State.core_modCore]
  split
  · dsimp only
    rw [Core.setLowSems_saved]
  · rfl

/-- A unit of leaf 0 whose regions are lost. -/
def lostUnit : Saved := { ctx := {}, engines := [], cells := [], poison := [], tags := [], vers := [], live := 0, lost := true }

/-- A core in a window of leaf 0 that holds the lost unit of that leaf, its sources stamped at fabric cycle 1. -/
def stampedCore : Core := { Core.reset with window := { owner := some 0 }, saved := [lostUnit], stamps := Vector.replicate 7 1 }

/-- Module reset, with such cores. -/
def stampedReset : State := { State.reset with cores := Vector.replicate 96 stampedCore }

theorem stampedReset_core (c : CoreId) : stampedReset.core c = stampedCore := by
  simp [State.core, stampedReset, Vector.get]

theorem stampedReset_vnpu (v : VnpuId) : stampedReset.vnpu v = Vnpu.reset := by
  simp [State.vnpu, stampedReset, State.reset, Vector.get]

theorem stampedReset_windowOwner (c : CoreId) : stampedReset.windowOwner c = some 0 := by
  have calm : stampedReset.suspended 0 = false := by
    have leaf : stampedReset.leaf 0 = {} := by simp [State.leaf, stampedReset, State.reset, Vector.get]
    rw [State.suspended, leaf]
    rfl
  rw [State.windowOwner, State.window, stampedReset_core]
  exact (if_neg (by decide)).trans (by simp [stampedCore, calm])

/-- The lost unit with its failure begun. -/
def failedUnit : Saved := { lostUnit with ctx := { lostUnit.ctx.blank with failing := some 0x1E } }

theorem stampedReset_resumes (c : CoreId) :
    stampedReset.resumeUnit c 0 false = stampedReset.modCore c fun k => { k with saved := [failedUnit] } := by
  have core := stampedReset_core c
  have world : (stampedReset.core c).world = (stampedReset.contract lostUnit.ctx.vnpu).world := by rw [core]; rfl
  have found : ((stampedReset.core c).saved.find? fun x => x.ctx.leaf = 0 && x.ctx.failing.isNone) = some lostUnit := by rw [core]; rfl
  have marked : ((stampedReset.modCore c fun k => { k with saved := [failedUnit] }).core c) = { stampedCore with saved := [failedUnit] } := by
    rw [State.core_modCore, core]
  have fails : stampedReset.failSaved c { lostUnit with ctx := lostUnit.ctx.blank } 0x1E
      = stampedReset.modCore c fun k => { k with saved := [failedUnit] } := by
    have early : (stampedReset.modCore c fun k => { k with saved := [failedUnit] }).mayStamp (.ctx ⟨c, .o⟩) = false := by
      have late (i : Fin 7) : stampedCore.stamps.get i = 1 := by simp [stampedCore, Vector.get]
      refine decide_eq_false ?_
      rw [marked]
      exact Nat.not_le.2 ((late _).symm ▸ Nat.one_pos)
    have marks : (stampedReset.modCore c fun k => { k with saved := k.saved.map fun y =>
        if y.ctx.leaf = lostUnit.ctx.blank.leaf then { lostUnit with ctx := { lostUnit.ctx.blank with failing := some 0x1E } } else y })
        = stampedReset.modCore c fun k => { k with saved := [failedUnit] } := by
      rw [State.modCore, State.modCore, core]
      rfl
    rw [State.failSaved]
    dsimp only
    rw [marks]
    exact State.endSaved_waits (by rw [marked]; rfl) rfl early
  unfold State.resumeUnit
  rw [found]
  dsimp only
  rw [State.serveWorld_same world, if_pos (by simp [lostUnit])]
  exact fails

/-- Refutes O55: a saved unit whose state is lost keeps its place on the core while its sources may not stamp, though its image may be
written. After module reset with such a unit of leaf 0 on core 0, stamped at fabric cycle 1, UNIT_RESUME leaves it there. -/
theorem not_launchEventsTakeEffect : ¬ Obligations.LaunchEventsTakeEffect := by
  rintro ⟨_, _, _, _, _, lost, _⟩
  have core := stampedReset_core stampedReset.cur.ev.core
  obtain ⟨t, e, _, _, gone⟩ := lost stampedReset 0 lostUnit (stampedReset_windowOwner _) (by rw [core]; rfl) (by rw [core]; rfl) (by rw [core]; rfl)
    (by rw [core]; rfl) (.inl rfl)
  have free : stampedReset.fatalFree ⟨stampedReset.cur.ev.core, .o⟩ lostUnit.ctx.vnpu = true := by
    rw [State.fatalFree, stampedReset_vnpu]
    exact Bool.or_eq_true_iff.2 (.inl (by decide))
  have run : exec .unitResume stampedReset = .next ((((stampedReset.modCore stampedReset.cur.ev.core fun k => { k with saved := [failedUnit] }).loadLow
      stampedReset.cur.ev.core 0)).modCore stampedReset.cur.ev.core fun k => { k with eng := k.eng.map fun e => { e with startO := none } }) := by
    rw [exec_unitResume, execUnitResume, stampedReset_windowOwner]
    dsimp only
    rw [if_neg (by rw [core]; decide), if_neg (by rw [core]; decide), State.endFusion_unfused (by rw [core]; rfl)]
    exact congrArg (fun u : State => Host.Outcome.next ((u.loadLow stampedReset.cur.ev.core 0).modCore stampedReset.cur.ev.core
      fun k => { k with eng := k.eng.map fun e => { e with startO := none } })) (stampedReset_resumes _)
  obtain rfl := Host.Outcome.next.inj (run.symm.trans e)
  refine gone free failedUnit ?_ rfl
  rw [State.core_modCore]
  refine (State.loadLow_saved ..).symm ▸ ?_
  rw [State.core_modCore]
  exact List.mem_cons_self

end Sys2Proof.Machine

/-! Saving a unit filters the bytes of its local store, which keeps what an address reads only where they are in canonical form (R442). -/

namespace Sys2Proof.Machine

/-! ## What a core holds of saved units -/

theorem State.saved_modCore (s : State) (c : CoreId) {f : Core → Core} (h : ∀ k, (f k).saved = k.saved) (d : CoreId) :
    ((s.modCore c f).core d).saved = (s.core d).saved := by
  by_cases hd : d = c
  · subst hd; rw [State.core_modCore, h]
  · rw [State.core_modCore_other _ _ _ _ hd]

theorem State.saved_modEngine (s : State) (e : EngId) (f : Engine → Engine) (d : CoreId) :
    ((s.modEngine e f).core d).saved = (s.core d).saved :=
  @State.saved_modCore s e.core (fun k => k.setEngine e.eng (f (s.engine e))) (fun _ => rfl) d

theorem State.saved_unblockEng (s : State) (e : EngId) (sl : Slot) (d : CoreId) : ((s.unblockEng e sl).core d).saved = (s.core d).saved := by
  unfold State.unblockEng
  split
  · rfl
  · exact State.saved_modEngine ..

theorem State.saved_emptied (s : State) (i : CtxId) (e : Eng) (d : CoreId) : ((s.emptied i e).core d).saved = (s.core d).saved := by
  unfold State.emptied
  refine (State.saved_modEngine ..).trans ?_
  split
  · exact State.saved_unblockEng ..
  · rfl

theorem State.saved_clearQueues (s : State) (i : CtxId) (d : CoreId) : ((s.clearQueues i).core d).saved = (s.core d).saved := by
  rw [State.clearQueues_eq]
  exact foldl_keeps (fun s => (s.core d).saved) (fun s e => s.saved_emptied i e d) engs s

theorem Core.zeroFill_saved (k : Core) (r : Nat) : (k.zeroFill r).saved = k.saved := by
  unfold Core.zeroFill
  dsimp only
  split <;> rfl

theorem Core.zeroFillMask_saved (k : Core) (m : BitVec 60) : (k.zeroFillMask m).saved = k.saved := by
  unfold Core.zeroFillMask
  generalize (List.range 60).filter _ = l
  induction l generalizing k with
  | nil => rfl
  | cons r l ih => exact (ih _).trans (k.zeroFill_saved r)

theorem State.saved_giveUp (s : State) (p : Asker → Bool) (d : CoreId) : ((s.giveUp p).core d).saved = (s.core d).saved := rfl

/-- A unit is saved after those its core holds, with the cells of the regions it keeps. -/
theorem State.saveUnit_saved (s : State) (c : CoreId) (live : BitVec 60) :
    ∃ x, ((s.saveUnit c live).core c).saved = (s.core c).saved ++ [x] ∧ x.cells = (s.core c).regionCells x.live := by
  unfold State.saveUnit
  extract_lets i k keep n lost kept x saved charged emptied
  have stands : (emptied.core c).saved = (s.core c).saved :=
    ((charged.clearQueues i).saved_giveUp (Asker.ofCtx i) c).trans (charged.saved_clearQueues i c)
  refine ⟨saved, ?_, ?_⟩
  · rw [State.core_modCore]
    dsimp only
    rw [Core.zeroFillMask_saved, stands]
  · rfl

/-! ## A unit at its cut, on a core whose local store is out of order -/

/-- A unit in slot O at the end of its grace and at its cut, with region 0 live; the bytes of two regions stand out of order. -/
def mixedCore : Core :=
  { Core.reset with
    ctxO := { Core.reset.ctxO with live := true, preq := true, graceEnd := some 0, cutGate := some 0, liveset := 1 }
    store := [(65536, 1), (0, 2)] }

/-- Module reset with such cores, and a save pool of 100 MiB. -/
def mixedReset : State := { State.reset with cores := Vector.replicate 96 mixedCore, contracts := { State.reset.contracts with pool := 100 } }

theorem mixedReset_core (c : CoreId) : mixedReset.core c = mixedCore := by simp [State.core, mixedReset, Vector.get]

theorem mixedReset_ctx (c : CoreId) : mixedReset.ctx ⟨c, .o⟩ = mixedCore.ctxO := congrArg Core.ctxO (mixedReset_core c)

theorem mixedReset_engHolds (c : CoreId) (e : Eng) : mixedReset.engHolds c e .o = false := by
  rw [State.engHolds, mixedReset_core]
  cases e <;> rfl

theorem mixedReset_poolUsed : mixedReset.poolUsed = 0 := by
  have empty : (fun (n : Nat) c => n + (mixedReset.core c).saved.foldl (fun n x => n + 8192 + 65536 * maskSize x.live) 0) = fun n _ => n := by
    funext n c
    rw [mixedReset_core]
    rfl
  rw [State.poolUsed, empty]
  exact List.foldl_fixed allCores

theorem maskSize_le (m : BitVec 60) : maskSize m ≤ 60 := (List.length_filter_le ..).trans (List.length_range ..).le

theorem mixedReset_cutStep (c : CoreId) : mixedReset.cutStep ⟨c, .o⟩ = mixedReset := State.cutStep_empty fun e _ => mixedReset_engHolds c e

theorem mixedReset_phases (c : CoreId) : mixedReset.phases (.ctx ⟨c, .o⟩) = {} := by
  rw [State.phases]
  exact (congrArg (fun k : Core => k.phases.get _) (mixedReset_core c)).trans (by simp [mixedCore, Core.reset, Vector.get])

/-- The unit is saved, its wait ended. -/
theorem mixedReset_saves (c : CoreId) : ∃ f : Ctx → Ctx, (∀ y, (f y).liveset = y.liveset) ∧ mixedReset.forceSave c
    = (mixedReset.modCtx ⟨c, .o⟩ f).saveUnit c (((mixedReset.modCtx ⟨c, .o⟩ f).ctx ⟨c, .o⟩).liveset.setWidth 60) := by
  have x := mixedReset_ctx c
  have out : mixedReset.inPhase ⟨c, .o⟩ = false := by rw [State.inPhase, x]; rfl
  have early : ¬(!(mixedReset.ctx ⟨c, .o⟩).live || !(mixedReset.ctx ⟨c, .o⟩).preq || (mixedReset.ctx ⟨c, .o⟩).defer
      || mixedReset.inPhase ⟨c, .o⟩ || !(mixedReset.ctx ⟨c, .o⟩).canCut) = true := by rw [out, x]; decide
  have stays : (mixedReset.withdraw ⟨c, .o⟩).cutStep ⟨c, .o⟩ = mixedReset := by
    rw [show mixedReset.withdraw ⟨c, .o⟩ = mixedReset by rw [State.withdraw, x]; rfl, mixedReset_cutStep]
  have holds (e : Eng) (_ : e ∈ engs) := mixedReset_engHolds c e
  have phases := mixedReset_phases c
  have due : ¬(!mixedReset.phaseDone (.ctx ⟨c, .o⟩) 0 || !mixedReset.phasesQuiet (.ctx ⟨c, .o⟩) || !mixedReset.engPhasesQuiet ⟨c, .o⟩) = true := by
    rw [State.phaseDone, State.phasesQuiet, phases, State.engPhasesQuiet_empty holds]
    decide
  have grace : (mixedReset.ctx ⟨c, .o⟩).graceEnd = some 0 := by rw [x]; rfl
  have gate : (mixedReset.ctx ⟨c, .o⟩).cutGate = some 0 := by rw [x]; rfl
  have freed : mixedReset.unblockCtx ⟨c, .o⟩ = mixedReset := State.unblockCtx_none _ _ (by rw [x]; rfl)
  unfold State.forceSave
  dsimp only
  rw [if_neg early, grace]
  dsimp only
  rw [if_neg (by decide), stays, State.atCut_empty holds, gate, freed]
  dsimp only
  rw [if_neg (by decide), if_neg due]
  refine ⟨_, ?_, rfl⟩
  exact fun _ => rfl

/-- The region of the unit that is saved. -/
theorem mixedReset_keep (c : CoreId) : ((mixedReset.ctx ⟨c, .o⟩).liveset.setWidth 60) &&& ~~~(mixedReset.core c).lent = (1 : BitVec 60) := by
  rw [mixedReset_ctx, mixedReset_core]
  decide

/-- Refutes O54: a unit that is saved keeps the cells of its live regions, which read as before only where the local store is in canonical
form. After module reset with the byte of region 0 behind that of region 1 in the store, address 0 reads 0 there and 2 in the pool. -/
theorem not_contextEventsTakeEffect : ¬ Obligations.ContextEventsTakeEffect := by
  rintro ⟨_, _, _, _, _, _, _, _, _, _, _, _, _, _, force⟩
  have x := mixedReset_ctx mixedReset.cur.ev.core
  have holds (e : Eng) (_ : e ∈ engs) := mixedReset_engHolds mixedReset.cur.ev.core e
  obtain ⟨f, kept, run⟩ := mixedReset_saves mixedReset.cur.ev.core
  have cut := mixedReset_cutStep mixedReset.cur.ev.core
  have saved := (force mixedReset 0 (by rw [x]; rfl)).2.2 0 (Nat.zero_le _) (by rw [x]; rfl) (by rw [x]; rfl) (by rw [x]; rfl)
    (by rw [State.inPhase, x]; rfl) (by rw [x]; rfl) (by rw [x]; rfl)
  rw [cut] at saved
  have phases := mixedReset_phases mixedReset.cur.ev.core
  obtain ⟨t, e, _, y, hy, _, _, fits, _⟩ := saved (State.atCut_empty holds) (by rw [x]; rfl) (by rw [State.phaseDone, phases]; rfl)
    (by rw [State.phasesQuiet, phases]; rfl) (State.engPhasesQuiet_empty holds)
  have room : maskSize (1 : BitVec 60) = 0 ∨ mixedReset.poolUsed + 8192 + 65536 * maskSize (1 : BitVec 60) ≤ mixedReset.contracts.pool * 2 ^ 20 := by
    have := maskSize_le 1
    rw [mixedReset_poolUsed, show mixedReset.contracts.pool = 100 from rfl]
    omega
  rw [mixedReset_keep] at fits
  obtain ⟨live, _, _, _, cells, _⟩ := fits room
  obtain rfl := Host.Outcome.next.inj ((show exec .forcedPreemption mixedReset = .next _ from congrArg Host.Outcome.next run).symm.trans e)
  have same : (mixedReset.modCtx ⟨mixedReset.cur.ev.core, .o⟩ f).core mixedReset.cur.ev.core = { mixedCore with ctxO := f mixedCore.ctxO } := by
    rw [State.modCtx, State.core_setCtx, mixedReset_core, x]
    rfl
  obtain ⟨z, list, hz⟩ := (mixedReset.modCtx ⟨mixedReset.cur.ev.core, .o⟩ f).saveUnit_saved mixedReset.cur.ev.core
    (((mixedReset.modCtx ⟨mixedReset.cur.ev.core, .o⟩ f).ctx ⟨mixedReset.cur.ev.core, .o⟩).liveset.setWidth 60)
  rw [list, same] at hy
  obtain rfl := List.mem_singleton.1 hy
  have byte := cells 0 (by decide)
  rw [hz, live, same, mixedReset_core] at byte
  have other : (mixedCore.regionCells 1).get 0 ≠ mixedCore.store.get 0 := by decide
  exact other byte

end Sys2Proof.Machine
